-- ==== Sys2Proof/Word.lean ====
section
/-! DEFINITION. Words of the Zelri and their plainest arithmetic: data sizes of R6, unsigned and signed readings of R10,
and the two plain containers the state is made of. Nothing here rests on anything but R6 and R10. -/

namespace Sys2Proof

/-- A byte (R6). -/
abbrev Byte := BitVec 8
/-- A half (R6). -/
abbrev W16 := BitVec 16
/-- A word (R6), and every 32-lane mask: lane 0 is bit 0 (R4). -/
abbrev W32 := BitVec 32
/-- A dword (R6): one lane of a vector register, a scalar, an address. -/
abbrev W64 := BitVec 64

/-- The lanes of one vector register, lane 0 first. A lane the list does not hold reads as zero (R57). -/
abbrev Lanes := List W64

/-- Lane `l` of a register. -/
def Lanes.at (v : Lanes) (l : Nat) : W64 := v.getD l 0

/-- The 32 lane numbers of a warp (R4). -/
def laneIds : List Nat := List.range 32

/-- A register whose lane `l` is `f l`. -/
def Lanes.tab (f : Nat → W64) : Lanes := laneIds.map f

/-- `x[h:l]` as a number (R10). -/
def bits (x : Nat) (h l : Nat) : Nat := (x >>> l) % 2 ^ (h + 1 - l)

/-- Bit `i` of a number. -/
def bitOf (x : Nat) (i : Nat) : Bool := x.testBit i

/-- The low `n` bits of `x` read as a signed number (R10's `sext`). -/
def sextN (x n : Nat) : Int :=
  let y := x % 2 ^ n
  if 2 * y < 2 ^ n then (y : Int) else (y : Int) - (2 ^ n : Nat)

/-- An integer taken modulo 2^64. -/
def w64 (i : Int) : W64 := BitVec.ofInt 64 i

/-- `sat(x, lo, hi)` (R10). -/
def clampI (x lo hi : Int) : Int := if x < lo then lo else if hi < x then hi else x

/-- Finite maps kept as a list of pairs, first match wins. -/
abbrev AMap (κ α : Type) := List (κ × α)

/-- The value a map gives a key. -/
def AMap.find? {κ α : Type} [DecidableEq κ] : AMap κ α → κ → Option α
  | [], _ => none
  | (k', v) :: m, k => if k' = k then some v else AMap.find? m k

/-- The value a map gives a key, `d` where it lists none. -/
def AMap.get {κ α : Type} [DecidableEq κ] (d : α) (m : AMap κ α) (k : κ) : α := (m.find? k).getD d

/-- Writes one key: replaces its entry, or appends one. -/
def AMap.put {κ α : Type} [DecidableEq κ] : AMap κ α → κ → α → AMap κ α
  | [], k, v => [(k, v)]
  | (k', v') :: m, k, v => if k' = k then (k, v) :: m else (k', v') :: AMap.put m k v

/-- Removes a key. -/
def AMap.del {κ α : Type} [DecidableEq κ] (m : AMap κ α) (k : κ) : AMap κ α := m.filter (fun p => p.1 ≠ k)

/-- Changes the value of a key, where the map lists it. -/
def AMap.modAt {κ α : Type} [DecidableEq κ] (m : AMap κ α) (k : κ) (f : α → α) : AMap κ α := m.map (fun p => if p.1 = k then (p.1, f p.2) else p)

/-- The first pair that satisfies a test. -/
def AMap.pick {κ α : Type} (m : AMap κ α) (p : κ → α → Bool) : Option (κ × α) := List.find? (fun x => p x.1 x.2) m

/-- Changes every value. -/
def AMap.each {κ α : Type} (m : AMap κ α) (f : α → α) : AMap κ α := m.map (fun p => (p.1, f p.2))

end Sys2Proof
end

