-- ==== Sys2Proof/Syntax.lean ====
section
/-! DEFINITION. The instructions and device events of the Zelri as syntax (R147 to R174): operands by class, the fields of
a base word and of an extended form, the device registers a register write can name, and one constructor per row of the opcode
table. No meaning is given here. -/

namespace Sys2Proof

/-- The special registers of R54. -/
inductive Special where
  | laneid | warpid | subid | wgid | nbid | core | die | clk | rtime | fpcr | fpsr
  | stkptr | stklim | vpool | vres | wstat | traph | trappc | exec
  deriving DecidableEq, Repr

/-- An operand of the extended form, by class (R159, R160). An operand the opcode does not use is `.none`. -/
inductive Operand where
  /-- Unused: class 00, name 0 (R159). -/
  | none
  /-- Class 00: a vector name. -/
  | v (n : BitVec 11)
  /-- Class 01: a scalar name. -/
  | s (n : BitVec 7)
  /-- Class 10, names 0x000 to 0x00F: a workgroup scalar. -/
  | w (n : BitVec 4)
  /-- Class 10, names 0x040 to 0x052: a special register. -/
  | x (r : Special)
  /-- Class 11, names 0x000 to 0x3FF: an inline immediate. -/
  | imm (n : BitVec 10)
  /-- Class 11, name 0x400: the literal. -/
  | lit
  deriving DecidableEq, Repr

/-- A guard (R155): depth and negation. -/
structure Guard where
  neg : Bool
  dep : BitVec 3
  deriving DecidableEq, Repr

/-- The fields of an extended instruction (R154). -/
structure Op where
  s    : Bool
  e    : Bool
  la   : BitVec 4
  grd  : Option Guard
  ula  : Bool
  ulb  : Bool
  ulc  : Bool
  mod  : BitVec 6
  d    : Operand
  a    : Operand
  b    : Operand
  c    : Operand
  func : BitVec 10
  lit  : Option W64
  deriving DecidableEq, Repr

/-- The fields of a base word (R151). -/
structure Bw where
  s   : Bool
  d   : BitVec 6
  a   : BitVec 6
  b   : BitVec 6
  ua  : Bool
  ub  : Bool
  mod : BitVec 2
  lit : Option W64
  deriving DecidableEq, Repr

/-- The conditions of ICMP (R167, R169). -/
inductive Cond where
  | eq | ne | lt | le | gt | ge
  deriving DecidableEq, Repr

/-- The conditions of FCMP (R170). -/
inductive FCond where
  | eq | ne | lt | le | gt | ge | ord | uno
  deriving DecidableEq, Repr

/-- The format codes 0 to 3 of the floating-point range (R170). -/
inductive Fmt where
  | f64 | f32 | f16 | bf16
  deriving DecidableEq, Repr

/-- The two formats of the transcendental range (R170). -/
inductive Fmt2 where
  | f64 | f32
  deriving DecidableEq, Repr

/-- The registers a die has one set of. -/
inductive DieReg where
  /-- The wellhead's registers (R99). -/
  | whvrt | wharing | whahead | whatail | whfring | whfhead | whftail | whrej
  /-- The context registers (R390). -/
  | ctxaring | ctxahead | ctxatail | ctxsring | ctxshead | ctxstail | ltab
  /-- Pre-emption, restore and warp control (R392, R394, R385). -/
  | preq | ctxrestLo | ctxrestHi | warpctl
  /-- The control core's mailbox (R354). -/
  | mbox
  /-- Slot register `n` of 32 (R365). -/
  | slotq (n : Nat)
  /-- The debug registers (R402, R407). -/
  | dbgsel | dbgctl | dbgacc | dbgdata
  /-- The clock registers (R417); entries `n` of 4. -/
  | dfreq | ceseq | ceprt (n : Nat) | cepclk (n : Nat) | cepinfo (n : Nat)
  /-- The ready word (R430). -/
  | dready
  /-- The syndrome registers (R434). -/
  | dsynd | dsyndaddr
  /-- The die reset request register (R432). -/
  | drstreq
  /-- Translation invalidation (R400). -/
  | tlbinv | tlbrange
  /-- Inbound map entry `k` of 64 of port `p` of 4 (R426). -/
  | ulmap (p k : Nat)
  /-- The share of interface `i` on the die (R373). -/
  | vifshare (i : Nat)
  deriving DecidableEq, Repr

/-- The trace registers of a core (R408). -/
inductive CoreReg where
  | trctl | trbase | trwp | trrp
  deriving DecidableEq, Repr

/-- The registers of the interposer (R368, R373, R427). -/
inductive PkgReg where
  | lease | pkginfo | vifcfg (i : Nat) | vifimt (i : Nat) | vifcnt (i : Nat)
  deriving DecidableEq, Repr

/-- A device register as a register write names it. -/
inductive Reg where
  | die (d : Nat) (r : DieReg)
  | core (c : Nat) (r : CoreReg)
  | pkg (r : PkgReg)
  deriving DecidableEq, Repr

/-- A command of the management mailbox that the bridge relays to another package (R427). -/
inductive MgmtCmd where
  | queueRegister (qid qcb : Nat)
  | vifActivate (vif : Nat)
  | vifTear (vif addr : Nat)
  | dieReset (die : Nat)
  | pkgrst
  deriving DecidableEq, Repr

/-- What the other participants of a collective are told of one that has lost its context: of an ALLRED, the tag; of a HALO, the entry that pairs
the lost participant with one die of the accelerator that is told (R378, R380, R429). -/
inductive Lost where
  | allred (tag : W64)
  | halo (tag : W32) (srcAcc srcDie dstDie : Nat)
  deriving DecidableEq, Repr

/-- A vendor-defined message of the links (R425, R427, R428, R429). -/
inductive VMsg where
  /-- The BUF of the participant at ring position `pos` of the collective `tag`. -/
  | allred (tag : W64) (pos : Nat) (data : List Byte)
  /-- One HALO send: the sender, the receiving die, the entry's TAG, the landing offset and the data. -/
  | halo (srcAcc srcDie dstDie : Nat) (tag : W32) (dstOff : W64) (data : List Byte)
  /-- A participant of a collective has lost its context. -/
  | lost (what : Lost)
  /-- A relayed management command. -/
  | relay (cmd : MgmtCmd)
  deriving DecidableEq, Repr


/-- The steps of the machine, one constructor for each row of the opcode table, the instructions in
their base and extended forms, then the events of the device, which carry what they act on. -/
inductive Instr where
  /-- IADD_V (R221). Base-form vector integer add. -/
  | iaddV (b : Bw)
  /-- IADD_S (R221). Base-form scalar integer add. -/
  | iaddS (b : Bw)
  /-- IADD (R221). Extended-form integer add, with optional saturation. -/
  | iadd (x : Op)
  /-- ISUB_V (R221). Base-form vector integer subtract. -/
  | isubV (b : Bw)
  /-- ISUB_S (R221). Base-form scalar integer subtract. -/
  | isubS (b : Bw)
  /-- ISUB (R221). Extended-form integer subtract. -/
  | isub (x : Op)
  /-- IMUL_V (R221). Base-form vector integer multiply, low half. -/
  | imulV (b : Bw)
  /-- IMUL_S (R221). Base-form scalar integer multiply. -/
  | imulS (b : Bw)
  /-- IMUL (R221). Extended-form integer multiply. -/
  | imul (x : Op)
  /-- IMULH_V (R221). Base-form vector high half of the product. -/
  | imulhV (b : Bw)
  /-- IMULH_S (R221). Base-form scalar high half of the product. -/
  | imulhS (b : Bw)
  /-- IMULH (R221). Extended-form high half of the product. -/
  | imulh (x : Op)
  /-- IMAD_V (R221). Base-form vector multiply-add reading D as the addend. -/
  | imadV (b : Bw)
  /-- IMAD_S (R221). Base-form scalar multiply-add reading D as the addend. -/
  | imadS (b : Bw)
  /-- IMAD (R221). Extended-form integer multiply-add. -/
  | imad (x : Op)
  /-- IMIN_V (R221). Base-form vector integer minimum. -/
  | iminV (b : Bw)
  /-- IMIN_S (R221). Base-form scalar integer minimum. -/
  | iminS (b : Bw)
  /-- IMIN (R221). Extended-form integer minimum. -/
  | imin (x : Op)
  /-- IMAX_V (R221). Base-form vector integer maximum. -/
  | imaxV (b : Bw)
  /-- IMAX_S (R221). Base-form scalar integer maximum. -/
  | imaxS (b : Bw)
  /-- IMAX (R221). Extended-form integer maximum. -/
  | imax (x : Op)
  /-- IABS_V (R221). Base-form vector integer absolute value. -/
  | iabsV (b : Bw)
  /-- IABS_S (R221). Base-form scalar integer absolute value. -/
  | iabsS (b : Bw)
  /-- IABS (R221). Extended-form integer absolute value. -/
  | iabs (x : Op)
  /-- AND_V (R221). Base-form vector bitwise and. -/
  | andV (b : Bw)
  /-- AND_S (R221). Base-form scalar bitwise and. -/
  | andS (b : Bw)
  /-- AND (R221). Extended-form bitwise and. -/
  | and (x : Op)
  /-- OR_V (R221). Base-form vector bitwise or. -/
  | orV (b : Bw)
  /-- OR_S (R221). Base-form scalar bitwise or. -/
  | orS (b : Bw)
  /-- OR (R221). Extended-form bitwise or. -/
  | or (x : Op)
  /-- XOR_V (R221). Base-form vector bitwise xor. -/
  | xorV (b : Bw)
  /-- XOR_S (R221). Base-form scalar bitwise xor. -/
  | xorS (b : Bw)
  /-- XOR (R221). Extended-form bitwise xor. -/
  | xor (x : Op)
  /-- NOT_V (R221). Base-form vector bitwise complement. -/
  | notV (b : Bw)
  /-- NOT_S (R221). Base-form scalar bitwise complement. -/
  | notS (b : Bw)
  /-- NOT (R221). Extended-form bitwise complement. -/
  | not (x : Op)
  /-- SHL_V (R222). Base-form vector shift left. -/
  | shlV (b : Bw)
  /-- SHL_S (R222). Base-form scalar shift left. -/
  | shlS (b : Bw)
  /-- SHL (R222). Extended-form shift left. -/
  | shl (x : Op)
  /-- SHR_V (R222). Base-form vector logical shift right. -/
  | shrV (b : Bw)
  /-- SHR_S (R222). Base-form scalar logical shift right. -/
  | shrS (b : Bw)
  /-- SHR (R222). Extended-form logical shift right. -/
  | shr (x : Op)
  /-- SAR_V (R222). Base-form vector arithmetic shift right. -/
  | sarV (b : Bw)
  /-- SAR_S (R222). Base-form scalar arithmetic shift right. -/
  | sarS (b : Bw)
  /-- SAR (R222). Extended-form arithmetic shift right. -/
  | sar (x : Op)
  /-- ROT_V (R222). Base-form vector rotate left. -/
  | rotV (b : Bw)
  /-- ROT_S (R222). Base-form scalar rotate left. -/
  | rotS (b : Bw)
  /-- ROT (R222). Extended-form rotate left. -/
  | rot (x : Op)
  /-- POPC_V (R221). Base-form vector population count. -/
  | popcV (b : Bw)
  /-- POPC_S (R221). Base-form scalar population count. -/
  | popcS (b : Bw)
  /-- POPC (R221). Extended-form population count. -/
  | popc (x : Op)
  /-- CLZ_V (R221). Base-form vector count of leading zeros. -/
  | clzV (b : Bw)
  /-- CLZ_S (R221). Base-form scalar count of leading zeros. -/
  | clzS (b : Bw)
  /-- CLZ (R221). Extended-form count of leading zeros. -/
  | clz (x : Op)
  /-- BREV_V (R221). Base-form vector bit reversal. -/
  | brevV (b : Bw)
  /-- BREV_S (R221). Base-form scalar bit reversal. -/
  | brevS (b : Bw)
  /-- BREV (R221). Extended-form bit reversal. -/
  | brev (x : Op)
  /-- MOV_V (R225). Base-form vector move with width extension by type. -/
  | movV (b : Bw)
  /-- MOV_S (R225). Base-form scalar move. -/
  | movS (b : Bw)
  /-- MOV (R225). Extended-form move. -/
  | mov (x : Op)
  /-- MOVI_V (R225). Base-form vector move of the 64-bit literal. -/
  | moviV (b : Bw)
  /-- MOVI_S (R225). Base-form scalar move of the 64-bit literal. -/
  | moviS (b : Bw)
  /-- MOVI (R225). Extended-form move of an immediate or literal. -/
  | movi (x : Op)
  /-- LEA_V (R224). Base-form vector address A + B × 2^n. -/
  | leaV (b : Bw)
  /-- LEA_S (R224). Base-form scalar address A + B × 2^n. -/
  | leaS (b : Bw)
  /-- LEA (R224). Extended-form address computation, optionally with a sign-extended 32-bit index. -/
  | lea (x : Op)
  /-- BFE (R223). Extracts a bit field, sign-extending under signed types. -/
  | bfe (x : Op)
  /-- BFI (R223). Inserts the low bits of A into B at a position and length. -/
  | bfi (x : Op)
  /-- SEL (R226). Chooses A or B per lane by a predicate depth. -/
  | sel (x : Op)
  /-- ICMP_EQ_V (R227). Base-form integer compare for equality, pushing the result. -/
  | icmpEqV (b : Bw)
  /-- ICMP_NE_V (R227). Base-form integer compare for inequality. -/
  | icmpNeV (b : Bw)
  /-- ICMP_LT_V (R227). Base-form integer compare less than. -/
  | icmpLtV (b : Bw)
  /-- ICMP_LE_V (R227). Base-form integer compare less or equal. -/
  | icmpLeV (b : Bw)
  /-- ICMP_GT_V (R227). Base-form integer compare greater than. -/
  | icmpGtV (b : Bw)
  /-- ICMP_GE_V (R227). Base-form integer compare greater or equal. -/
  | icmpGeV (b : Bw)
  /-- ICMP (R227). Extended-form integer compare, pushing the outcome per lane. -/
  | icmp (c : Cond) (x : Op)
  /-- FADD_F64_V (R230). Base-form vector FP64 add. -/
  | faddF64V (b : Bw)
  /-- FSUB_F64_V (R230). Base-form vector FP64 subtract. -/
  | fsubF64V (b : Bw)
  /-- FMUL_F64_V (R230). Base-form vector FP64 multiply. -/
  | fmulF64V (b : Bw)
  /-- FFMA_F64_V (R230). Base-form vector FP64 fused multiply-add into D. -/
  | ffmaF64V (b : Bw)
  /-- FMIN_F64_V (R231). Base-form vector FP64 minimum. -/
  | fminF64V (b : Bw)
  /-- FMAX_F64_V (R231). Base-form vector FP64 maximum. -/
  | fmaxF64V (b : Bw)
  /-- FADD_F32_V (R230). Base-form vector FP32 add. -/
  | faddF32V (b : Bw)
  /-- FSUB_F32_V (R230). Base-form vector FP32 subtract. -/
  | fsubF32V (b : Bw)
  /-- FMUL_F32_V (R230). Base-form vector FP32 multiply. -/
  | fmulF32V (b : Bw)
  /-- FFMA_F32_V (R230). Base-form vector FP32 fused multiply-add into D. -/
  | ffmaF32V (b : Bw)
  /-- FMIN_F32_V (R231). Base-form vector FP32 minimum. -/
  | fminF32V (b : Bw)
  /-- FMAX_F32_V (R231). Base-form vector FP32 maximum. -/
  | fmaxF32V (b : Bw)
  /-- FADD_F64_S (R230). Base-form scalar FP64 add. -/
  | faddF64S (b : Bw)
  /-- FSUB_F64_S (R230). Base-form scalar FP64 subtract. -/
  | fsubF64S (b : Bw)
  /-- FMUL_F64_S (R230). Base-form scalar FP64 multiply. -/
  | fmulF64S (b : Bw)
  /-- FFMA_F64_S (R230). Base-form scalar FP64 fused multiply-add into D. -/
  | ffmaF64S (b : Bw)
  /-- FMIN_F64_S (R231). Base-form scalar FP64 minimum. -/
  | fminF64S (b : Bw)
  /-- FMAX_F64_S (R231). Base-form scalar FP64 maximum. -/
  | fmaxF64S (b : Bw)
  /-- FADD_F32_S (R230). Base-form scalar FP32 add. -/
  | faddF32S (b : Bw)
  /-- FSUB_F32_S (R230). Base-form scalar FP32 subtract. -/
  | fsubF32S (b : Bw)
  /-- FMUL_F32_S (R230). Base-form scalar FP32 multiply. -/
  | fmulF32S (b : Bw)
  /-- FFMA_F32_S (R230). Base-form scalar FP32 fused multiply-add into D. -/
  | ffmaF32S (b : Bw)
  /-- FMIN_F32_S (R231). Base-form scalar FP32 minimum. -/
  | fminF32S (b : Bw)
  /-- FMAX_F32_S (R231). Base-form scalar FP32 maximum. -/
  | fmaxF32S (b : Bw)
  /-- FADD (R230). Extended-form floating add in any of four formats with rounding selection and modifiers. -/
  | fadd (f : Fmt) (x : Op)
  /-- FSUB (R230). Extended-form floating subtract. -/
  | fsub (f : Fmt) (x : Op)
  /-- FMUL (R230). Extended-form floating multiply. -/
  | fmul (f : Fmt) (x : Op)
  /-- FFMA (R230). Extended-form fused multiply-add with a single rounding. -/
  | ffma (f : Fmt) (x : Op)
  /-- FMIN (R231). Extended-form floating minimum returning an operand unchanged. -/
  | fmin (f : Fmt) (x : Op)
  /-- FMAX (R231). Extended-form floating maximum returning an operand unchanged. -/
  | fmax (f : Fmt) (x : Op)
  /-- FCMP_EQ_V (R232). Base-form floating compare for equality, pushing the result. -/
  | fcmpEqV (b : Bw)
  /-- FCMP_NE_V (R232). Base-form floating compare for inequality. -/
  | fcmpNeV (b : Bw)
  /-- FCMP_LT_V (R232). Base-form floating compare less than. -/
  | fcmpLtV (b : Bw)
  /-- FCMP_LE_V (R232). Base-form floating compare less or equal. -/
  | fcmpLeV (b : Bw)
  /-- FCMP_GT_V (R232). Base-form floating compare greater than. -/
  | fcmpGtV (b : Bw)
  /-- FCMP_GE_V (R232). Base-form floating compare greater or equal. -/
  | fcmpGeV (b : Bw)
  /-- FCMP (R232). Extended-form floating compare, including ord and uno, pushing the relation. -/
  | fcmp (c : FCond) (x : Op)
  /-- FCLASS (R233). Writes a one-hot class of the raw floating operand. -/
  | fclass (f : Fmt) (x : Op)
  /-- FRND (R234). Rounds a floating value to an integral value of the same format. -/
  | frnd (f : Fmt) (x : Op)
  /-- FRCP (R235). Long-latency reciprocal. -/
  | frcp (f : Fmt2) (x : Op)
  /-- FRSQ (R235). Long-latency reciprocal square root. -/
  | frsq (f : Fmt2) (x : Op)
  /-- FSQRT (R235). Long-latency correctly rounded square root. -/
  | fsqrt (f : Fmt2) (x : Op)
  /-- FDIVF (R235). Long-latency approximate division. -/
  | fdivf (f : Fmt2) (x : Op)
  /-- FRED (R144). Reduces an argument by multiples of π/2, writing r and the quadrant. -/
  | fred (f : Fmt2) (x : Op)
  /-- FSIN (R235). Sine of a reduced argument plus a quadrant. -/
  | fsin (f : Fmt2) (x : Op)
  /-- FCOS (R235). Cosine of a reduced argument plus a quadrant. -/
  | fcos (f : Fmt2) (x : Op)
  /-- FEXP2 (R235). Base-2 exponential. -/
  | fexp2 (f : Fmt2) (x : Op)
  /-- FLOG2 (R235). Base-2 logarithm. -/
  | flog2 (f : Fmt2) (x : Op)
  /-- CVT (R236). Converts between floating and integer types as R137 states. -/
  | cvt (x : Op)
  /-- FMTCVT (R237). Encodes to or decodes from a narrow element described by a per-lane format word. -/
  | fmtcvt (x : Op)
  /-- PACK (R238). Packs elements from a register run into the packed form. -/
  | pack (x : Op)
  /-- UNPACK (R238). Unpacks elements into one register each, with optional sign extension. -/
  | unpack (x : Op)
  /-- SHFL (R241). Copies a value from a lane chosen within a segment. -/
  | shfl (x : Op)
  /-- SWAPP (R242). Exchanges values between lanes l and l XOR M, optionally negating one partner. -/
  | swapp (x : Op)
  /-- BCAST (R243). Broadcasts one lane's value to the active lanes or a scalar. -/
  | bcast (x : Op)
  /-- VOTE (R244). Forms a ballot mask or pushes any, all or uniform of a predicate over the active set. -/
  | vote (x : Op)
  /-- REDL (R245). Reduces A over the active lanes in a fixed pairwise tree. -/
  | redl (x : Op)
  /-- SCANL (R246). Forms inclusive or exclusive prefix results in ascending lane order. -/
  | scanl (x : Op)
  /-- BRA_BASE (R192). Base-form unconditional branch with a PC-relative literal. -/
  | braBase (b : Bw)
  /-- BRA (R192). Extended-form unconditional branch. -/
  | bra (x : Op)
  /-- BRA_PK_BASE (R192). Base-form conditional branch on a predicate depth, splitting or serialising on divergence. -/
  | braPkBase (k : BitVec 3) (b : Bw)
  /-- BRA_PK (R192). Extended-form conditional branch, optionally forced serial. -/
  | braPk (k : BitVec 3) (x : Op)
  /-- BRX (R195). Indexed branch through a table, dividing lanes one target at a time. -/
  | brx (x : Op)
  /-- CALL_BASE (R196). Base-form call writing the link register s127. -/
  | callBase (b : Bw)
  /-- CALL (R196). Extended-form call writing s127. -/
  | call (x : Op)
  /-- CALLX (R196). Indirect call to a scalar address. -/
  | callx (x : Op)
  /-- RET (R196). Returns to the address in a scalar, s127 by default. -/
  | ret (x : Op)
  /-- EXIT (R198). Ends the active lanes, or every owned lane with .all, exiting the unit if none remain. -/
  | exit (x : Op)
  /-- NOP_BASE (R200). Base-form no operation. -/
  | nopBase (b : Bw)
  /-- NOP (R200). Extended-form no operation. -/
  | nop (x : Op)
  /-- YIELD (R200). Ends the stroke and yields to any other ready unit. -/
  | yield (x : Op)
  /-- RGN (R200). A region entry that commits and changes nothing else. -/
  | rgn (x : Op)
  /-- FUSE (R201). Makes the unit arrive at its innermost divergence without reaching the reconvergence PC. -/
  | fuse (x : Op)
  /-- PPOP_BASE (R202). Base-form pop of 1 to 4 predicate depths. -/
  | ppopBase (b : Bw)
  /-- PPOP (R202). Extended-form predicate pop. -/
  | ppop (x : Op)
  /-- PROT (R202). Rotates the predicate depths of each lane. -/
  | prot (x : Op)
  /-- PLOG (R202). Pushes a truth-table function of two depths. -/
  | plog (x : Op)
  /-- PTOX (R203). Writes EXEC from a predicate depth over the owned set. -/
  | ptox (x : Op)
  /-- XTOP (R203). Pushes EXEC into the predicates of every owned lane. -/
  | xtop (x : Op)
  /-- XRD_BASE (R204). Base-form read of EXEC into a scalar. -/
  | xrdBase (b : Bw)
  /-- XRD (R204). Extended-form read of EXEC into a scalar. -/
  | xrd (x : Op)
  /-- XWR_BASE (R204). Base-form write of EXEC from a scalar, masked by the owned set. -/
  | xwrBase (b : Bw)
  /-- XWR (R204). Extended-form write of EXEC from a scalar or immediate. -/
  | xwr (x : Op)
  /-- BAR (R205). Arrives at a workgroup barrier and waits for its completion. -/
  | bar (x : Op)
  /-- BARA (R205). Arrives at a barrier as a release without waiting. -/
  | bara (x : Op)
  /-- BARW (R205). Waits for the barrier the warp arrived at by BARA, as an acquire. -/
  | barw (x : Op)
  /-- GBAR (R206). Arrives at a group barrier entry and waits for its completion. -/
  | gbar (x : Op)
  /-- WATCH (R208). Tests a memory word and arms a watch entry to wait for a passing value. -/
  | watch (x : Op)
  /-- WAITW (R210). Tests a memory word once without arming or waiting. -/
  | waitw (x : Op)
  /-- SLEEP (R211). Waits a number of local die cycles. -/
  | sleep (x : Op)
  /-- SWI (R212). ORs a value into a queue's wake register or the control core's mailbox. -/
  | swi (x : Op)
  /-- TRAP (R213). Raises the software trap with a code. -/
  | trap (x : Op)
  /-- TRET (R213). Jumps to TRAPPC and ends handler mode. -/
  | tret (x : Op)
  /-- BRK (R214). Stops the warp when a debugger is attached, else does nothing. -/
  | brk (x : Op)
  /-- SRD (R215). Reads a special register into a vector or scalar. -/
  | srd (x : Op)
  /-- SWR (R216). Writes a writable special register. -/
  | swr (x : Op)
  /-- GETWORK (R217). Returns the next segment of the workgroup's iteration share. -/
  | getwork (x : Op)
  /-- LD (R251). Loads through the generic path, relaxed or acquire. -/
  | ld (x : Op)
  /-- ST (R252). Stores through the generic path, relaxed or release. -/
  | st (x : Op)
  /-- LDV (R253). Loads a named version of a versioned page after the version check. -/
  | ldv (x : Op)
  /-- PREF (R255). Requests a line into L2 and optionally L1, never trapping. -/
  | pref (x : Op)
  /-- LDC (R254). Loads through the constant path. -/
  | ldc (x : Op)
  /-- LDS (R256). Loads from the workgroup's scratchpad window. -/
  | lds (x : Op)
  /-- STS (R256). Stores to the workgroup's scratchpad window. -/
  | sts (x : Op)
  /-- LDT (R265). Loads tile elements into lanes as a tile reader. -/
  | ldt (x : Op)
  /-- STT (R265). Stores lane elements into a tile. -/
  | stt (x : Op)
  /-- SAMP (R267). Samples a texture through the sampler path with filtering and address modes. -/
  | samp (x : Op)
  /-- ATOM (R258). Applies an indivisible read-modify-write at the item's coherence point and returns the old value. -/
  | atom (x : Op)
  /-- RED (R259). Issues a non-returning reduction, combined lazily by page scope. -/
  | red (x : Op)
  /-- FENCE (R260). Acquire, release or full fence holding later accesses in the load/store port. -/
  | fence (x : Op)
  /-- PFENCE (R261). Waits for writes on named paths to reach L2 and invalidates those paths' caches. -/
  | pfence (x : Op)
  /-- TCFG (R263). Configures a tile's shape and increments its generation. -/
  | tcfg (x : Op)
  /-- TACQ (R264). Acquires a tile for software filling. -/
  | tacq (x : Op)
  /-- TREL (R264). Releases a tile to Ready or Empty. -/
  | trel (x : Op)
  /-- TSTAT (R264). Reads a tile table entry into two scalars. -/
  | tstat (x : Op)
  /-- SEND (R269). Sends a 256-byte block along a route string to another core's scratchpad. -/
  | send (x : Op)
  /-- PUSHF (R268). Pushes a lane-interleaved frame onto the warp stack. -/
  | pushf (x : Op)
  /-- POPF (R268). Pops a lane-interleaved frame from the warp stack. -/
  | popf (x : Op)
  /-- ENGCMD_COPYIN (R272). Queues a copy of a memory matrix into a tile. -/
  | engcmdCopyin (x : Op)
  /-- ENGCMD_COPYOUT (R272). Queues a copy of a tile into a memory matrix. -/
  | engcmdCopyout (x : Op)
  /-- ENGCMD_PUBLISH (R273). Queues a PUBLISH of a version over a run of pages. -/
  | engcmdPublish (x : Op)
  /-- ENGCMD_RETIRE (R273). Queues a RETIRE of a version over a run of pages. -/
  | engcmdRetire (x : Op)
  /-- ENGCMD_ASBUILD (R274). Queues a bounding-volume hierarchy build. -/
  | engcmdAsbuild (x : Op)
  /-- ENGCMD_HALO (R275). Queues a halo exchange with listed peers. -/
  | engcmdHalo (x : Op)
  /-- ENGCMD_ALLRED (R275). Queues an all-reduce over a participant ring. -/
  | engcmdAllred (x : Op)
  /-- ENGCMD_RECON (R276). Queues reconstruction of the skipped points of a coverage launch. -/
  | engcmdRecon (x : Op)
  /-- MMA (R285). Queues one matrix k-step on an accumulator region. -/
  | mma (x : Op)
  /-- MMAS (R287). Queues a sparse matrix k-step with bitmap operands. -/
  | mmas (x : Op)
  /-- MMAC (R289). Queues a matrix k-step taking A from accumulator cells. -/
  | mmac (x : Op)
  /-- ACCLD (R291). Loads accumulator cells from registers. -/
  | accld (x : Op)
  /-- ACCST (R291). Stores accumulator cells into registers. -/
  | accst (x : Op)
  /-- ACCZ (R291). Zeroes an accumulator region. -/
  | accz (x : Op)
  /-- MDRAIN (R292). Drains an accumulator region to a tile or memory, overwriting, converting or adding on store. -/
  | mdrain (x : Op)
  /-- MBATCH (R294). Closes the warp's open matrix batch and returns its number. -/
  | mbatch (x : Op)
  /-- MWAIT (R295). Waits for a matrix batch and all earlier ones to complete. -/
  | mwait (x : Op)
  /-- OFENCE (R296). Discards the engine's operand staging for the warp. -/
  | ofence (x : Op)
  /-- MCFG (R290). Sets or clears the warp's separate B format word. -/
  | mcfg (x : Op)
  /-- RQ (R303). Traverses a scene inline and writes each lane's hit. -/
  | rq (x : Op)
  /-- RCAST (R306). Ends active lanes into ray continuation records sent to the root treelet's die. -/
  | rcast (x : Op)
  /-- CONT (R306). Ends active lanes into continuation records on the issuing die. -/
  | cont (x : Op)
  /-- RAST (R312). Rasterises triangles at each lane's sample in quad mode. -/
  | rast (x : Op)
  /-- HGF (R315). Fetches interpolated hash-grid features for every level. -/
  | hgf (x : Op)
  /-- HGS (R316). Scatters gradients into the hash-grid tables as reductions, in FP32 or fixed point. -/
  | hgs (x : Op)
  /-- COVQ (R321). Reports a lane's lattice level, probe and computed status. -/
  | covq (x : Op)
  /-- COVP (R322). Reconstructs a probe's point, reports its error to the coverage state, and returns the reconstruction. -/
  | covp (x : Op)
  /-- STROKE_BOUNDARY (R23). At a stroke boundary the quadrant grants the issue slot to the overdue unit with the greatest wait, else the ready unit of highest effective priority. -/
  | strokeBoundary (core quad : Nat)
  /-- LONG_LATENCY_RESULT (R24). A long-latency instruction's result is written to its destinations, ending any lookahead wait on it. -/
  | longLatencyResult (g sub idx : Nat)
  /-- ALLOCATION_GRANT (R65). A unit in an allocation wait is granted its registers by age, mapping its destinations or reloading its spilled slots. -/
  | allocationGrant (core quad : Nat)
  /-- REGISTER_SPILL (R66). When every warp of a quadrant waits, the youngest warp above its reserve is spilled down to regs_min and parked. -/
  | registerSpill (core quad : Nat)
  /-- STACK_LINE_FILL (R72). A stack-cache line coming back into the 4 KiB window arrives from memory, releasing any stack access held on it. -/
  | stackLineFill (g line : Nat)
  /-- STACK_LINE_WRITEBACK (R72). A stack-cache line that fell out of the window is written back to memory in the background. -/
  | stackLineWriteback (g line : Nat)
  /-- WORKGROUP_DISPATCH (R15). The dispatcher places a workgroup whole on a core of the chosen die once all its warps, registers, scratchpad, tiles and rows can be admitted. -/
  | workgroupDispatch (die q0 : Nat) (pick : List Nat)
  /-- AFFINITY_TIMEOUT (R35). A loose-affinity workgroup whose home die has had no room for 4,096 cycles goes to a neighbouring die with room. -/
  | affinityTimeout (launch : Nat)
  /-- DISPATCH_RESERVATION (R360). A slot whose next workgroup has been refused for 2^20 cycles reserves the first core that could admit it. -/
  | dispatchReservation (launch : Nat)
  /-- STROKE_WATCHDOG (R44). A warp whose stroke counter exceeds budget × 1,024 raises WDOG before its next stroke. -/
  | strokeWatchdog (g : Nat)
  /-- WATCHDOG_GRACE_EXPIRY (R44). A WDOG handler that exhausts its grace of strokes halts the warp with GRACE set. -/
  | watchdogGraceExpiry (g : Nat)
  /-- WATCH_FIRE (R124). An armed watch entry meets a passing value of its word, is freed, and resumes its waiter as an acquire. -/
  | watchFire (die idx : Nat)
  /-- SLEEP_EXPIRY (R211). A sleeping unit becomes ready at the first stroke boundary at which CLK has advanced by its count. -/
  | sleepExpiry (g sub : Nat)
  /-- MATRIX_OPERATION_PERFORM (R285). The matrix engine performs a queued operation, reading its operands and updating cells or drain destinations. -/
  | matrixOperationPerform (g : Nat)
  /-- FORMAT_EMULATION_DONE (R141). Norem writes the results of a matrix operation on a format outside the hardware subset, letting its batch complete. -/
  | formatEmulationDone (g : Nat)
  /-- FMTCVT_EMULATION_RESUME (R387). Norem writes the destination of an FMTCVT that raised FMTABSENT, and the unit resumes at the next instruction. -/
  | fmtcvtEmulationResume (g sub : Nat)
  /-- ENGINE_COMMAND_COMPLETE (R271). An engine command ends, writes STATUS on failure and increments COUNT of its completion record as a release, or writes an engine fault record if C fails translation. -/
  | engineCommandComplete (id : Nat)
  /-- COPYOUT_READS_END (R90). A COPYOUT finishes reading its tile, which returns from Draining to Ready. -/
  | copyoutReadsEnd (id : Nat)
  /-- PUBLISH_POINT (R96). The wellhead publishes version n of one page at its publish point, merging U lines and retiring the oldest image if three are held. -/
  | publishPoint (id : Nat)
  /-- RETIRE_PAGE (R97). The wellhead retires version v of one page, waiting for return-ring room if a frame would be freed. -/
  | retirePage (id : Nat)
  /-- FRAME_RETURN (R97). A freed image frame is appended to the return ring once every LDV read directed to it has completed. -/
  | frameReturn (die : Nat)
  /-- COPY_ON_WRITE_END (R98). The copy ends: the leaf entry gets the new frame with CW cleared, TLBs are invalidated, and waiting writes are released in order. -/
  | copyOnWriteEnd (idx : Nat)
  /-- ALLOCATION_RING_TIMEOUT (R98). After 1 ms with the allocation ring empty, waiting warp writes raise MEMFAULT 7 and engine writes end with NOFRAME. -/
  | allocationRingTimeout (idx : Nat)
  /-- SEND_DELIVERY (R269). A SEND block reaches its destination core and is written into a workgroup's scratchpad or discarded, then its counter is incremented. -/
  | sendDelivery (idx : Nat)
  /-- DIRECTORY_READ (R423). The inter-die directory serves a read of a P line, adding the reader as holder or sharer. -/
  | directoryRead (die addr : Nat)
  /-- DIRECTORY_WRITE (R423). The directory serves a store, ATOM, engine write or drain, invalidating other copies and making the writer owner. -/
  | directoryWrite (die addr : Nat)
  /-- DIRECTORY_REDUCTION (R423). A reduction arrives at the directory and is combined into the issuing die's partial in state U, or at the home L2 while a watch is armed. -/
  | directoryReduction (die addr : Nat) (op ty : Nat) (val : W64)
  /-- DIRECTORY_EVICTION (R423). A die evicts a line, writing dirty data home and leaving the sharer mask. -/
  | directoryEviction (die addr : Nat)
  /-- RAY_MIGRATION (R308). A ray record whose traversal needs another die's treelet moves to that die's pool with its traversal state. -/
  | rayMigration (idx die : Nat)
  /-- RAY_TRAVERSAL_END (R308). A ray's traversal ends and its hit is kept with the record, which becomes ready to resume. -/
  | rayTraversalEnd (idx pick : Nat)
  /-- RELAUNCH_TIMEOUT (R309). A partial relaunch warp starts after 256 die cycles without another record for its key. -/
  | relaunchTimeout (die launch : Nat) (rpc : Nat) (slot : Nat)
  /-- COVERAGE_UPDATE_4K (R40). A launch asking for it steps the coverage controller each time the dispatcher passes a multiple of 4,096 workgroups. -/
  | coverageUpdate4k (launch : Nat)
  /-- KICK (R353). A store to a doorbell page kicks a queue, making its slot read WR or setting PEND and interrupting the lease holder. -/
  | kick (vif qid : Nat)
  /-- QUEUE_REGISTER (R350). The driver registers a queue's QCB with Norem through the mailbox. -/
  | queueRegister (qid qcb : Nat)
  /-- RECORD_FETCH (R359). A slot's front end reads and captures the launch record at RD and checks it. -/
  | recordFetch (die slot : Nat)
  /-- DEPENDENCE_FIRE (R362). The watch entry of a record's dependence fires and the slot enters Dispatch. -/
  | dependenceFire (die slot : Nat)
  /-- DEPENDENCE_POLL (R362). With the watch table full, the slot re-reads the dependence word every 4,096 cycles. -/
  | dependencePoll (die slot : Nat)
  /-- LAUNCH_COMPLETE (R361). A launch whose workgroups, relaunched warps and pools are done steps the controller if chained, writes DONEREC, increments DONE and raises IVEC. -/
  | launchComplete (launch : Nat)
  /-- LAUNCH_TIMEOUT (R363). A launch exceeding TOUT × 2^20 ns of RTIME has its workgroups ended and completes with TIMEOUT. -/
  | launchTimeout (launch : Nat)
  /-- SHADOW_RETRY (R351). A slot that read an unstable QCB shadow reads it again every 1,024 cycles until it accepts a copy. -/
  | shadowRetry (die slot : Nat)
  /-- SLOTQ_VALID_LOAD (R365). Writing VALID as 1 loads a queue's QCB shadow into the slot. -/
  | slotqValidLoad (die slot : Nat) (qid : Nat) (qcb : Nat)
  /-- SLOTQ_UNLOAD (R365). Writing VALID as 0 unloads the slot and writes RD back to the QCB. -/
  | slotqUnload (die slot : Nat)
  /-- SLOTQ_HALT (R365). Writing HALT stops the slot's dispatch and fetch at once, keeping the launch-table cursor. -/
  | slotqHalt (die slot : Nat)
  /-- SLOTQ_RELOAD (R365). Writing RELOAD makes the slot reread the QCB shadow. -/
  | slotqReload (die slot : Nat)
  /-- NOREM_MAPPING_TICK (R367). At each 1 ms tick the lease holder ages pending queues and fills or swaps slots by mapping priority. -/
  | noremMappingTick
  /-- NOREM_MAPPING_PASS (R367). A mailbox kick report makes the lease holder run the slot-filling steps of the mapping policy. -/
  | noremMappingPass
  /-- LEASE_CLAIM (R368). A claim write to the lease register is applied only if no leader holds it, the claimer holds it, or the stamp is stale. -/
  | leaseClaim (die : Nat)
  /-- LEADER_REPAIR (R370). A new leader repairs half-finished QCB updates and stale slots before its first tick. -/
  | leaderRepair (die : Nat)
  /-- CONTROL_CORE_WATCHDOG (R369). An unserviced control-core watchdog restarts that core alone and sets MBOX.WDOG. -/
  | controlCoreWatchdog (die : Nat)
  /-- INTERRUPT_WATCH_ARM (R364). Norem arms an interrupt watch entry for the host through the watch-arm register. -/
  | interruptWatchArm (vif entry : Nat) (cmp : Nat) (w64 : Bool) (pa : Nat) (ref mask : W64)
  /-- INTERRUPT_UNMASK_DELIVERY (R375). When software clears MASK on an entry with PEND set, its message is written once and PEND clears. -/
  | interruptUnmaskDelivery (vif entry : Nat)
  /-- VIF_ACTIVATE (R377). Writing ACT to a free interface makes it Active and clears its counters. -/
  | vifActivate (vif : Nat)
  /-- VIF_TEAR (R377). Writing TEAR to an Active interface makes it Tearing on every die and starts dropping its kicks and interrupts. -/
  | vifTear (vif addr : Nat)
  /-- TEARDOWN_PROGRESS (R377). A tearing interface advances through unloading slots, ending warps, stopping commands and freeing watches and translations. -/
  | teardownProgress (vif : Nat)
  /-- DIE_RESET_REQUEST (R379). A request to reset one die is refused with PKG_ONLY and changes nothing. -/
  | dieResetRequest (die : Nat)
  /-- ECC_CORRECTED_ERROR (R433). A corrected error, or an uncorrectable one in a clean copy, is counted in the syndrome registers. -/
  | eccCorrectedError (die unit : Nat)
  /-- ECC_UNCORRECTABLE_ERROR (R433). An uncorrectable error outside a clean copy occurs in an array of a die. -/
  | eccUncorrectableError (die unit loc : Nat)
  /-- EDGE_RETRY_EXHAUSTED (R433). An edge link exhausts its link-level retries, a fatal error of both dies it joins. -/
  | edgeRetryExhausted (die other : Nat)
  /-- PACKAGE_RESET (R432). The board's reset input resets every register, clocks and lease, and loses HBM and cistern contents. -/
  | packageReset
  /-- PKGRST (R432). The PKGRST mailbox command performs the package reset. -/
  | pkgrst
  /-- FUNCTION_READY (R430). A die function finishes initialisation and sets its bit in the ready word. -/
  | functionReady (die bit : Nat)
  /-- PREQ_GO (R392). Writing PREQ.GO pre-empts a queue's resident workgroups on a die, choosing re-prime, drain or save for each. -/
  | preqGo (die : Nat) (val : W64)
  /-- DRAIN_OVERRUN (R393). A draining workgroup whose strokes grow by more than twice the budget switches to Stopping. -/
  | drainOverrun (wg : Nat)
  /-- WORKGROUP_SAVE (R393). A stopped workgroup with leave-ring room writes its context image, frees its resources and posts a KIND 1 entry. -/
  | workgroupSave (wg : Nat)
  /-- REPRIME_FLUSH_DONE (R393). A re-primed workgroup whose warps stopped and engine commands finished is freed with a KIND 2 entry. -/
  | reprimeFlushDone (wg : Nat)
  /-- CTXREST_SAVED (R394). Writing a KIND 1 entry to CTXREST restores a saved workgroup on its old core and slots, its warps parked. -/
  | ctxrestSaved (die : Nat) (block wglin lidx : Nat)
  /-- CTXREST_REPRIME (R394). Writing a KIND 2 entry to CTXREST dispatches a re-primed workgroup afresh. -/
  | ctxrestReprime (die : Nat) (wglin lidx : Nat)
  /-- WARPCTL_RESUME (R385). A WARPCTL write with ACT 01 resumes a Faulted warp by replaying its region. -/
  | warpctlResume (die lseq core slot : Nat)
  /-- WARPCTL_ABORT (R385). A WARPCTL write with ACT 10 halts a Faulted warp without a second record. -/
  | warpctlAbort (die lseq core slot : Nat)
  /-- PAGE_WALK_COMPLETE (R399). A page-table walk ends, filling the TLBs or reporting the first matching fault row to every request it serves. -/
  | pageWalkComplete (die root va : Nat)
  /-- TLBINV_ALL (R400). A TLBINV.GO write with ALL set invalidates every translation of a root in every TLB and walk cache. -/
  | tlbinvAll (die root : Nat)
  /-- TLBINV_RANGE (R400). A TLBINV.GO write with ALL clear invalidates the TLBRANGE pages of a root. -/
  | tlbinvRange (die root : Nat)
  /-- TLB_INVALIDATE_COMPLETE (R400). An invalidation completes once every access using a cleared translation has been performed. -/
  | tlbInvalidateComplete (die : Nat)
  /-- DEBUG_HALT (R403). The halt debug command stops every unit of the selected warp at its next stroke boundary. -/
  | debugHalt (die : Nat)
  /-- DEBUG_STEP (R405). The step debug command issues one instruction of the selected unit of a stopped warp. -/
  | debugStep (die : Nat)
  /-- DEBUG_STEP_ALL (R406). The step-all debug command issues one instruction in each live unit in split-table order. -/
  | debugStepAll (die : Nat)
  /-- DEBUG_RESUME (R403). The resume debug command returns every unit of a stopped warp to its prior state. -/
  | debugResume (die : Nat)
  /-- DEBUG_ACCESS_READ (R407). A DBGACC.GO write with WR 0 reads a register of a stopped or Faulted warp into DBGDATA. -/
  | debugAccessRead (die : Nat) (val : W64)
  /-- DEBUG_ACCESS_WRITE (R407). A DBGACC.GO write with WR 1 writes DBGDATA into a register of a stopped or Faulted warp. -/
  | debugAccessWrite (die : Nat) (val : W64)
  /-- TRACE_ENABLE (R408). Writing TRCTL.EN as 1 over 0 resets TRWP and latches the trace configuration. -/
  | traceEnable (core : Nat) (val : W64)
  /-- FREQUENCY_STEP (R416). A DFREQ.GO write stops the die clock and stalls its clock-crossing FIFO to change frequency. -/
  | frequencyStep (die target : Nat)
  /-- FREQUENCY_RESTART (R416). 2,000 ns after the stop, the die restarts at TARGET and records a new clock epoch. -/
  | frequencyRestart (die : Nat)
  /-- POWER_LIMIT_STEP (R435). When measured power exceeds the limit, Norem lowers a die clock by one step. -/
  | powerLimitStep (die : Nat)
  /-- UALINK_READ (R426). An inbound UALink read is translated through the port's inbound map and served or given an error response. -/
  | ualinkRead (die port src : Nat) (addr : W64) (len : Nat)
  /-- UALINK_WRITE (R426). An inbound UALink write is translated, checked and performed, or given an error response. -/
  | ualinkWrite (die port src : Nat) (addr : W64) (data : List Byte)
  /-- UALINK_ATOMIC (R425). An inbound UALink atomic of 32 or 64 bits is applied as an ATOM, or given an error response. -/
  | ualinkAtomic (die port src : Nat) (addr : W64) (op : Nat) (wide : Bool) (opnd cmp : W64)
  /-- UALINK_VENDOR_MESSAGE (R425). A vendor-defined message carries HALO or ALLRED traffic or a relayed management command. -/
  | ualinkVendorMessage (die port : Nat) (msg : VMsg)
  /-- UALINK_LINK_DOWN (R430). A UALink port goes down, clearing its ready bit and ending collectives over it with CONTEXT_LOST. -/
  | ualinkLinkDown (die port : Nat)
  /-- REGISTER_WRITE (R7). A write to a device register that has no behaviour of its own stores its writable fields. -/
  | registerWrite (reg : Reg) (val : W64)
  /-- WHATAIL_WRITE (R99). Norem writes WHATAIL.COUNT to supply frames on the allocation ring, releasing a copy-on-write that waits on an empty ring. -/
  | whatailWrite (die : Nat) (val : W32)
  /-- WHFHEAD_WRITE (R99). Norem writes WHFHEAD.COUNT after consuming return-ring entries, giving room to a PUBLISH or RETIRE that waits to free a frame. -/
  | whfheadWrite (die : Nat) (val : W32)
  /-- CTXATAIL_WRITE (R390). Norem writes CTXATAIL.COUNT to supply context blocks, ending the stop on warp admission that an empty free-block ring imposes. -/
  | ctxatailWrite (die : Nat) (val : W32)
  /-- CTXSHEAD_WRITE (R393). Norem writes CTXSHEAD.COUNT after consuming leave-ring entries, letting Stopping workgroups that waited for room go on to save. -/
  | ctxsheadWrite (die : Nat) (val : W32)
  /-- TRACE_DISABLE (R408). Writing TRCTL.EN as 0 stops the trace stream after the packet being written. -/
  | traceDisable (core : Nat)
  /-- POWER_ON (R434). Power comes on and every register, the syndrome registers included, takes its reset value. -/
  | powerOn
  /-- UNASSIGNED_OPCODE (R174). A unit issues an instruction word whose OP7 or OP10 is unassigned and raises the illegal-instruction trap with subcode 0. -/
  | unassignedOpcode
  /-- INSTRUCTION_FETCH_FAULT (R148). A word of the instruction at the unit's PC lies on a page that fails translation or has X = 0, and the unit raises MEMFAULT at that PC. -/
  | instructionFetchFault
  deriving DecidableEq, Repr

end Sys2Proof
end

