-- ==== Sys2Proof/Decode.lean ====
section
/-! DEFINITION. Decoding of instruction words: the opcode maps of R167 to R174, the operand rules of the instruction chapters,
the decoder with the checks of R165 in their order, and the encoder written from the same tables. Checks of R165 that need the
machine (a format word, a route string, a resume PC out of range) are made at issue by the instruction. -/

namespace Sys2Proof

/-! ## Special registers and operands -/

/-- Class-10 name of a special register (R54). -/
def Special.code : Special → Nat
  | .laneid => 0x40 | .warpid => 0x41 | .subid => 0x42 | .wgid => 0x43 | .nbid => 0x44 | .core => 0x45 | .die => 0x46
  | .clk => 0x47 | .rtime => 0x48 | .fpcr => 0x49 | .fpsr => 0x4A | .stkptr => 0x4B | .stklim => 0x4C | .vpool => 0x4D
  | .vres => 0x4E | .wstat => 0x4F | .traph => 0x50 | .trappc => 0x51 | .exec => 0x52

/-- The special register of a class-10 name (R54). -/
def Special.ofCode : Nat → Option Special
  | 0x40 => some .laneid | 0x41 => some .warpid | 0x42 => some .subid | 0x43 => some .wgid | 0x44 => some .nbid
  | 0x45 => some .core | 0x46 => some .die | 0x47 => some .clk | 0x48 => some .rtime | 0x49 => some .fpcr
  | 0x4A => some .fpsr | 0x4B => some .stkptr | 0x4C => some .stklim | 0x4D => some .vpool | 0x4E => some .vres
  | 0x4F => some .wstat | 0x50 => some .traph | 0x51 => some .trappc | 0x52 => some .exec
  | _ => none

/-- The registers SWR may write: those R54 marks RW or W1C. -/
def Special.writable : Special → Bool
  | .fpcr | .fpsr | .stkptr | .wstat | .traph | .trappc | .exec => true
  | _ => false

/-- Operand classes as the encoding tables write them (R188, R247): v, s, w, x, i. -/
inductive Cls where
  | v | s | w | x | i
  /-- Unused. -/
  | n
  deriving DecidableEq, Repr

/-- The class an operand belongs to. -/
def Operand.cls : Operand → Cls
  | .v _ => .v
  | .s _ => .s
  | .w _ => .w
  | .none => .n
  | .x _ => .x
  | .imm _ => .i
  | .lit => .i

/-- Class field of an operand (R159). -/
def Operand.classBits : Operand → BitVec 2
  | .v _ => 0
  | .s _ => 1
  | .w _ => 2
  | .none => 0
  | .x _ => 2
  | .imm _ => 3
  | .lit => 3

/-- Name field of an operand (R159, R160). -/
def Operand.nameBits : Operand → BitVec 11
  | .v n => n
  | .s n => BitVec.ofNat 11 n.toNat
  | .w n => BitVec.ofNat 11 n.toNat
  | .x r => BitVec.ofNat 11 r.code
  | .imm n => BitVec.ofNat 11 n.toNat
  | .none => 0
  | .lit => 0x400

/-- The operand of a class and a name, where the pair is legal (R159, R160). -/
def Operand.ofBits (c : BitVec 2) (n : BitVec 11) : Option Operand :=
  match c.toNat with
  | 0 => some (.v n)
  | 1 => if n.toNat < 128 then some (.s (BitVec.ofNat 7 n.toNat)) else none
  | 2 => if n.toNat < 16 then some (.w (BitVec.ofNat 4 n.toNat)) else (Special.ofCode n.toNat).map .x
  | _ => if n.toNat < 0x400 then some (.imm (BitVec.ofNat 10 n.toNat)) else if n.toNat = 0x400 then some .lit else none

/-! ## Forms -/

/-- An instruction as its form and opcode; an event of the device has no words. -/
inductive Form where
  | base (op : BitVec 7) (b : Bw)
  | ext (op : BitVec 10) (x : Op)
  | event
  deriving DecidableEq, Repr

/-- Format code of R170. -/
def Fmt.code : Fmt → Nat
  | .f64 => 0 | .f32 => 1 | .f16 => 2 | .bf16 => 3

def Fmt2.code : Fmt2 → Nat
  | .f64 => 0 | .f32 => 1

def Cond.code : Cond → Nat
  | .eq => 0 | .ne => 1 | .lt => 2 | .le => 3 | .gt => 4 | .ge => 5

def FCond.code : FCond → Nat
  | .eq => 0 | .ne => 1 | .lt => 2 | .le => 3 | .gt => 4 | .ge => 5 | .ord => 6 | .uno => 7


/-- The form and opcode of an instruction (R167 to R173). -/
def Instr.form : Instr → Form
  | .iaddV b => .base 0x00 b
  | .iaddS b => .base 0x20 b
  | .iadd x => .ext 0x000 x
  | .isubV b => .base 0x01 b
  | .isubS b => .base 0x21 b
  | .isub x => .ext 0x001 x
  | .imulV b => .base 0x02 b
  | .imulS b => .base 0x22 b
  | .imul x => .ext 0x002 x
  | .imulhV b => .base 0x03 b
  | .imulhS b => .base 0x23 b
  | .imulh x => .ext 0x003 x
  | .imadV b => .base 0x04 b
  | .imadS b => .base 0x24 b
  | .imad x => .ext 0x004 x
  | .iminV b => .base 0x05 b
  | .iminS b => .base 0x25 b
  | .imin x => .ext 0x005 x
  | .imaxV b => .base 0x06 b
  | .imaxS b => .base 0x26 b
  | .imax x => .ext 0x006 x
  | .iabsV b => .base 0x07 b
  | .iabsS b => .base 0x27 b
  | .iabs x => .ext 0x007 x
  | .andV b => .base 0x08 b
  | .andS b => .base 0x28 b
  | .and x => .ext 0x008 x
  | .orV b => .base 0x09 b
  | .orS b => .base 0x29 b
  | .or x => .ext 0x009 x
  | .xorV b => .base 0x0a b
  | .xorS b => .base 0x2a b
  | .xor x => .ext 0x00a x
  | .notV b => .base 0x0b b
  | .notS b => .base 0x2b b
  | .not x => .ext 0x00b x
  | .shlV b => .base 0x0c b
  | .shlS b => .base 0x2c b
  | .shl x => .ext 0x00c x
  | .shrV b => .base 0x0d b
  | .shrS b => .base 0x2d b
  | .shr x => .ext 0x00d x
  | .sarV b => .base 0x0e b
  | .sarS b => .base 0x2e b
  | .sar x => .ext 0x00e x
  | .rotV b => .base 0x0f b
  | .rotS b => .base 0x2f b
  | .rot x => .ext 0x00f x
  | .popcV b => .base 0x10 b
  | .popcS b => .base 0x30 b
  | .popc x => .ext 0x010 x
  | .clzV b => .base 0x11 b
  | .clzS b => .base 0x31 b
  | .clz x => .ext 0x011 x
  | .brevV b => .base 0x12 b
  | .brevS b => .base 0x32 b
  | .brev x => .ext 0x012 x
  | .movV b => .base 0x13 b
  | .movS b => .base 0x33 b
  | .mov x => .ext 0x013 x
  | .moviV b => .base 0x14 b
  | .moviS b => .base 0x34 b
  | .movi x => .ext 0x014 x
  | .leaV b => .base 0x15 b
  | .leaS b => .base 0x35 b
  | .lea x => .ext 0x015 x
  | .bfe x => .ext 0x016 x
  | .bfi x => .ext 0x017 x
  | .sel x => .ext 0x018 x
  | .icmpEqV b => .base 0x58 b
  | .icmpNeV b => .base 0x59 b
  | .icmpLtV b => .base 0x5a b
  | .icmpLeV b => .base 0x5b b
  | .icmpGtV b => .base 0x5c b
  | .icmpGeV b => .base 0x5d b
  | .icmp c x => .ext (0x020 + BitVec.ofNat 10 c.code) x
  | .faddF64V b => .base 0x40 b
  | .fsubF64V b => .base 0x41 b
  | .fmulF64V b => .base 0x42 b
  | .ffmaF64V b => .base 0x43 b
  | .fminF64V b => .base 0x44 b
  | .fmaxF64V b => .base 0x45 b
  | .faddF32V b => .base 0x46 b
  | .fsubF32V b => .base 0x47 b
  | .fmulF32V b => .base 0x48 b
  | .ffmaF32V b => .base 0x49 b
  | .fminF32V b => .base 0x4a b
  | .fmaxF32V b => .base 0x4b b
  | .faddF64S b => .base 0x4c b
  | .fsubF64S b => .base 0x4d b
  | .fmulF64S b => .base 0x4e b
  | .ffmaF64S b => .base 0x4f b
  | .fminF64S b => .base 0x50 b
  | .fmaxF64S b => .base 0x51 b
  | .faddF32S b => .base 0x52 b
  | .fsubF32S b => .base 0x53 b
  | .fmulF32S b => .base 0x54 b
  | .ffmaF32S b => .base 0x55 b
  | .fminF32S b => .base 0x56 b
  | .fmaxF32S b => .base 0x57 b
  | .fadd f x => .ext (0x100 + BitVec.ofNat 10 f.code) x
  | .fsub f x => .ext (0x108 + BitVec.ofNat 10 f.code) x
  | .fmul f x => .ext (0x118 + BitVec.ofNat 10 f.code) x
  | .ffma f x => .ext (0x110 + BitVec.ofNat 10 f.code) x
  | .fmin f x => .ext (0x120 + BitVec.ofNat 10 f.code) x
  | .fmax f x => .ext (0x128 + BitVec.ofNat 10 f.code) x
  | .fcmpEqV b => .base 0x5e b
  | .fcmpNeV b => .base 0x5f b
  | .fcmpLtV b => .base 0x60 b
  | .fcmpLeV b => .base 0x61 b
  | .fcmpGtV b => .base 0x62 b
  | .fcmpGeV b => .base 0x63 b
  | .fcmp c x => .ext (0x1B0 + BitVec.ofNat 10 c.code) x
  | .fclass f x => .ext (0x130 + BitVec.ofNat 10 f.code) x
  | .frnd f x => .ext (0x138 + BitVec.ofNat 10 f.code) x
  | .frcp f x => .ext (0x140 + BitVec.ofNat 10 f.code) x
  | .frsq f x => .ext (0x148 + BitVec.ofNat 10 f.code) x
  | .fsqrt f x => .ext (0x150 + BitVec.ofNat 10 f.code) x
  | .fdivf f x => .ext (0x158 + BitVec.ofNat 10 f.code) x
  | .fred f x => .ext (0x160 + BitVec.ofNat 10 f.code) x
  | .fsin f x => .ext (0x168 + BitVec.ofNat 10 f.code) x
  | .fcos f x => .ext (0x170 + BitVec.ofNat 10 f.code) x
  | .fexp2 f x => .ext (0x178 + BitVec.ofNat 10 f.code) x
  | .flog2 f x => .ext (0x180 + BitVec.ofNat 10 f.code) x
  | .cvt x => .ext 0x188 x
  | .fmtcvt x => .ext 0x190 x
  | .pack x => .ext 0x198 x
  | .unpack x => .ext 0x1a0 x
  | .shfl x => .ext 0x200 x
  | .swapp x => .ext 0x201 x
  | .bcast x => .ext 0x202 x
  | .vote x => .ext 0x203 x
  | .redl x => .ext 0x204 x
  | .scanl x => .ext 0x205 x
  | .braBase b => .base 0x70 b
  | .bra x => .ext 0x280 x
  | .braPkBase k b => .base (0x71 + BitVec.setWidth 7 k) b
  | .braPk k x => .ext (0x288 + BitVec.setWidth 10 k) x
  | .brx x => .ext 0x281 x
  | .callBase b => .base 0x79 b
  | .call x => .ext 0x282 x
  | .callx x => .ext 0x283 x
  | .ret x => .ext 0x284 x
  | .exit x => .ext 0x285 x
  | .nopBase b => .base 0x3f b
  | .nop x => .ext 0x286 x
  | .yield x => .ext 0x287 x
  | .rgn x => .ext 0x290 x
  | .fuse x => .ext 0x291 x
  | .ppopBase b => .base 0x64 b
  | .ppop x => .ext 0x292 x
  | .prot x => .ext 0x293 x
  | .plog x => .ext 0x294 x
  | .ptox x => .ext 0x295 x
  | .xtop x => .ext 0x296 x
  | .xrdBase b => .base 0x65 b
  | .xrd x => .ext 0x297 x
  | .xwrBase b => .base 0x66 b
  | .xwr x => .ext 0x298 x
  | .bar x => .ext 0x2a0 x
  | .bara x => .ext 0x2a1 x
  | .barw x => .ext 0x2a2 x
  | .gbar x => .ext 0x2a3 x
  | .watch x => .ext 0x2a4 x
  | .waitw x => .ext 0x2a5 x
  | .sleep x => .ext 0x2a6 x
  | .swi x => .ext 0x2b0 x
  | .trap x => .ext 0x2b1 x
  | .tret x => .ext 0x2b2 x
  | .brk x => .ext 0x2b3 x
  | .srd x => .ext 0x2b4 x
  | .swr x => .ext 0x2b5 x
  | .getwork x => .ext 0x2b6 x
  | .ld x => .ext 0x300 x
  | .st x => .ext 0x301 x
  | .ldv x => .ext 0x302 x
  | .pref x => .ext 0x303 x
  | .ldc x => .ext 0x304 x
  | .lds x => .ext 0x305 x
  | .sts x => .ext 0x306 x
  | .ldt x => .ext 0x307 x
  | .stt x => .ext 0x308 x
  | .samp x => .ext 0x309 x
  | .atom x => .ext 0x310 x
  | .red x => .ext 0x311 x
  | .fence x => .ext 0x318 x
  | .pfence x => .ext 0x319 x
  | .tcfg x => .ext 0x320 x
  | .tacq x => .ext 0x321 x
  | .trel x => .ext 0x322 x
  | .tstat x => .ext 0x323 x
  | .send x => .ext 0x328 x
  | .pushf x => .ext 0x329 x
  | .popf x => .ext 0x32a x
  | .engcmdCopyin x => .ext 0x3E0 x
  | .engcmdCopyout x => .ext 0x3E0 x
  | .engcmdPublish x => .ext 0x3E0 x
  | .engcmdRetire x => .ext 0x3E0 x
  | .engcmdAsbuild x => .ext 0x3E0 x
  | .engcmdHalo x => .ext 0x3E0 x
  | .engcmdAllred x => .ext 0x3E0 x
  | .engcmdRecon x => .ext 0x3E0 x
  | .mma x => .ext 0x380 x
  | .mmas x => .ext 0x381 x
  | .mmac x => .ext 0x382 x
  | .accld x => .ext 0x388 x
  | .accst x => .ext 0x389 x
  | .accz x => .ext 0x38a x
  | .mdrain x => .ext 0x390 x
  | .mbatch x => .ext 0x398 x
  | .mwait x => .ext 0x399 x
  | .ofence x => .ext 0x39a x
  | .mcfg x => .ext 0x3a0 x
  | .rq x => .ext 0x3c0 x
  | .rcast x => .ext 0x3c1 x
  | .cont x => .ext 0x3c2 x
  | .rast x => .ext 0x3c3 x
  | .hgf x => .ext 0x3c8 x
  | .hgs x => .ext 0x3c9 x
  | .covq x => .ext 0x3d0 x
  | .covp x => .ext 0x3d1 x
  | .strokeBoundary _ _ => .event
  | .longLatencyResult _ _ _ => .event
  | .allocationGrant _ _ => .event
  | .registerSpill _ _ => .event
  | .stackLineFill _ _ => .event
  | .stackLineWriteback _ _ => .event
  | .workgroupDispatch _ _ _ => .event
  | .affinityTimeout _ => .event
  | .dispatchReservation _ => .event
  | .strokeWatchdog _ => .event
  | .watchdogGraceExpiry _ => .event
  | .watchFire _ _ => .event
  | .sleepExpiry _ _ => .event
  | .matrixOperationPerform _ => .event
  | .formatEmulationDone _ => .event
  | .fmtcvtEmulationResume _ _ => .event
  | .engineCommandComplete _ => .event
  | .copyoutReadsEnd _ => .event
  | .publishPoint _ => .event
  | .retirePage _ => .event
  | .frameReturn _ => .event
  | .copyOnWriteEnd _ => .event
  | .allocationRingTimeout _ => .event
  | .sendDelivery _ => .event
  | .directoryRead _ _ => .event
  | .directoryWrite _ _ => .event
  | .directoryReduction _ _ _ _ _ => .event
  | .directoryEviction _ _ => .event
  | .rayMigration _ _ => .event
  | .rayTraversalEnd _ _ => .event
  | .relaunchTimeout _ _ _ _ => .event
  | .coverageUpdate4k _ => .event
  | .kick _ _ => .event
  | .queueRegister _ _ => .event
  | .recordFetch _ _ => .event
  | .dependenceFire _ _ => .event
  | .dependencePoll _ _ => .event
  | .launchComplete _ => .event
  | .launchTimeout _ => .event
  | .shadowRetry _ _ => .event
  | .slotqValidLoad _ _ _ _ => .event
  | .slotqUnload _ _ => .event
  | .slotqHalt _ _ => .event
  | .slotqReload _ _ => .event
  | .noremMappingTick => .event
  | .noremMappingPass => .event
  | .leaseClaim _ => .event
  | .leaderRepair _ => .event
  | .controlCoreWatchdog _ => .event
  | .interruptWatchArm _ _ _ _ _ _ _ => .event
  | .interruptUnmaskDelivery _ _ => .event
  | .vifActivate _ => .event
  | .vifTear _ _ => .event
  | .teardownProgress _ => .event
  | .dieResetRequest _ => .event
  | .eccCorrectedError _ _ => .event
  | .eccUncorrectableError _ _ _ => .event
  | .edgeRetryExhausted _ _ => .event
  | .packageReset => .event
  | .pkgrst => .event
  | .functionReady _ _ => .event
  | .preqGo _ _ => .event
  | .drainOverrun _ => .event
  | .workgroupSave _ => .event
  | .reprimeFlushDone _ => .event
  | .ctxrestSaved _ _ _ _ => .event
  | .ctxrestReprime _ _ _ => .event
  | .warpctlResume _ _ _ _ => .event
  | .warpctlAbort _ _ _ _ => .event
  | .pageWalkComplete _ _ _ => .event
  | .tlbinvAll _ _ => .event
  | .tlbinvRange _ _ => .event
  | .tlbInvalidateComplete _ => .event
  | .debugHalt _ => .event
  | .debugStep _ => .event
  | .debugStepAll _ => .event
  | .debugResume _ => .event
  | .debugAccessRead _ _ => .event
  | .debugAccessWrite _ _ => .event
  | .traceEnable _ _ => .event
  | .frequencyStep _ _ => .event
  | .frequencyRestart _ => .event
  | .powerLimitStep _ => .event
  | .ualinkRead _ _ _ _ _ => .event
  | .ualinkWrite _ _ _ _ _ => .event
  | .ualinkAtomic _ _ _ _ _ _ _ _ => .event
  | .ualinkVendorMessage _ _ _ => .event
  | .ualinkLinkDown _ _ => .event
  | .registerWrite _ _ => .event
  | .whatailWrite _ _ => .event
  | .whfheadWrite _ _ => .event
  | .ctxatailWrite _ _ => .event
  | .ctxsheadWrite _ _ => .event
  | .traceDisable _ => .event
  | .powerOn => .event
  | .unassignedOpcode => .event
  | .instructionFetchFault => .event

/-- The base opcode map (R167). -/
def baseMap1 : List (Nat × (Bw → Instr)) :=
  [(0x0, .iaddV), (0x1, .isubV), (0x2, .imulV), (0x3, .imulhV), (0x4, .imadV),
   (0x5, .iminV), (0x6, .imaxV), (0x7, .iabsV), (0x8, .andV), (0x9, .orV),
   (0xa, .xorV), (0xb, .notV), (0xc, .shlV), (0xd, .shrV), (0xe, .sarV),
   (0xf, .rotV), (0x10, .popcV), (0x11, .clzV), (0x12, .brevV), (0x13, .movV),
   (0x14, .moviV), (0x15, .leaV), (0x20, .iaddS), (0x21, .isubS), (0x22, .imulS),
   (0x23, .imulhS), (0x24, .imadS), (0x25, .iminS), (0x26, .imaxS), (0x27, .iabsS),
   (0x28, .andS), (0x29, .orS), (0x2a, .xorS), (0x2b, .notS), (0x2c, .shlS),
   (0x2d, .shrS), (0x2e, .sarS), (0x2f, .rotS), (0x30, .popcS), (0x31, .clzS),
   (0x32, .brevS), (0x33, .movS), (0x34, .moviS), (0x35, .leaS), (0x3f, .nopBase)]

def baseMap2 : List (Nat × (Bw → Instr)) :=
  [(0x40, .faddF64V), (0x41, .fsubF64V), (0x42, .fmulF64V), (0x43, .ffmaF64V), (0x44, .fminF64V),
   (0x45, .fmaxF64V), (0x46, .faddF32V), (0x47, .fsubF32V), (0x48, .fmulF32V), (0x49, .ffmaF32V),
   (0x4a, .fminF32V), (0x4b, .fmaxF32V), (0x4c, .faddF64S), (0x4d, .fsubF64S), (0x4e, .fmulF64S),
   (0x4f, .ffmaF64S), (0x50, .fminF64S), (0x51, .fmaxF64S), (0x52, .faddF32S), (0x53, .fsubF32S),
   (0x54, .fmulF32S), (0x55, .ffmaF32S), (0x56, .fminF32S), (0x57, .fmaxF32S), (0x58, .icmpEqV),
   (0x59, .icmpNeV), (0x5a, .icmpLtV), (0x5b, .icmpLeV), (0x5c, .icmpGtV), (0x5d, .icmpGeV),
   (0x5e, .fcmpEqV), (0x5f, .fcmpNeV), (0x60, .fcmpLtV), (0x61, .fcmpLeV), (0x62, .fcmpGtV),
   (0x63, .fcmpGeV), (0x64, .ppopBase), (0x65, .xrdBase), (0x66, .xwrBase), (0x70, .braBase),
   (0x71, .braPkBase 0), (0x72, .braPkBase 1), (0x73, .braPkBase 2), (0x74, .braPkBase 3), (0x75, .braPkBase 4),
   (0x76, .braPkBase 5), (0x77, .braPkBase 6), (0x78, .braPkBase 7), (0x79, .callBase)]

/-- The extended opcode map (R169, R170, R172, R173) but for ENGCMD, whose kind FUNC carries. -/
def extMap1 : List (Nat × (Op → Instr)) :=
  [(0x0, .iadd), (0x1, .isub), (0x2, .imul), (0x3, .imulh), (0x4, .imad),
   (0x5, .imin), (0x6, .imax), (0x7, .iabs), (0x8, .and), (0x9, .or),
   (0xa, .xor), (0xb, .not), (0xc, .shl), (0xd, .shr), (0xe, .sar),
   (0xf, .rot), (0x10, .popc), (0x11, .clz), (0x12, .brev), (0x13, .mov),
   (0x14, .movi), (0x15, .lea), (0x16, .bfe), (0x17, .bfi), (0x18, .sel),
   (0x20, .icmp .eq), (0x21, .icmp .ne), (0x22, .icmp .lt), (0x23, .icmp .le), (0x24, .icmp .gt),
   (0x25, .icmp .ge), (0x100, .fadd .f64), (0x101, .fadd .f32), (0x102, .fadd .f16), (0x103, .fadd .bf16),
   (0x108, .fsub .f64), (0x109, .fsub .f32), (0x10a, .fsub .f16), (0x10b, .fsub .bf16), (0x110, .ffma .f64),
   (0x111, .ffma .f32), (0x112, .ffma .f16), (0x113, .ffma .bf16), (0x118, .fmul .f64), (0x119, .fmul .f32),
   (0x11a, .fmul .f16), (0x11b, .fmul .bf16), (0x120, .fmin .f64), (0x121, .fmin .f32), (0x122, .fmin .f16),
   (0x123, .fmin .bf16), (0x128, .fmax .f64), (0x129, .fmax .f32), (0x12a, .fmax .f16), (0x12b, .fmax .bf16)]

def extMap2 : List (Nat × (Op → Instr)) :=
  [(0x130, .fclass .f64), (0x131, .fclass .f32), (0x132, .fclass .f16), (0x133, .fclass .bf16), (0x138, .frnd .f64),
   (0x139, .frnd .f32), (0x13a, .frnd .f16), (0x13b, .frnd .bf16), (0x140, .frcp .f64), (0x141, .frcp .f32),
   (0x148, .frsq .f64), (0x149, .frsq .f32), (0x150, .fsqrt .f64), (0x151, .fsqrt .f32), (0x158, .fdivf .f64),
   (0x159, .fdivf .f32), (0x160, .fred .f64), (0x161, .fred .f32), (0x168, .fsin .f64), (0x169, .fsin .f32),
   (0x170, .fcos .f64), (0x171, .fcos .f32), (0x178, .fexp2 .f64), (0x179, .fexp2 .f32), (0x180, .flog2 .f64),
   (0x181, .flog2 .f32), (0x188, .cvt), (0x190, .fmtcvt), (0x198, .pack), (0x1a0, .unpack),
   (0x1b0, .fcmp .eq), (0x1b1, .fcmp .ne), (0x1b2, .fcmp .lt), (0x1b3, .fcmp .le), (0x1b4, .fcmp .gt),
   (0x1b5, .fcmp .ge), (0x1b6, .fcmp .ord), (0x1b7, .fcmp .uno), (0x200, .shfl), (0x201, .swapp),
   (0x202, .bcast), (0x203, .vote), (0x204, .redl), (0x205, .scanl)]

def extMap3 : List (Nat × (Op → Instr)) :=
  [(0x280, .bra), (0x281, .brx), (0x282, .call), (0x283, .callx), (0x284, .ret),
   (0x285, .exit), (0x286, .nop), (0x287, .yield), (0x288, .braPk 0), (0x289, .braPk 1),
   (0x28a, .braPk 2), (0x28b, .braPk 3), (0x28c, .braPk 4), (0x28d, .braPk 5), (0x28e, .braPk 6),
   (0x28f, .braPk 7), (0x290, .rgn), (0x291, .fuse), (0x292, .ppop), (0x293, .prot),
   (0x294, .plog), (0x295, .ptox), (0x296, .xtop), (0x297, .xrd), (0x298, .xwr),
   (0x2a0, .bar), (0x2a1, .bara), (0x2a2, .barw), (0x2a3, .gbar), (0x2a4, .watch),
   (0x2a5, .waitw), (0x2a6, .sleep), (0x2b0, .swi), (0x2b1, .trap), (0x2b2, .tret),
   (0x2b3, .brk), (0x2b4, .srd), (0x2b5, .swr), (0x2b6, .getwork), (0x300, .ld),
   (0x301, .st), (0x302, .ldv), (0x303, .pref), (0x304, .ldc), (0x305, .lds),
   (0x306, .sts), (0x307, .ldt), (0x308, .stt), (0x309, .samp), (0x310, .atom),
   (0x311, .red), (0x318, .fence), (0x319, .pfence), (0x320, .tcfg), (0x321, .tacq),
   (0x322, .trel), (0x323, .tstat), (0x328, .send), (0x329, .pushf), (0x32a, .popf),
   (0x380, .mma), (0x381, .mmas), (0x382, .mmac), (0x388, .accld), (0x389, .accst),
   (0x38a, .accz), (0x390, .mdrain), (0x398, .mbatch), (0x399, .mwait), (0x39a, .ofence),
   (0x3a0, .mcfg), (0x3c0, .rq), (0x3c1, .rcast), (0x3c2, .cont), (0x3c3, .rast),
   (0x3c8, .hgf), (0x3c9, .hgs), (0x3d0, .covq), (0x3d1, .covp)]

/-- The ENGCMD kinds (R270). -/
def engMap : List (Nat × (Op → Instr)) :=
  [(0x0, .engcmdCopyin), (0x1, .engcmdCopyout), (0x2, .engcmdPublish), (0x3, .engcmdRetire), (0x4, .engcmdAsbuild),
   (0x5, .engcmdHalo), (0x6, .engcmdAllred), (0x7, .engcmdRecon)]

/-- First entry of a map. -/
def mapFind {α : Type} : List (Nat × α) → Nat → Option α
  | [], _ => none
  | (k, v) :: m, n => if k = n then some v else mapFind m n

/-- The instruction of a base opcode; unassigned values have none (R174). -/
def baseOf (op : Nat) (b : Bw) : Option Instr :=
  (if op < 0x40 then mapFind baseMap1 op else mapFind baseMap2 op).map (fun f => f b)

/-- The instruction of an extended opcode; unassigned values, and undefined ENGCMD kinds, have none. -/
def extOf (op : Nat) (x : Op) : Option Instr :=
  (if op < 0x130 then mapFind extMap1 op
    else if op < 0x280 then mapFind extMap2 op
    else if op = 0x3E0 then mapFind engMap x.func.toNat
    else mapFind extMap3 op).map (fun f => f x)

/-- Whether OP7 is assigned (R167). -/
def assigned7 (op : Nat) : Bool := (if op < 0x40 then mapFind baseMap1 op else mapFind baseMap2 op).isSome

/-- Whether OP10 is assigned (R169 to R173). -/
def assigned10 (op : Nat) : Bool :=
  if op = 0x3E0 then true
  else (if op < 0x130 then mapFind extMap1 op else if op < 0x280 then mapFind extMap2 op else mapFind extMap3 op).isSome

/-! ## The operand rules of the extended form -/

/-- What the literal is to an opcode (R161, R172): a source, a PC pair with RCV zero or nonzero, a route string. -/
inductive LitRole where
  | src | pcNoJoin | pcJoin | route
  deriving DecidableEq, Repr

/-- What the encoding tables fix for one extended instruction, given its selector fields: the classes of its operands (none
for an unused one), run lengths, whether a guard is allowed, its latency, the literal, and whether its MOD and FUNC are defined. -/
structure Rule where
  d    : List Cls := []
  a    : List Cls := []
  b    : List Cls := []
  c    : List Cls := []
  nd   : Nat := 1
  na   : Nat := 1
  nb   : Nat := 1
  nc   : Nat := 1
  /-- B is a run where it is a vector and one selector where it is a scalar (R280). -/
  selB : Bool := false
  /-- A scalar or workgroup destination forbids vector sources (R218, R247). -/
  uni  : Bool := false
  grd  : Bool := true
  long : Bool := false
  lit  : LitRole := .src
  /-- The opcode gives FUNC no use, and a nonzero FUNC is a reserved bit (R158, R165). -/
  noFunc : Bool := false
  modOk  : Bool := true
  funcOk : Bool := true
  deriving DecidableEq, Repr

namespace Rule

def any : List Cls := [.v, .s, .w, .i]
def dst : List Cls := [.v, .s, .w]
def vsi : List Cls := [.v, .s, .i]
def vsw : List Cls := [.v, .s, .w]
def si  : List Cls := [.s, .i]

/-- A rounding selection that R133 defines. -/
def rndOk (r : Nat) : Bool := r = 0 || (4 ≤ r && r ≤ 7)

/-- Integer and address instructions (R220 to R227). -/
def int (op mod func : Nat) : Rule :=
  let ty : Bool := mod < 4
  let sat : Bool := mod < 8
  let base : Rule := { d := dst, a := any, b := any, uni := true, noFunc := true, modOk := ty }
  match op with
  | 0x00 | 0x01 | 0x02 => { base with modOk := sat }
  | 0x04 => { base with c := any, modOk := sat }
  | 0x07 => { base with b := [], modOk := sat && mod % 2 = 0 }
  | 0x0B | 0x10 | 0x11 | 0x12 | 0x13 => { base with b := [] }
  | 0x14 => { base with a := [], b := [.i] }
  | 0x15 => { base with modOk := sat }
  | 0x16 | 0x17 => { base with c := any }
  | 0x18 => { base with d := [.v], noFunc := false, modOk := mod = 0, funcOk := func < 16 }
  | 0x20 | 0x21 | 0x22 | 0x23 | 0x24 | 0x25 => { base with d := [] }
  | _ => base

/-- Floating-point arithmetic, transcendentals and conversions (R228 to R238). `k` is OP10 / 8. -/
def float (op mod func : Nat) : Rule :=
  let rnd : Bool := rndOk mod
  let b2 : Rule := { d := dst, a := any, b := any, uni := true, modOk := rnd, funcOk := func < 16 }
  let tr : Rule := { d := dst, a := any, uni := true, long := true, noFunc := true, modOk := rnd }
  let isInt (t : Nat) : Bool := 4 ≤ t
  match op / 8 with
  | 0x20 | 0x21 | 0x23 => b2
  | 0x22 => { b2 with c := any, funcOk := func < 64 }
  | 0x24 | 0x25 => { b2 with modOk := mod = 0 }
  | 0x26 => { b2 with b := [], modOk := mod = 0, funcOk := func = 0 }
  | 0x27 => { b2 with b := [], funcOk := func < 4 }
  | 0x28 | 0x29 | 0x2A | 0x2F | 0x30 => tr
  | 0x2B | 0x2D | 0x2E => { tr with b := any }
  | 0x2C => { tr with nd := 2 }
  | 0x31 =>
    let src := func % 16
    let dstT := func / 16
    { b2 with b := [], modOk := rndOk (mod % 8) && (mod < 8 || (mod < 16 && isInt src && isInt dstT)),
              funcOk := src < 12 && dstT < 12 && src ≠ dstT }
  | 0x32 => { b2 with funcOk := func < 8 }
  | 0x33 | 0x34 =>
    let e := 4 * 2 ^ (func % 4)
    let n := func / 4 + 1
    let p := (n * e + 63) / 64
    let ok : Bool := n * e ≤ 256
    if op / 8 = 0x33 then { d := [.v], a := [.v], nd := p, na := n, modOk := mod = 0, funcOk := ok }
    else { d := [.v], a := [.v], nd := n, na := p, modOk := mod < 2, funcOk := ok }
  | _ => { b2 with d := [], modOk := mod < 4 }

/-- Lane instructions (R240). -/
def lane (op mod func : Nat) : Rule :=
  let ty (t : Nat) : Bool := t < 4 || t = 6 || t = 7 || t = 10 || t = 11
  let red : Bool := func % 8 < 6 && ty (func / 8 % 16) && (func % 8 < 3 || 6 ≤ func / 8 % 16)
  let rnd : Bool := rndOk mod && (mod = 0 || (func % 8 = 0 && func / 8 % 16 < 4))
  match op with
  | 0x200 => { d := [.v], a := [.v], b := any, modOk := mod = 0, funcOk := func < 32 && func / 4 ≤ 5 }
  | 0x201 => { d := [.v], a := [.v], modOk := mod = 0 || (4 ≤ mod && mod < 8), funcOk := 1 ≤ func && func < 32 }
  | 0x202 => { d := dst, a := [.v], b := if func % 2 = 1 then [] else [.s, .w, .i], modOk := mod = 0, funcOk := func < 2 }
  | 0x203 => { d := if func / 16 % 4 = 0 then dst else [], modOk := mod = 0, funcOk := func < 64 }
  | 0x204 => { d := dst, a := [.v], modOk := rnd, funcOk := red && func < 128 }
  | _ => { d := [.v], a := [.v], modOk := rnd, funcOk := red && func < 256 }

/-- Control, predicates, synchronisation and traps (R188, R189). XWR takes a source literal, as R188 says; the Literal column of R172 says
None, and no ruling settles it. DEDUCED (log 23), unsafe: XWR with LEN 11 would be illegal. -/
def control (op mod func : Nat) : Rule :=
  let z : Bool := mod = 0
  let plain : Rule := { grd := false, noFunc := true, modOk := z }
  match op with
  | 0x280 | 0x282 => { plain with lit := .pcNoJoin }
  | 0x281 => { plain with a := [.v, .s], noFunc := false, lit := .pcJoin, modOk := z || mod = 2, funcOk := 1 ≤ func }
  | 0x283 | 0x284 => { plain with a := [.s] }
  | 0x285 => { plain with grd := true, modOk := mod < 2 }
  | 0x288 | 0x289 | 0x28A | 0x28B | 0x28C | 0x28D | 0x28E | 0x28F => { plain with lit := .pcJoin, modOk := mod < 4 }
  | 0x292 => { plain with modOk := mod < 4 }
  | 0x293 => { plain with noFunc := false, funcOk := 1 ≤ func && func < 8 }
  | 0x294 => { plain with noFunc := false, grd := true }
  | 0x295 => { plain with noFunc := false, funcOk := func < 32 }
  | 0x297 => { plain with d := [.s] }
  | 0x298 | 0x2A0 | 0x2A1 | 0x2A2 | 0x2A3 | 0x2A6 => { plain with a := si }
  | 0x2A4 | 0x2A5 =>
    { plain with d := [.s], a := [.s], b := si, c := si, long := true, noFunc := false, funcOk := func < 16 && func % 8 ≠ 7 }
  | 0x2B0 => { plain with a := si, b := si }
  | 0x2B1 | 0x2B3 => { plain with grd := true, noFunc := false }
  | 0x2B4 => { plain with d := [.v, .s], a := [.x] }
  | 0x2B5 => { plain with d := [.x], a := si }
  | 0x2B6 => { plain with d := [.s], nd := 2, long := true }
  | _ => plain

/-- Registers in a data run of a load or store of size code `sz` (R249). -/
def memRun (sz : Nat) : Nat := if sz = 4 then 2 else if sz = 5 then 4 else 1

/-- Memory, atomic, tile and engine instructions (R247, R248, R257, R262 to R270). The ordering of ATOM stands in FUNC, as R257 says; the last
sentence of R173 calls it a MOD value, and no ruling settles it. DEDUCED (log 23), unsafe. -/
def memory (op mod func : Nat) : Rule :=
  let sz := mod % 8
  let sx := mod / 8 % 2
  let ord := mod / 16
  let z : Bool := mod = 0
  let fz : Bool := func = 0
  let load (o : Bool) : Bool := sz ≤ 5 && (sx = 0 || sz ≤ 2) && o
  let store (o : Bool) : Bool := sz ≤ 5 && sx = 0 && o
  let atype := func / 16 % 16
  let aop := func % 16
  let flt : Bool := atype < 2
  let aok : Bool := (flt || atype = 6 || atype = 7 || atype = 10 || atype = 11) && !(flt && 3 ≤ aop && aop ≤ 5)
  let arnd : Bool := mod = (if flt && aop = 0 then 4 else 0)
  match op with
  | 0x300 => { d := [.v, .s], a := vsw, b := vsi, nd := memRun sz, uni := true, long := true, modOk := load (ord ≤ 1), funcOk := fz }
  | 0x301 => { a := vsw, b := vsi, c := vsi, nc := memRun sz, modOk := store (ord = 0 || ord = 2), funcOk := fz }
  | 0x302 => { d := [.v, .s], a := vsw, b := vsi, c := si, nd := memRun sz, uni := true, long := true, modOk := load (ord ≤ 1), funcOk := fz }
  | 0x303 => { a := vsw, b := vsi, modOk := z, funcOk := func < 2 }
  | 0x304 | 0x305 => { d := [.v, .s], a := vsw, b := vsi, nd := memRun sz, uni := true, long := true, modOk := load (ord = 0), funcOk := fz }
  | 0x306 => { a := vsw, b := vsi, c := vsi, nc := memRun sz, modOk := store (ord = 0), funcOk := fz }
  | 0x307 => { d := [.v], a := si, b := vsi, long := true, modOk := mod < 4 || mod = 8, funcOk := fz }
  | 0x308 => { a := si, b := vsi, c := vsi, modOk := mod < 4, funcOk := fz }
  | 0x309 => { d := [.v], a := si, b := [.v], nd := mod % 4 + 1, nb := 3, long := true, modOk := mod < 4, funcOk := fz }
  | 0x310 => { d := [.v, .s], a := vsw, b := vsi, c := vsi, uni := true, long := true, modOk := arnd, funcOk := aok && aop < 8 }
  | 0x311 => { a := vsw, b := vsi, c := vsi, modOk := arnd, funcOk := aok && aop < 6 && func < 256 }
  | 0x318 => { grd := false, modOk := 1 ≤ mod && mod ≤ 3, funcOk := fz }
  | 0x319 => { grd := false, modOk := z, funcOk := 1 ≤ func && func < 16 }
  | 0x320 => { a := si, b := si, c := si, modOk := z, funcOk := fz }
  | 0x321 | 0x322 => { a := si, modOk := z, funcOk := fz }
  | 0x323 => { d := [.s], a := si, nd := 2, grd := false, modOk := z, funcOk := fz }
  | 0x328 => { a := [.v], b := si, c := si, lit := .route, modOk := z, funcOk := fz }
  | 0x329 => { a := [.v], na := func % 16 + 1, grd := false, modOk := z, funcOk := func < 16 }
  | 0x32A => { d := [.v], nd := func % 16 + 1, grd := false, long := true, modOk := z, funcOk := func < 16 }
  | _ => { a := si, b := vsi, c := si, modOk := z, funcOk := func < 8 }

/-- Registers of an A run and of a register B run, by FMT (R277). -/
def matA (fmt : Nat) : Nat := if fmt < 2 then 4 else 8
def matB (fmt : Nat) : Nat := if fmt < 2 then 2 else 4

/-- Matrix engine instructions (R282). `ca` is the class field of A. -/
def matrix (op mod func ca : Nat) : Rule :=
  let fmt := func / 64 % 8
  let z : Bool := mod = 0
  let fz : Bool := func = 0
  let mm : Bool := rndOk (mod % 8) && mod / 8 < 3
  let ff : Bool := fmt < 5 && func < 512
  let cw : List Cls := if fmt = 4 then any else []
  let n := if fmt = 0 then 16 else 8
  let acc : Bool := fmt < 2 && func < 512
  match op with
  | 0x380 => { a := [.v], b := [.v, .s, .i], c := cw, na := matA fmt, nb := matB fmt, selB := true, modOk := mm, funcOk := ff }
  | 0x381 => { a := [.v], b := [.v], c := cw, na := matA fmt + (if fmt = 4 then 2 else 1), nb := matB fmt + 1, modOk := mm, funcOk := ff }
  | 0x382 => { a := si, b := [.v, .s, .i], c := cw, nb := matB fmt, selB := true, modOk := mm, funcOk := ff }
  | 0x388 => { a := [.v], na := n, modOk := z, funcOk := acc }
  | 0x389 => { d := [.v], nd := n, long := true, modOk := z, funcOk := acc }
  | 0x38A => { modOk := z, funcOk := func < 64 }
  | 0x390 =>
    let mem := mod / 16 % 2
    let add := mod / 8 % 2
    { a := if mem = 0 then si else any, b := if mem = 1 && ca ≠ 0 then si else [], c := cw,
      modOk := rndOk (mod % 8) && mod < 32 && !(add = 1 && fmt = 4), funcOk := fmt < 5 }
  | 0x398 => { d := [.s], grd := false, modOk := z, funcOk := fz }
  | 0x399 => { a := si, grd := false, modOk := z, funcOk := fz }
  | 0x39A => { grd := false, modOk := z, funcOk := fz }
  | _ => { a := if mod % 2 = 1 then [] else [.s, .w, .i], grd := false, modOk := mod < 2, funcOk := fz }

/-- Ray, raster, hash-grid and coverage instructions (R298). HGS.D stands in FUNC, as R298 says; the last sentence of R173 calls it a MOD
value, and no ruling settles it. DEDUCED (log 23), unsafe. -/
def field (op mod func : Nat) : Rule :=
  let z : Bool := mod = 0
  let nl := func / 4 % 16
  let live : List Cls := if nl = 0 then [] else [.v]
  match op with
  | 0x3C0 => { d := [.v], a := [.v], b := si, nd := 2, na := 8, long := true, modOk := z, funcOk := func < 4 }
  | 0x3C1 => { a := [.v], b := si, c := live, na := 7, nc := nl, lit := .pcNoJoin, modOk := z, funcOk := func < 64 && nl < 13 }
  | 0x3C2 => { c := live, nc := nl, lit := .pcNoJoin, modOk := z, funcOk := func < 64 && nl < 13 && func % 4 = 0 }
  | 0x3C3 => { d := [.v], b := si, nd := 2, long := true, modOk := z, funcOk := func = 0 }
  | 0x3C8 => { d := [.v], a := [.v], b := si, na := 3, long := true, modOk := z, funcOk := func = 0 }
  | 0x3C9 => { a := [.v], b := si, c := [.v], na := 3, modOk := z, funcOk := func < 2 }
  | 0x3D0 => { d := [.v], modOk := z, funcOk := func = 0 }
  | _ => { d := [.v], a := [.v], long := true, modOk := z, funcOk := func = 0 || func = 1 || func = 3 }

/-- The rule of an assigned OP10, given MOD, FUNC and the class field of A. -/
def of (op mod func ca : Nat) : Rule :=
  if op < 0x100 then int op mod func
  else if op < 0x200 then float op mod func
  else if op < 0x280 then lane op mod func
  else if op < 0x300 then control op mod func
  else if op < 0x380 || op = 0x3E0 then memory op mod func
  else if op < 0x3C0 then matrix op mod func ca
  else field op mod func

end Rule

/-! ## Checks of the extended form (R165) -/

/-- The fields of an extended form as the words hold them (R154). -/
structure Raw where
  s    : Bool
  e    : Bool
  op   : BitVec 10
  la   : BitVec 4
  gen  : Bool
  gneg : Bool
  gdep : BitVec 3
  ula  : Bool
  ulb  : Bool
  ulc  : Bool
  mod  : BitVec 6
  d    : BitVec 11
  a    : BitVec 11
  cd   : BitVec 2
  ca   : BitVec 2
  cb   : BitVec 2
  cc   : BitVec 2
  rsv  : BitVec 2
  b    : BitVec 11
  c    : BitVec 11
  func : BitVec 10
  lit  : Option W64
  deriving DecidableEq, Repr

/-- Check 2 of R165: a reserved bit is set. -/
def Raw.reserved (r : Raw) (u : Rule) : Bool :=
  let unused (l : List Cls) (c : BitVec 2) (n : BitVec 11) (ul : Bool) : Bool := l.isEmpty && (c ≠ 0 || n ≠ 0 || ul)
  r.rsv ≠ 0 || (!r.gen && (r.gneg || r.gdep ≠ 0)) || (r.gen && !u.grd)
    || unused u.d r.cd r.d false || unused u.a r.ca r.a r.ula || unused u.b r.cb r.b r.ulb || unused u.c r.cc r.c r.ulc
    || (r.op = 0x281 && r.ula) || (u.noFunc && r.func ≠ 0)

/-- A used source names the literal. R160 speaks of sources where R161 says "an operand": a destination of class 11 counts for neither LEN
and is an illegal class, and a source consumes the literal even on an opcode that allows none (CALLX, RET), where its class is illegal too.
DEDUCED (log 23), unsafe: the subcode would be 5 where it is 3. -/
def Raw.namesLit (r : Raw) (u : Rule) : Bool :=
  let hit (l : List Cls) (c : BitVec 2) (n : BitVec 11) : Bool := !l.isEmpty && c = 3 && n = 0x400
  hit u.a r.ca r.a || hit u.b r.cb r.b || hit u.c r.cc r.c

/-- Check 3 of R165: LEN disagrees with the opcode (R161). -/
def Raw.badLen (r : Raw) (u : Rule) : Bool :=
  match u.lit with
  | .src => if r.lit.isSome then !r.namesLit u else r.namesLit u
  | _ => r.lit.isNone

/-- A run of `n` names from an operand stays within its file (R162, R218). -/
def Operand.runOk : Operand → Nat → Bool
  | .v k, n => k.toNat + n ≤ 2048
  | .s k, n => k.toNat + n ≤ 128
  | .w k, n => k.toNat + n ≤ 16
  | _, _ => true

/-- An operand fits its place: its class is allowed and its run stays in the file. -/
def Operand.fits (o : Operand) (l : List Cls) (n : Nat) : Bool := l.contains o.cls && o.runOk n

/-- The four operands, where their names are legal; an unused one is `.none`. -/
def Raw.operands (r : Raw) (u : Rule) : Option (Operand × Operand × Operand × Operand) :=
  let get (l : List Cls) (c : BitVec 2) (n : BitVec 11) : Option Operand := if l.isEmpty then some .none else Operand.ofBits c n
  match get u.d r.cd r.d, get u.a r.ca r.a, get u.b r.cb r.b, get u.c r.cc r.c with
  | some d, some a, some b, some c => some (d, a, b, c)
  | _, _, _, _ => none

/-- Check 4 of R165 on the operands of an instruction: classes, names, runs, last-use bits, scalar destinations with vector
sources, SWR to a register it may not write, GETWORK's even pair, SEND's literal. -/
def operandsOk (op : Nat) (u : Rule) (d a b c : Operand) (ula ulb ulc : Bool) : Bool :=
  let used (o : Operand) (l : List Cls) (n : Nat) : Bool := l.isEmpty || o.fits l n
  used d u.d u.nd && used a u.a u.na && used b u.b (if u.selB && b.cls ≠ .v then 1 else u.nb) && used c u.c u.nc
    && (!ula || a.cls = .v) && (!ulb || b.cls = .v) && (!ulc || c.cls = .v)
    && (!(u.uni && !u.d.isEmpty && d.cls ≠ .v) || ((u.a.isEmpty || a.cls ≠ .v) && (u.b.isEmpty || b.cls ≠ .v) && (u.c.isEmpty || c.cls ≠ .v)))
    && (match d with
        | .x r => r.writable
        | _ => true)
    && (op ≠ 0x2B6 || (match d with
        | .s n => n.toNat % 2 = 0
        | _ => false))
    && (op ≠ 0x328 || (b ≠ .lit && c ≠ .lit))

/-- Check 6 of R165 on the literal: RCV (R163, R189, R298). -/
def litOk (role : LitRole) (lit : Option W64) : Bool :=
  match role, lit with
  | .pcJoin, some l => l.toNat / 2 ^ 32 ≠ 0
  | .pcNoJoin, some l => l.toNat / 2 ^ 32 = 0
  | _, _ => true

/-- What decoding answers: an instruction with its length in bytes, or the subcode of the illegal-instruction trap. -/
inductive Decoded where
  | ok (i : Instr) (len : Nat)
  | illegal (sub : Nat)
  /-- Fewer words than LEN states were given. -/
  | short
  deriving DecidableEq, Repr

/-- The checks of R165 on an extended form, in their order, and the instruction. -/
def Raw.decode (r : Raw) : Decoded :=
  let op := r.op.toNat
  if !assigned10 op then .illegal 0 else
  let u := Rule.of op r.mod.toNat r.func.toNat r.ca.toNat
  if r.reserved u then .illegal 1 else
  if r.badLen u then .illegal 5 else
  match r.operands u with
  | none => .illegal 3
  | some (d, a, b, c) =>
    if !operandsOk op u d a b c r.ula r.ulb r.ulc then .illegal 3 else
    if !(u.modOk && u.funcOk) || (!u.long && r.la ≠ 0) then .illegal 4 else
    if !litOk u.lit r.lit then .illegal 2 else
    match extOf op { s := r.s, e := r.e, la := r.la, grd := if r.gen then some { neg := r.gneg, dep := r.gdep } else none,
                     ula := r.ula, ulb := r.ulb, ulc := r.ulc, mod := r.mod, d := d, a := a, b := b, c := c, func := r.func, lit := r.lit } with
    | some i => .ok i (if r.lit.isSome then 20 else 12)
    | none => .illegal 4

/-! ## The base form (R151 to R153, R167, R168) -/

/-- Which file a base field names; `none` when the field is unused. -/
inductive File where
  | v | s | none
  deriving DecidableEq, Repr

/-- The literal of a base opcode: not allowed, allowed in place of B, required in place of B, a PC pair. -/
inductive BaseLit where
  | no | allowed | required | pcNoJoin | pcJoin
  deriving DecidableEq, Repr

/-- What R167 and R168 fix for a base opcode. -/
structure BaseRule where
  d : File
  a : File
  b : File
  lit : BaseLit
  modOk : Bool
  deriving DecidableEq, Repr

/-- The rule of an integer operation of OP7 `n` or `0x20 + n`, in file `f`. -/
def BaseRule.int (n mod : Nat) (f : File) : BaseRule :=
  match n with
  | 0x07 => { d := f, a := f, b := .none, lit := .no, modOk := mod % 2 = 0 }
  | 0x0B | 0x10 | 0x11 | 0x12 | 0x13 => { d := f, a := f, b := .none, lit := .no, modOk := true }
  | 0x14 => { d := f, a := .none, b := f, lit := .required, modOk := true }
  | _ => { d := f, a := f, b := f, lit := .allowed, modOk := true }

/-- The rule of a base opcode. -/
def BaseRule.of (op mod : Nat) : BaseRule :=
  let z : Bool := mod = 0
  let plain : BaseRule := { d := .none, a := .none, b := .none, lit := .no, modOk := z }
  if op < 0x20 then BaseRule.int op mod .v
  else if op < 0x3F then BaseRule.int (op - 0x20) mod .s
  else if op = 0x3F then plain
  else if op < 0x4C then { d := .v, a := .v, b := .v, lit := .allowed, modOk := z }
  else if op < 0x58 then { d := .s, a := .s, b := .s, lit := .allowed, modOk := z }
  else if op < 0x64 then { d := .none, a := .v, b := .v, lit := .allowed, modOk := true }
  else if op = 0x64 then { plain with modOk := true }
  else if op = 0x65 then { plain with d := .s }
  else if op = 0x66 then { plain with a := .s }
  else if op = 0x70 || op = 0x79 then { plain with lit := .pcNoJoin }
  else { plain with lit := .pcJoin, modOk := mod < 2 }

/-- Check 2 of R165 on a base word: names and last-use bits of unused fields, and of B beside a literal (R153). -/
def Bw.reserved (b : Bw) (u : BaseRule) : Bool :=
  (u.d = .none && b.d ≠ 0) || (u.a = .none && (b.a ≠ 0 || b.ua)) || (u.b = .none && (b.b ≠ 0 || b.ub))
    || (b.lit.isSome && (b.b ≠ 0 || b.ub)) || (u.lit = .required && (b.b ≠ 0 || b.ub))

/-- Check 3 of R165 on a base word (R153). -/
def Bw.badLen (b : Bw) (u : BaseRule) : Bool :=
  match u.lit with
  | .no => b.lit.isSome
  | .allowed => false
  | _ => b.lit.isNone

/-- Check 4 of R165 on a base word: a last-use bit on a scalar operand. -/
def Bw.badUse (b : Bw) (u : BaseRule) : Bool := (u.a = .s && b.ua) || (u.b = .s && b.ub)

/-- Check 6 of R165 on a base word. -/
def Bw.rcvOk (b : Bw) (u : BaseRule) : Bool :=
  match u.lit with
  | .pcJoin => litOk .pcJoin b.lit
  | .pcNoJoin => litOk .pcNoJoin b.lit
  | _ => true

/-- The checks of R165 on a base word, in their order, and the instruction. -/
def Bw.decode (op : Nat) (b : Bw) : Decoded :=
  if !assigned7 op then .illegal 0 else
  let u := BaseRule.of op b.mod.toNat
  if b.reserved u then .illegal 1 else
  if b.badLen u then .illegal 5 else
  if b.badUse u then .illegal 3 else
  if !u.modOk then .illegal 4 else
  if !b.rcvOk u then .illegal 2 else
  match baseOf op b with
  | some i => .ok i (if b.lit.isSome then 12 else 4)
  | none => .illegal 0

/-! ## Words -/

/-- Length in words that LEN of the first word fixes (R147). -/
def wordCount (w : W32) : Nat :=
  match (w.extractLsb' 30 2).toNat with
  | 0 => 1
  | 3 => 5
  | _ => 3

/-- The literal of two words, low word first (R147). -/
def litOf (lo hi : W32) : W64 := hi ++ lo

/-- The base word's fields (R151). -/
def Bw.ofWord (w : W32) (lit : Option W64) : Bw :=
  { s := w.getLsbD 29, d := w.extractLsb' 16 6, a := w.extractLsb' 10 6, b := w.extractLsb' 4 6, ua := w.getLsbD 3,
    ub := w.getLsbD 2, mod := w.extractLsb' 0 2, lit := lit }

/-- The extended form's fields (R154). -/
def Raw.ofWords (w0 w1 w2 : W32) (lit : Option W64) : Raw :=
  { s := w0.getLsbD 29, e := w0.getLsbD 28, op := w0.extractLsb' 18 10, la := w0.extractLsb' 14 4, gen := w0.getLsbD 13,
    gneg := w0.getLsbD 12, gdep := w0.extractLsb' 9 3, ula := w0.getLsbD 8, ulb := w0.getLsbD 7, ulc := w0.getLsbD 6,
    mod := w0.extractLsb' 0 6, d := w1.extractLsb' 21 11, a := w1.extractLsb' 10 11, cd := w1.extractLsb' 8 2,
    ca := w1.extractLsb' 6 2, cb := w1.extractLsb' 4 2, cc := w1.extractLsb' 2 2, rsv := w1.extractLsb' 0 2,
    b := w2.extractLsb' 21 11, c := w2.extractLsb' 10 11, func := w2.extractLsb' 0 10, lit := lit }

/-- Decodes the instruction at the head of a list of words (R147). -/
def decode : List W32 → Decoded
  | [] => .short
  | w0 :: ws =>
    let op7 := (w0.extractLsb' 22 7).toNat
    match (w0.extractLsb' 30 2).toNat, ws with
    | 0, _ => (Bw.ofWord w0 none).decode op7
    | 1, l0 :: l1 :: _ => (Bw.ofWord w0 (some (litOf l0 l1))).decode op7
    | 2, w1 :: w2 :: _ => (Raw.ofWords w0 w1 w2 none).decode
    | 3, w1 :: w2 :: l0 :: l1 :: _ => (Raw.ofWords w0 w1 w2 (some (litOf l0 l1))).decode
    | _, _ => .short

/-! ## Encoding -/

/-- One bit. -/
def bit (b : Bool) : BitVec 1 := BitVec.ofBool b

/-- The words of a literal, low word first. -/
def litWords : Option W64 → List W32
  | none => []
  | some l => [l.extractLsb' 0 32, l.extractLsb' 32 32]

/-- The base word (R151). -/
def Bw.word (op : BitVec 7) (b : Bw) : W32 :=
  (if b.lit.isSome then 1#2 else 0#2) ++ bit b.s ++ op ++ b.d ++ b.a ++ b.b ++ bit b.ua ++ bit b.ub ++ b.mod

/-- Word 0 of an extended form (R154). -/
def Op.word0 (op : BitVec 10) (x : Op) : W32 :=
  let g := x.grd.getD { neg := false, dep := 0 }
  (if x.lit.isSome then 3#2 else 2#2) ++ bit x.s ++ bit x.e ++ op ++ x.la ++ bit x.grd.isSome ++ bit g.neg ++ g.dep
    ++ bit x.ula ++ bit x.ulb ++ bit x.ulc ++ x.mod

/-- Word 1 of an extended form. -/
def Op.word1 (x : Op) : W32 :=
  x.d.nameBits ++ x.a.nameBits ++ x.d.classBits ++ x.a.classBits ++ x.b.classBits ++ x.c.classBits ++ 0#2

/-- Word 2 of an extended form. -/
def Op.word2 (x : Op) : W32 := x.b.nameBits ++ x.c.nameBits ++ x.func

/-- The words of a form; an event has none. -/
def Form.words : Form → List W32
  | .base op b => b.word op :: litWords b.lit
  | .ext op x => x.word0 op :: x.word1 :: x.word2 :: litWords x.lit
  | .event => []

/-- The words of an instruction, first word first. -/
def encode (i : Instr) : List W32 := i.form.words

/-- Length in bytes. -/
def Instr.len (i : Instr) : Nat := 4 * (encode i).length

/-- Bytes of a word, lowest address first (R6, R147). -/
def wordBytes (w : W32) : List Byte := [w.extractLsb' 0 8, w.extractLsb' 8 8, w.extractLsb' 16 8, w.extractLsb' 24 8]

/-- Words of a run of bytes, lowest address first. -/
def bytesWords : List Byte → List W32
  | b0 :: b1 :: b2 :: b3 :: r => (b3 ++ b2 ++ b1 ++ b0 : W32) :: bytesWords r
  | _ => []

/-- The first `n` words of a table word, numbered as the opcode table numbers bits: bit 0 is the least significant bit of the
first word, and a later word's bits count on from it. -/
def tableWords : Nat → Nat → List W32
  | 0, _ => []
  | n + 1, w => BitVec.ofNat 32 w :: tableWords n (w / 2 ^ 32)

/-- The bytes of a table word as memory holds them: twenty bytes, the longest instruction, zeros above `nbits`. -/
def tableBytes (nbits w : Nat) : List Byte := (tableWords 5 (w % 2 ^ nbits)).flatMap wordBytes

/-- The instruction the decoder reads from the bits `w` of a table row. -/
def decodeTableWord (nbits w : Nat) : Option Instr :=
  match decode (bytesWords (tableBytes nbits w)) with
  | .ok i _ => some i
  | _ => none

end Sys2Proof
end

