-- ==== Sys2Proof/Config.lean ====
section
/-! DEFINITION. What one Zelri fixes for itself and the values the manual leaves open. Each open value is an opaque constant:
nothing can be proved about which value it is. The free values are drawn at the counter `State.free`. -/

namespace Sys2Proof.Config

/-- An undefined value of R8: the value drawn at counter `n`, for item `i`. DESIGN CHOICE (log 4), safe: nothing constrains it. -/
opaque freeWord : Nat → Nat → W64

/-- An unspecified choice of R8 among finitely many outcomes: a number to be reduced by the place that chooses.
DESIGN CHOICE (log 4), safe. -/
opaque freeNat : Nat → Nat

/-- The value a transcendental unit delivers before the bound of R145 is applied: function, format (0 FP64, 1 FP32), operands.
DEDUCED (log 8): safe within the bound; that equal operands give equal results is unsafe should two units differ. -/
opaque approx : Nat → Nat → W64 → W64 → W64

/-- Bytes of a treelet's node format, which belongs to the builder (R300): scene counter and byte offset. DESIGN CHOICE (log 11), safe. -/
opaque nodeByte : Nat → Nat → Byte

/-- Treelets a builder cuts a hierarchy of `n` primitives into (R300), before the limits of the record are applied. DESIGN CHOICE
(log 11), safe. -/
opaque treelets : Nat → Nat

/-- Bytes of treelet `i` of a hierarchy of `n` primitives (R300), before the limits of the record are applied. DESIGN CHOICE (log 11),
safe. -/
opaque treeletSize : Nat → Nat → Nat

/-- The UALink port of a die that carries collective traffic to an accelerator, modulo 4: the fabric decides. DESIGN CHOICE (log 10),
safe. -/
opaque linkPort : Nat → Nat → Nat

end Sys2Proof.Config
end

