-- ==== Sys2Proof/Machine/State.lean ====
section
/-! DEFINITION. The state of a Zelri package as plain data (R1): memory, the interposer, four dies, their cores, the resident
warps with their units, workgroups, launches, and everything in progress (engine commands, sends, rays, copies, watches,
collectives). Every map lists only what differs from its default, and the default is the reset value. -/

namespace Sys2Proof.Machine

/-! ## Warps and their units -/

/-- The state of a name of the rename table (R56). A name the table does not list is Unmapped. -/
inductive RegSt where
  | mapped
  | deferred
  /-- In slot `slot` of the warp's spill area; `wasDef` records the Deferred mark. -/
  | spilled (slot : Nat) (wasDef : Bool)
  deriving DecidableEq, Repr

/-- An entry of the rename table (R56): its state and the contents of its physical register. -/
structure RegEnt where
  st  : RegSt
  val : Lanes
  deriving DecidableEq, Repr

/-- A register on the pending list (R56): its name, its contents, and the slot it was spilled to, if it was. `prior` marks a register
whose last use stands in an earlier region, the matrix engine having held it since (R118). -/
structure Pend where
  name  : Nat
  val   : Lanes
  slot  : Option Nat
  prior : Bool
  deriving DecidableEq, Repr

/-- A destination a result is written to. -/
inductive Dest where
  | v (n : Nat)
  | s (n : Nat)
  | w (n : Nat)
  deriving DecidableEq, Repr

/-- One outstanding result of a long-latency instruction (R24): its destinations, the lanes it writes, the values, and how
many further instructions may issue before the wait. `ready` is false while a queued operation has yet to produce it. -/
structure Look where
  id    : Nat
  left  : Nat
  lanes : W32
  dests : List (Dest × Lanes)
  ready : Bool
  /-- Destinations and lanes that a later instruction wrote inside the window (R25). -/
  wover : List (Dest × W32)
  /-- Sticky flags the instruction sets when its results are written (R136). -/
  flags : W32
  deriving DecidableEq, Repr

/-- What an instruction wants of a tile (R90): TCFG, TACQ, TREL, a read, an STT, a fill by an engine or drain, a COPYOUT. -/
inductive TileUse where
  | cfg | acq | rel | read | stt | fill | copyout
  deriving DecidableEq, Repr

/-- What a blocked unit waits for (R22, and the waits of R98, R285, R294, R306, R387). -/
inductive Wait where
  /-- Registers (R65): the names the reissue will write, and the order of entering the wait. -/
  | alloc (names : List Nat) (ord : Nat)
  /-- The tile of table entry `idx` of the unit's core, for a use of R90. -/
  | tile (idx : Nat) (u : TileUse)
  /-- Barrier `b` in phase `phase` (R205). -/
  | bar (b phase : Nat)
  /-- Group entry `e` (R206), with the count of completions at issue. -/
  | gbar (e epoch : Nat)
  /-- Watch entry `idx` of die `die`, armed by an instruction of `len` bytes (R208, R209). -/
  | watch (die idx len : Nat)
  /-- The batch of close number `close` (R295). -/
  | mwait (close : Nat)
  /-- CLK of the local die at which the sleep ends (R211). -/
  | sleep (clk : Nat)
  /-- A matrix queue slot (R285), or an earlier batch (R294). -/
  | matrix
  /-- Room in the relaunch pool of a die (R306). -/
  | pool (die : Nat)
  /-- Norem's write of an FMTCVT destination (R387). -/
  | emul
  deriving DecidableEq, Repr

/-- The scheduling state of a unit (R27). A unit waiting on its children stands in its split entry instead, and an exited
unit is removed; Parked belongs to the warp. -/
inductive USt where
  | ready | issuing | fusing | faulted
  | blocked (w : Wait)
  deriving DecidableEq, Repr

/-- How the stroke in progress will be reported by the trace (R411). -/
inductive StrokeEnd where
  | none
  | taken
  | notTaken
  | divergent (mask : W32) (div : Byte)
  | indirect (target : W64) (mask : W32) (div : Byte)
  | ended (mask : W32)
  | trap (cls : Nat)
  deriving DecidableEq, Repr

/-- A schedulable unit (R27): a warp, or a live sub-warp of one. -/
structure WUnit where
  /-- SUBID. -/
  sub     : Nat
  pc      : W64
  exec    : W32
  /-- The owned set of R53. -/
  owned   : W32
  st      : USt
  /-- The unit's entry in its core's split table (R16). -/
  entry   : Option Nat
  /-- Addresses of its serial records, innermost first (R18). -/
  serial  : List W64
  /-- PC of the entry of the current region (R383). -/
  rpc     : W64
  /-- The eight predicate depths at that entry (R386). -/
  ckpt    : List W32
  /-- The next instruction is a region entry, because the last one ended a region (R60). -/
  enters  : Bool
  /-- The region entry at `pc` has committed already, at its first issue (R60). -/
  entered : Bool
  /-- It has entered a region since the split that made it (R386). -/
  moved   : Bool
  /-- Wait in strokes (R23). -/
  wait    : Nat
  /-- Instructions issued in the stroke in progress (R20), and PC and EXEC at its start (R412). -/
  count   : Nat
  spc     : W64
  sexec   : W32
  /-- Outstanding results (R24). -/
  looks   : List Look
  /-- The w registers as the stroke sees them (R51). -/
  wview   : List W64
  /-- EXEC writes of the stroke, for XSET packets (R411): index and value. -/
  xsets   : List (Nat × W32)
  /-- Its last instruction was YIELD, and no boundary has passed it over since (R200). -/
  yielded : Bool
  /-- Held from its next stroke boundary on while a sibling runs a trap handler (R388). -/
  stopAt  : Bool
  deriving DecidableEq, Repr

/-- The shape of a tile as an operation captures it (R87, R89). -/
structure Shape where
  base   : Nat
  rows   : Nat
  cols   : Nat
  esz    : Nat
  layout : Nat
  pitch  : Nat
  deriving DecidableEq, Repr

/-- The opcodes of the matrix engine's queue. -/
inductive MKind where
  | mma | mmas | mmac | accld | accst | accz | mdrain
  deriving DecidableEq, Repr

/-- Where a queued matrix operation takes B from (R279, R280), or where a drain goes (R292). -/
inductive MSrc where
  | none
  | regs
  /-- Tile of core table entry `idx`, shape, first row, first column. -/
  | tile (idx : Nat) (sh : Shape) (k0 j0 : Nat)
  /-- Memory: the address of each lane's row. -/
  | mem (addr : Lanes)
  /-- Accumulator columns: first row and first column (R289). -/
  | acc (row col : Nat)
  deriving DecidableEq, Repr

/-- A translation that a drain to memory holds from its issue on (R292): virtual page, address of the frame, SCOPE, and address of the leaf
entry. -/
structure HeldPage where
  page  : Nat
  frame : Nat
  scope : Nat
  leaf  : Nat
  deriving DecidableEq, Repr

/-- A queued matrix operation (R285), with everything it captures at issue. -/
structure MOp where
  id     : Nat
  kind   : MKind
  /-- FMT, TYPE or DTYPE, and the container width of a narrow format. -/
  fmt    : Nat
  cont   : Nat
  rows   : W32
  row0   : Nat
  col0   : Nat
  /-- Rounding selection and FPCR in force (R132, R133). -/
  sel    : Nat
  fpcr   : W32
  /-- Joint width 1, 2 or 4, and the number of the joint operation among the warp's of that width (R286). -/
  joint  : Nat
  jseq   : Nat
  /-- A: the values of a register run, or MMAC's source. B: the values of a register run, or a tile. -/
  aRegs  : List Lanes
  aSrc   : MSrc
  bRegs  : List Lanes
  bSrc   : MSrc
  /-- Names read as A and as B, which the warp must not rewrite (R118). -/
  aNames : List Nat
  bNames : List Nat
  /-- Format words: the operation's own by lane, and the one B is decoded with. -/
  aw     : Lanes
  bw     : Nat
  /-- Where a drain goes; add-on-store; ATYPE. -/
  drain  : MSrc
  add    : Bool
  atype  : Nat
  /-- Registers held by the engine until its reads end (R118, R59). -/
  held   : List Pend
  /-- The lookahead entry an ACCST fills. -/
  look   : Option Nat
  /-- The format is outside the hardware subset, so Norem completes it (R141). -/
  emul   : Bool
  /-- Rows whose results are undefined, an operand of theirs having been rewritten between issue and MWAIT (R118); B has been rewritten
  so, which leaves every row of the joint operation undefined. -/
  spoilt : W32
  bSpoilt : Bool
  /-- Translations a drain to memory holds (R292). -/
  pages  : List HeldPage
  /-- The number of the warp's last OFENCE before the issue (R119). -/
  fence  : Nat
  /-- Performed, with the flags of its roundings (R136). -/
  done   : Bool
  flags  : W32
  /-- The close number of its batch; `none` while the batch is open. An ACCST joins none. -/
  batch  : Option Nat
  deriving DecidableEq, Repr

/-- A line of a warp's stack cache (R72): its four dwords, each absent, or held with a dirty mark. -/
structure SLine where
  words : List (Option (W64 × Bool))
  deriving DecidableEq, Repr

/-- A resident warp (R48). -/
structure Warp where
  /-- Launch sequence number (R9). -/
  lseq    : Nat
  /-- Handle of its workgroup, and its index in it (R55). -/
  wg      : Nat
  wgw     : Nat
  /-- Physical address of its context block (R390). -/
  block   : Nat
  regsMin : Nat
  regsMax : Nat
  /-- Rename table, pending list and new list (R56). -/
  names   : AMap Nat RegEnt
  pending : List Pend
  newList : List Nat
  /-- s0 to s127 (R48). -/
  sregs   : AMap Nat W64
  /-- p0 to p7, a lane mask for each depth (R52). -/
  preds   : List W32
  fpcr    : W32
  fpsr    : W32
  wstat   : W32
  stkptr  : W64
  stktop  : W64
  stklim  : W64
  traph   : W64
  trappc  : W64
  /-- Handler mode, and whether the grace of R44 is in use (R389). -/
  handler : Bool
  grace   : Bool
  /-- The limit in strokes that the watchdog applies now; 0 disables it (R43, R389). -/
  limit   : Nat
  /-- Stroke counter (R43). -/
  strokes : Nat
  /-- Region entries (R383). -/
  rcount  : W32
  /-- GETWORK calls (R217). -/
  gwcalls : Nat
  /-- Batches closed (R294), and the separate B format word (R290). -/
  closes  : Nat
  bfw     : W32
  bsep    : Bool
  /-- Queued matrix operations, oldest first; joint operations issued, by width 2 and 4. -/
  mops    : List MOp
  joint2  : Nat
  joint4  : Nat
  /-- Flags of batches that are complete in order are ORed already; the first close not yet complete (R294). -/
  batchLo : Nat
  /-- Batches before this close number have been waited on: an operand of theirs may be rewritten (R118). -/
  waited  : Nat
  /-- Number of the last OFENCE (R119, R296). -/
  fence   : Nat
  /-- Stack cache lines by address / 32 (R72). -/
  stack   : AMap Nat SLine
  units   : List WUnit
  /-- Helper lanes (R46), probe lanes (R319). -/
  helpers : W32
  probes  : W32
  parked  : Bool
  /-- Faulted (R385). -/
  faulted : Bool
  /-- Stopped, or stopping at the boundary of its stroke, for a debugger (R403). -/
  halted  : Bool
  /-- Started by the relaunch unit (R309). -/
  relaunched : Bool
  deriving DecidableEq, Repr

/-! ## Workgroups and launches -/

/-- One workgroup barrier (R205): its phase, the units that arrived in it, and the arrivals made by BARA. -/
structure Barrier where
  phase : Nat
  /-- Warp index and SUBID of each unit recorded in the phase. -/
  units : List (Nat × Nat)
  /-- Warp indices that have arrived in the phase. -/
  arrived : List Nat
  /-- Warp index and phase of each BARA arrival, with the SUBIDs whose BARW has used it. -/
  bara  : List (Nat × Nat × List Nat)
  deriving DecidableEq, Repr

/-- The pre-emption state of a workgroup (R393). -/
inductive Preempt where
  | running
  /-- Draining, with P at GO and the budget B. -/
  | draining (p b : Nat)
  | flushing
  | stopping
  deriving DecidableEq, Repr

/-- What a relaunched warp starts with (R309): its resume PC, its lanes, and its registers. -/
structure Seed where
  pc   : W64
  exec : W32
  regs : List (Nat × Lanes)
  deriving DecidableEq, Repr

/-- A workgroup on a core (R15). -/
structure Group where
  launch  : Nat
  lin     : Nat
  x : Nat
  y : Nat
  z : Nat
  /-- Global core index die × 48 + core. -/
  core    : Nat
  /-- Slot of each warp by index, `none` for one never started or ended. -/
  warps   : List (Option Nat)
  /-- Warp count. -/
  count   : Nat
  wregs   : List W64
  bars    : List Barrier
  /-- Group entries this workgroup's warps have arrived at: entry, warp index, SUBID (R206). -/
  garr    : List (Nat × Nat × Nat)
  /-- Group entries and warp indices that have arrived. -/
  garrived : List (Nat × Nat)
  scrBase : Nat
  scrSize : Nat
  tileBase : Nat
  tiles   : Nat
  accBase : Nat
  accRows : Nat
  /-- Neighbourhood number, member, columns, rows (R31); rows 0 when in none. -/
  nbK : Nat
  nbM : Nat
  nbW : Nat
  nbH : Nat
  /-- Cores of the neighbourhood's members in order (R30). -/
  nbCores : List Nat
  /-- Coverage level and whether the launch has coverage (R39). -/
  level   : Nat
  pre     : Preempt
  /-- Ends without fault records at the next stroke boundaries (R45). -/
  ending  : Bool
  relaunched : Bool
  /-- Of a relaunched warp, what it started with, should it be re-primed (R393). -/
  seed    : Option Seed
  deriving DecidableEq, Repr

/-- A split-table entry (R16). -/
structure Split where
  warp    : Nat
  parentEntry : Option Nat
  parentSub : Nat
  rpc     : W64
  exec    : W32
  /-- Union of the arrived children's EXEC, and of their owned sets. -/
  arrived : W32
  owned   : W32
  /-- Children that have neither arrived nor exited. -/
  left    : Nat
  /-- Children's SUBIDs: taken, not taken. -/
  taken   : Nat
  other   : Nat
  /-- Lookahead results the parent must wait for (R26), and the serial records it keeps. -/
  looks   : List Look
  serial  : List W64
  /-- What the parent resumes with: its region's entry PC and predicates, whether its next instruction enters a region, and whether it has
  entered one since the split above this one. -/
  regPc   : W64
  ckpt    : List W32
  enters  : Bool
  moved   : Bool
  anyArrived : Bool
  deriving DecidableEq, Repr

/-- A workgroup that was saved or re-primed (R393), with what its image does not hold: where it stood and its warps by slot. -/
structure Away where
  group  : Group
  warps  : List (Nat × Warp)
  splits : List (Nat × Split)
  /-- Its image was saved (KIND 1); else it was re-primed (KIND 2). -/
  saved  : Bool
  /-- Norem has asked for it back, and its place is reserved (R394). -/
  wanted : Bool
  deriving DecidableEq, Repr

/-- A launch in a die's launch table (R391), with what the front end captured beside its record. -/
structure Launch where
  die     : Nat
  lidx    : Nat
  qid     : Nat
  /-- Physical address of the QCB. -/
  qcb     : Nat
  vif     : Nat
  root    : Nat
  prio    : Nat
  slot    : Nat
  /-- The 32 dwords of the record. -/
  record  : List W64
  nextWg  : Nat
  live    : Nat
  status  : W64
  affmiss : Nat
  covcnt  : Nat
  cursor  : Bool
  /-- RTIME of the first dispatch (R363). -/
  started : Option Nat
  /-- Still in the slot: not every workgroup has been placed. -/
  placing : Bool
  timeout : Nat
  fbase   : W64
  flog2   : Nat
  ivec    : Nat
  /-- Group table lists (R357). -/
  groups  : List (List Nat)
  /-- Per group entry: completions so far. -/
  gdone   : List Nat
  /-- Workgroups that exited or were never dispatched (R33). -/
  gone    : List Nat
  /-- Listed workgroups already placed ahead (R34). -/
  placed  : List Nat
  /-- The coverage record's 8 dwords (R317). -/
  cov     : List W64
  /-- The relaunch table's 32 dwords (R305). -/
  relaunch : List W64
  /-- The die that R35 has assigned to the next workgroup, and whether the wait of 4,096 cycles for its home has passed. -/
  sent    : Option Nat
  moved   : Bool
  /-- CLK of that die when the next workgroup was first refused (R35, R360). -/
  refused : Option Nat
  /-- The core reserved under R360. -/
  reserve : Option Nat
  /-- Workgroups saved or re-primed and off the die. -/
  away    : List Away
  /-- Its workgroups end (R363, R377, R380). -/
  ending  : Bool
  /-- No record of its completion is written (R377). -/
  silent  : Bool
  /-- Its dependence has not passed yet (R362). -/
  waiting : Bool
  deriving DecidableEq, Repr

/-! ## Cores -/

/-- A tile table entry (R87). -/
structure Tile where
  shape   : Shape
  conf    : Bool
  state   : Nat
  gen     : Nat
  readers : Nat
  swfill  : Bool
  deriving DecidableEq, Repr

/-- A translation held by a TLB (R398): root frame, page, leaf entry and its address. A `large` one stands for the 32 pages of its run (R74). -/
structure TlbEnt where
  root : Nat
  page : Nat
  large : Bool
  pte  : W64
  addr : Nat
  deriving DecidableEq, Repr

/-- What the trace unit of a core keeps between packets (R411 to R413). -/
structure Trace where
  /-- TRCTL as latched at enable (R408). -/
  latched  : W64
  /-- Time of the last packet that carried one, and the quadrant of its stroke (R409). -/
  lastTime : Nat
  lastQuad : Nat
  lastSync : Option Nat
  /-- Units that need no USYNC: slot and SUBID. -/
  synced   : List (Nat × Nat)
  dropped  : Nat
  dropTime : Nat
  deriving DecidableEq, Repr

/-- A scratchpad element as it was before a write that the engine's operand staging may not show yet (R119): the count of handles at the
write, the element's number, the value before, and the slot of the warp that wrote it; `none` for a fill of a tile by an engine or drain. -/
structure Staged where
  seq  : Nat
  elem : Nat
  val  : W64
  who  : Option Nat
  deriving DecidableEq, Repr

/-- A core (R1). -/
structure Core where
  split   : AMap Nat Split
  tiles   : AMap Nat Tile
  /-- Tile entries, scratch units and accumulator blocks allocated: first and count. -/
  tileUse : List (Nat × Nat)
  scrUse  : List (Nat × Nat)
  accUse  : List (Nat × Nat)
  /-- Scratchpad bytes by offset (R84). -/
  scratch : List (Nat × Byte)
  /-- Accumulator cells by row × 64 + column (R91). -/
  acc     : AMap Nat W64
  /-- Copies held by the generic L1, constant, sampler and instruction caches (R79), by physical line. -/
  l1      : AMap Nat (List Byte)
  cc      : AMap Nat (List Byte)
  sc      : AMap Nat (List Byte)
  ic      : AMap Nat (List Byte)
  /-- Memory as it stood when each launch started on the core, which is all its fetches see (R82, R126). -/
  code    : AMap Nat (List Host.Cell)
  /-- What the matrix engine's staging may still hold of the scratchpad, oldest first (R119). -/
  staged  : List Staged
  tlb     : List TlbEnt
  regs    : AMap CoreReg W64
  trace   : Trace
  deriving DecidableEq, Repr

/-! ## Dies -/

/-- The front-end state of a slot (R359). -/
inductive SlotSt where
  | unloaded
  | idle
  | fetch
  | depend (launch : Nat)
  | dispatch (launch : Nat)
  deriving DecidableEq, Repr

/-- A hardware queue slot (R365): what it holds beside SLOTQ. -/
structure Slot where
  st     : SlotSt
  /-- The accepted shadow, bits 511:32 of the QCB as bytes (R351); `none` before any was accepted. -/
  shadow : Option (List Byte)
  /-- A reread is pending (R351). -/
  retry  : Bool
  rd     : W32
  /-- WR as last read (R352), and a kick that has arrived since then. -/
  wr     : W32
  kicked : Bool
  deriving DecidableEq, Repr

/-- A watch entry (R364). -/
structure Watch where
  cmp  : Nat
  w64  : Bool
  kind : Nat
  pa   : Nat
  mask : W64
  ref  : W64
  /-- The waiter as the entry names it. -/
  waiter : Nat
  /-- A value that passed has been seen; the entry fires (R124). -/
  fired : Bool
  deriving DecidableEq, Repr

/-- A debug command in progress (R403, R405, R406): units still to step, and the unit being stepped, whether its instruction has been
handed to the issue slot, and its split entry and the SUBID of that entry's parent. A halt has no unit to step. -/
structure DbgRun where
  all   : Bool
  slot  : Nat
  todo  : List Nat
  cur   : Option Nat
  issued : Bool
  entry : Option (Nat × Nat)
  steps : Nat
  status : Nat
  deriving DecidableEq, Repr

/-- The part Norem plays on a die (R368 to R370): a leader that has yet to make its repairs runs no tick. -/
inductive Role where
  | follower | taking | leader
  /-- It has hung in the middle of an update of a QCB, at a value of RTIME (R351, R369). -/
  | hung (since : Nat)
  deriving DecidableEq, Repr

/-- Reasons for which the hardware interrupts Norem beside the mailbox bits. -/
inductive NoremInt where
  | allocRing | returnRing | leaveRing | rejected
  deriving DecidableEq, Repr

/-- A die (R1). -/
structure Die where
  regs    : AMap DieReg W64
  slots   : AMap Nat Slot
  watches : AMap Nat Watch
  /-- Frames that wait for room or for reads before they enter the return ring (R97). -/
  frees   : List Nat
  /-- L2 TLB and walk cache (R398): the walk cache holds (root, level, upper index) and the entry. -/
  tlb     : List TlbEnt
  walks   : AMap (Nat × Nat × Nat) W64
  /-- Read-only copies of S lines (R80). -/
  sCopies : AMap Nat (List Byte)
  /-- Next launch sequence number (R9), and the slot served last (R360). -/
  nextSeq : Nat
  lastSlot : Nat
  /-- RTIME at which the clock stopped, and the frequency to restart at (R416). -/
  stall   : Option (Nat × Nat)
  /-- The die map (R424). -/
  map     : List Byte
  /-- A fatal error has ended the die (R380). -/
  failed  : Bool
  dbg     : Option DbgRun
  /-- Leave-ring entries that wait for room (R390, R393). -/
  leaving : List (List Byte)
  noremInts : List NoremInt
  role    : Role
  deriving DecidableEq, Repr

/-! ## Work in progress -/

/-- The fault area of a queue (R361): its QCB, address space, base and size, interface and number. -/
structure FaultArea where
  qcb   : Nat
  root  : Nat
  fbase : W64
  flog2 : Nat
  vif   : Nat
  qid   : Nat
  deriving DecidableEq, Repr

/-- A HALO send under way (R429): sender, receiving participant, TAG, landing offset, data. -/
structure HaloMsg where
  srcAcc : Nat
  srcDie : Nat
  dstAcc : Nat
  dstDie : Nat
  tag    : W32
  off    : W64
  data   : List Byte
  deriving DecidableEq, Repr

/-- An engine command (R270), with the captures of its issue. -/
structure EngCmd where
  kind   : Nat
  /-- Slot and SUBID of the unit that issued it, and whether its engine has started it. -/
  src    : Nat
  srcSub : Nat
  started : Bool
  /-- Die of the issuing warp, its launch, workgroup, launch sequence and WGID. -/
  die    : Nat
  launch : Nat
  wg     : Nat
  lseq   : Nat
  wgid   : Nat
  /-- The queue's fault area, and with it the interface and the address space. -/
  area   : FaultArea
  desc   : List W64
  x      : Nat
  y      : Nat
  /-- Completion record address C, and the ENGCMD's address. -/
  ctr    : W64
  fpc    : W64
  /-- The tile's core, table entry and shape for COPYIN and COPYOUT. -/
  tile   : Option (Nat × Nat × Shape)
  /-- RECON's record (R276). -/
  recon  : List W64
  /-- Pages done, pages counted under BADVER (R273); deliveries a HALO has received (R429). -/
  pages  : Nat
  bad    : Nat
  /-- COPYOUT has finished its reads; ALLRED or HALO has sent its data. -/
  readDone : Bool
  sent   : Bool
  /-- Bytes of the matrix or tile read so far by a copy, row by row; the ring or list of a collective. -/
  data   : List Byte
  /-- Bytes a collective has read of what it sends; the HALO send that is being written here. -/
  buf    : List Byte
  face   : Option HaloMsg
  /-- The points RECON has yet to read for: address, denominator, and weight and address of each source. -/
  plan   : List (W64 × Nat × List (Nat × W64))
  /-- Writes that are still to be made, each of one element (R103), and the status the command ends with once they are. -/
  todo   : List (W64 × List Byte)
  after  : Option (Nat × Nat × Nat)
  /-- The command's effects have ended with this STATUS: code (0 where it succeeded), subcode, DETAIL. -/
  status : Option (Nat × Nat × Nat)
  /-- Its interface was torn down (R377): no counter is incremented. -/
  dead   : Bool
  deriving DecidableEq, Repr

/-- A SEND block in flight (R269). -/
structure SendBlk where
  launch : Nat
  src    : Nat
  srcSub : Nat
  core   : Nat
  off    : Nat
  lanes  : W32
  data   : Lanes
  /-- Physical address of the counter, if any, with the page's scope. -/
  ctr    : Option W64
  root   : Nat
  die    : Nat
  deriving DecidableEq, Repr

/-- Who has a write waiting at a page that is being copied (R98): a link port of a die; a warp's unit, with the PC of its instruction while the
region that would replay it lasts; an engine command; the writer of fault records; or nobody that could still be told. -/
inductive Writer where
  | link (die port id : Nat)
  | unit (g sub : Nat) (pc : W64)
  | engine (id : Nat)
  | hardware
  deriving DecidableEq, Repr

/-- What a waiting write does to its item. -/
inductive LateOp where
  | bytes (bs : List Byte)
  /-- A reduction: operation, type, operand. -/
  | red (op ty : Nat) (v : W64)
  /-- An atomic: operation, type, comparison value, operand, and the outstanding result and lane that take the old value. -/
  | atom (op ty : Nat) (cmp v : W64) (look lane : Nat)
  /-- A fault record of a queue, placed when it is written (R361). -/
  | record (area : FaultArea) (bs : List Byte)
  deriving DecidableEq, Repr

/-- A write that waits at a page that is being copied (R98): its writer, the core or, with none, the die it comes from, the lane, the offset in the page. -/
structure LateWrite where
  who  : Writer
  core : Option Nat
  die  : Nat
  lane : Nat
  va   : W64
  off  : Nat
  op   : LateOp
  deriving DecidableEq, Repr

/-- A copy-on-write in progress, or waiting for a frame (R98). -/
structure Cow where
  /-- Physical address of the leaf entry, page record address, home die. -/
  pte    : Nat
  vrec   : Nat
  die    : Nat
  old    : Nat
  frame  : Option Nat
  /-- RTIME at which the ring was first found empty. -/
  empty  : Option Nat
  timedOut : Bool
  /-- The writes that wait here, in their order of arrival. -/
  late  : List LateWrite
  deriving DecidableEq, Repr

/-- A continuation record in a relaunch pool (R304). -/
structure Ray where
  launch : Nat
  /-- Pool die, and arrival order. -/
  die    : Nat
  order  : Nat
  /-- HDR, ORG, DIR, TMAX as eight words. -/
  hdr    : List W32
  live   : List W64
  /-- Ready, with the hit in the layout of D and D + 1. -/
  ready  : Bool
  hit    : Option (W64 × W64)
  /-- CLK of the die when it became ready there. -/
  stamp  : Nat
  deriving DecidableEq, Repr

/-- A directory entry (R423): state, owner, sharers, dies that hold partials. -/
inductive DirSt where
  | i | e | s | o | m | u
  deriving DecidableEq, Repr

structure DirEnt where
  st     : DirSt
  owner  : Nat
  sharers : List Nat
  deriving DecidableEq, Repr

/-- A partial of a U line (R116): die, item address, operation, type, value. -/
structure Partial where
  die  : Nat
  pa   : Nat
  op   : Nat
  ty   : Nat
  val  : W64
  deriving DecidableEq, Repr

/-- A registered queue (R350): its number and the physical address of its QCB. -/
structure Queue where
  qid : Nat
  qcb : Nat
  deriving DecidableEq, Repr

/-- A teardown in progress (R377): the steps done, and the completion address; none where VIFCFG.TEAR was written without one. -/
structure Teardown where
  vif  : Nat
  step : Nat
  addr : Option Nat
  deriving DecidableEq, Repr

/-- Status a mailbox command returned. -/
inductive MboxReply where
  | none | done | pkgOnly
  /-- What the watch-arm register answers, as WATCH does: 1 where the table is full, 0 otherwise (R208, R364). -/
  | watch (result : Nat)
  deriving DecidableEq, Repr

/-- A turn of the agenda: what acts next when the model is not to choose by itself. DESIGN CHOICE (log 1): the default choice is unsafe for a
claim about a whole run, an agenda is safe. -/
inductive Turn where
  /-- An event of the device. -/
  | event (i : Instr)
  /-- The unit whose instruction issues next: warp slot and SUBID. -/
  | focus (g sub : Nat)
  /-- Engine command `id` makes one transfer of its next; among the writes it may make, number `k` (R103, R122). -/
  | transfer (id k : Nat)
  /-- RTIME advances by `ns`. -/
  | tick (ns : Nat)
  /-- The leader's control core makes `n` more writes of updates of QCBs, six to an update, and hangs in the update that comes next (R351, R369). -/
  | cut (n : Nat)
  /-- A cache or TLB of a core or die drops what it holds of a line or page (R79, R398). -/
  | evict (core line : Nat)
  | evictTlb (die page : Nat)
  deriving DecidableEq, Repr

/-- The whole package. -/
structure State where
  /-- Physical memory (R75): strictly rising addresses, no zero byte. -/
  mem     : List Host.Cell
  /-- RTIME (R415). -/
  rtime   : Nat
  /-- The interposer's registers (R368, R373, R427). -/
  pkg     : AMap PkgReg W64
  dies    : AMap Nat Die
  /-- Cores by die × 48 + core. -/
  cores   : AMap Nat Core
  /-- Resident warps by global slot index (R358). -/
  warps   : AMap Nat Warp
  groups  : AMap Nat Group
  launches : AMap Nat Launch
  queues  : List Queue
  dir     : AMap Nat DirEnt
  partials : List Partial
  engines : AMap Nat EngCmd
  sends   : AMap Nat SendBlk
  cows    : AMap Nat Cow
  rays    : AMap Nat Ray
  /-- Contributions sent for a collective: tag, position, data (R428), and HALO sends under way (R429). -/
  allreds : List (W64 × Nat × List Byte)
  halos   : List HaloMsg
  /-- Collectives that lost a participant, as the others here have yet to learn. -/
  lost    : List Lost
  /-- Vendor-defined messages sent, oldest first: accelerator and message. -/
  outbox  : List (Nat × VMsg)
  /-- Responses to inbound link requests, oldest first: die, port, data or an error. -/
  replies : List (Nat × Nat × Option (List Byte))
  teardowns : List Teardown
  mailbox : MboxReply
  /-- A fatal error has ended every context; nothing launches until the package reset (R380). -/
  fatal   : Bool
  /-- Handles given out so far to workgroups, commands, sends, rays and operations. The model's own: DESIGN CHOICE (log 1), safe. -/
  handles : Nat
  /-- Ticks of Norem's mapping policy that have come, one for each millisecond of RTIME (R367). -/
  ticked  : Nat
  /-- The writes of updates of QCBs that the leader is still to make before its core hangs. The model's own: DESIGN CHOICE (log 1), safe. -/
  cut     : Option Nat
  /-- The unit whose instruction issues next: warp slot and SUBID. -/
  focus   : Option (Nat × Nat)
  agenda  : List Turn
  /-- The counter each free value is drawn at. It is the model's own field, not the spec's. DESIGN CHOICE (log 4), safe. -/
  free    : Nat
  deriving DecidableEq, Repr

/-- Why the machine stops: it has no such reason, because the spec gives every instruction and every event an effect. -/
inductive Fault where
  deriving DecidableEq, Repr

/-- Why an instruction has no meaning. -/
inductive Refusal where
  /-- Raised by an arm of `exec` for an instruction that has no meaning yet. Safe: nothing runs. -/
  | notModelled (mnemonic : String)
  deriving DecidableEq, Repr

/-! ## Defaults and reset values -/

namespace Reset

/-- A core after reset: nothing allocated, every store zero (R1, R408). -/
def core : Core :=
  { split := [], tiles := [], tileUse := [], scrUse := [], accUse := [], scratch := [], acc := [], l1 := [], cc := [],
    sc := [], ic := [], code := [], staged := [], tlb := [], regs := [], trace := { latched := 0, lastTime := 0, lastQuad := 0, lastSync := none, synced := [], dropped := 0, dropTime := 0 } }

/-- A slot after reset: unloaded (R359). -/
def slot : Slot := { st := .unloaded, shadow := none, retry := false, rd := 0, wr := 0, kicked := false }

/-- A die after reset. The die map is fixed at bring-up by fuses; with no core mapped out it is the identity (R424).
DESIGN CHOICE (log 3), unsafe: the map, the next sequence number and the slot served last. -/
def die : Die :=
  { regs := [], slots := [], watches := [], frees := [], tlb := [], walks := [], sCopies := [], nextSeq := 0, lastSlot := 0,
    stall := none, map := (List.range 48).map (fun l => BitVec.ofNat 8 l), failed := false, dbg := none, leaving := [], noremInts := [], role := .follower }

/-- Reset values of a die's registers (R99, R365, R390, R392, R400, R402, R408, R417, R430, R434): zero but for SLOTQ.IDLE,
DFREQ.TARGET and the frequency of an epoch. DESIGN CHOICE (log 3), unsafe, where the spec prints no value: DRSTREQ, DBGDATA and CTXREST. -/
def dieReg : DieReg → W64
  | .slotq _ => 1#64 <<< 14
  | .dfreq => 1400
  | .cepinfo _ => 1400
  | _ => 0

/-- Reset values of the interposer's registers: FVEC and LVEC are 0xFFFF (R373), the rest zero. -/
def pkgReg : PkgReg → W64
  | .vifcfg _ => 0x0000_FFFF_FFFF_0000
  | _ => 0

/-- A tile entry after reset: Empty and not configured (R87). -/
def tile : Tile :=
  { shape := { base := 0, rows := 0, cols := 0, esz := 0, layout := 0, pitch := 0 }, conf := false, state := 0, gen := 0,
    readers := 0, swfill := false }

end Reset

/-- The machine right after the package reset of power-on (R432, R434): nothing is resident, RTIME is 0, every register at
its reset value, memory all zero (bring-up writes zeros to every DRAM). DESIGN CHOICE (log 2), unsafe: system memory reads zero too. -/
def State.reset : State :=
  { mem := [], rtime := 0, pkg := [], dies := [], cores := [], warps := [], groups := [], launches := [], queues := [], dir := [],
    partials := [], engines := [], sends := [], cows := [], rays := [], allreds := [], halos := [], lost := [], outbox := [],
    replies := [], teardowns := [], mailbox := .none, fatal := false, handles := 0, ticked := 0, cut := none, focus := none, agenda := [], free := 0 }

end Sys2Proof.Machine
end

