-- ==== Sys2Proof/Machine/Store.lean ====
section
/-! DEFINITION. Bytes by address: the store physical memory and the scratchpads are made of, in one canonical form, and
little-endian items over it (R6). An unlisted address reads as zero. -/

namespace Sys2Proof.Machine

/-- A store of bytes: addresses strictly rising, no zero byte listed. -/
abbrev Store := List Host.Cell

/-- The byte at an address; an unlisted address reads as zero (R430's bring-up writes zeros). DESIGN CHOICE (log 2), unsafe for system memory. -/
def Store.get : Store → Nat → Byte
  | [], _ => 0
  | (a', b) :: m, a => if a' = a then b else if a < a' then 0 else Store.get m a

/-- Writes one byte; writing zero removes the entry. -/
def Store.set : Store → Nat → Byte → Store
  | [], a, b => if b = 0 then [] else [(a, b)]
  | (a', b') :: m, a, b =>
    if a' = a then (if b = 0 then m else (a, b) :: m)
    else if a < a' then (if b = 0 then (a', b') :: m else (a, b) :: (a', b') :: m)
    else (a', b') :: Store.set m a b

/-- The canonical form: addresses strictly rising from `lo`, no zero byte. -/
def Store.wfFrom : Store → Nat → Bool
  | [], _ => true
  | (a, b) :: m, lo => decide (lo ≤ a) && decide (b ≠ 0) && Store.wfFrom m (a + 1)

/-- The canonical form. -/
def Store.wf (m : Store) : Bool := m.wfFrom 0

/-- Writes bytes at rising addresses. -/
def Store.setBytes : Store → Nat → List Byte → Store
  | m, _, [] => m
  | m, a, b :: bs => Store.setBytes (m.set a b) (a + 1) bs

/-- `n` bytes from an address. -/
def Store.bytes (m : Store) (a n : Nat) : List Byte := (List.range n).map (fun i => m.get (a + i))

/-- The number of a little-endian run of bytes (R6). -/
def leNat : List Byte → Nat
  | [] => 0
  | b :: bs => b.toNat + 256 * leNat bs

/-- The `n` bytes of a number, little-endian (R6). -/
def leBytes : Nat → Nat → List Byte
  | 0, _ => []
  | n + 1, x => BitVec.ofNat 8 x :: leBytes n (x / 256)

/-- The `n`-byte item at an address. -/
def Store.item (m : Store) (a n : Nat) : Nat := leNat (m.bytes a n)

/-- Writes an `n`-byte item. -/
def Store.setItem (m : Store) (a n x : Nat) : Store := m.setBytes a (leBytes n x)

/-- Drops every byte of a range. -/
def Store.clear (m : Store) (a n : Nat) : Store := m.filter (fun c => c.1 < a || a + n ≤ c.1)

/-- The item of `n` bytes at offset `o` of a run of bytes. -/
def fieldN (bs : List Byte) (o n : Nat) : Nat := leNat ((bs.drop o).take n)

/-- The dwords of a run of bytes. -/
def dwords (bs : List Byte) : Nat → List W64
  | 0 => []
  | n + 1 => BitVec.ofNat 64 (fieldN bs 0 8) :: dwords (bs.drop 8) n

/-- Bits `h:l` of a record held as dwords, the bits numbered from bit 0 of the first (as R350 and R355 number them). -/
def recBits (r : List W64) (h l : Nat) : Nat :=
  let w0 := (r.getD (l / 64) 0).toNat
  let w1 := (r.getD (l / 64 + 1) 0).toNat
  bits (w0 + w1 * 2 ^ 64) (h - l / 64 * 64) (l % 64)

end Sys2Proof.Machine
end

