-- ==== Sys2Proof/Machine/Access.lean ====
section
/-! DEFINITION. Reading and writing the parts of the state: dies, cores, warps, units, workgroups and launches by their index, device
registers with their reset values, lane masks, the clocks of a die, and the physical registers a quadrant has left. -/

namespace Sys2Proof.Machine

/-- Outcomes of this machine. -/
abbrev Out := Host.Outcome State Fault Refusal

/-! ## Parts by index -/

def State.die (s : State) (d : Nat) : Die := s.dies.get Reset.die d
def State.setDie (s : State) (d : Nat) (v : Die) : State := { s with dies := s.dies.put d v }
def State.modDie (s : State) (d : Nat) (f : Die → Die) : State := s.setDie d (f (s.die d))

def State.core (s : State) (c : Nat) : Core := s.cores.get Reset.core c
def State.setCore (s : State) (c : Nat) (v : Core) : State := { s with cores := s.cores.put c v }
def State.modCore (s : State) (c : Nat) (f : Core → Core) : State := s.setCore c (f (s.core c))

def State.warp? (s : State) (g : Nat) : Option Warp := s.warps.find? g
def State.setWarp (s : State) (g : Nat) (w : Warp) : State := { s with warps := s.warps.put g w }
def State.modWarp (s : State) (g : Nat) (f : Warp → Warp) : State :=
  match s.warp? g with
  | some w => s.setWarp g (f w)
  | none => s

def State.group? (s : State) (k : Nat) : Option Group := s.groups.find? k
def State.setGroup (s : State) (k : Nat) (v : Group) : State := { s with groups := s.groups.put k v }
def State.modGroup (s : State) (k : Nat) (f : Group → Group) : State :=
  match s.group? k with
  | some v => s.setGroup k (f v)
  | none => s

def State.launch? (s : State) (k : Nat) : Option Launch := s.launches.find? k

/-- Key of launch-table entry `lidx` of die `d`. -/
def launchKey (d lidx : Nat) : Nat := d * 1024 + lidx

/-- The unit of a warp that holds a SUBID. -/
def unitOf : List WUnit → Nat → Option WUnit
  | [], _ => none
  | u :: us, sub => if u.sub = sub then some u else unitOf us sub

/-- Changes the unit of a SUBID. -/
def modUnitOf (us : List WUnit) (sub : Nat) (f : WUnit → WUnit) : List WUnit := us.map (fun u => if u.sub = sub then f u else u)

def State.unit? (s : State) (g sub : Nat) : Option WUnit := (s.warp? g).bind (fun w => unitOf w.units sub)
def State.modUnit (s : State) (g sub : Nat) (f : WUnit → WUnit) : State :=
  s.modWarp g (fun w => { w with units := modUnitOf w.units sub f })

/-- Every warp slot in use. -/
def State.warpIds (s : State) : List Nat := s.warps.map (·.1)

/-! ## Where a warp is (R55, R358) -/

/-- Die of a global warp slot. -/
def dieOf (g : Nat) : Nat := g / 6144
/-- Global core index of a warp slot. -/
def coreOf (g : Nat) : Nat := g / 128
/-- Die of a global core index. -/
def dieOfCore (c : Nat) : Nat := c / 48
/-- WARPID of a warp in slot `g` (R55). -/
def Warp.warpId (w : Warp) (g : Nat) : Nat := g % 128 + w.wgw * 2 ^ 8
/-- Global quadrant index of a warp slot: core × 4 + quadrant. -/
def quadOf (g : Nat) : Nat := g / 32

/-! ## Device registers -/

def State.dieReg (s : State) (d : Nat) (r : DieReg) : W64 := (s.die d).regs.get (Reset.dieReg r) r
def State.setDieReg (s : State) (d : Nat) (r : DieReg) (v : W64) : State :=
  s.modDie d (fun x => { x with regs := x.regs.put r v })
def State.coreReg (s : State) (c : Nat) (r : CoreReg) : W64 := (s.core c).regs.get 0 r
def State.setCoreReg (s : State) (c : Nat) (r : CoreReg) (v : W64) : State :=
  s.modCore c (fun x => { x with regs := x.regs.put r v })
def State.pkgReg (s : State) (r : PkgReg) : W64 := s.pkg.get (Reset.pkgReg r) r
def State.setPkgReg (s : State) (r : PkgReg) (v : W64) : State := { s with pkg := s.pkg.put r v }

/-- A field of a register. -/
def fld (x : W64) (h l : Nat) : Nat := bits x.toNat h l

/-- A register with one field replaced. -/
def setFld (x : W64) (h l v : Nat) : W64 :=
  let m : W64 := (BitVec.ofNat 64 (2 ^ (h + 1 - l) - 1)) <<< l
  (x &&& ~~~m) ||| ((BitVec.ofNat 64 v <<< l) &&& m)

/-! ## Lane masks -/

/-- The mask of the lanes that satisfy a test. -/
def maskOf (f : Nat → Bool) : W32 :=
  BitVec.ofNat 32 ((laneIds.map (fun l => if f l then 2 ^ l else 0)).foldl (· + ·) 0)

/-- Whether a lane is in a mask. -/
def inMask (m : W32) (l : Nat) : Bool := m.getLsbD l

/-- Lanes of a mask, ascending. -/
def lanesOf (m : W32) : List Nat := laneIds.filter (inMask m)

/-- Lowest lane of a mask. -/
def lowLane (m : W32) : Option Nat := laneIds.find? (inMask m)

/-- Number of lanes in a mask. -/
def popMask (m : W32) : Nat := (lanesOf m).length

/-! ## Free values (R8) -/

/-- The undefined value for item `i` at this point of the run. -/
def State.freeVal (s : State) (i : Nat) : W64 := Config.freeWord s.free i

/-- An unspecified choice among `n` outcomes at this point of the run. -/
def State.choice (s : State) (n : Nat) : Nat := Config.freeNat s.free % n

/-- Moves on to the next free value. -/
def State.tickFree (s : State) : State := { s with free := s.free + 1 }

/-- A new handle. -/
def State.newHandle (s : State) : Nat × State := (s.handles, { s with handles := s.handles + 1 })

/-! ## Clocks (R415 to R418) -/

/-- The latest epoch of a die: RTIME, CLK and frequency. -/
def State.epoch (s : State) (d : Nat) : Nat × Nat × Nat :=
  let n := (s.dieReg d .ceseq).toNat % 4
  ((s.dieReg d (.ceprt n)).toNat, (s.dieReg d (.cepclk n)).toNat, fld (s.dieReg d (.cepinfo n)) 11 0)

/-- CLK of a die; it holds its value while the clock is stopped. -/
def State.clk (s : State) (d : Nat) : Nat :=
  let (rt, ck, f) := s.epoch d
  let now := match (s.die d).stall with
    | some (t, _) => min s.rtime t
    | none => s.rtime
  (ck + (now - rt) * f / 1000) % 2 ^ 64

/-! ## Physical registers of a quadrant (R58, R65) -/

/-- Whether an entry holds a physical register. -/
def RegEnt.held (e : RegEnt) : Bool :=
  match e.st with
  | .mapped | .deferred => true
  | .spilled _ _ => false

/-- Registers the matrix engine still holds for a warp (R118). -/
def Warp.engineHeld (w : Warp) : Nat := (w.mops.map (fun o => o.held.length)).foldl (· + ·) 0

/-- The held count (R58, R328): mapped and deferred entries, the pending list, and registers that await engine reads. -/
def Warp.held (w : Warp) : Nat :=
  (w.names.filter (fun p => p.2.held)).length + (w.pending.filter (fun p => p.slot.isNone)).length + w.engineHeld

/-- The engine's reads of last-used registers end: they go onto the pending list (R118). -/
def Warp.endReads (w : Warp) : Warp :=
  { w with pending := w.pending ++ w.mops.flatMap (fun o => o.held), mops := w.mops.map (fun o => { o with held := [] }) }

/-- Warps of a quadrant. -/
def State.quadWarps (s : State) (q : Nat) : List (Nat × Warp) := s.warps.filter (fun p => quadOf p.1 = q)

/-- Free registers of a quadrant pool of 1,536. -/
def State.poolFree (s : State) (q : Nat) : Nat := 1536 - ((s.quadWarps q).map (fun p => p.2.held)).foldl (· + ·) 0

/-- Spilled registers a parked warp asks back (R67). -/
def Warp.spilled (w : Warp) : Nat :=
  (w.names.filter (fun p => !p.2.held)).length + (w.pending.filter (fun p => p.slot.isSome)).length

/-- Registers a unit in an allocation wait asks for. -/
def WUnit.request (w : Warp) (u : WUnit) : Nat :=
  match u.st with
  | .blocked (.alloc ns _) => (ns.filter (fun n => (w.names.find? n).isNone)).eraseDups.length
  | _ => 0

/-- The order in which a unit entered its allocation wait. -/
def WUnit.askOrder (u : WUnit) : Nat :=
  match u.st with
  | .blocked (.alloc _ o) => o
  | _ => 0

/-- A unit in an allocation wait. -/
def WUnit.asks (u : WUnit) : Bool :=
  match u.st with
  | .blocked (.alloc _ _) => true
  | _ => false

/-- A debugger is stepping a unit of the warp in slot `g` (R405). -/
def State.stepped (s : State) (g : Nat) : Bool := (s.die (dieOf g)).dbg.any (fun r => r.slot = g && r.cur.isSome)

/-- The requests that wait in a quadrant: slot, SUBID (none for a parked warp), age and registers (R65). The age is the launch
sequence, then, among units of one warp, the order of entering the wait. A stopped warp asks to be reloaded when it is stepped (R403). -/
def State.requests (s : State) (q : Nat) : List (Nat × Option Nat × (Nat × Nat) × Nat) :=
  (s.quadWarps q).flatMap (fun p =>
    if p.2.parked then (if p.2.halted && !s.stepped p.1 then [] else [(p.1, none, (p.2.lseq, 0), p.2.spilled)])
    else (p.2.units.filter WUnit.asks).map (fun u => (p.1, some u.sub, (p.2.lseq, u.askOrder), u.request p.2)))

/-- One age before another. -/
def olderThan (a b : Nat × Nat) : Bool := a.1 < b.1 || (a.1 = b.1 && a.2 < b.2)

/-- Whether a request of `n` registers of age `a` can be granted now: the pool holds it and, beside it, every older request that
waits (R65). -/
def State.grantable (s : State) (q : Nat) (a : Nat × Nat) (n : Nat) : Bool :=
  let older := ((s.requests q).filter (fun r => olderThan r.2.2.1 a)).map (fun r => r.2.2.2)
  n + older.foldl (· + ·) 0 ≤ s.poolFree q

end Sys2Proof.Machine
end

