-- ==== Sys2Proof/Machine/Float.lean ====
section
/-! DEFINITION. Numbers and rounding: the IEEE formats of R129, the exact value of a pattern, one rounding of an exact value (R130),
NaN rules (R131), the BF16 flush (R132), and the narrow family of R138 to R141. Values are exact: a sign, a whole mantissa
and a power of two. -/

namespace Sys2Proof.Machine

/-! ## FPSR flags (R135) -/

def flIO : W32 := 1
def flDZ : W32 := 2
def flOF : W32 := 4
def flUF : W32 := 8
def flIX : W32 := 16
def flSAT : W32 := 32

/-- A flag where a condition holds. -/
def flagIf (c : Bool) (f : W32) : W32 := if c then f else 0

/-- Rounding modes by FPCR.RM's codes (R134). -/
inductive Rnd where
  | rne | rtz | rup | rdn
  deriving DecidableEq, Repr

/-- The mode of a code: FPCR.RM, and MOD 1:0 where MOD bit 2 is set (R133, R134). -/
def Rnd.ofCode (n : Nat) : Rnd :=
  match n % 4 with
  | 0 => .rne
  | 1 => .rtz
  | 2 => .rup
  | _ => .rdn

/-- The mode in force for an instruction: its selection, or FPCR.RM (R133). -/
def Rnd.select (sel : Nat) (fpcr : W32) : Rnd := Rnd.ofCode (if sel % 8 = 0 then fpcr.toNat else sel)

/-- FPCR.BFFZ. -/
def bffz (fpcr : W32) : Bool := fpcr.getLsbD 2

/-! ## Formats -/

/-- A binary format: exponent and fraction widths. -/
structure FFmt where
  eb : Nat
  fb : Nat
  deriving DecidableEq, Repr

/-- The formats of R129 by format code. -/
def ffmt (code : Nat) : FFmt :=
  match code with
  | 0 => { eb := 11, fb := 52 }
  | 1 => { eb := 8, fb := 23 }
  | 2 => { eb := 5, fb := 10 }
  | _ => { eb := 8, fb := 7 }

namespace FFmt

def width (f : FFmt) : Nat := 1 + f.eb + f.fb
def bias (f : FFmt) : Nat := 2 ^ (f.eb - 1) - 1
def emin (f : FFmt) : Int := 1 - (f.bias : Int)
def emax (f : FFmt) : Int := f.bias
/-- Exponent field of all ones, in place. -/
def infBits (f : FFmt) : Nat := (2 ^ f.eb - 1) * 2 ^ f.fb
/-- The canonical quiet NaN (R129). -/
def qnan (f : FFmt) : Nat := f.infBits + 2 ^ (f.fb - 1)
/-- The sign bit. -/
def signBit (f : FFmt) : Nat := 2 ^ (f.eb + f.fb)
/-- The largest finite magnitude. -/
def maxBits (f : FFmt) : Nat := f.infBits - 1

end FFmt

/-- The value of a pattern: a NaN (signalling or not), an infinity, or (−1)^neg × m × 2^e. -/
inductive FVal where
  | nan (sig : Bool)
  | inf (neg : Bool)
  | fin (neg : Bool) (m : Nat) (e : Int)
  deriving DecidableEq, Repr

/-- The value of a pattern of a format (R129). -/
def FFmt.decode (f : FFmt) (x : Nat) : FVal :=
  let neg := x.testBit (f.eb + f.fb)
  let e := bits x (f.eb + f.fb - 1) f.fb
  let m := x % 2 ^ f.fb
  if e = 2 ^ f.eb - 1 then (if m = 0 then .inf neg else .nan (!x.testBit (f.fb - 1)))
  else if e = 0 then .fin neg m (f.emin - f.fb)
  else .fin neg (2 ^ f.fb + m) ((e : Int) - f.bias - f.fb)

/-- A pattern with its sign. -/
def FFmt.signed (f : FFmt) (neg : Bool) (mag : Nat) : Nat := mag + (if neg then f.signBit else 0)

/-- BF16 patterns read as zero when subnormal and flushing is on (R132). -/
def flushIn (code : Nat) (fz : Bool) (x : Nat) : Nat :=
  if code = 3 && fz && bits x 14 7 = 0 then x / 2 ^ 15 % 2 * 2 ^ 15 else x

/-- The value of an operand of a format code, BF16 flushed as FPCR says (R127, R132). -/
def fval (code : Nat) (fz : Bool) (x : Nat) : FVal := (ffmt code).decode (flushIn code fz (x % 2 ^ (ffmt code).width))

/-! ## One rounding -/

/-- A mantissa rounded to a place: the mantissa, the exponent of its last bit, whether anything was lost, whether the result is
tiny after rounding (R130). -/
structure Rounded where
  m  : Nat
  q  : Int
  inexact : Bool
  tiny : Bool
  deriving DecidableEq, Repr

/-- Whether a discarded part rounds away from zero: `r` of `2^sh`, with more below when `st` (R130). -/
def roundsUp (md : Rnd) (neg : Bool) (odd : Bool) (r sh : Nat) (st : Bool) : Bool :=
  match md with
  | .rne => if sh = 0 then false else 2 ^ (sh - 1) < r || (r = 2 ^ (sh - 1) && (st || odd))
  | .rtz => false
  | .rup => !neg && (r ≠ 0 || st)
  | .rdn => neg && (r ≠ 0 || st)

/-- Rounds m × 2^e at the place 2^q. -/
def roundAt (md : Rnd) (neg : Bool) (m : Nat) (e q : Int) (st : Bool) : Nat × Bool :=
  if q ≤ e then (m * 2 ^ (e - q).toNat + (if roundsUp md neg false (if st then 1 else 0) 2 false then 1 else 0), st)
  else
    let sh := (q - e).toNat
    let k := m / 2 ^ sh
    let r := m % 2 ^ sh
    (k + (if roundsUp md neg (k % 2 = 1) r sh st then 1 else 0), r ≠ 0 || st)

/-- Rounds m × 2^e, m > 0, to `fb` fraction bits with least normal exponent `emin`; `st` says that a nonzero part below m's last
bit was dropped, which needs m to have at least fb + 3 bits. -/
def roundPlace (fb : Nat) (emin : Int) (md : Rnd) (neg : Bool) (m : Nat) (e : Int) (st : Bool) : Rounded :=
  let top := (Nat.log2 m : Int) + e
  let q := max (top - fb) (emin - fb)
  let (k, ix) := roundAt md neg m e q st
  let (free, _) := roundAt md neg m e (top - fb) st
  let tiny := top < emin && !(top = emin - 1 && free = 2 ^ (fb + 1))
  if k = 2 ^ (fb + 1) then { m := 2 ^ fb, q := q + 1, inexact := ix, tiny := tiny }
  else { m := k, q := q, inexact := ix, tiny := tiny }

/-- The result of an overflow (R130): an infinity, or the largest finite value in the direction of the mode. -/
def FFmt.overflow (f : FFmt) (md : Rnd) (neg : Bool) : Nat :=
  let toInf : Bool := match md with
    | .rne => true
    | .rtz => false
    | .rup => !neg
    | .rdn => neg
  f.signed neg (if toInf then f.infBits else f.maxBits)

/-- Rounds a nonzero exact value to a format, with its flags; `fz` flushes a BF16 subnormal result (R130, R132). -/
def FFmt.round (f : FFmt) (fz : Bool) (md : Rnd) (neg : Bool) (m : Nat) (e : Int) (st : Bool) : Nat × W32 :=
  let r := roundPlace f.fb f.emin md neg m e st
  if r.m = 0 then (f.signed neg 0, flIX ||| flUF)
  else if f.emax < (Nat.log2 r.m : Int) + r.q then (f.overflow md neg, flOF ||| flIX)
  else
    let mag := if r.m < 2 ^ f.fb then r.m else (r.q + f.fb + f.bias).toNat * 2 ^ f.fb + (r.m - 2 ^ f.fb)
    if fz && mag < 2 ^ f.fb then (f.signed neg 0, flUF ||| flIX)
    else (f.signed neg mag, flagIf r.inexact flIX ||| flagIf (r.tiny && r.inexact) flUF)

/-- Whether flushing applies to a format code. -/
def fzFor (code : Nat) (fz : Bool) : Bool := code = 3 && fz

/-- Rounds a value that is not a NaN. -/
def roundVal (code : Nat) (fz : Bool) (md : Rnd) : FVal → Nat × W32
  | .nan s => ((ffmt code).qnan, flagIf s flIO)
  | .inf n => ((ffmt code).signed n (ffmt code).infBits, 0)
  | .fin n m e => if m = 0 then ((ffmt code).signed n 0, 0) else (ffmt code).round (fzFor code fz) md n m e false

/-! ## Exact sums and products -/

/-- A signed exact value: i × 2^e. -/
def FVal.int : FVal → Int × Int
  | .fin n m e => (if n then -(m : Int) else m, e)
  | _ => (0, 0)

/-- Exact sum of two dyadics. -/
def dyAdd (a b : Int × Int) : Int × Int :=
  if a.1 = 0 then b
  else if b.1 = 0 then a
  else
    let e := min a.2 b.2
    (a.1 * 2 ^ (a.2 - e).toNat + b.1 * 2 ^ (b.2 - e).toNat, e)

/-- Exact product of two values; 0 × ∞ is a NaN that sets IO (R131). -/
def FVal.mul : FVal → FVal → FVal
  | .nan s, .nan t => .nan (s || t)
  | .nan s, _ => .nan s
  | _, .nan t => .nan t
  | .inf n, .inf k => .inf (n != k)
  | .inf n, .fin k m _ => if m = 0 then .nan true else .inf (n != k)
  | .fin n m _, .inf k => if m = 0 then .nan true else .inf (n != k)
  | .fin n m e, .fin k p f => .fin (n != k) (m * p) (e + f)

/-- Negation acts on the sign alone (R229). -/
def FVal.neg : FVal → FVal
  | .nan s => .nan s
  | .inf n => .inf (!n)
  | .fin n m e => .fin (!n) m e

def FVal.isNan : FVal → Bool
  | .nan _ => true
  | _ => false

/-- Sign of an exact zero sum (R130): −0 when every addend is −0, +0 when every addend is +0, else by the mode. -/
def zeroSign (md : Rnd) (ts : List FVal) : Bool :=
  let isZ (n : Bool) : FVal → Bool := fun t => match t with
    | .fin k m _ => k == n && m = 0
    | _ => false
  if ts.all (isZ true) then true
  else if ts.all (isZ false) then false
  else md = .rdn

/-- The exact sum of the addends, or the NaN or infinity they make (R130, R131). Infinities of both signs beside a quiet NaN set IO, as R131
says of ∞ − ∞ in any addition; the comment in R143 would set none. DEDUCED (log 23), unsafe. -/
def sumVals (md : Rnd) (ts : List FVal) : FVal :=
  let hasInf (n : Bool) : Bool := ts.any (fun t => t = .inf n)
  if ts.any FVal.isNan then .nan (ts.any (fun t => t = .nan true) || (hasInf true && hasInf false))
  else if hasInf true && hasInf false then .nan true
  else if hasInf true then .inf true
  else if hasInf false then .inf false
  else
    let x := ts.foldl (fun acc t => dyAdd acc t.int) (0, 0)
    if x.1 = 0 then .fin (zeroSign md ts) 0 0 else .fin (x.1 < 0) x.1.natAbs x.2

/-- The sum of the addends, rounded once. -/
def sumRound (code : Nat) (fz : Bool) (md : Rnd) (ts : List FVal) : Nat × W32 :=
  roundVal code fz md (sumVals md ts)

/-- Addition of two patterns (R130, R131). -/
def fadd (code : Nat) (fz : Bool) (md : Rnd) (a b : Nat) : Nat × W32 := sumRound code fz md [fval code fz a, fval code fz b]

/-! ## Comparison, minimum and maximum -/

/-- Order key of a pattern that is not a NaN: −0 and +0 are equal. -/
def FFmt.key (f : FFmt) (x : Nat) : Int :=
  let mag : Int := ((x % f.signBit : Nat) : Int)
  if x.testBit (f.eb + f.fb) then -mag else mag

/-- Order key in which −0 < +0 (R231). -/
def FFmt.keyZ (f : FFmt) (x : Nat) : Int :=
  let mag : Int := ((x % f.signBit : Nat) : Int)
  if x.testBit (f.eb + f.fb) then -mag - 1 else mag

/-- FMIN and FMAX of two patterns (R231). -/
def fminmax (code : Nat) (isMax : Bool) (a b : Nat) : Nat × W32 :=
  let f := ffmt code
  let va := f.decode a
  let vb := f.decode b
  let fl := flagIf (va = .nan true || vb = .nan true) flIO
  let out :=
    if va.isNan && vb.isNan then f.qnan
    else if va.isNan then b
    else if vb.isNan then a
    else if isMax then (if f.keyZ a < f.keyZ b then b else a)
    else (if f.keyZ b < f.keyZ a then b else a)
  (out, fl)

/-! ## Roots and quotients, as integers with a sticky bit -/

/-- Whole square root by bits, from bit `n` down: the largest r with r² ≤ x whose bits above n are `acc`. -/
def isqrtFrom (x : Nat) : Nat → Nat → Nat
  | 0, acc => if (acc + 1) * (acc + 1) ≤ x then acc + 1 else acc
  | n + 1, acc => let t := acc + 2 ^ (n + 1); isqrtFrom x n (if t * t ≤ x then t else acc)

/-- Whole square root. -/
def isqrt (x : Nat) : Nat := isqrtFrom x (Nat.log2 x / 2 + 1) 0

/-- Square root of m × 2^e, m > 0: mantissa, exponent, whether a part was dropped; `prec` bits at least. -/
def sqrtDy (prec m : Nat) (e : Int) : Nat × Int × Bool :=
  let k0 := 2 * prec + 2
  let k := if (e - k0) % 2 = 0 then k0 else k0 + 1
  let x := m * 2 ^ k
  let r := isqrt x
  (r, (e - k) / 2, r * r ≠ x)

/-- Quotient of two mantissas: mantissa, exponent, whether a part was dropped; `prec` bits at least. -/
def divDy (prec m : Nat) (e : Int) (n : Nat) (f : Int) : Nat × Int × Bool :=
  let k := prec + Nat.log2 n + 2
  let x := m * 2 ^ k
  (x / n, e - k - f, x % n ≠ 0)

/-! ## The narrow family (R138 to R141) -/

/-- The fields of a format word (R138). -/
structure FWord where
  e : Nat
  m : Nat
  s : Nat
  bias : Int
  policy : Nat
  scale : Int
  rsv : Bool
  deriving DecidableEq, Repr

def FWord.ofBits (x : Nat) : FWord :=
  { e := bits x 2 0, m := bits x 5 3, s := bits x 6 6, bias := sextN (bits x 15 8) 8, policy := bits x 17 16,
    scale := sextN (bits x 25 18) 8, rsv := bits x 7 7 ≠ 0 || bits x 31 26 ≠ 0 }

namespace FWord

/-- Element width. -/
def n (w : FWord) : Nat := w.s + w.e + w.m

/-- A valid word (R139). -/
def valid (w : FWord) : Bool := !w.rsv && w.policy ≠ 3 && 1 ≤ w.e && w.n ≤ 8 && (w.policy ≠ 0 || 1 ≤ w.m)

/-- Container width (R139). -/
def box (w : FWord) : Nat := if w.n ≤ 4 then 4 else 8

/-- A word the hardware computes (R141). -/
def native (w : FWord) : Bool := w.s = 1 && 2 ≤ w.e && w.e ≤ 5 && w.m ≤ 5 && w.e + w.m + 1 ≤ 8

def top (w : FWord) : Nat := 2 ^ w.e - 1

/-- The value of a code (R140). -/
def decode (w : FWord) (c : Nat) : FVal :=
  let c := c % 2 ^ w.n
  let neg := w.s = 1 && c.testBit (w.n - 1)
  let e := bits c (w.m + w.e - 1) w.m
  let m := c % 2 ^ w.m
  if w.policy = 1 && neg && e = 0 && m = 0 then .nan false
  else if w.policy = 0 && e = w.top then (if m = 0 then .inf neg else .nan false)
  else if e = 0 then .fin neg m (1 - w.bias - w.m + w.scale)
  else .fin neg (2 ^ w.m + m) ((e : Int) - w.bias - w.m + w.scale)

/-- The code of a sign and a magnitude. -/
def code (w : FWord) (neg : Bool) (mag : Nat) : Nat := mag + (if neg && w.s = 1 then 2 ^ (w.n - 1) else 0)

/-- Magnitude code of the largest finite value: below the top exponent under policy 00, every code otherwise. -/
def maxMag (w : FWord) : Nat := if w.policy = 0 then w.top * 2 ^ w.m - 1 else 2 ^ (w.e + w.m) - 1

/-- The code of a sign and a magnitude, where the format has the sign. -/
def signedCode (w : FWord) (neg : Bool) (mag : Nat) : Option Nat := if neg && w.s = 0 then none else some (w.code neg mag)

/-- Converts a value into the format (R140). `none` where the spec states no code: a negative result, or a NaN under policy 01,
in a format without a sign bit: a free value there, DESIGN CHOICE (log 13), safe. An RNE tie in a format without mantissa bits, where both
neighbours have the one significand 1 and R140 calls neither even, goes to the larger magnitude: DESIGN CHOICE (log 13), unsafe. -/
def encode (w : FWord) (md : Rnd) (v : FVal) : Option Nat × W32 :=
  let zero (neg : Bool) : Nat := if w.policy = 1 then 0 else w.code neg 0
  match v with
  | .nan sig =>
    match w.policy with
    | 0 => (some (w.top * 2 ^ w.m + 2 ^ (w.m - 1)), flagIf sig flIO)
    | 1 => (if w.s = 1 then some (2 ^ (w.n - 1)) else none, flagIf sig flIO)
    | _ => (some 0, flIO ||| flSAT)
  | .inf neg =>
    if w.policy = 0 then (w.signedCode neg (w.top * 2 ^ w.m), 0) else (w.signedCode neg w.maxMag, flSAT ||| flIX)
  | .fin neg m e =>
    if m = 0 then (some (zero neg), 0)
    else
      let r := roundPlace w.m (1 - w.bias) md neg m (e - w.scale) false
      let fl := flagIf r.inexact flIX ||| flagIf (r.tiny && r.inexact) flUF
      let mag := if r.m < 2 ^ w.m then r.m else (r.q + w.m + w.bias).toNat * 2 ^ w.m + (r.m - 2 ^ w.m)
      if r.m = 0 then (some (zero neg), fl)
      else if w.maxMag < mag then
        let toInf : Bool := match md with
          | .rne => true
          | .rtz => false
          | .rup => !neg
          | .rdn => neg
        if w.policy = 0 then (w.signedCode neg (if toInf then w.top * 2 ^ w.m else w.maxMag), flOF ||| flIX)
        else (w.signedCode neg w.maxMag, flOF ||| flIX ||| flSAT)
      else (w.signedCode neg mag, fl)

end FWord

end Sys2Proof.Machine
end

