-- ==== Sys2Proof/Machine/Mem.lean ====
section
/-! DEFINITION. Memory: physical reads and writes with the watch tables (R124, R364), the inter-die directory and state U (R115 to
R117, R423), translation (R74 to R78, R398 to R400), the cached paths (R79 to R83), the scratchpad window (R30, R84) and the
operations of atomics and reductions (R257 to R259). -/

namespace Sys2Proof.Machine

/-! ## Physical memory and the watch table -/

/-- `compare` of R208 on a word of `w` bits already masked. -/
def watchPass (cmp : Nat) (w : Nat) (x mask ref : Nat) : Bool :=
  let v := x &&& mask
  match cmp with
  | 0 => v = ref
  | 1 => v ≠ ref
  | 2 => decide (sextN ref w ≤ sextN v w)
  | 3 => decide (sextN v w < sextN ref w)
  | 4 => decide (ref ≤ v)
  | 5 => decide (v < ref)
  | _ => v = mask

/-- Bytes of a watched word. -/
def Watch.size (w : Watch) : Nat := if w.w64 then 8 else 4

/-- Marks every armed entry whose word was touched and whose value now passes (R124). -/
def Watch.see (w : Watch) (m : Store) (pa n : Nat) : Watch :=
  if w.pa < pa + n && pa < w.pa + w.size && watchPass w.cmp (8 * w.size) (m.item w.pa w.size) w.mask.toNat w.ref.toNat
  then { w with fired := true } else w

/-- Lets the watch tables see the value memory now holds in a range. -/
def State.seeWatches (s : State) (pa n : Nat) : State :=
  { s with dies := s.dies.map (fun p => (p.1, { p.2 with watches := p.2.watches.map (fun e => (e.1, e.2.see s.mem pa n)) })) }

/-- Whether a physical address lies in the hole (R75). -/
def inHole (pa : Nat) : Bool := 0x0100_0000_0000 ≤ pa && pa < 0x8000_0000_0000

/-- Writes bytes at a physical address: one write in coherence order for each item (R105). Nothing stands in the hole: a write there, by an agent
whose table Norem has placed in it, is lost (log 9). -/
def State.poke (s : State) (pa : Nat) (bs : List Byte) : State :=
  if inHole pa then s else ({ s with mem := Store.setBytes s.mem pa bs }).seeWatches pa bs.length

/-- Bytes at a physical address; in the hole the spec names none, and each is a free value (log 9). -/
def State.peek (s : State) (pa n : Nat) : List Byte :=
  if inHole pa then (List.range n).map (fun i => (s.freeVal (pa + i)).setWidth 8) else Store.bytes s.mem pa n

/-- An item at a physical address. -/
def State.peekN (s : State) (pa n : Nat) : Nat := leNat (s.peek pa n)

/-- Writes an item at a physical address. -/
def State.pokeN (s : State) (pa n x : Nat) : State := s.poke pa (leBytes n x)

/-! ## The physical map (R75) -/

/-- Whether a physical address is a system address. -/
def isSystem (pa : Nat) : Bool := 0x8000_0000_0000 ≤ pa && pa < 0x1_0000_0000_0000

/-- Whether a physical address is package HBM. -/
def isHbm (pa : Nat) : Bool := pa < 0x0100_0000_0000

/-- Home die of a physical address. -/
def State.homeDie (s : State) (pa : Nat) : Nat := if isHbm pa then bits pa 39 38 else fld (s.pkgReg .pkginfo) 1 0

/-- Whether the HBM stack and the cistern slice of an address are ready (R431). -/
def State.memReady (s : State) (pa : Nat) : Bool :=
  isSystem pa || (let r := (s.dieReg (bits pa 39 38) .dready); r.getLsbD (8 + bits pa 9 8) && r.getLsbD 12)

/-! ## Operations of atomics and reductions -/

/-- Width in bits and format code of an ATOM type (R171, R257). -/
def atomWidth (ty : Nat) : Nat := if ty = 0 || ty = 7 || ty = 11 then 64 else 32

/-- A signed integer type of R171. -/
def tySigned (ty : Nat) : Bool := 4 ≤ ty && ty < 8

/-- The new value an operation of R258 gives: old, operand. Floating add rounds by RNE (R116, R258). -/
def atomNew (op ty old c : Nat) : Nat :=
  let w := atomWidth ty
  let flt : Bool := ty < 4
  let lt (a b : Nat) : Bool := if tySigned ty then decide (sextN a w < sextN b w) else decide (a % 2 ^ w < b % 2 ^ w)
  let r := match op with
    | 0 => if flt then (fadd ty false .rne old c).1 else old + c
    | 1 => if flt then (fminmax ty false old c).1 else if lt c old then c else old
    | 2 => if flt then (fminmax ty true old c).1 else if lt old c then c else old
    | 3 => old &&& c
    | 4 => old ||| c
    | 5 => old ^^^ c
    | _ => c
  r % 2 ^ w

/-- Two reductions run together in one partial: one operation and one type; integer add of both signednesses is one (R116). -/
def sameRun (op ty op' ty' : Nat) : Bool :=
  op = op' && (ty = ty' || (op = 0 && 4 ≤ ty && 4 ≤ ty' && atomWidth ty = atomWidth ty'))

/-! ## The directory and state U -/

/-- Line number of a physical address. -/
def lineOf (pa : Nat) : Nat := pa / 128

def State.dirEnt (s : State) (pa : Nat) : DirEnt := s.dir.get { st := .i, owner := 0, sharers := [] } (lineOf pa)
def State.setDir (s : State) (pa : Nat) (e : DirEnt) : State := { s with dir := s.dir.put (lineOf pa) e }

/-- Adds a die to a sharer list once. -/
def addDie (ds : List Nat) (d : Nat) : List Nat := if ds.contains d then ds else ds ++ [d]

/-- Combines one die's partials of a line into memory, in the order they are held (R116). -/
def mergeDie (s : State) (line d : Nat) : State :=
  (s.partials.filter (fun p => p.die = d && lineOf p.pa = line)).foldl
    (fun s p => let n := atomWidth p.ty / 8; s.pokeN p.pa n (atomNew p.op p.ty (s.peekN p.pa n) p.val.toNat)) s

/-- Merges the partials of a line into the base value, dies 0 to 3 in order (R116). -/
def State.mergeLine (s : State) (line : Nat) : State :=
  let s1 := [0, 1, 2, 3].foldl (fun s d => mergeDie s line d) s
  { s1 with partials := s1.partials.filter (fun p => lineOf p.pa ≠ line) }

/-- A read of a P line by die `d` (R423). -/
def State.dirRead (s : State) (d pa : Nat) : State :=
  let e := s.dirEnt pa
  match e.st with
  | .i => s.setDir pa { st := .e, owner := d, sharers := [d] }
  | .u => (s.mergeLine (lineOf pa)).setDir pa { st := .e, owner := d, sharers := [d] }
  | .e => if e.owner = d then s else s.setDir pa { e with st := .s, sharers := addDie e.sharers d }
  | .m => if e.owner = d then s else s.setDir pa { e with st := .o, sharers := addDie e.sharers d }
  | .s | .o => s.setDir pa { e with sharers := addDie e.sharers d }

/-- A store, ATOM, engine write or drain by die `d` (R423, R117). -/
def State.dirWrite (s : State) (d pa : Nat) : State :=
  (if (s.dirEnt pa).st = .u then s.mergeLine (lineOf pa) else s).setDir pa { st := .m, owner := d, sharers := [d] }

/-- A watch entry is armed on a word of the line (R124). -/
def State.watchedLine (s : State) (line : Nat) : Bool :=
  s.dies.any (fun p => p.2.watches.any (fun e => lineOf e.2.pa = line))

/-- A reduction on a P page by die `d` (R259, R423): into the die's partial, or at the home L2 while a watch is armed. -/
def State.dirReduce (s : State) (d pa op ty : Nat) (v : W64) : State :=
  let line := lineOf pa
  let n := atomWidth ty / 8
  if s.watchedLine line then
    let s := s.dirWrite (s.homeDie pa) pa
    s.pokeN pa n (atomNew op ty (s.peekN pa n) v.toNat)
  else
    let clash := s.partials.any (fun p => p.pa = pa && !sameRun p.op p.ty op ty)
    let s := if clash then s.mergeLine line else s
    let mine (p : Partial) : Bool := p.die = d && p.pa = pa
    let ps := if s.partials.any mine
      then s.partials.map (fun p => if mine p then { p with val := BitVec.ofNat 64 (atomNew p.op p.ty p.val.toNat v.toNat) } else p)
      else s.partials ++ [{ die := d, pa := pa, op := op, ty := ty, val := v }]
    State.setDir { s with partials := ps } pa { st := .u, owner := d, sharers := addDie (if (s.dirEnt pa).st = .u then (s.dirEnt pa).sharers else []) d }

/-- Die `d` evicts a line (R423). -/
def State.dirEvict (s : State) (d pa : Nat) : State :=
  let e := s.dirEnt pa
  let rest := e.sharers.filter (· ≠ d)
  match e.st with
  | .m | .o => if e.owner = d then s.setDir pa { st := if rest.isEmpty then .i else .s, owner := rest.headD 0, sharers := rest } else s.setDir pa { e with sharers := rest }
  | .e | .s => s.setDir pa { e with st := if rest.isEmpty then .i else e.st, sharers := rest }
  | .i | .u => s

/-! ## Page table entries (R76, R77) -/

def pteV (p : W64) : Bool := p.getLsbD 0
def pteW (p : W64) : Bool := p.getLsbD 1
def pteX (p : W64) : Bool := p.getLsbD 2
def pteLG (p : W64) : Bool := p.getLsbD 3
/-- SCOPE: 0 D, 1 P, 2 S. -/
def pteScope (p : W64) : Nat := fld p 5 4
def pteCW (p : W64) : Bool := p.getLsbD 6
def pteVS (p : W64) : Bool := p.getLsbD 7
/-- FRAME, PA[47:16]. -/
def pteFrame (p : W64) : Nat := fld p 47 16
def pteVix (p : W64) : Nat := fld p 63 48 * 16 + fld p 15 12

/-- Physical address of the version record of a page (R93). -/
def State.vrec (s : State) (pte : W64) : Nat :=
  fld (s.dieReg (s.homeDie (pteFrame pte * 65536)) .whvrt) 47 12 * 4096 + pteVix pte * 64

/-- Row 3 of R78 on a leaf entry: malformed. -/
def State.pteBad (s : State) (p : W64) : Bool :=
  p.getLsbD 11 || pteScope p = 3 || (pteLG p && pteVS p) || (pteCW p && !pteVS p)
    || (pteVS p && 2 ^ min (fld (s.dieReg (s.homeDie (pteFrame p * 65536)) .whvrt) 4 0) 20 ≤ pteVix p)

/-- Row 4 of R78: the frame lies in the hole, or is a system frame without SCOPE S. -/
def pteHole (p : W64) : Bool :=
  let pa := pteFrame p * 65536
  inHole pa || (isSystem pa && pteScope p ≠ 2)

/-- What an access wants of a page. -/
inductive Want where
  | read | write | fetch
  deriving DecidableEq, Repr

/-- Rows 3 to 7 of R78 on a leaf entry, for an access by die `d`; `bound` says the SCOPE check binds the agent. -/
def State.pteCheck (s : State) (p : W64) (want : Want) (bound : Bool) (d : Nat) : Option (Nat × Nat) :=
  if s.pteBad p then some (1, 5)
  else if pteHole p then some (1, 6)
  else if want = .write && !pteW p then some (1, 2)
  else if want = .fetch && !pteX p then some (1, 3)
  else if bound && pteScope p = 0 && s.homeDie (pteFrame p * 65536) ≠ d then some (2, 0)
  else none

/-! ## Walks and TLBs (R398, R399) -/

/-- Index of a level (R76). -/
def levelIndex (level : Nat) (va : Nat) : Nat :=
  match level with
  | 0 => bits va 56 55
  | 1 => bits va 54 42
  | 2 => bits va 41 29
  | _ => bits va 28 16

/-- Upper index of a level: everything above the bits it resolves. -/
def upperIndex (level va : Nat) : Nat :=
  match level with
  | 0 => va / 2 ^ 55
  | 1 => va / 2 ^ 42
  | _ => va / 2 ^ 29

/-- What a walk ends with: a leaf entry with its address, or the first matching row of R78. -/
inductive Walk where
  | leaf (pte : W64) (addr : Nat)
  | fail (cls sub : Nat)
  deriving DecidableEq, Repr

/-- A table entry's reserved bits (R76). -/
def tableBad (e : W64) : Bool := fld e 15 1 ≠ 0 || fld e 63 48 ≠ 0

/-- Reads the tables from level `3 - n` down. `bad` says that a reserved bit has been seen. A die's walk cache answers for the
levels it holds. -/
def walkFrom (s : State) (d root va : Nat) : Nat → Nat → Bool → Walk
  | 0, table, bad =>
    let addr := table + 8 * levelIndex 3 va
    let e := BitVec.ofNat 64 (s.peekN addr 8)
    if !pteV e then .fail 1 1 else if bad then .fail 1 5 else .leaf e addr
  | n + 1, table, bad =>
    let level := 2 - n
    let e := match (s.die d).walks.find? (root, level, upperIndex level va) with
      | some e => e
      | none => BitVec.ofNat 64 (s.peekN (table + 8 * levelIndex level va) 8)
    let next := fld e 47 16 * 65536
    let bad := bad || tableBad e
    if !pteV e then .fail 1 1
    else if inHole next then .fail 1 (if bad then 5 else 6)
    else walkFrom s d root va n next bad

/-- A walk of the tables of a root frame (R76, R78). -/
def State.walk (s : State) (d root va : Nat) : Walk := walkFrom s d root va 3 (root * 65536) false

/-- Entry `i` of the 32 entries of a large page's run agrees with the entry at `addr` (R74). -/
def runAgrees (s : State) (pte : W64) (addr i : Nat) : Bool :=
  let base := addr / 256 * 256
  let e := BitVec.ofNat 64 (s.peekN (base + 8 * i) 8)
  let me := addr % 256 / 8
  let strip (x : W64) : W64 := x &&& ~~~(0x0000_FFFF_FFFF_0600#64)
  strip e = strip pte && pteFrame e + me = pteFrame pte + i

/-- The 32 entries of a large page's run agree, and the run is aligned: the TLB holds it as one entry (R74). -/
def State.wholeRun (s : State) (pte : W64) (addr : Nat) : Bool :=
  pteLG pte && (List.range 32).all (runAgrees s pte addr) && pteFrame pte % 32 = addr % 256 / 8

/-- The leaf entry a large page translates through: the entry itself, or, when its run is malformed, any one of the 32 (R74). -/
def State.largeLeaf (s : State) (pte : W64) (addr : Nat) : W64 :=
  let me := addr % 256 / 8
  if !pteLG pte || s.wholeRun pte addr then pte
  else
    let i := s.choice 32
    let e := BitVec.ofNat 64 (s.peekN (addr / 256 * 256 + 8 * i) 8)
    if pteV e && pteLG e then setFld e 47 16 (pteFrame e / 32 * 32 + me) else if pteV e then e else pte

/-- An entry answers for a page: for its own, or for every page of its run. -/
def TlbEnt.covers (e : TlbEnt) (page : Nat) : Bool := if e.large then e.page / 32 = page / 32 else e.page = page

/-- Looks a page up in a TLB. -/
def tlbFind : List TlbEnt → Nat → Nat → Option TlbEnt
  | [], _, _ => none
  | e :: t, root, page => if e.root = root && e.covers page then some e else tlbFind t root page

/-- The leaf entry of a page that an entry covers, with its address. -/
def TlbEnt.leaf (e : TlbEnt) (page : Nat) : Walk :=
  if e.large then .leaf (setFld e.pte 47 16 (pteFrame e.pte / 32 * 32 + page % 32)) (e.addr / 256 * 256 + 8 * (page % 32)) else .leaf e.pte e.addr

/-- The table entries of a successful walk, for the walk cache. -/
def walkFill (s : State) (root va : Nat) : Nat → Nat → AMap (Nat × Nat × Nat) W64 → AMap (Nat × Nat × Nat) W64
  | 0, _, m => m
  | n + 1, table, m =>
    let level := 2 - n
    let e := match m.find? (root, level, upperIndex level va) with
      | some e => e
      | none => BitVec.ofNat 64 (s.peekN (table + 8 * levelIndex level va) 8)
    walkFill s root va n (fld e 47 16 * 65536) (m.put (root, level, upperIndex level va) e)

/-- The entry a TLB takes for a leaf entry. -/
def State.tlbEnt (s : State) (root va : Nat) (pte : W64) (addr : Nat) : TlbEnt :=
  { root := root, page := va / 65536, large := s.wholeRun pte addr, pte := pte, addr := addr }

/-- A TLB may hold a leaf entry: it is well formed, and its run, where it has one, is whole, since each access through another translates anew (R74). -/
def State.holdable (s : State) (pte : W64) (addr : Nat) : Bool :=
  !(s.pteBad pte || pteHole pte || (pteLG pte && !s.wholeRun pte addr))

/-- A walk's success held in a die's L2 TLB (8,192 entries) and walk cache (256 entries). -/
def State.fillDie (s : State) (d root va : Nat) (pte : W64) (addr : Nat) : State :=
  s.modDie d (fun x => { x with tlb := (s.tlbEnt root va pte addr :: x.tlb).take 8192,
                                walks := (walkFill s root va 3 (root * 65536) x.walks).drop ((x.walks.length + 3) - 256) })

/-- A translation: the physical address with the leaf entry and its address, or a row of R78. -/
inductive Xlat where
  | ok (pa : Nat) (pte : W64) (addr : Nat)
  | fail (cls sub : Nat)
  deriving DecidableEq, Repr

/-- The leaf entry for a page through a die's L2 TLB. -/
def State.dieLeaf (s : State) (d root va : Nat) : State × Walk :=
  match tlbFind (s.die d).tlb root (va / 65536) with
  | some e => (s, e.leaf (va / 65536))
  | none =>
    match s.walk d root va with
    | .leaf pte addr =>
      if s.holdable pte addr then (s.fillDie d root va pte addr, .leaf pte addr) else (s, .leaf (s.largeLeaf pte addr) addr)
    | w => (s, w)

/-- Finishes a translation with the checks of R78. -/
def State.finish (s : State) (d va : Nat) (want : Want) (bound : Bool) : Walk → Xlat
  | .fail c k => .fail c k
  | .leaf pte addr =>
    match s.pteCheck pte want bound d with
    | some (c, k) => .fail c k
    | none => .ok (pteFrame pte * 65536 + va % 65536) pte addr

/-- Translates an address for an agent of a die that has no core: engines, wellhead, link ports, front end (R78, R398). -/
def State.xlatDie (s : State) (d root : Nat) (va : W64) (want : Want) (bound : Bool) : State × Xlat :=
  if fld va 63 57 ≠ 0 then (s, .fail 1 4)
  else let (s', w) := s.dieLeaf d root va.toNat; (s', s'.finish d va.toNat want bound w)

/-- Translates an address for a warp on a core: L1 TLB of 64 entries, then the die's (R398). -/
def State.xlatCore (s : State) (core root : Nat) (va : W64) (want : Want) : State × Xlat :=
  let d := dieOfCore core
  if fld va 63 57 ≠ 0 then (s, .fail 1 4)
  else
    match tlbFind (s.core core).tlb root (va.toNat / 65536) with
    | some e => (s, s.finish d va.toNat want true (e.leaf (va.toNat / 65536)))
    | none =>
      let (s', w) := s.dieLeaf d root va.toNat
      let r := s'.finish d va.toNat want true w
      match w with
      | .leaf pte addr =>
        if s'.holdable pte addr then (s'.modCore core (fun x => { x with tlb := (s'.tlbEnt root va.toNat pte addr :: x.tlb).take 64 }), r) else (s', r)
      | .fail _ _ => (s', r)

/-- Sets A, and D for a write, in the leaf entry an access translated through (R77). -/
def State.touch (s : State) (addr : Nat) (write : Bool) : State :=
  let e := s.peekN addr 8
  let e' := e ||| (if write then 0x600 else 0x200)
  if e' = e then s else s.pokeN addr 8 e'

/-- Clears every translation of a root that a test selects, in every TLB and walk cache of the package (R400). -/
def State.invalidate (s : State) (root : Nat) (hit : Nat → Bool) (all : Bool) : State :=
  let keep (e : TlbEnt) : Bool :=
    !(e.root = root && (all || (if e.large then (List.range 32).any (fun i => hit (e.page / 32 * 32 + i)) else hit e.page)))
  { s with cores := s.cores.map (fun p => (p.1, { p.2 with tlb := p.2.tlb.filter keep }))
           dies := s.dies.map (fun p => (p.1, { p.2 with tlb := p.2.tlb.filter keep, walks := p.2.walks.filter (fun e => e.1.1 ≠ root) })) }

/-- Clears every translation that came from the leaf entry at an address (R98 step 3). -/
def State.invalidateLeaf (s : State) (addr : Nat) : State :=
  let keep (e : TlbEnt) : Bool := if e.large then e.addr / 256 ≠ addr / 256 else e.addr ≠ addr
  { s with cores := s.cores.map (fun p => (p.1, { p.2 with tlb := p.2.tlb.filter keep }))
           dies := s.dies.map (fun p => (p.1, { p.2 with tlb := p.2.tlb.filter keep })) }

/-! ## The cached paths (R79 to R83) -/

/-- The paths of R82 that keep copies in a core. -/
inductive Path where
  | generic | constant | sampler | code
  deriving DecidableEq, Repr

/-- Bytes a path's cache fills at a time: the generic L1 holds sectors of 32 bytes, the others whole lines (R79). -/
def Path.fill : Path → Nat
  | .generic => 32
  | _ => 128

def Core.cache (c : Core) : Path → AMap Nat (List Byte)
  | .generic => c.l1
  | .constant => c.cc
  | .sampler => c.sc
  | .code => c.ic

def Core.setCache (c : Core) (p : Path) (m : AMap Nat (List Byte)) : Core :=
  match p with
  | .generic => { c with l1 := m }
  | .constant => { c with cc := m }
  | .sampler => { c with sc := m }
  | .code => { c with ic := m }

/-- A line as a die's L2 gives it: through the directory for a P page, a read-only copy for an S page (R80, R81). -/
def State.l2Line (s : State) (d : Nat) (scope pa : Nat) : State × List Byte :=
  let base := lineOf pa * 128
  match scope with
  | 1 => let s := s.dirRead d pa; (s, s.peek base 128)
  | 2 =>
    match (s.die d).sCopies.find? (lineOf pa) with
    | some l => (s, l)
    | none => let l := s.peek base 128; (s.modDie d (fun x => { x with sCopies := x.sCopies.put (lineOf pa) l }), l)
  | _ => (s, s.peek base 128)

/-- Reads bytes of one sector or line through a path of a core. -/
def State.readLine (s : State) (core : Nat) (p : Path) (scope pa n : Nat) : State × List Byte :=
  match ((s.core core).cache p).find? (pa / p.fill) with
  | some l => (s, (l.drop (pa % p.fill)).take n)
  | none =>
    let (s, l) := s.l2Line (dieOfCore core) scope pa
    let z := (l.drop (pa % 128 / p.fill * p.fill)).take p.fill
    (s.modCore core (fun c => c.setCache p ((c.cache p).put (pa / p.fill) z)), (z.drop (pa % p.fill)).take n)

/-- Writes bytes of one naturally aligned item from a core or engine of die `d` (R80, R117). -/
def State.writeMem (s : State) (d : Nat) (scope pa : Nat) (bs : List Byte) : State :=
  let s := if scope = 1 then s.dirWrite d pa else s
  let s := if scope = 2 then s.modDie d (fun x => { x with sCopies := x.sCopies.del (lineOf pa) }) else s
  s.poke pa bs

/-- Replaces bytes inside a line. -/
def patchLine (l : List Byte) (o : Nat) (bs : List Byte) : List Byte := l.take o ++ bs ++ l.drop (o + bs.length)

/-- A store through the generic path: memory, and the storing core's own copy (R79). -/
def State.storeItem (s : State) (core scope pa : Nat) (bs : List Byte) : State :=
  let s := s.writeMem (dieOfCore core) scope pa bs
  match (s.core core).l1.find? (pa / 32) with
  | some l => s.modCore core (fun c => { c with l1 := c.l1.put (pa / 32) (patchLine l (pa % 32) bs) })
  | none => s

/-- Drops a sector from a core's generic L1, so that the unit's next read sees its own atomic or reduction (R105). -/
def State.dropL1 (s : State) (core pa : Nat) : State := s.modCore core (fun c => { c with l1 := c.l1.del (pa / 32) })

/-- Drops a die's read-only copy of a line, after a read at its coherence point (R105). -/
def State.dropCopy (s : State) (d pa : Nat) : State := s.modDie d (fun x => { x with sCopies := x.sCopies.del (lineOf pa) })

/-- Every copy that some cache holds of a line of a frame is dropped: the frame now belongs to another page (R98). -/
def State.dropFrame (s : State) (f : Nat) : State :=
  let other (m : AMap Nat (List Byte)) (n : Nat) : AMap Nat (List Byte) := m.filter (fun p => p.1 * n / 65536 ≠ f)
  { s with cores := s.cores.map (fun p => (p.1, { p.2 with l1 := other p.2.l1 32, cc := other p.2.cc 128, sc := other p.2.sc 128, ic := other p.2.ic 128 }))
           dies := s.dies.map (fun p => (p.1, { p.2 with sCopies := other p.2.sCopies 128 })) }

/-- A reduction by die `d` at an item of a page of the given scope (R259). -/
def State.reduce (s : State) (d scope pa op ty : Nat) (v : W64) : State :=
  if scope = 1 then s.dirReduce d pa op ty v
  else let n := atomWidth ty / 8; s.writeMem d scope pa (leBytes n (atomNew op ty (s.peekN pa n) v.toNat))

/-- A read at the item's coherence point by die `d`, merging a U line first: ATOM, engines, WATCH (R81). -/
def State.homeRead (s : State) (d scope pa n : Nat) : State × Nat :=
  let s := if scope = 1 then s.dirRead d pa else s
  (s, s.peekN pa n)

/-- An acquire by a core (R80, R109): the generic L1 is invalidated, and the die's copies of S lines. Every acquire counts as one at S scope, because it
orders data of every scope, whatever the scope of the word it reads (R112). -/
def State.acquire (s : State) (core : Nat) : State :=
  (s.modCore core (fun c => { c with l1 := [] })).modDie (dieOfCore core) (fun x => { x with sCopies := [] })

/-! ## Memory of an address space, for agents without a core -/

/-- Reads bytes of an address space for a die's agent, page by page; `none` with the failing row where R78 fails. -/
def State.readVa (s : State) (d root : Nat) (va : W64) (bound : Bool) : Nat → State × Except (Nat × Nat) (List Byte)
  | 0 => (s, .ok [])
  | n + 1 =>
    match s.readVa d root va bound n with
    | (s, .error e) => (s, .error e)
    | (s, .ok bs) =>
      match s.xlatDie d root (va + BitVec.ofNat 64 n) .read bound with
      | (s, .fail c k) => (s, .error (c, k))
      | (s, .ok pa pte addr) =>
        let s := s.touch addr false
        let s := if pteScope pte = 1 && (s.dirEnt pa).st = .u then s.dirRead d pa else s
        (s, .ok (bs ++ [Store.get s.mem pa]))

/-- The version record fields of a page (R93). -/
structure VRec where
  cur : Nat
  nimg : Nat
  cpy : Bool
  live : Bool
  rtd : Bool
  ptea : Nat
  slots : List (Nat × Nat)
  retv : Nat
  rsv : Bool
  deriving DecidableEq, Repr

/-- Reads a version record. -/
def State.readVrec (s : State) (a : Nat) : VRec :=
  let b := s.peek a 64
  let st := fieldN b 4 4
  { cur := fieldN b 0 4, nimg := bits st 1 0, cpy := bitOf st 2, live := bitOf st 3, rtd := bitOf st 4, ptea := fieldN b 8 8,
    slots := [16, 24, 32].map (fun o => (fieldN b o 4, fieldN b (o + 4) 4)), retv := fieldN b 40 4,
    rsv := bits st 31 5 ≠ 0 || fieldN b 44 20 ≠ 0 }

/-- Writes a version record. -/
def State.writeVrec (s : State) (a : Nat) (v : VRec) : State :=
  let st := v.nimg + (if v.cpy then 4 else 0) + (if v.live then 8 else 0) + (if v.rtd then 16 else 0)
  s.poke a (leBytes 4 v.cur ++ leBytes 4 st ++ leBytes 8 v.ptea
    ++ [0, 1, 2].flatMap (fun i => let p := v.slots.getD i (0, 0); leBytes 4 p.1 ++ leBytes 4 p.2) ++ leBytes 4 v.retv ++ List.replicate 20 0)

/-- Strictly ascending versions, each below a bound. -/
def ascending : List (Nat × Nat) → Nat → Bool
  | [], _ => true
  | p :: r, cur => p.1 < cur && (r.head?.all (fun q => p.1 < q.1)) && ascending r cur

/-- Whether a record is consistent for the leaf entry at `pteAddr` (R94). -/
def VRec.ok (v : VRec) (pteAddr : Nat) : Bool :=
  v.live && !v.rsv && ascending (v.slots.take v.nimg) v.cur && (v.slots.drop v.nimg).all (fun p => p = (0, 0))
    && (v.rtd || v.retv = 0) && v.ptea = pteAddr

end Sys2Proof.Machine
end

