-- ==== Sys2Proof/Machine/Version.lean ====
section
/-! DEFINITION. Versioned pages: the wellhead's rings (R99), copy-on-write (R98), PUBLISH and RETIRE of one page (R96, R97), and the version
check of LDV (R100). A copy in progress stands in `State.cows` under the physical address of its leaf entry. -/

namespace Sys2Proof.Machine

/-! ## Rings (R99, R390) -/

/-- Base address of a ring register. -/
def ringBase (r : W64) : Nat := fld r 47 12 * 4096

/-- Number of places of a ring. -/
def ringSize (r : W64) : Nat := 2 ^ fld r 4 0

/-- Entries held, from the counts of a ring. -/
def ringHeld (head tail : W64) : Nat := (tail.toNat + 2 ^ 32 - head.toNat % 2 ^ 32) % 2 ^ 32

/-- Adds one to a 32-bit count. -/
def State.bump (s : State) (d : Nat) (r : DieReg) : State :=
  s.setDieReg d r (BitVec.ofNat 64 (((s.dieReg d r).toNat + 1) % 2 ^ 32))

/-- Interrupts Norem on a die. -/
def State.callNorem (s : State) (d : Nat) (i : NoremInt) : State := s.modDie d (fun x => { x with noremInts := x.noremInts ++ [i] })

/-- Takes the next usable frame from a die's allocation ring; entries not on the die's HBM are consumed and counted (R99). -/
def takeFrame (d : Nat) : Nat → State → State × Option Nat
  | 0, s => (s, none)
  | n + 1, s =>
    let head := s.dieReg d .whahead
    if ringHeld head (s.dieReg d .whatail) = 0 then (s, none)
    else
      let ring := s.dieReg d .wharing
      let f := s.peekN (ringBase ring + head.toNat % ringSize ring * 4) 4
      let s := s.bump d .whahead
      if f < 0x0100_0000 && bits f 23 22 = d then (s, some f)
      else
        let rej := (s.dieReg d .whrej).toNat
        takeFrame d n ((s.setDieReg d .whrej (BitVec.ofNat 64 (min (rej + 1) (2 ^ 32 - 1)))).callNorem d .rejected)

/-- Takes a frame, looking at no more entries than the ring holds. -/
def State.takeFrame (s : State) (d : Nat) : State × Option Nat :=
  Sys2Proof.Machine.takeFrame d (ringHeld (s.dieReg d .whahead) (s.dieReg d .whatail)) s

/-- The return ring has room for one more frame, counting the frames that await return (R96). -/
def State.returnRoom (s : State) (d : Nat) : Bool :=
  ringHeld (s.dieReg d .whfhead) (s.dieReg d .whftail) + (s.die d).frees.length < ringSize (s.dieReg d .whfring)

/-! ## Lines of a page -/

/-- Merges every U line of a page, and counts as a read of each of its lines by the wellhead's die (R81, R423). -/
def State.mergePage (s : State) (frame scope : Nat) : State :=
  if scope = 1 then (List.range 512).foldl (fun s i => s.dirRead (s.homeDie (frame * 65536)) (frame * 65536 + i * 128)) s else s

/-- Copies the bytes of one frame over another. -/
def Store.copyPage (m : Store) (src dst : Nat) : Store :=
  let cells := m.filter (fun c => src * 65536 ≤ c.1 && c.1 < (src + 1) * 65536)
  cells.foldl (fun m c => m.set (dst * 65536 + c.1 % 65536) c.2) (Store.clear m (dst * 65536) 65536)

/-! ## Copy-on-write (R98) -/

/-- What a write meets at its page. -/
inductive CowSt where
  | clear | wait | noFrame | bad
  deriving DecidableEq, Repr

/-- The leaf entry as memory holds it. -/
def State.leaf (s : State) (addr : Nat) : W64 := BitVec.ofNat 64 (s.peekN addr 8)

/-- The first write to a page with VS and CW set starts the copy; a later one waits (R98). -/
def State.cowTouch (s : State) (addr : Nat) : State × CowSt :=
  let e := s.leaf addr
  if !(pteVS e && pteCW e) then (s, .clear)
  else
    match s.cows.find? addr with
    | some c => (s, if c.timedOut && c.frame.isNone then .noFrame else .wait)
    | none =>
      let a := s.vrec e
      let v := s.readVrec a
      if !v.ok addr then (s, .bad)
      else
        let d := s.homeDie (pteFrame e * 65536)
        let s := s.writeVrec a { v with cpy := true }
        let (s, f) := s.takeFrame d
        let s := if f.isNone then s.callNorem d .allocRing else s
        let c : Cow := { pte := addr, vrec := a, die := d, old := pteFrame e, frame := f,
                         empty := if f.isNone then some s.rtime else none, timedOut := false, late := [] }
        ({ s with cows := s.cows.put addr c }, .wait)

/-- What named the old frame of a page follows it to its new one: the armed watch entries, which test the words of the page (R124), and the
translations that drains hold (R292). -/
def State.repoint (s : State) (pte old f : Nat) : State :=
  let watch (w : Watch) : Watch := if w.pa / 65536 = old then { w with pa := f * 65536 + w.pa % 65536 } else w
  let held (p : HeldPage) : HeldPage := if p.leaf = pte then { p with frame := f * 65536 } else p
  { s with dies := s.dies.map (fun p => (p.1, { p.2 with watches := p.2.watches.map (fun e => (e.1, watch e.2)) }))
           warps := s.warps.map (fun p => (p.1, { p.2 with mops := p.2.mops.map (fun o => { o with pages := o.pages.map held }) })) }

/-- Steps 2 to 4 of R98 for a copy that has its frame; the waiting writes are left to the caller. -/
def State.cowFinish (s : State) (c : Cow) (f : Nat) : State :=
  let e := s.leaf c.pte
  let s := s.mergePage c.old (pteScope e)
  let s := (State.dropFrame { s with mem := Store.copyPage s.mem c.old f } f).repoint c.pte c.old f
  let s := s.pokeN c.pte 8 (setFld (setFld e 47 16 f) 6 6 0).toNat
  let s := s.invalidateLeaf c.pte
  let v := s.readVrec c.vrec
  { s.writeVrec c.vrec { v with cpy := false } with cows := s.cows.del c.pte }

/-- Frames supplied on a die go to the copies that wait for one, in order (R98, R99). -/
def State.feedCows (s : State) (d : Nat) : State :=
  s.cows.foldl (fun s p =>
    if p.2.die = d && p.2.frame.isNone then
      match s.takeFrame d with
      | (s, some f) => { s with cows := s.cows.put p.1 { p.2 with frame := some f, empty := none, timedOut := false } }
      | (s, none) => s
    else s) s

/-- A write that meets a copy waits in its order of arrival (R98). -/
def State.queueLate (s : State) (addr : Nat) (w : LateWrite) : State :=
  { s with cows := s.cows.modAt addr (fun c => { c with late := c.late ++ [w] }) }

/-- The region that would replay a unit's waiting writes is over: nobody can be told of them any more (R98, DESIGN CHOICE, log 5). -/
def State.settleLate (s : State) (g : Nat) (p : Nat → Bool) : State :=
  let free (w : LateWrite) : LateWrite := match w.who with
    | .unit g' sub _ => if g' = g && p sub then { w with who := .hardware } else w
    | _ => w
  { s with cows := s.cows.each (fun c => { c with late := c.late.map free }) }

/-- An atomic that waits at a page being copied still owes an outstanding result a lane. -/
def State.lateAtom (s : State) (look : Nat) : Bool :=
  s.cows.any (fun p => p.2.late.any (fun x => match x.op with
    | .atom _ _ _ _ k _ => k = look
    | _ => false))

/-- A copy is in progress on a page (CPY). -/
def State.copying (s : State) (addr : Nat) : Bool := (s.cows.find? addr).isSome

/-! ## PUBLISH and RETIRE of one page (R96, R97) -/

/-- How a wellhead operation on one page ends. -/
inductive PageOut where
  | done | bad | wait
  | fault (cls sub : Nat)
  deriving DecidableEq, Repr

/-- Whether retiring slot `k` frees its frame. -/
def VRec.frees (v : VRec) (k frame : Nat) : Bool :=
  let f := (v.slots.getD k (0, 0)).2
  let rest := (v.slots.take v.nimg).eraseIdx k
  !(rest.any (fun p => p.2 = f)) && frame ≠ f

/-- `retire_slot(k)` of R96 on a record; CW is cleared when no remaining slot holds the current frame. -/
def VRec.retireSlot (v : VRec) (k : Nat) : VRec :=
  let ver := (v.slots.getD k (0, 0)).1
  let rest := (v.slots.take v.nimg).eraseIdx k
  { v with slots := rest ++ List.replicate (3 - rest.length) (0, 0), nimg := v.nimg - 1,
           retv := if v.rtd then max v.retv ver else ver, rtd := true }

/-- Whether a held image shares the current frame. -/
def VRec.shares (v : VRec) (frame : Nat) : Bool := (v.slots.take v.nimg).any (fun p => p.2 = frame)

/-- Applies `retire_slot(k)` to a page: the record, the leaf entry's CW, and the frame given up (R96). -/
def State.retireSlot (s : State) (addr a k : Nat) (v : VRec) : State × VRec :=
  let e := s.leaf addr
  let d := s.homeDie (pteFrame e * 65536)
  let v' := v.retireSlot k
  let s := if v.frees k (pteFrame e) then s.modDie d (fun x => { x with frees := x.frees ++ [(v.slots.getD k (0, 0)).2] }) else s
  let s := if pteCW e && !v'.shares (pteFrame e) then s.pokeN addr 8 (setFld e 6 6 0).toNat else s
  (s.writeVrec a v', v')

/-- The return ring is full: the page waits and Norem is interrupted once (R99). -/
def State.waitReturn (s : State) (d : Nat) : State :=
  if (s.die d).noremInts.contains .returnRing then s else s.callNorem d .returnRing

/-- PUBLISH n on the page of a leaf entry, at its publish point (R96). -/
def State.publish (s : State) (addr n : Nat) : State × PageOut :=
  let e := s.leaf addr
  if !pteVS e then (s, .bad)
  else if s.copying addr then (s, .wait)
  else
    let a := s.vrec e
    let v := s.readVrec a
    let d := s.homeDie (pteFrame e * 65536)
    if !v.ok addr || n < v.cur || n = 0xFFFF_FFFF then (s, .bad)
    else if v.nimg = 3 && v.frees 0 (pteFrame e) && !s.returnRoom d then (s.waitReturn d, .wait)
    else
      let s := s.mergePage (pteFrame e) (pteScope e)
      let (s, v) := if v.nimg = 3 then s.retireSlot addr a 0 v else (s, v)
      let v := { v with slots := v.slots.set v.nimg (n, pteFrame e), nimg := v.nimg + 1, cur := n + 1 }
      let s := s.writeVrec a v
      (s.pokeN addr 8 (setFld (s.leaf addr) 6 6 1).toNat, .done)

/-- RETIRE v on the page of a leaf entry (R97). -/
def State.retire (s : State) (addr ver : Nat) : State × PageOut :=
  let e := s.leaf addr
  if !pteVS e then (s, .bad)
  else if s.copying addr then (s, .wait)
  else
    let a := s.vrec e
    let v := s.readVrec a
    let d := s.homeDie (pteFrame e * 65536)
    if !v.ok addr then (s, .bad)
    else
      match (v.slots.take v.nimg).findIdx? (fun p => p.1 = ver) with
      | none => (s, .done)
      | some k =>
        if v.frees k (pteFrame e) && !s.returnRoom d then (s.waitReturn d, .wait)
        else ((s.retireSlot addr a k v).1, .done)

/-- A version of a page is a published image and not what is current (R100). -/
def State.isImage (s : State) (addr ver : Nat) : Bool := ver ≠ (s.readVrec (s.vrec (s.leaf addr))).cur

/-- The check of LDV on the page of a leaf entry (R100): the frame to read, or a VERFAULT subcode. -/
def State.versionFrame (s : State) (pte : W64) (addr ver : Nat) : Except Nat Nat :=
  if !pteVS pte then .error 4
  else
    let e := s.leaf addr
    let v := s.readVrec (s.vrec e)
    if !v.ok addr then .error 5
    else if ver = v.cur then .ok (pteFrame e)
    else
      match (v.slots.take v.nimg).find? (fun p => p.1 = ver) with
      | some p => .ok p.2
      | none => .error (if v.cur < ver then 2 else if v.rtd && ver ≤ v.retv then 1 else 3)

end Sys2Proof.Machine
end

