-- ==== Sys2Proof/Machine/Regs.lean ====
section
/-! DEFINITION. The register files of a warp: renamed vector registers with allocation, last use and region commit (R56 to R63), spill and
reload (R65 to R67), scalars and workgroup scalars (R50, R51). -/

namespace Sys2Proof.Machine

/-! ## Vector registers -/

/-- A register of zeros. -/
def zeroLanes : Lanes := Lanes.tab (fun _ => 0)

/-- Contents of a vector name; an unmapped name reads as zero (R63). -/
def Warp.vreg (w : Warp) (n : Nat) : Lanes :=
  match w.names.find? n with
  | some e => e.val
  | none => zeroLanes

/-- The name holds a physical register. -/
def Warp.mapped (w : Warp) (n : Nat) : Bool := (w.names.find? n).isSome

/-- Maps an unmapped name to a fresh register, which reads as zero, and adds it to the new list (R57). -/
def Warp.alloc (w : Warp) (n : Nat) : Warp :=
  if w.mapped n then w
  else { w with names := w.names.put n { st := .mapped, val := zeroLanes }, newList := w.newList ++ [n] }

/-- Lanes of `m` taken from `v`, the others from `old`. -/
def mergeLanes (m : W32) (v old : Lanes) : Lanes := Lanes.tab (fun l => if inMask m l then v.at l else old.at l)

/-- Marks the rows that a write to an operand register of a matrix operation leaves undefined, until the MWAIT that completes its batch
(R118). B serves every row of every member. -/
def MOp.spoil (o : MOp) (n : Nat) (m : W32) : MOp :=
  if o.bNames.contains n then { o with bSpoilt := true }
  else if o.aNames.contains n then { o with spoilt := o.spoilt ||| m }
  else o

/-- A write that is still outstanding takes its name at issue: an unmapped one is mapped, a deferred one returns to Mapped (R57, R61). -/
def Warp.claim (w : Warp) (n : Nat) : Warp :=
  match w.names.find? n with
  | some e => { w with names := w.names.put n { e with st := .mapped } }
  | none => w.alloc n

/-- Writes the lanes of `m` of a name, allocating it if need be; a deferred name returns to Mapped (R57, R61). With no lane it
neither allocates nor writes. -/
def Warp.vset (w : Warp) (n : Nat) (m : W32) (v : Lanes) : Warp :=
  if m = 0 then w
  else
    let w := w.alloc n
    match w.names.find? n with
    | some e => { w with names := w.names.put n { st := .mapped, val := mergeLanes m v e.val }, mops := w.mops.map (fun o => o.spoil n m) }
    | none => w

/-- Puts a name's register onto the pending list (R59). -/
def Warp.unmap (w : Warp) (n : Nat) : Warp :=
  match w.names.find? n with
  | some e => { w with names := w.names.del n, pending := w.pending ++ [{ name := n, val := e.val, slot := none, prior := false }] }
  | none => w

/-- Last use of a name: onto the pending list, or Deferred in a divergent warp (R59, R61). -/
def Warp.lastUse (w : Warp) (div : Bool) (n : Nat) : Warp :=
  if div then
    match w.names.find? n with
    | some e => { w with names := w.names.put n { e with st := .deferred } }
    | none => w
  else w.unmap n

/-- The warp is no longer divergent: every deferred name goes onto the pending list (R61). -/
def Warp.settleDeferred (w : Warp) : Warp :=
  (w.names.filter (fun p => p.2.st = .deferred)).foldl (fun w p => w.unmap p.1) w

/-- Region commit (R60). A register the matrix engine still holds was last used in a region that is now over. -/
def Warp.commit (w : Warp) : Warp :=
  { w with pending := [], newList := [], rcount := w.rcount + 1,
           mops := w.mops.map (fun o => { o with held := o.held.map (fun p => { p with prior := true }) }) }

/-- The registers a replay maps again (R62): those of names that are not new, and of one name the one the region itself last used.
DEDUCED (log 23): of several registers of one name only one was the name's at region entry. -/
def Warp.returning (w : Warp) : List Pend :=
  let old := w.pending.filter (fun p => !w.newList.contains p.name)
  old.filter (fun p => !p.prior) ++ old.filter (fun p => p.prior && !(w.mapped p.name) && !old.any (fun q => q.name = p.name && !q.prior))

/-- The rename table at region entry, for a replay (R62). -/
def Warp.rewind (w : Warp) (div : Bool) : Warp :=
  let kept : AMap Nat RegEnt := w.names.filter (fun p => !w.newList.contains p.1)
  let st : RegSt := if div then .deferred else .mapped
  { w with names := w.returning.foldl (fun m p => m.put p.name { st := st, val := p.val }) kept, pending := [], newList := [] }

/-- A warp is divergent while it has a live split-table entry or a serial record on its stack (R61). -/
def State.divergent (s : State) (g : Nat) : Bool :=
  (s.core (coreOf g)).split.any (fun p => p.2.warp = g)
    || (match s.warp? g with
        | some w => w.units.any (fun u => !u.serial.isEmpty)
        | none => false)

/-! ## Spill and reload (R66, R67, R395) -/

/-- Bytes of a register as a slot or image holds them. -/
def lanesBytes (v : Lanes) : List Byte := laneIds.flatMap (fun l => leBytes 8 (v.at l).toNat)

/-- A register from 256 bytes. -/
def bytesLanes (b : List Byte) : Lanes := dwords b 32

/-- Address of a spill slot. -/
def Warp.slotAddr (w : Warp) (k : Nat) : Nat := w.block + 0x4000 + k * 256

/-- Spill slots in use. -/
def Warp.slotsUsed (w : Warp) : List Nat :=
  w.names.filterMap (fun p => match p.2.st with
    | .spilled k _ => some k
    | _ => none) ++ w.pending.filterMap (fun p => p.slot)

/-- The lowest free slot. -/
def Warp.freeSlot (w : Warp) : Nat := ((List.range (w.regsMax + 1)).find? (fun k => !w.slotsUsed.contains k)).getD 0

/-- Spills one pending register, or the mapped or deferred name of highest number (R66 step 1). -/
def spillOne (s : State) (g : Nat) : State :=
  match s.warp? g with
  | none => s
  | some w =>
    let k := w.freeSlot
    match w.pending.findIdx? (fun p => p.slot.isNone) with
    | some i =>
      let p := w.pending.getD i { name := 0, val := [], slot := none, prior := false }
      (s.poke (w.slotAddr k) (lanesBytes p.val)).setWarp g { w with pending := w.pending.set i { p with val := [], slot := some k } }
    | none =>
      match (w.names.filter (fun p => p.2.held)).foldl (fun a p => max a (p.1 + 1)) 0 with
      | 0 => s
      | n + 1 =>
        match w.names.find? n with
        | some e =>
          (s.poke (w.slotAddr k) (lanesBytes e.val)).setWarp g
            { w with names := w.names.put n { e with st := .spilled k (e.st = .deferred), val := [] } }
        | none => s

/-- Spills registers until the held count equals `n` (R66). -/
def spillN : Nat → State → Nat → State
  | 0, s, _ => s
  | n + 1, s, g => spillN n (spillOne s g) g

/-- Reloads every spilled register of a warp (R67). -/
def State.reload (s : State) (g : Nat) : State :=
  s.modWarp g (fun w =>
    let load (k : Nat) : Lanes := bytesLanes (s.peek (w.slotAddr k) 256)
    { w with
      names := w.names.map (fun p => match p.2.st with
        | .spilled k d => (p.1, { p.2 with st := if d then .deferred else .mapped, val := load k })
        | _ => p)
      pending := w.pending.map (fun p => match p.slot with
        | some k => { p with val := load k, slot := none }
        | none => p) })

/-! ## Scalars -/

def Warp.sreg (w : Warp) (n : Nat) : W64 := w.sregs.get 0 n
def Warp.setSreg (w : Warp) (n : Nat) (v : W64) : Warp := { w with sregs := w.sregs.put n v }

/-- A workgroup scalar as a unit's stroke sees it (R51). -/
def WUnit.wreg (u : WUnit) (n : Nat) : W64 := u.wview.getD n 0

/-- Writes a workgroup scalar: the workgroup's copy, and the writer's own view (R51). -/
def State.setWreg (s : State) (g sub n : Nat) (v : W64) : State :=
  match s.warp? g with
  | none => s
  | some w => (s.modGroup w.wg (fun k => { k with wregs := k.wregs.set n v })).modUnit g sub (fun u => { u with wview := u.wview.set n v })

end Sys2Proof.Machine
end

