-- ==== Sys2Proof/Machine/Flags.lean ====
section
/-! DEFINITION. The bits instructions set beside their results: predicate pushes (R52), FPSR's sticky flags (R135, R136) and WSTAT (R55). -/

namespace Sys2Proof.Machine

/-! ## Predicates (R52) -/

/-- The lanes whose depth `k` is set. -/
def Warp.pred (w : Warp) (k : Nat) : W32 := w.preds.getD k 0

/-- Rewrites the depths of the lanes of `m` from the depths before. -/
def Warp.mapPreds (w : Warp) (m : W32) (f : Nat → W32) : Warp :=
  { w with preds := (List.range 8).map (fun k => (f k &&& m) ||| (w.pred k &&& ~~~m)) }

/-- Pushes a bit in each lane of `m`. -/
def Warp.push (w : Warp) (m bit : W32) : Warp := w.mapPreds m (fun k => if k = 0 then bit else w.pred (k - 1))

/-! ## FPSR and WSTAT -/

/-- Sets FPSR flags of a warp (R136). -/
def Warp.flag (w : Warp) (f : W32) : Warp := { w with fpsr := w.fpsr ||| f }

/-- WSTAT bits (R55). -/
def wsRdunmap : W32 := 1
def wsParked : W32 := 2
def wsSerial : W32 := 4
def wsUnmapTrap : W32 := 8

end Sys2Proof.Machine
end

