-- ==== Sys2Proof/Machine/TraceUnit.lean ====
section
/-! DEFINITION. The trace unit of a core: the packets it writes at the end of each traced stroke (R408 to R413). -/

namespace Sys2Proof.Machine

/-- Unsigned LEB128 of a number below 2^28, in at most `n` bytes. -/
def leb : Nat → Nat → List Byte
  | 0, _ => []
  | n + 1, x => if x < 128 then [BitVec.ofNat 8 x] else BitVec.ofNat 8 (x % 128 + 128) :: leb n (x / 128)

/-- The END code of an event (R411). -/
def StrokeEnd.code : StrokeEnd → Nat
  | .none => 0
  | .taken => 1
  | .notTaken => 2
  | .divergent _ _ => 3
  | .indirect _ _ _ => 4
  | .ended _ => 5
  | .trap _ => 6

/-- The payload of an event (R411). -/
def StrokeEnd.payload : StrokeEnd → List Byte
  | .none | .taken | .notTaken => []
  | .divergent m d => leBytes 4 m.toNat ++ [d]
  | .indirect t m d => leBytes 8 t.toNat ++ leBytes 4 m.toNat ++ [d]
  | .ended m => leBytes 4 m.toNat
  | .trap c => [BitVec.ofNat 8 c]

def byteOf (n : Nat) : Byte := BitVec.ofNat 8 n

/-- A TSYNC packet. -/
def tsync (now : Nat) : List Byte := byteOf 0x30 :: leBytes 8 now

/-- A USYNC packet for the PC and EXEC the stroke began with. -/
def usync (sub slot : Nat) (exec : W32) (pc : W64) : List Byte :=
  [byteOf (0x10 + sub), byteOf slot, 0, 0] ++ leBytes 4 exec.toNat ++ leBytes 8 pc.toNat

/-- A LOSS packet. -/
def lossPacket (n time : Nat) : List Byte := byteOf 0x40 :: leBytes 4 n ++ leBytes 4 time

/-- The XSET packets of a stroke. -/
def xsetPackets (sub slot : Nat) (xs : List (Nat × W32)) : List Byte :=
  xs.flatMap (fun x => [byteOf (0x50 + sub), byteOf slot, byteOf x.1] ++ leBytes 4 x.2.toNat)

/-- A STROKE packet: `n` instructions, time since the last time carried. -/
def strokePacket (sub slot n dt : Nat) (e : StrokeEnd) : List Byte :=
  [byteOf (0x20 + sub), byteOf slot, byteOf ((n + 31) % 32 + e.code * 32)] ++ leb 4 dt ++ e.payload

/-- Writes stream bytes into the ring, and advances TRWP (R409). -/
def State.traceWrite (s : State) (c : Nat) (bs : List Byte) : State :=
  let size := 2 ^ fld (s.core c).trace.latched 8 4
  let base := fld (s.coreReg c .trbase) 47 7 * 128
  let wp := (s.coreReg c .trwp).toNat
  let s := (List.range bs.length).foldl (fun s i => s.poke (base + (wp + i) % size) [bs.getD i 0]) s
  s.setCoreReg c .trwp (BitVec.ofNat 64 (wp + bs.length))

/-- The core's trace is enabled with a legal ring size, and the queue is traced (R408). -/
def State.traced (s : State) (c qid : Nat) : Bool :=
  let l := (s.core c).trace.latched
  (s.coreReg c .trctl).getLsbD 0 && 7 ≤ fld l 8 4 && fld l 8 4 ≤ 30 && (!l.getLsbD 9 || fld l 21 10 = qid)

/-- Writes, or drops, the packets of one stroke of a unit (R411 to R413). Packets of equal time stand in ascending quadrant order,
so a stroke that would break that order ends one nanosecond later. -/
def State.traceStroke (s : State) (g sub n : Nat) (u : WUnit) (e : StrokeEnd) : State :=
  let c := coreOf g
  let slot := g % 128
  let t0 := (s.core c).trace
  let quad := slot / 32
  let s := if t0.lastSync.isSome && t0.lastTime = s.rtime && quad < t0.lastQuad then { s with rtime := s.rtime + 1 } else s
  let now := s.rtime
  let size := 2 ^ fld t0.latched 8 4
  let period := 2 ^ (6 + fld t0.latched 3 1)
  let wp := (s.coreReg c .trwp).toNat
  let room := size - (wp - (s.coreReg c .trrp).toNat)
  let us := usync sub slot u.sexec u.spc
  let xs := xsetPackets sub slot u.xsets
  let put (s : State) (bs : List Byte) (t : Trace) : State := (s.traceWrite c bs).modCore c (fun x => { x with trace := t })
  if (s.coreReg c .trctl).getLsbD 22 then
    let loss := lossPacket t0.dropped t0.dropTime
    let bs := loss ++ tsync now ++ us ++ xs ++ strokePacket sub slot n 0 e
    if bs.length ≤ room then
      (put s bs { t0 with lastTime := now, lastQuad := quad, lastSync := some (wp + loss.length), synced := [(slot, sub)],
                          dropped := 0, dropTime := 0 }).setCoreReg c .trctl (setFld (s.coreReg c .trctl) 22 22 0)
    else s.modCore c (fun x => { x with trace := { t0 with dropped := min (t0.dropped + 1) (2 ^ 32 - 1) } })
  else
    let needT : Bool := match t0.lastSync with
      | none => true
      | some p => (p / period + 1) * period ≤ wp || 2 ^ 28 ≤ now - t0.lastTime
    let synced := if needT then [] else t0.synced
    let needU := !synced.contains (slot, sub)
    let bs := (if needT then tsync now else []) ++ (if needU then us else []) ++ xs
      ++ strokePacket sub slot n (if needT then 0 else now - t0.lastTime) e
    if bs.length ≤ room then
      put s bs { t0 with lastTime := now, lastQuad := quad, lastSync := if needT then some wp else t0.lastSync,
                         synced := if needU then (slot, sub) :: synced else synced }
    else
      (s.modCore c (fun x => { x with trace := { t0 with dropped := 1, dropTime := now % 2 ^ 32 } })).setCoreReg c .trctl
        (setFld (s.coreReg c .trctl) 22 22 1)

/-- A unit needs a USYNC before its next packet (R412). -/
def State.unsync (s : State) (g sub : Nat) : State :=
  s.modCore (coreOf g) (fun x => { x with trace := { x.trace with synced := x.trace.synced.filter (fun p => p ≠ (g % 128, sub)) } })

/-- The children of a split need no USYNC when their parent needed none (R412). -/
def State.syncChild (s : State) (g sub child : Nat) : State :=
  s.modCore (coreOf g) (fun x =>
    let t := x.trace
    if t.synced.contains (g % 128, sub) then
      { x with trace := { t with synced := if t.synced.contains (g % 128, child) then t.synced else (g % 128, child) :: t.synced } }
    else { x with trace := { t with synced := t.synced.filter (fun p => p ≠ (g % 128, child)) } })

end Sys2Proof.Machine
end

