-- ==== Sys2Proof/Machine/Stack.lean ====
section
/-! DEFINITION. The stack cache of a warp (R70 to R73, R335): dwords of the warp's stack, held by lines of 32 bytes. -/

namespace Sys2Proof.Machine

/-- Launch-table key of a warp's launch, and the launch. -/
def State.launchOf (s : State) (g : Nat) : Option (Nat × Launch) :=
  match s.warp? g with
  | none => none
  | some w =>
    match s.group? w.wg with
    | none => none
    | some k => (s.launch? k.launch).map (fun l => (k.launch, l))

/-- Root frame of a warp's address space. -/
def State.rootOf (s : State) (g : Nat) : Nat :=
  match s.launchOf g with
  | some (_, l) => l.root
  | none => 0

/-- A line of the stack cache that holds nothing. -/
def SLine.empty : SLine := { words := [none, none, none, none] }

/-- Line number of a stack address. -/
def stackLine (a : Nat) : Nat := a / 32

/-- Fills the absent dwords of a line from memory, through L2 and not the generic L1 (R82); `none` when translation fails. -/
def State.stackFill (s : State) (g line : Nat) : State × Option SLine :=
  match s.warp? g with
  | none => (s, none)
  | some w =>
    let old := w.stack.get SLine.empty line
    let c := coreOf g
    match s.xlatCore c (s.rootOf g) (BitVec.ofNat 64 (line * 32)) .read with
    | (_, .fail _ _) => (s, none)
    | (s1, .ok pa pte addr) =>
      if !s1.memReady pa then (s, none)
      else
        let s1 := s1.touch addr false
        let (s1, l) := s1.l2Line (dieOf g) (pteScope pte) pa
        let ws := dwords (l.drop (pa % 128)) 4
        let new : SLine := { words := (List.range 4).map (fun i => match old.words.getD i none with
          | some x => some x
          | none => some (ws.getD i 0, false)) }
        (s1.modWarp g (fun w => { w with stack := w.stack.put line new }), some new)

/-- Reads a dword of the stack (R72); `none` when the line cannot be fetched (R335). -/
def State.stackGet (s : State) (g a : Nat) : State × Option W64 :=
  match s.warp? g with
  | none => (s, none)
  | some w =>
    match (w.stack.get SLine.empty (stackLine a)).words.getD (a % 32 / 8) none with
    | some (v, _) => (s, some v)
    | none =>
      match s.stackFill g (stackLine a) with
      | (s', some l) => (s', (l.words.getD (a % 32 / 8) none).map (·.1))
      | (s', none) => (s', none)

/-- The line of a stack address may be written: it holds dirty dwords already, or its page translates for a write (R335). -/
def State.stackOpen (s : State) (g a : Nat) : State × Bool :=
  match s.warp? g with
  | none => (s, true)
  | some w =>
    if (w.stack.get SLine.empty (stackLine a)).words.any (fun x => x.any (·.2)) then (s, true)
    else
      match s.xlatCore (coreOf g) (s.rootOf g) (BitVec.ofNat 64 a) .write with
      | (_, .fail _ _) => (s, false)
      | (s1, .ok pa _ _) => if s1.memReady pa then (s1, true) else (s, false)

/-- The first of some stack addresses whose line may not be written. -/
def State.stackReach (g : Nat) : List Nat → State → State × Option Nat
  | [], s => (s, none)
  | a :: rest, s =>
    match s.stackOpen g a with
    | (s, true) => stackReach g rest s
    | (s, false) => (s, some a)

/-- The addresses of a run of dwords, one for each stack line they touch. -/
def lineHeads (as : List Nat) : List Nat := as.foldl (fun r a => if r.any (fun x => stackLine x = stackLine a) then r else r ++ [a]) []

/-- Writes a dword of the stack. -/
def Warp.stackPut (w : Warp) (a : Nat) (v : W64) : Warp :=
  let l := w.stack.get SLine.empty (stackLine a)
  { w with stack := w.stack.put (stackLine a) { words := l.words.set (a % 32 / 8) (some (v, true)) } }

/-- Writes dwords of the stack. -/
def Warp.stackPuts (w : Warp) (xs : List (Nat × W64)) : Warp := xs.foldl (fun w x => w.stackPut x.1 x.2) w

/-- How a write-back ends. -/
inductive WbOut where
  | done | wait | fail
  deriving DecidableEq, Repr

/-- A line holds dirty dwords. -/
def SLine.isDirty (l : SLine) : Bool := l.words.any (fun x => match x with
  | some (_, d) => d
  | none => false)

/-- Writes the dirty dwords of a line back to memory (R72, R73). A page whose copy-on-write is under way makes it wait. -/
def State.stackFlush (s : State) (g line : Nat) : State × WbOut :=
  match s.warp? g with
  | none => (s, .done)
  | some w =>
    let l := w.stack.get SLine.empty line
    let drop (s : State) : State := s.modWarp g (fun w => { w with stack := w.stack.del line })
    if !l.isDirty then (drop s, .done)
    else
      match s.xlatCore (coreOf g) (s.rootOf g) (BitVec.ofNat 64 (line * 32)) .write with
      | (_, .fail _ _) => (s, .fail)
      | (s1, .ok pa pte addr) =>
        if !s1.memReady pa then (s, .fail)
        else
          match s1.cowTouch addr with
          | (s2, .wait) => (s2, .wait)
          | (_, .noFrame) | (_, .bad) => (s, .fail)
          | (s2, .clear) =>
            let s2 := s2.touch addr true
            let s2 := (List.range 4).foldl (fun s i => match l.words.getD i none with
              | some (v, true) => s.writeMem (dieOf g) (pteScope pte) (pa + 8 * i) (leBytes 8 v.toNat)
              | _ => s) s2
            (drop s2, .done)

/-- Writes every dirty line back, when the warp's context is saved (R73). -/
def State.stackFlushAll (s : State) (g : Nat) : State :=
  match s.warp? g with
  | none => s
  | some w => w.stack.foldl (fun s p => (s.stackFlush g p.1).1) s

/-- The address of the first line of a warp that cannot be written back, when the warp ends or is saved (R73, R335). -/
def State.stackStuck (s : State) (g : Nat) : Option Nat :=
  match s.warp? g with
  | none => none
  | some w => (List.find? (fun p => (s.stackFlush g p.1).2 = .fail) w.stack).map (fun p => p.1 * 32)

/-- The dirty dwords of a line, with their addresses. -/
def SLine.dirty (l : SLine) (line : Nat) : List (Nat × W64) :=
  (List.range 4).filterMap (fun i => match l.words.getD i none with
    | some (v, true) => some (line * 32 + 8 * i, v)
    | _ => none)

/-- Writes a line back as its warp ends: where the page is being copied, the copy takes the dirty dwords and writes them after it. -/
def State.stackLeave (s : State) (g line : Nat) : State :=
  let l := match s.warp? g with
    | some w => w.stack.get SLine.empty line
    | none => SLine.empty
  match s.stackFlush g line with
  | (s, .wait) =>
    match s.xlatCore (coreOf g) (s.rootOf g) (BitVec.ofNat 64 (line * 32)) .write with
    | (_, .ok _ _ addr) =>
      (l.dirty line).foldl (fun s p => s.queueLate addr { who := .hardware, core := none, die := dieOf g, lane := 0, va := BitVec.ofNat 64 p.1,
                                                          off := p.1 % 65536, op := .bytes (leBytes 8 p.2.toNat) }) s
    | (_, .fail _ _) => s
  | (s, _) => s

/-- Writes every dirty line back as the warp ends (R73). -/
def State.stackLeaveAll (s : State) (g : Nat) : State :=
  match s.warp? g with
  | none => s
  | some w => w.stack.foldl (fun s p => s.stackLeave g p.1) s

/-- A line lies in the 4 KiB nearest the top of use. -/
def Warp.inWindow (w : Warp) (line : Nat) : Bool := w.stkptr.toNat ≤ line * 32 + 31 && line * 32 < w.stkptr.toNat + 4096

end Sys2Proof.Machine
end

