-- ==== Sys2Proof/Machine/Ops.lean ====
section
/-! DEFINITION. The shared operations of the machine: interrupts and queue words (R350, R375), fault records (R383), strokes and their ends
(R20, R27), divergence (R16 to R18, R193), barriers (R205, R206), the end of units, warps and workgroups (R45, R60, R199),
taking a trap (R382, R385, R388) and returning from it (R213). -/

namespace Sys2Proof.Machine

/-! ## Words at physical addresses -/

/-- Merges the line of a physical address when it is in state U, before an agent below the caches touches it (R81, R117). -/
def State.unU (s : State) (pa : Nat) : State :=
  if (s.dirEnt pa).st = .u then (s.mergeLine (lineOf pa)).setDir pa { st := .i, owner := 0, sharers := [] } else s

/-- Adds to a 32-bit word at a physical address. -/
def State.addWord (s : State) (pa n : Nat) : State := let s := s.unU pa; s.pokeN pa 4 ((s.peekN pa 4 + n) % 2 ^ 32)

/-- ORs bits into a 32-bit word at a physical address. -/
def State.orWord (s : State) (pa n : Nat) : State := let s := s.unU pa; s.pokeN pa 4 ((s.peekN pa 4 ||| n) % 2 ^ 32)

/-! ## QCB fields (R350), as byte offsets -/

def qcbSEQ : Nat := 0
def qcbSHSEQ : Nat := 64
def qcbSHADOW : Nat := 68
def qcbWR : Nat := 128
def qcbRD : Nat := 132
def qcbDONE : Nat := 136
def qcbWAKE : Nat := 140
def qcbPEND : Nat := 144
def qcbFAULTS : Nat := 148
def qcbCOV : Nat := 192

/-! ## Interrupts (R375) -/

/-- Interface states of VIFCFG.STATE (R373). -/
def vifFree : Nat := 0
def vifActive : Nat := 1
def vifTearing : Nat := 2

def State.vifState (s : State) (i : Nat) : Nat := fld (s.pkgReg (.vifcfg i)) 1 0

/-- Counts a dropped wake of an interface, saturating. -/
def State.wakeDrop (s : State) (i : Nat) : State :=
  let r := s.pkgReg (.vifcnt i)
  s.setPkgReg (.vifcnt i) (setFld r 31 0 (min (fld r 31 0 + 1) (2 ^ 32 - 1)))

/-- Counts a dropped interrupt of an interface, saturating. -/
def State.irqDrop (s : State) (i : Nat) : State :=
  let r := s.pkgReg (.vifcnt i)
  s.setPkgReg (.vifcnt i) (setFld r 63 32 (min (fld r 63 32 + 1) (2 ^ 32 - 1)))

/-- Address of entry `v` of an interface's message table (R374). -/
def State.imtEntry (s : State) (i v : Nat) : Nat := fld (s.pkgReg (.vifimt i)) 47 12 * 4096 + 16 * v

/-- The message of a table entry is written (R375). -/
def State.sendMessage (s : State) (e : Nat) : State := let s := s.unU (s.peekN e 8); s.pokeN (s.peekN e 8) 4 (s.peekN (e + 8) 4)

/-- A table entry can be read: its address exists, and the memory there is ready and on a die that has not failed (R380, R431). -/
def State.entryReadable (s : State) (e : Nat) : Bool := !inHole e && s.memReady e && !(s.die (s.homeDie e)).failed

/-- Raises entry `v` of interface `i` (R375). -/
def State.raise (s : State) (i v : Nat) : State :=
  let e := s.imtEntry i v
  let ctl := s.peekN (e + 12) 4
  if s.vifState i ≠ vifActive then s.irqDrop i
  else if fld (s.pkgReg (.vifimt i)) 63 48 ≤ v || !s.entryReadable e || !isSystem (s.peekN e 8) || ctl / 4 ≠ 0 then s.irqDrop i
  else if ctl % 2 = 1 then s.poke (e + 12) [BitVec.ofNat 8 (ctl ||| 2)]
  else s.sendMessage e

/-- Raises an entry unless its number is 0xFFFF, which means none. -/
def State.raiseUnless (s : State) (i v : Nat) : State := if v = 0xFFFF then s else s.raise i v

/-! ## Kicks and wakes (R353, R354) -/

/-- The slot that holds a queue: die and slot. -/
def State.slotOf (s : State) (qid : Nat) : Option (Nat × Nat) :=
  s.dies.findSome? (fun p => (p.2.slots.pick (fun k q => q.st ≠ .unloaded && fld (s.dieReg p.1 (.slotq k)) 11 0 = qid)).map (fun q => (p.1, q.1)))

/-- The front end of a die serves kicks: its own bit and Norem's are set (R431). -/
def State.feReady (s : State) (d : Nat) : Bool := (s.dieReg d .dready).getLsbD 23 && (s.dieReg d .dready).getLsbD 24

/-- The effect of a kick or wake on a queue that may take it: its slot reads WR, or PEND is set and the lease holder's mailbox is
interrupted. A slot of a die whose front end or Norem is not ready is served once both are (R431). -/
def State.kickQueue (s : State) (q : Queue) : State :=
  match s.slotOf q.qid with
  | some (d, k) =>
    if s.feReady d then
      let wr : W32 := BitVec.ofNat 32 (s.peekN (q.qcb + qcbWR) 4)
      s.modDie d (fun x => { x with slots := x.slots.put k { x.slots.get Reset.slot k with wr := wr } })
    else
      (s.orWord (q.qcb + qcbPEND) 1).modDie d (fun x => { x with slots := x.slots.put k { x.slots.get Reset.slot k with kicked := true } })
  | none =>
    let s := s.orWord (q.qcb + qcbPEND) 1
    let l := s.pkgReg .lease
    let d := fld l 1 0
    if l.getLsbD 2 then s.setDieReg d .mbox (setFld (s.dieReg d .mbox) 32 32 1) else s

/-- VIF, EN and DBG of a registered queue as the hardware reads them, which reads the shadow only (R351). -/
def State.shadowVif (s : State) (q : Queue) : Nat := bits (s.peekN (q.qcb + qcbSHADOW + 13) 2) 9 4
def State.shadowEn (s : State) (q : Queue) : Bool := bitOf (s.peekN (q.qcb + qcbSHADOW + 14) 1) 2
def State.shadowDbg (s : State) (q : Queue) : Bool := bitOf (s.peekN (q.qcb + qcbSHADOW + 14) 1) 3

/-- VIF and EN of a registered queue's working area, which Norem reads. -/
def State.qcbVif (s : State) (q : Queue) : Nat := bits (s.peekN (q.qcb + 17) 2) 9 4
def State.qcbEn (s : State) (q : Queue) : Bool := bitOf (s.peekN (q.qcb + 18) 1) 2
def State.queue? (s : State) (qid : Nat) : Option Queue := s.queues.find? (fun q => q.qid = qid)

/-- The queue an interface names, where it is registered, its own and enabled, the interface Active and the package whole. -/
def State.ownQueue (s : State) (vif qid : Nat) : Option Queue :=
  (s.queue? qid).filter (fun q => s.shadowVif q = vif && s.shadowEn q && s.vifState vif = vifActive && !s.fatal)

/-! ## Fault records (R383) -/

/-- What a trap carries. -/
structure TrapInfo where
  cls  : Nat
  sub  : Nat
  code : Nat
  /-- LANE: lowest failing lane, 0xFF for a check that is not a lane's. -/
  lane : Nat
  addr : W64
  version : Nat
  /-- The lanes that failed the check, with their addresses. -/
  failed : List (Nat × W64)
  /-- A stack-cache fault, which nothing resolves (R335). -/
  stack : Bool
  deriving DecidableEq, Repr

/-- A trap of a uniform or decode check. -/
def TrapInfo.unit (cls sub : Nat) (addr : W64) : TrapInfo :=
  { cls := cls, sub := sub, code := 0, lane := 0xFF, addr := addr, version := 0, failed := [], stack := false }

/-- A trap of a per-lane check. -/
def TrapInfo.lanes (cls sub version : Nat) (failed : List (Nat × W64)) : TrapInfo :=
  let f := failed.headD (0xFF, 0)
  { cls := cls, sub := sub, code := 0, lane := f.1, addr := f.2, version := version, failed := failed, stack := false }

/-- A fault of the stack cache at an address (R335). -/
def TrapInfo.stackFault (addr : Nat) : TrapInfo := { TrapInfo.unit 1 1 (BitVec.ofNat 64 addr) with stack := true }

/-- Classes and subcodes resolved by replay (R381). -/
def TrapInfo.replay (t : TrapInfo) : Bool := t.cls = 1 && (t.sub = 1 || t.sub = 2 || t.sub = 7) && !t.stack

/-- A handler may run (R381). -/
def TrapInfo.handled (t : TrapInfo) : Bool := !t.stack && t.cls < 12 && !(t.cls = 1 && (t.sub = 1 || t.sub = 2 || t.sub = 7))

/-- WGID of a workgroup (R55). -/
def Group.wgid (k : Group) : Nat := k.x + k.y * 2 ^ 16 + k.z * 2 ^ 32

/-- WGID as a warp reads it. -/
def State.wgidOf (s : State) (w : Warp) : Nat :=
  match s.group? w.wg with
  | some k => k.wgid
  | none => 0

/-- The 128 bytes of a fault record of a unit. -/
def faultBytes (s : State) (g : Nat) (w : Warp) (u : WUnit) (l : Launch) (t : TrapInfo) (flags : Nat) : List Byte :=
  leBytes 1 t.cls ++ leBytes 1 t.sub ++ leBytes 1 flags ++ leBytes 1 t.lane ++ leBytes 4 t.code
    ++ leBytes 8 u.pc.toNat ++ leBytes 8 u.rpc.toNat ++ leBytes 4 w.rcount.toNat ++ leBytes 4 w.lseq ++ leBytes 8 t.addr.toNat
    ++ leBytes 4 t.version ++ leBytes 4 u.exec.toNat ++ leBytes 8 (s.wgidOf w)
    ++ leBytes 2 (dieOf g + coreOf g % 48 * 4 + g % 128 * 256) ++ leBytes 1 u.sub ++ leBytes 1 0 ++ leBytes 4 l.qid
    ++ leBytes 8 s.rtime ++ leBytes 8 w.strokes ++ List.replicate 48 0

/-- The fault area of a launch's queue. -/
def Launch.area (l : Launch) : FaultArea :=
  { qcb := l.qcb, root := l.root, fbase := l.fbase, flog2 := l.flog2, vif := l.vif, qid := l.qid }

/-- A fault record, written or lost, is counted in FAULTS, and FVEC is raised (R361). -/
def State.countFault (s : State) (l : FaultArea) : State :=
  let s := s.addWord (l.qcb + qcbFAULTS) 1
  s.raiseUnless l.vif (fld (s.pkgReg (.vifcfg l.vif)) 31 16)

/-- Writes a record at the next place of a queue's fault area, then counts it in FAULTS and raises FVEC, both of which follow the record (R375). A
record whose address fails a row of R78 is lost, but counted (R361); one that meets a copy-on-write waits for it, and so does its count. -/
def State.postFault (s : State) (d : Nat) (l : FaultArea) (bs : List Byte) : State :=
  let n := s.peekN (l.qcb + qcbFAULTS) 4
  let va := l.fbase + BitVec.ofNat 64 (n % 2 ^ l.flog2 * 128)
  match s.xlatDie d l.root va .write false with
  | (_, .fail _ _) => s.countFault l
  | (s1, .ok pa pte addr) =>
    match s1.cowTouch addr with
    | (s2, .clear) => ((s2.touch addr true).writeMem (s2.homeDie pa) (pteScope pte) pa bs).countFault l
    | (s2, .wait) => s2.queueLate addr { who := .hardware, core := none, die := d, lane := 0, va := va, off := pa % 65536, op := .record l bs }
    | (_, .noFrame) | (_, .bad) => s.countFault l

/-- Reports a trap of a unit. -/
def State.postTrap (s : State) (g : Nat) (w : Warp) (u : WUnit) (t : TrapInfo) (flags : Nat) : State :=
  match s.launchOf g with
  | some (_, l) => s.postFault (dieOf g) l.area (faultBytes s g w u l t flags)
  | none => s

/-! ## Launch status -/

/-- Status codes (R271, R361, R380). -/
def stMEMFAULT : Nat := 1
def stSCOPEFAULT : Nat := 2
def stBADVER : Nat := 3
def stNOFRAME : Nat := 4
def stNOT_READY : Nat := 5
def stCONTEXT_LOST : Nat := 6
def stBADREC : Nat := 7
def stWDOG : Nat := 8
def stHALTED : Nat := 9
def stTIMEOUT : Nat := 10
def stBADMAP : Nat := 11

/-- Records the first failure of a launch. -/
def Launch.fail (l : Launch) (code : Nat) : Launch := if l.status = 0 then { l with status := BitVec.ofNat 64 code } else l

/-- A launch-table entry (R391). -/
def Launch.image (l : Launch) : List Byte :=
  ((List.range 32).flatMap (fun i => leBytes 8 (l.record.getD i 0).toNat)) ++ leBytes 4 l.nextWg ++ leBytes 4 l.live ++ leBytes 8 l.status.toNat
    ++ leBytes 4 l.affmiss ++ leBytes 4 l.covcnt ++ leBytes 1 (1 + (if l.cursor then 2 else 0)) ++ List.replicate 231 0

/-- Address of a launch-table entry. -/
def State.ltabAddr (s : State) (k : Nat) : Nat := fld (s.dieReg (k / 1024) .ltab) 47 12 * 4096 + k % 1024 * 512

/-- Writes a launch and its entry. -/
def State.setLaunch (s : State) (k : Nat) (l : Launch) : State := ({ s with launches := s.launches.put k l }).poke (s.ltabAddr k) l.image

/-- Changes a launch, and its entry where the entry shows it. -/
def State.modLaunch (s : State) (k : Nat) (f : Launch → Launch) : State :=
  match s.launch? k with
  | some l => if (f l).image = l.image then { s with launches := s.launches.put k (f l) } else s.setLaunch k (f l)
  | none => s

/-- Removes a launch; its entry is no longer valid. -/
def State.dropLaunch (s : State) (k : Nat) : State := ({ s with launches := s.launches.del k }).poke (s.ltabAddr k + 280) [0]

/-! ## Results of long-latency instructions (R24 to R26) -/

/-- The lanes of a destination a later instruction wrote inside the window. -/
def Look.overMask (k : Look) (d : Dest) : W32 := (k.wover.filter (fun p => p.1 = d)).foldl (fun m p => m ||| p.2) 0

/-- Where the free values that belong to a destination begin. -/
def Dest.item : Dest → Nat
  | .v n => n * 32
  | .s n => 65536 + n
  | .w n => 66000 + n

/-- Writes one result. In a lane that a later instruction wrote inside the window, either value is kept, a choice of its own in each lane of
each destination (R25). -/
def writeResult (s : State) (g sub : Nat) (k : Look) (d : Dest) (v : Lanes) : State :=
  let late : W32 := k.overMask d
  let keep := maskOf (fun l => inMask late l && (s.freeVal (d.item + l)).getLsbD 0)
  match d with
  | .v n => s.modWarp g (fun w => if w.mapped n then w.vset n (k.lanes &&& ~~~keep) v else w)
  | .s n => if inMask keep 0 then s else s.modWarp g (fun w => w.setSreg n (v.at 0))
  | .w n => if inMask keep 0 then s else s.setWreg g sub n (v.at 0)

/-- Drops an outstanding entry from every unit and split entry of a warp: the children of a split inherit it, and the result is
written once (R26). -/
def State.dropLook (s : State) (g id : Nat) : State :=
  let keep (ks : List Look) : List Look := ks.filter (fun x => x.id ≠ id)
  let s := s.modWarp g (fun w => { w with units := w.units.map (fun u => { u with looks := keep u.looks }) })
  s.modCore (coreOf g) (fun c => { c with split := c.split.each (fun e => if e.warp = g then { e with looks := keep e.looks } else e) })

/-- Every outstanding entry of a warp, as its units and its split entries hold it. -/
def State.allLooks (s : State) (g : Nat) : List Look :=
  (match s.warp? g with
   | some w => w.units.flatMap (fun u => u.looks)
   | none => []) ++ (s.core (coreOf g)).split.flatMap (fun p => if p.2.warp = g then p.2.looks else [])

/-- Writes the results and the flags of one outstanding entry and drops it. -/
def State.writeLook (s : State) (g : Nat) (sub : Nat) (k : Look) : State :=
  let us : List Look := (s.allLooks g).filter (fun x => x.id = k.id)
  if us.isEmpty then s
  else
    let k : Look := { k with wover := us.flatMap (fun x => x.wover) }
    let s := (k.dests.foldl (fun s p => writeResult s g sub k p.1 p.2) s).modWarp g (fun w => w.flag k.flags)
    (if k.wover.isEmpty then s else s.tickFree).dropLook g k.id

/-- Writes every ready result whose entry satisfies a test, in the order of issue. -/
def State.writeLooks (s : State) (g sub : Nat) (p : Look → Bool) : State :=
  match s.unit? g sub with
  | none => s
  | some u => (u.looks.filter (fun k => k.ready && p k)).foldl (fun s k => s.writeLook g sub k) s

/-- Writes every outstanding result of a unit (R26). -/
def State.forceLooks (s : State) (g sub : Nat) : State := s.writeLooks g sub (fun _ => true)

/-- A result of the unit is still to be produced by a queued operation. -/
def WUnit.owes (u : WUnit) : Bool := u.looks.any (fun k => !k.ready)

/-- The unit waits for every one of its results before it does anything more (R24, R26). -/
def State.holdLooks (s : State) (g sub : Nat) : State := s.modUnit g sub (fun u => { u with looks := u.looks.map (fun k => { k with left := 0 }) })

/-! ## Strokes -/

/-- The unit is the one a debugger steps (R405). -/
def State.stepping (s : State) (g sub : Nat) : Bool := (s.die (dieOf g)).dbg.any (fun r => r.slot = g && r.cur = some sub)

/-- Keeps the status of a step: 5 for a trap, 4 for a resource wait (R405). -/
def State.noteStep (s : State) (g sub : Nat) (e : StrokeEnd) (st : USt) : State :=
  if s.stepping g sub then
    let code : Nat := match e, st with
      | .trap _, _ => 5
      | _, .blocked _ => 4
      | _, _ => 0
    s.modDie (dieOf g) (fun x => { x with dbg := x.dbg.map (fun (r : DbgRun) => { r with status := code }) })
  else s

/-- Ends a unit's stroke: its packets are written, and the slot is released (R20, R27, R411). -/
def State.endStroke (s : State) (g sub : Nat) (e : StrokeEnd) (st : USt) : State :=
  match s.unit? g sub with
  | none => s
  | some u =>
    let qid := match s.launchOf g with
      | some (_, l) => l.qid
      | none => 0
    let s := s.noteStep g sub e st
    let s := if s.traced (coreOf g) qid then s.traceStroke g sub u.count u e else s
    let s := s.modUnit g sub (fun u => { u with st := st, count := 0, xsets := [] })
    if s.focus = some (g, sub) then { s with focus := none } else s

/-- Begins a stroke: the wait and counters of R23 and R43, and the view of the workgroup scalars (R51). -/
def State.beginStroke (s : State) (g sub : Nat) : State :=
  match s.warp? g with
  | none => s
  | some w =>
    let ws := match s.group? w.wg with
      | some k => k.wregs
      | none => []
    let s := s.modWarp g (fun w => { w with strokes := (w.strokes + 1) % 2 ^ 48 })
    { s.modUnit g sub (fun u => { u with st := .issuing, wait := 0, count := 0, spc := u.pc, sexec := u.exec, xsets := [], wview := ws, yielded := false })
      with focus := some (g, sub) }

/-! ## SUBIDs and the split table (R16) -/

/-- The split entries of a warp. -/
def State.splits (s : State) (g : Nat) : List (Nat × Split) := (s.core (coreOf g)).split.filter (fun p => p.2.warp = g)

/-- The SUBIDs a warp holds. -/
def State.heldSubs (s : State) (g : Nat) : List Nat :=
  (match s.warp? g with
   | some w => w.units.map (·.sub)
   | none => []) ++ (s.splits g).map (fun p => p.2.parentSub)

/-- The lowest SUBID a warp does not hold. -/
def State.freeSub (s : State) (g : Nat) : Option Nat := (List.range 8).find? (fun k => !(s.heldSubs g).contains k)

/-- The lowest free entry of a core's split table. -/
def State.freeSplit (s : State) (c : Nat) : Option Nat := (List.range 256).find? (fun k => ((s.core c).split.find? k).isNone)

/-! ## Barriers (R205, R206) -/

/-- A warp of a workgroup has every live unit recorded. -/
def allRecorded (w : Warp) (got : Nat → Bool) : Bool :=
  let live := w.units.filter (fun u => u.st ≠ .fusing)
  !live.isEmpty && live.all (fun u => got u.sub)

/-- The warps of a workgroup that have not exited, by index. -/
def State.liveWarps (s : State) (k : Group) : List (Nat × Warp) :=
  ((List.range k.warps.length).zip k.warps).filterMap (fun p => (p.2.bind s.warp?).map (fun w => (p.1, w)))

/-- Brings one barrier up to date: arrivals, then completion (R205). -/
def stepBarrier (s : State) (k : Group) (b : Barrier) : Barrier :=
  let live := s.liveWarps k
  let now := (live.filter (fun p => !b.arrived.contains p.1 && allRecorded p.2 (fun sub => b.units.contains (p.1, sub)))).map (·.1)
  let b := { b with arrived := b.arrived ++ now }
  if !b.arrived.isEmpty && live.all (fun p => b.arrived.contains p.1) then { b with phase := b.phase + 1, units := [], arrived := [] } else b

/-- Brings the barriers and group arrivals of a workgroup up to date. -/
def State.checkBars (s : State) (wg : Nat) : State :=
  match s.group? wg with
  | none => s
  | some k => s.setGroup wg { k with bars := k.bars.map (stepBarrier s k) }

/-- The workgroup of a launch with a linear identifier, where it is on a core. -/
def State.groupAt (s : State) (launch lin : Nat) : Option (Nat × Group) :=
  s.groups.pick (fun _ k => k.launch = launch && k.lin = lin && !k.relaunched)

/-- A workgroup has arrived at a group entry: each of its warps that has not exited has every live unit recorded (R33). -/
def groupArrived (s : State) (k : Group) (e : Nat) : Bool :=
  (s.liveWarps k).all (fun p => k.garrived.contains (e, p.1) || allRecorded p.2 (fun sub => k.garr.contains (e, p.1, sub)))

/-- Records the warps that have arrived at an entry. -/
def markArrived (s : State) (k : Group) (e : Nat) : Group :=
  let now := (s.liveWarps k).filter (fun p => !k.garrived.contains (e, p.1) && allRecorded p.2 (fun sub => k.garr.contains (e, p.1, sub)))
  { k with garrived := k.garrived ++ now.map (fun p => (e, p.1)) }

/-- Completes a group entry when every listed workgroup has arrived or counts as exited (R33). -/
def State.checkEntry (s : State) (launch e : Nat) : State :=
  match s.launch? launch with
  | none => s
  | some l =>
    let list := l.groups.getD e []
    let s := list.foldl (fun s lin => match s.groupAt launch lin with
      | some (wg, k) => s.setGroup wg (markArrived s k e)
      | none => s) s
    let here (lin : Nat) : Bool := l.gone.contains lin || (match s.groupAt launch lin with
      | some (_, k) => groupArrived s k e
      | none => false)
    let any := list.any (fun lin => match s.groupAt launch lin with
      | some (_, k) => k.garrived.any (fun p => p.1 = e)
      | none => false)
    if any && list.all here then
      let s := list.foldl (fun s lin => match s.groupAt launch lin with
        | some (wg, k) => s.setGroup wg { k with garr := k.garr.filter (fun p => p.1 ≠ e), garrived := k.garrived.filter (fun p => p.1 ≠ e) }
        | none => s) s
      s.modLaunch launch (fun l => { l with gdone := l.gdone.set e (l.gdone.getD e 0 + 1) })
    else s

/-- Brings every group entry that lists a workgroup up to date. -/
def State.checkGbars (s : State) (launch lin : Nat) : State :=
  match s.launch? launch with
  | none => s
  | some l => (List.range l.groups.length).foldl (fun s e => if (l.groups.getD e []).contains lin then s.checkEntry launch e else s) s

/-- Arrivals may have changed in a workgroup. -/
def State.checkGroup (s : State) (wg : Nat) : State :=
  match s.group? wg with
  | none => s
  | some k => (s.checkBars wg).checkGbars k.launch k.lin

/-! ## The end of a warp and of a workgroup (R45, R60, R199) -/

/-- Appends bytes to the leave ring of a die, or keeps them until there is room (R390, R393). -/
def State.postLeave (s : State) (d : Nat) (e : List Byte) : State :=
  let ring := s.dieReg d .ctxsring
  let tail := s.dieReg d .ctxstail
  if (s.die d).leaving.isEmpty && ringHeld (s.dieReg d .ctxshead) tail < ringSize ring then
    (s.poke (ringBase ring + tail.toNat % ringSize ring * 16) e).bump d .ctxstail
  else (s.modDie d (fun x => { x with leaving := x.leaving ++ [e] })).callNorem d .leaveRing

/-- A leave-ring entry (R390). -/
def leaveEntry (block wglin lidx kind : Nat) : List Byte :=
  leBytes 8 block ++ leBytes 4 wglin ++ leBytes 2 lidx ++ leBytes 1 kind ++ [0]

/-- An engine command still works on a tile of a workgroup (R90). -/
def State.tilesBusy (s : State) (wg : Nat) : Bool := s.engines.any (fun p => p.2.wg = wg && p.2.tile.isSome)

/-- The resources of a workgroup return to their core (R45, R85, R90, R91). -/
def freeResources (c : Core) (k : Group) : Core :=
  { c with scrUse := c.scrUse.filter (fun p => p ≠ (k.scrBase, k.scrSize)), tileUse := c.tileUse.filter (fun p => p ≠ (k.tileBase, k.tiles)),
           accUse := c.accUse.filter (fun p => p ≠ (k.accBase, k.accRows)), scratch := Store.clear c.scratch k.scrBase k.scrSize,
           staged := c.staged.filter (fun e => !(k.scrBase ≤ e.elem * 8 && e.elem * 8 < k.scrBase + k.scrSize)),
           acc := c.acc.filter (fun p => !(k.accBase * 64 ≤ p.1 && p.1 < (k.accBase + k.accRows) * 64)),
           tiles := c.tiles.filter (fun p => !(k.tileBase ≤ p.1 && p.1 < k.tileBase + k.tiles)) }

/-- PREQ.GO reads 0 once every workgroup that was pre-empted has left the die (R392). -/
def State.settlePreq (s : State) (d : Nat) : State :=
  let r := s.dieReg d .preq
  let busy := s.groups.any (fun p => p.2.core / 48 = d && p.2.pre ≠ .running && (s.launch? p.2.launch).any (fun l => l.qid = fld r 11 0))
  if r.getLsbD 12 && !busy then s.setDieReg d .preq (setFld r 12 12 0) else s

/-- A workgroup whose warps have all ended leaves its core, once no engine command works on its tiles. A workgroup that leaves by
pre-emption stays counted in LIVE (R393). -/
def State.reapGroup (s : State) (wg : Nat) : State :=
  match s.group? wg with
  | none => s
  | some k =>
    if k.warps.any Option.isSome || s.tilesBusy wg then s
    else
      let s := s.modCore k.core (fun c => freeResources c k)
      let s := ({ s with groups := s.groups.del wg }).settlePreq (k.core / 48)
      if k.relaunched then s
      else
        let s := s.modLaunch k.launch (fun l => { l with live := l.live - 1, gone := l.gone ++ [k.lin] })
        s.checkGbars k.launch k.lin

/-- A warp that has no unit left and no matrix operation outstanding leaves its slot (R199): its stack cache is written back, its
watch entries are freed (R209), its block returns through the leave ring, and it counts as arrived at every barrier. -/
def State.reapWarp (s : State) (g : Nat) : State :=
  match s.warp? g with
  | none => s
  | some w =>
    if !w.units.isEmpty || w.mops.any (fun o => !o.done) then s
    else
      let s := (s.stackLeaveAll g).settleLate g (fun _ => true)
      let waiter (n : Nat) : Bool := n % 2 ^ 15 = dieOf g + coreOf g % 48 * 4 + g % 128 * 256
      let s := { s with dies := s.dies.each (fun x => { x with watches := x.watches.filter (fun e => !(e.2.kind = 0 && waiter e.2.waiter)) }) }
      let s := s.modCore (coreOf g) (fun c => { c with split := c.split.filter (fun p => p.2.warp ≠ g) })
      let (lin, lidx) := match s.group? w.wg with
        | some k => (k.lin, k.launch % 1024)
        | none => (0, 0)
      let s := s.postLeave (dieOf g) (leaveEntry w.block lin lidx 3)
      let s := { s with warps := s.warps.del g }
      let s := s.modGroup w.wg (fun k => { k with warps := k.warps.map (fun x => if x = some g then none else x) })
      (s.checkGroup w.wg).reapGroup w.wg

/-- Removes units of a warp, at a place where they may end. -/
def State.dropUnits (s : State) (g : Nat) (p : WUnit → Bool) : State :=
  match s.warp? g with
  | none => s
  | some w =>
    let keep := w.units.filter (fun u => !p u)
    let s := s.setWarp g { w with units := keep }
    let s := match s.focus with
      | some (g', sub) => if g' = g && !(keep.any (fun u => u.sub = sub)) then { s with focus := none } else s
      | none => s
    if keep.isEmpty then
      (s.modCore (coreOf g) (fun c => { c with split := c.split.filter (fun p => p.2.warp ≠ g) })).reapWarp g
    else s

/-- Ends a workgroup as R45 lays down: its warps stop at once, but a unit in the middle of a stroke at its end. -/
def State.endGroup (s : State) (wg : Nat) : State :=
  match s.group? wg with
  | none => s
  | some k =>
    let s := s.setGroup wg { k with ending := true }
    let s := (k.warps.filterMap id).foldl (fun s g => s.dropUnits g (fun u => u.st ≠ .issuing)) s
    (s.checkGroup wg).reapGroup wg

/-- The workgroup of a warp is ending: the warp stops at its stroke boundary, and nothing is recorded for it (R45, R377, R380). -/
def State.endsNow (s : State) (w : Warp) : Bool := (s.group? w.wg).any (fun k => k.ending)

/-- Halts a warp: its units end, its launch fails with `code`, and its workgroup ends (R382 step 4, R45). -/
def State.haltWarp (s : State) (g code : Nat) : State :=
  match s.warp? g with
  | none => s
  | some w =>
    let s := match s.group? w.wg with
      | some k => s.modLaunch k.launch (fun l => l.fail code)
      | none => s
    (s.dropUnits g (fun _ => true)).endGroup w.wg

/-! ## Divergence (R16 to R18, R193) -/

/-- What a fused parent takes of a child that arrives: lanes, owned set and outstanding results. A child that has left the parent's region
makes the parent enter a new one, so that no replay repeats what the child ended a region for. DESIGN CHOICE (log 23): the spec does not say
which region a fused unit is in. -/
def Split.take (e : Split) (u : WUnit) : Split :=
  { e with arrived := e.arrived ||| u.exec, owned := e.owned ||| u.owned, left := e.left - 1, anyArrived := true,
           looks := e.looks.map (fun x => { x with wover := x.wover ++ (u.looks.filter (fun k => k.id = x.id)).flatMap (fun k => k.wover) })
             ++ (u.looks.filter (fun k => !e.looks.any (fun x => x.id = k.id))).map (fun k => { k with left := 0 }),
           enters := e.enters || u.enters || u.moved, moved := e.moved || u.moved }

/-- The unit a fused entry makes live again (R17). -/
def Split.parent (e : Split) : WUnit :=
  { sub := e.parentSub, pc := e.rpc, exec := e.arrived, owned := e.owned, st := .ready, entry := e.parentEntry, serial := e.serial,
    rpc := e.regPc, ckpt := e.ckpt, enters := e.enters, entered := false, moved := e.moved, wait := 0, count := 0, spc := e.rpc, sexec := e.arrived, looks := e.looks,
    wview := [], xsets := [], yielded := false, stopAt := false }

/-- The deferred names of a warp that is no longer divergent go onto its pending list (R61). -/
def State.undiverge (s : State) (g : Nat) : State := if s.divergent g then s else s.modWarp g Warp.settleDeferred

/-- A divergent unit takes split entry `e` (R16): the taken child keeps its SUBID, the other child takes `k`. The parent keeps
the lanes it owns outside EXEC. -/
def State.splitUnit (s : State) (g sub e k : Nat) (taken : W32) (target other join : W64) : State :=
  match s.unit? g sub with
  | none => s
  | some u =>
    let x : Split := { warp := g, parentEntry := u.entry, parentSub := sub, rpc := join, exec := u.exec, arrived := 0,
                       owned := u.owned &&& ~~~u.exec, left := 2, taken := sub, other := k, looks := [], serial := u.serial,
                       regPc := u.rpc, ckpt := u.ckpt, enters := false, moved := u.moved, anyArrived := false }
    let child (n : Nat) (pc : W64) (m : W32) : WUnit :=
      { u with sub := n, pc := pc, exec := m, owned := m, entry := some e, serial := [], wait := 0, moved := false }
    let s := s.modCore (coreOf g) (fun c => { c with split := c.split.put e x })
    let s := s.modWarp g (fun w => { w with units := modUnitOf w.units sub (fun _ => child sub target taken) ++ [child k other (u.exec &&& ~~~taken)] })
    s.syncChild g sub k

/-- A barrier forgets a unit that is no more, so that a later unit of its SUBID starts afresh (R205). -/
def Barrier.forget (idx sub : Nat) (b : Barrier) : Barrier :=
  { b with units := b.units.filter (fun p => p ≠ (idx, sub)),
           bara := b.bara.map (fun p => if p.1 = idx then (p.1, p.2.1, p.2.2.filter (· ≠ sub)) else p) }

/-- A SUBID of a warp becomes free: the barriers and group entries of its workgroup forget the unit that held it. -/
def State.forgetSub (s : State) (g sub : Nat) : State :=
  match s.warp? g with
  | some w =>
    (s.modGroup w.wg (fun k => { k with bars := k.bars.map (Barrier.forget w.wgw sub), garr := k.garr.filter (fun p => p.2 ≠ (w.wgw, sub)) })).settleLate
      g (· = sub)
  | none => s

/-- Pops the serial records of a unit that exits: STKPTR returns to where it stood before the oldest (R18, R198). -/
def State.popSerial (s : State) (g : Nat) (serial : List W64) : State :=
  match serial.getLast? with
  | some a => s.modWarp g (fun w => { w with stkptr := a + 32 })
  | none => s

/-- Resolves a split entry all of whose children have arrived or exited (R17). A parent left with no lane exits in turn, its serial records
with it, which may resolve the entry above it; one that still owns lanes outside the EXEC it divided lives on with an empty EXEC, and runs the
other side of a serial record there (DEDUCED, log 23). The nesting is at most eight deep. -/
def resolveSplit : Nat → State → Nat → Nat → State
  | 0, s, _, _ => s
  | n + 1, s, g, e =>
    match (s.core (coreOf g)).split.find? e with
    | none => s
    | some x =>
      if x.left ≠ 0 then s
      else
        let s := s.modCore (coreOf g) (fun c => { c with split := c.split.del e })
        let s := s.modWarp g (fun w => { w with units := w.units.filter (fun u => !(u.st = .fusing && u.entry = some e)) })
        let s := s.forgetSub g x.other
        if x.anyArrived || x.owned ≠ 0 then
          let s := s.modWarp g (fun w => { w with units := w.units ++ [x.parent] })
          s.undiverge g
        else
          let s := s.popSerial g x.serial
          match x.parentEntry with
          | none => s.undiverge g
          | some p => resolveSplit n (s.modCore (coreOf g) (fun c => { c with split := c.split.modAt p (fun y => { y with left := y.left - 1 }) })) g p

/-- A unit reaches its entry's reconvergence PC and waits to fuse (R17). -/
def State.arrive (s : State) (g sub e : Nat) : State :=
  match s.unit? g sub with
  | none => s
  | some u =>
    let s := s.modCore (coreOf g) (fun c => match c.split.find? e with
      | some x => { c with split := c.split.put e (x.take u) }
      | none => c)
    let s := (s.modUnit g sub (fun u => { u with st := .fusing, looks := [], serial := [] })).settleLate g (· = sub)
    let s := resolveSplit 9 s g e
    match s.warp? g with
    | some w => s.checkGroup w.wg
    | none => s

/-- The last unit of a warp has exited: the warp ends, or halts with MEMFAULT where a line of its stack cannot be written back (R335). -/
def State.lastExit (s : State) (g : Nat) (w : Warp) (u : WUnit) : State :=
  match s.stackStuck g with
  | some a => if s.endsNow w then s.dropUnits g (fun _ => true) else (s.postTrap g w u (TrapInfo.stackFault a) 0).haltWarp g stHALTED
  | none => s.dropUnits g (fun _ => true)

/-- A unit left with no owned lane exits (R198): its serial records are popped, and it counts as arrived at its entry. -/
def State.exitUnit (s : State) (g sub : Nat) : State :=
  match s.unit? g sub with
  | none => s
  | some u =>
    let s := (s.popSerial g u.serial).forceLooks g sub
    let s := (s.modWarp g (fun w => { w with units := w.units.filter (fun x => x.sub ≠ sub) })).forgetSub g sub
    let s := match u.entry with
      | some e => resolveSplit 9 (s.modCore (coreOf g) (fun c => match c.split.find? e with
          | some x => { c with split := c.split.put e { x with left := x.left - 1 } }
          | none => c)) g e
      | none => s.undiverge g
    match s.warp? g with
    | some w => if w.units.isEmpty then s.lastExit g w u else s.checkGroup w.wg
    | none => s

/-! ## Taking a trap (R382, R385, R388) and returning (R213) -/

/-- The dwords of a handler frame at F. -/
def handlerFrame (u : WUnit) (t : TrapInfo) (f : Nat) : List (Nat × W64) :=
  laneIds.flatMap (fun l =>
    [(f + 8 * l, BitVec.ofNat 64 (t.cls + t.sub * 2 ^ 8 + t.code * 2 ^ 16)), (f + 256 + 8 * l, u.pc),
     (f + 512 + 8 * l, BitVec.ofNat 64 (u.exec.toNat + u.sub * 2 ^ 32)),
     (f + 768 + 8 * l, ((t.failed.find? (fun p => p.1 = l)).map (·.2)).getD 0)])

/-- Halts a warp with its fault record (R382 step 4). -/
def State.haltTrap (s : State) (g sub : Nat) (t : TrapInfo) (flags : Nat) : State :=
  match s.warp? g, s.unit? g sub with
  | some w, some u => (s.postTrap g w u t flags).haltWarp g (if t.cls = 10 then stWDOG else stHALTED)
  | _, _ => s

/-- A fault resolved by replay makes the warp Faulted (R385). -/
def State.faultWarp (s : State) (g sub : Nat) (t : TrapInfo) : State :=
  match s.warp? g, s.unit? g sub with
  | some w, some u =>
    let s := s.postTrap g w u t (1 + (if w.handler then 2 else 0))
    (s.modWarp g (fun w => { w with faulted := true })).modUnit g sub (fun u => { u with st := .faulted })
  | _, _ => s

/-- Enters the trap handler (R388), or halts when its frame does not fit. -/
def State.enterHandler (s : State) (g sub : Nat) (t : TrapInfo) : State :=
  match s.warp? g, s.unit? g sub with
  | some w, some u =>
    if w.stkptr.toNat < 1024 + w.stklim.toNat then s.haltTrap g sub t 4
    else
      let f := w.stkptr.toNat - 1024
      let (s, miss) := s.stackReach g (lineHeads ((handlerFrame u t f).map (·.1)))
      if let some a := miss then s.haltTrap g sub (TrapInfo.stackFault a) 0 else
      let w1 := ((w.stackPuts (handlerFrame u t f)).commit)
      let w2 := { w1 with stkptr := BitVec.ofNat 64 f, trappc := if t.cls = 11 then u.pc + 12 else u.pc, handler := true,
                          units := w1.units.map (fun x => if x.sub = sub
                            then { x with exec := x.owned, pc := w.traph, rpc := w.traph, ckpt := w.preds, enters := false, entered := true }
                            else { x with stopAt := true }) }
      (s.setWarp g w2).unsync g sub
  | _, _ => s

/-- A workgroup that is ending, or whose warps must stop, loses the unit whose stroke has just ended (R45). -/
def State.afterStroke (s : State) (g : Nat) : State :=
  match s.warp? g with
  | none => s
  | some w =>
    match s.group? w.wg with
    | some k => if k.ending then (s.dropUnits g (fun u => u.st ≠ .issuing)) else s
    | none => s

/-- Takes a trap on a unit, at its PC, precisely (R382). While a queued operation still owes the unit a result, the unit waits for it, and the
instruction issues again (R26). -/
def State.takeTrap (s : State) (g sub : Nat) (t : TrapInfo) : State :=
  if (s.unit? g sub).any WUnit.owes then s.holdLooks g sub else
  let s := s.forceLooks g sub
  let s := s.endStroke g sub (.trap t.cls) .ready
  match s.warp? g with
  | none => s
  | some w =>
    if s.endsNow w then s.afterStroke g
    else if t.replay then s.faultWarp g sub t
    else if w.traph ≠ 0 && t.handled && !w.handler && !(t.cls = 10 && w.grace) then s.enterHandler g sub t
    else s.haltTrap g sub t ((if w.handler then 2 else 0) + (if t.cls = 10 && w.grace then 8 else 0))

/-- Ends handler mode, so that the sibling units resume (R389). -/
def State.leaveHandler (s : State) (g : Nat) : State :=
  s.modWarp g (fun w => if w.handler then { w with handler := false, units := w.units.map (fun u => { u with stopAt := false }) } else w)

/-- A resumed unit's region starts again (R386): PC, rename table, and the predicates of the lanes it owns. -/
def State.replayUnit (s : State) (g sub : Nat) : State :=
  match s.unit? g sub with
  | none => s
  | some u =>
    let s := s.modWarp g (fun w => { (w.rewind (s.divergent g)) with
      preds := (List.range 8).map (fun k => (u.ckpt.getD k 0 &&& u.owned) ||| (w.pred k &&& ~~~u.owned)) })
    s.modUnit g sub (fun u => { u with pc := u.rpc, st := .ready, wait := 0, enters := false, entered := true, looks := [] })

end Sys2Proof.Machine
end

