-- ==== Sys2Proof/Machine/Operands.lean ====
section
/-! DEFINITION. Issuing one instruction of the focus unit: its operands (R159, R160), the order of its checks (R166, R384), allocation
(R57, R58), last use (R59), lookahead (R24, R25) and the end of its stroke (R20). Every instruction's meaning is a `Job`
given to `issue`. -/

namespace Sys2Proof

/-! ## What an instruction carries beside its operands -/

/-- The header of an instruction: S, E, LA, guard, the names its last-use bits free, and its length in bytes. -/
structure Hdr where
  s    : Bool
  e    : Bool
  la   : Nat
  grd  : Option Guard
  uses : List Nat
  len  : Nat
  deriving DecidableEq, Repr

/-- Names from an operand on, where it is a vector. -/
def Operand.run : Operand → Nat → List Nat
  | .v k, n => (List.range n).map (fun i => k.toNat + i)
  | _, _ => []

/-- The header of an instruction whose A, B and C name runs of `na`, `nb` and `nc` registers. -/
def Op.hdr (x : Op) (len na nb nc : Nat) : Hdr :=
  { s := x.s, e := x.e, la := x.la.toNat, grd := x.grd, len := len,
    uses := (if x.ula then x.a.run na else []) ++ (if x.ulb then x.b.run nb else []) ++ (if x.ulc then x.c.run nc else []) }

/-- Length of an extended form in bytes (R147). -/
def Op.bytes (x : Op) : Nat := if x.lit.isSome then 20 else 12

/-- Length of a base form in bytes. -/
def Bw.bytes (b : Bw) : Nat := if b.lit.isSome then 12 else 4

/-- The extended form a base word stands for (R150): files from its opcode, the literal in B's place, and D read as C where `acc`. -/
def Bw.op (opc : Nat) (acc : Bool) (b : Bw) : Op :=
  let u := BaseRule.of opc b.mod.toNat
  let get (f : File) (n : BitVec 6) : Operand := match f with
    | .v => .v (n.setWidth 11)
    | .s => .s (n.setWidth 7)
    | .none => .none
  let d := get u.d b.d
  { s := b.s, e := false, la := 0, grd := none, ula := b.ua, ulb := b.ub, ulc := false, mod := b.mod.setWidth 6,
    d := d, a := get u.a b.a, b := if b.lit.isSome then .lit else get u.b b.b, c := if acc then d else .none, func := 0, lit := b.lit }

end Sys2Proof

namespace Sys2Proof.Machine

/-! ## The context an instruction reads -/

/-- What an instruction sees at issue: the state after region commit, its warp and unit, and its active set. -/
structure Ctx where
  s   : State
  g   : Nat
  sub : Nat
  w   : Warp
  u   : WUnit
  act : W32
  len : Nat
  deriving DecidableEq, Repr

def Ctx.core (c : Ctx) : Nat := coreOf c.g
def Ctx.die (c : Ctx) : Nat := dieOf c.g
def Ctx.next (c : Ctx) : W64 := c.u.pc + BitVec.ofNat 64 c.len
/-- The active lanes, ascending. -/
def Ctx.lanes (c : Ctx) : List Nat := lanesOf c.act
/-- The active lanes that are not helpers (R47). -/
def Ctx.real (c : Ctx) : W32 := c.act &&& ~~~c.w.helpers
/-- The active helper lanes. -/
def Ctx.help (c : Ctx) : W32 := c.act &&& c.w.helpers

/-- The guard's lanes (R155). -/
def guardMask (w : Warp) (exec : W32) : Option Guard → W32
  | none => exec
  | some g => exec &&& (if g.neg then ~~~(w.pred g.dep.toNat) else w.pred g.dep.toNat)

/-- An outstanding result covers a destination (R25). -/
def WUnit.pends (u : WUnit) (d : Dest) : Bool := u.looks.any (fun k => k.dests.any (fun p => p.1 = d))

/-- A register whose value in every lane is `v`. -/
def constLanes (v : W64) : Lanes := Lanes.tab (fun _ => v)

/-- A vector name as the instruction reads it: an undefined value inside a lookahead window (R25). -/
def Ctx.vreg (c : Ctx) (n : Nat) : Lanes := if c.u.pends (.v n) then Lanes.tab (fun l => c.s.freeVal (n * 32 + l)) else c.w.vreg n

/-- A scalar as the instruction reads it. -/
def Ctx.sreg (c : Ctx) (n : Nat) : W64 := if c.u.pends (.s n) then c.s.freeVal (65536 + n) else c.w.sreg n

/-- A workgroup scalar as the instruction reads it. -/
def Ctx.wreg (c : Ctx) (n : Nat) : W64 := if c.u.pends (.w n) then c.s.freeVal (66000 + n) else c.u.wreg n

/-- Value of an operand that is the same in every lane; lane 0 of a vector. -/
def Ctx.scalar (c : Ctx) (lit : Option W64) : Operand → W64
  | .v n => (c.vreg n.toNat).at 0
  | .s n => c.sreg n.toNat
  | .w n => c.wreg n.toNat
  | .imm n => n.signExtend 64
  | .lit => lit.getD 0
  | .x _ => 0
  | .none => 0

/-- An operand as raw patterns (R160): an inline immediate is its sign-extended integer. -/
def Ctx.src (c : Ctx) (lit : Option W64) : Operand → Lanes
  | .v n => c.vreg n.toNat
  | o => constLanes (c.scalar lit o)

/-- Pattern of an integer in a floating format, rounded by RNE, without flags (R160). -/
def intPattern (code : Nat) (i : Int) : Nat := (roundVal code false .rne (.fin (i < 0) i.natAbs 0)).1

/-- An operand of a floating operation of a format code (R160). -/
def Ctx.fsrc (c : Ctx) (code : Nat) (lit : Option W64) : Operand → Lanes
  | .imm n => constLanes (BitVec.ofNat 64 (intPattern code n.toInt))
  | o => c.src lit o

/-- The `i`-th register of a run from an operand (R162, R218). -/
def Ctx.nth (c : Ctx) (o : Operand) (i : Nat) : Lanes :=
  match o with
  | .v n => c.vreg (n.toNat + i)
  | .s n => constLanes (c.sreg (n.toNat + i))
  | .w n => constLanes (c.wreg (n.toNat + i))
  | _ => zeroLanes

/-! ## What an instruction does -/

/-- The effect of an instruction that issues. -/
structure Fin where
  /-- The state after effects outside the unit's registers. -/
  s     : State
  /-- Vector results: name and values, written in `lanes`. -/
  vw    : List (Nat × Lanes)
  lanes : W32
  /-- Scalar and workgroup scalar results. -/
  sw    : List (Dest × W64)
  flags : W32
  /-- The next PC where it is not the instruction after. -/
  pc    : Option W64
  /-- The event that ends the stroke. -/
  ends  : Option StrokeEnd
  /-- A resource wait that resumes at the next instruction. -/
  wait  : Option Wait
  /-- Handle of results that are not known at issue. -/
  later : Option Nat
  /-- A new EXEC (R204, R411). -/
  exec  : Option W32
  /-- Where memory fixes how many registers a run has: names read, last uses, and names of the destination, beyond those the encoding shows
  (R59, R63). -/
  reads : List Nat
  frees : List Nat
  keeps : List Nat
  /-- What is done to the unit itself after the stroke has ended. -/
  post  : State → State

/-- How an instruction goes at issue. -/
inductive Run where
  | trap (t : TrapInfo)
  /-- A resource wait before the instruction, which reissues (R22). -/
  | block (s : State) (w : Wait)
  | go (f : Fin)

/-- An effect that changes nothing. -/
def Fin.nil (s : State) : Fin :=
  { s := s, vw := [], lanes := 0, sw := [], flags := 0, pc := none, ends := none, wait := none, later := none, exec := none, reads := [], frees := [],
    keeps := [], post := fun s => s }

/-- The properties of an instruction that its opcode fixes, and its effect. -/
structure Job where
  hdr  : Hdr
  /-- A region entry whatever E holds (RGN). -/
  entry : Bool
  /-- Ends a region implicitly (R60, R191, R297). -/
  endsRegion : Bool
  long : Bool
  /-- Vector names the encoding names as destinations, and as sources. -/
  dests : List Nat
  reads : List Nat
  /-- Check 6 of R165, made before the instruction changes any state, region commit included. -/
  decode : Ctx → Option TrapInfo
  uniform : Ctx → Option TrapInfo
  /-- Its own checks come after issue, and with them after the allocation of its destinations (R303). -/
  late : Bool
  run  : Ctx → Run

/-! ## Issue -/

/-- Commits the region a unit enters (R60), and records what a replay needs (R383, R386). -/
def State.commitUnit (s : State) (g sub : Nat) : State :=
  let s := (s.modWarp g Warp.commit).settleLate g (· = sub)
  match s.warp? g with
  | none => s
  | some w => s.modUnit g sub (fun u => { u with rpc := u.pc, ckpt := w.preds, entered := true, moved := true })

/-- A resource wait before the instruction: the stroke ends, and the unit blocks at it (R20, R22). -/
def State.blockUnit (s : State) (g sub : Nat) (w : Wait) : State := s.endStroke g sub .none (.blocked w)

/-- Names that an instruction must take from the pool (R57). -/
def newNames (w : Warp) (ns : List Nat) : List Nat := (ns.filter (fun n => !w.mapped n)).eraseDups

/-- Marks the outstanding results that a write falls on (R25). -/
def markOver (looks : List Look) (ws : List (Dest × W32)) : List Look :=
  looks.map (fun k => { k with wover := k.wover ++ ws.filter (fun p => k.dests.any (fun d => d.1 = p.1)) })

/-- Writes one scalar result. -/
def State.writeScalar (s : State) (g sub : Nat) (d : Dest) (v : W64) : State :=
  match d with
  | .s n => s.modWarp g (fun w => w.setSreg n v)
  | .w n => s.setWreg g sub n v
  | .v _ => s

/-- Writes the results and flags of an instruction, or sets them outstanding for a long-latency one (R24, R136). -/
def State.writeFin (s : State) (c : Ctx) (j : Job) (f : Fin) : State :=
  let ws : List (Dest × W32) := (if f.lanes = 0 then [] else f.vw.map (fun p => (Dest.v p.1, f.lanes))) ++ f.sw.map (fun p => (p.1, 1))
  let s := s.modUnit c.g c.sub (fun u => { u with looks := markOver (u.looks.map (fun k => { k with left := k.left - 1 })) ws })
  let s := if f.lanes = 0 then s else s.modWarp c.g (fun w => f.vw.foldl (fun w p => w.claim p.1) w)
  if ws.isEmpty then s.modWarp c.g (fun w => w.flag f.flags)
  else if j.long || f.later.isSome then
    let (h, s) := s.newHandle
    let dests := (if f.lanes = 0 then [] else f.vw.map (fun p => (Dest.v p.1, p.2))) ++ f.sw.map (fun p => (p.1, [p.2]))
    let k : Look := { id := f.later.getD (2 * h), left := j.hdr.la, lanes := f.lanes, dests := dests, ready := f.later.isNone, wover := [], flags := f.flags }
    s.modUnit c.g c.sub (fun u => { u with looks := u.looks ++ [k] })
  else
    let s := s.modWarp c.g (fun w => (f.vw.foldl (fun w p => w.vset p.1 f.lanes p.2) w).flag f.flags)
    f.sw.foldl (fun s p => s.writeScalar c.g c.sub p.1 p.2) s

/-- Completes an instruction's issue: results, flags, last uses, PC, and the end of its stroke. -/
def Ctx.finish (c : Ctx) (j : Job) (f : Fin) : State :=
  let s := f.s.writeFin c j f
  let unmapped := c.act ≠ 0 && (j.reads ++ f.reads).any (fun n => !c.w.mapped n)
  let div := s.divergent c.g
  let s := s.modWarp c.g (fun w =>
    let w := if unmapped then { w with wstat := w.wstat ||| wsRdunmap } else w
    ((j.hdr.uses ++ f.frees).filter (fun n => !j.dests.contains n && !f.keeps.contains n && !f.vw.any (fun p => p.1 = n))).foldl (fun w n => w.lastUse div n) w)
  let s := if c.u.looks.isEmpty then s else s.tickFree
  let s := s.modUnit c.g c.sub (fun u =>
    { u with pc := f.pc.getD c.next, enters := j.endsRegion, entered := false, count := u.count + 1,
             exec := f.exec.getD u.exec, xsets := u.xsets ++ (match f.exec with
               | some e => [(u.count, e)]
               | none => []) })
  let ended := f.ends.isSome || f.wait.isSome || j.hdr.s || 24 ≤ c.u.count + 1 || c.s.stepping c.g c.sub
  let s := if ended then s.endStroke c.g c.sub (f.ends.getD .none) (match f.wait with
      | some w => .blocked w
      | none => .ready) else s
  let s := f.post s
  if ended then s.afterStroke c.g else s

/-- Takes the registers of the names an instruction writes (R57, R58): REGFAULT, the allocation wait, or on with `k`. -/
def Ctx.allocate (c : Ctx) (names : List Nat) (k : State) : State :=
  let new := newNames c.w names
  if c.w.regsMax < c.w.held + new.length && !new.isEmpty then c.s.takeTrap c.g c.sub (TrapInfo.unit 8 1 0)
  else
    let (h, s) := c.s.newHandle
    if !new.isEmpty && !c.s.grantable (quadOf c.g) (c.w.lseq, h) new.length then (s.blockUnit c.g c.sub (.alloc names h)).afterStroke c.g
    else k

/-- The effect of an instruction that has passed its uniform checks. -/
def Ctx.perform (c : Ctx) (j : Job) : State :=
  match j.run c with
  | .trap t => c.s.takeTrap c.g c.sub t
  | .block s w => (s.blockUnit c.g c.sub w).afterStroke c.g
  | .go f => c.allocate (if f.lanes = 0 then [] else f.vw.map (·.1)) (c.finish j f)

/-- The trap of reading an unmapped name while UNMAPTRAP is set (R63). -/
def Ctx.readTrap (c : Ctx) (names : List Nat) : Option TrapInfo :=
  if c.act ≠ 0 && c.w.wstat &&& wsUnmapTrap ≠ 0 && names.any (fun n => !c.w.mapped n) then some (TrapInfo.unit 8 2 0) else none

/-- Runs an effect that reads names that the encoding alone does not show (R63). -/
def Ctx.reading (c : Ctx) (names : List Nat) (r : Run) : Run :=
  match c.readTrap names with
  | some t => .trap t
  | none => match r with
    | .go f => .go { f with reads := f.reads ++ names }
    | r => r

/-- Runs the checks and the effect of an instruction that has issued. -/
def Ctx.execute (c : Ctx) (j : Job) : State :=
  match j.uniform c with
  | some t => c.s.takeTrap c.g c.sub t
  | none =>
    match c.readTrap j.reads with
    | some t => c.s.takeTrap c.g c.sub t
    | none => if j.late then c.allocate (if c.act = 0 then [] else j.dests) (c.perform j) else c.perform j

/-- A result that the next instruction must wait for is not known yet (R24). -/
def WUnit.waitsLook (u : WUnit) : Bool := u.looks.any (fun k => k.left = 0 && !k.ready)

/-- What an instruction of a unit sees at issue. -/
def State.ctx (s : State) (g sub : Nat) (h : Hdr) : Option Ctx :=
  match s.warp? g, s.unit? g sub with
  | some w, some u => some { s := s, g := g, sub := sub, w := w, u := u, act := guardMask w u.exec h.grd, len := h.len }
  | _, _ => none

/-- Issues an instruction of the focus unit: its decode checks (R166), region commit (R60), and the rest. Where no unit holds an issue slot, or the unit waits for a result (R24), nothing
happens. -/
def State.issue (s : State) (j : Job) : State :=
  match s.focus with
  | none => s
  | some (g, sub) =>
    match s.unit? g sub with
    | none => s
    | some u =>
      if u.st ≠ .issuing || u.waitsLook then s
      else
        let s := s.writeLooks g sub (fun k => k.left = 0)
        match (s.ctx g sub j.hdr).bind j.decode with
        | some t => s.takeTrap g sub t
        | none =>
          let s := if (j.hdr.e || j.entry || u.enters) && !u.entered then s.commitUnit g sub else s
          match s.ctx g sub j.hdr with
          | some c => c.execute j
          | none => s

/-- The outcome of issuing an instruction. -/
def issue (j : Job) (s : State) : Out := .next (s.issue j)

/-! ## Common jobs -/

/-- No uniform check. -/
def noCheck : Ctx → Option TrapInfo := fun _ => none

/-- A fixed-latency job of an instruction with single-register operands. -/
def jobOf (x : Op) (len : Nat) (run : Ctx → Run) : Job :=
  { hdr := x.hdr len 1 1 1, entry := false, endsRegion := false, long := false, dests := x.d.run 1,
    reads := x.a.run 1 ++ x.b.run 1 ++ x.c.run 1, decode := noCheck, uniform := noCheck, late := false, run := run }

/-- The effect of writing one destination: every active lane of a vector, or once when a lane is active (R50, R218). -/
def Ctx.put (c : Ctx) (d : Operand) (v : Lanes) (flags : W32) : Fin :=
  let low := (lowLane c.act).getD 0
  match d with
  | .v n => { Fin.nil c.s with vw := [(n.toNat, v)], lanes := c.act, flags := flags }
  | .s n => { Fin.nil c.s with sw := if c.act = 0 then [] else [(.s n.toNat, v.at low)], flags := flags }
  | .w n => { Fin.nil c.s with sw := if c.act = 0 then [] else [(.w n.toNat, v.at low)], flags := flags }
  | _ => { Fin.nil c.s with flags := flags }

/-- The effect of writing a run of consecutive destinations (R162, R218). -/
def Ctx.putRun (c : Ctx) (d : Operand) (vs : List Lanes) (flags : W32) : Fin :=
  let low := (lowLane c.act).getD 0
  let sc (mk : Nat → Dest) (n : Nat) : List (Dest × W64) :=
    if c.act = 0 then [] else (List.range vs.length).map (fun i => (mk (n + i), (vs.getD i []).at low))
  match d with
  | .v n => { Fin.nil c.s with vw := (List.range vs.length).map (fun i => (n.toNat + i, vs.getD i [])), lanes := c.act, flags := flags }
  | .s n => { Fin.nil c.s with sw := sc .s n.toNat, flags := flags }
  | .w n => { Fin.nil c.s with sw := sc .w n.toNat, flags := flags }
  | _ => { Fin.nil c.s with flags := flags }

end Sys2Proof.Machine
end

