-- ==== Sys2Proof/Machine/Record.lean ====
section
/-! DEFINITION. The launch record's fields (R355), and what a launch's geometry gives a workgroup and a lane (R12, R13, R36, R46). -/

namespace Sys2Proof.Machine

/-! ## Fields (R355) -/

def Launch.fieldOf (l : Launch) (h k : Nat) : Nat := recBits l.record h k

def Launch.kind (l : Launch) : Nat := l.fieldOf 7 0
/-- Bit `i` of FLAGS (R185). -/
def Launch.flagBit (l : Launch) (i : Nat) : Bool := (l.fieldOf 15 8).testBit i
def Launch.quad (l : Launch) : Bool := l.flagBit 0
def Launch.unmapTrap (l : Launch) : Bool := l.flagBit 1
def Launch.iterate (l : Launch) : Bool := l.flagBit 2
def Launch.coverage (l : Launch) : Bool := l.flagBit 3
def Launch.affinity (l : Launch) : Bool := l.flagBit 4
def Launch.strict (l : Launch) : Bool := l.flagBit 5
/-- Warps per workgroup. -/
def Launch.warps (l : Launch) : Nat := l.fieldOf 20 16 + 1
def Launch.fpcr (l : Launch) : Nat := l.fieldOf 23 21
def Launch.nbw (l : Launch) : Nat := l.fieldOf 27 24
def Launch.nbh (l : Launch) : Nat := l.fieldOf 31 28
def Launch.regsMin (l : Launch) : Nat := l.fieldOf 43 32
def Launch.regsMax (l : Launch) : Nat := l.fieldOf 55 44
def Launch.cont (l : Launch) : Bool := l.fieldOf 56 56 = 1
def Launch.irq (l : Launch) : Bool := l.fieldOf 57 57 = 1
def Launch.chain (l : Launch) : Bool := l.fieldOf 58 58 = 1
def Launch.entry (l : Launch) : Nat := l.fieldOf 120 64
def Launch.gx (l : Launch) : Nat := l.fieldOf 143 128
def Launch.gy (l : Launch) : Nat := l.fieldOf 159 144
def Launch.gz (l : Launch) : Nat := l.fieldOf 175 160
def Launch.covpat (l : Launch) : Nat := l.fieldOf 179 176
def Launch.bx (l : Launch) : Nat := l.fieldOf 202 192
def Launch.by' (l : Launch) : Nat := l.fieldOf 213 203
def Launch.bz (l : Launch) : Nat := l.fieldOf 224 214
def Launch.ex (l : Launch) : Nat := l.fieldOf 287 256
def Launch.ey (l : Launch) : Nat := l.fieldOf 319 288
def Launch.ez (l : Launch) : Nat := l.fieldOf 351 320
def Launch.tileCount (l : Launch) : Nat := l.fieldOf 360 352
def Launch.accRows (l : Launch) : Nat := l.fieldOf 370 361
def Launch.scratch (l : Launch) : Nat := l.fieldOf 403 384
def Launch.groupCount (l : Launch) : Nat := l.fieldOf 412 404
def Launch.watchdog (l : Launch) : Nat := l.fieldOf 447 424
def Launch.args (l : Launch) : Nat := l.fieldOf 511 448
def Launch.stkArea (l : Launch) : Nat := l.fieldOf 575 512
def Launch.stkSize (l : Launch) : Nat := l.fieldOf 591 576
def Launch.traph (l : Launch) : Nat := l.fieldOf 703 640
def Launch.gtab (l : Launch) : Nat := l.fieldOf 767 704
def Launch.abase (l : Launch) : Nat := l.fieldOf 831 768
def Launch.asx (l : Launch) : Nat := l.fieldOf 895 832
def Launch.asy (l : Launch) : Nat := l.fieldOf 959 896
def Launch.asz (l : Launch) : Nat := l.fieldOf 1023 960
def Launch.itotal (l : Launch) : Nat := l.fieldOf 1071 1024
def Launch.iperTile (l : Launch) : Nat := l.fieldOf 1119 1088
def Launch.covrec (l : Launch) : Nat := l.fieldOf 1215 1152
def Launch.covmap (l : Launch) : Nat := l.fieldOf 1279 1216
def Launch.relTable (l : Launch) : Nat := l.fieldOf 1343 1280
def Launch.depAddr (l : Launch) : Nat := l.fieldOf 1407 1344
def Launch.depVal (l : Launch) : Nat := l.fieldOf 1471 1408
def Launch.depMask (l : Launch) : Nat := l.fieldOf 1535 1472
def Launch.depCmp (l : Launch) : Nat := l.fieldOf 1538 1536
def Launch.depW64 (l : Launch) : Bool := l.fieldOf 1539 1539 = 1
def Launch.doneRec (l : Launch) : Nat := l.fieldOf 1663 1600

/-- Workgroups of the grid. -/
def Launch.total (l : Launch) : Nat := l.gx * l.gy * l.gz
/-- Workgroups of a neighbourhood, 0 when the launch has none. -/
def Launch.nbN (l : Launch) : Nat := l.nbw * l.nbh

/-! ## Geometry (R13, R46) -/

/-- Coordinates of a linear identifier. -/
def Launch.coords (l : Launch) (lin : Nat) : Nat × Nat × Nat := (lin % l.gx, lin / l.gx % l.gy, lin / (l.gx * l.gy))

/-- Local coordinates of local index `j`. -/
def Launch.localOf (l : Launch) (j : Nat) : Nat × Nat × Nat :=
  if l.quad then
    let qx := l.bx / 2
    let qy := l.by' / 2
    let q := j / 4
    let r := j % 4
    (2 * (q % qx) + r % 2, 2 * (q / qx % qy) + r / 2, q / (qx * qy))
  else (j % l.bx, j / l.bx % l.by', j / (l.bx * l.by'))

/-- Global point of a lane of a warp of a workgroup. -/
def Launch.point (l : Launch) (lin wgw lane : Nat) : Nat × Nat × Nat :=
  let (x, y, z) := l.coords lin
  let (i, j, k) := l.localOf (wgw * 32 + lane)
  (x * l.bx + i, y * l.by' + j, z * l.bz + k)

/-- A point lies within the extent (R14). -/
def Launch.inside (l : Launch) (p : Nat × Nat × Nat) : Bool := p.1 < l.ex && p.2.1 < l.ey && p.2.2 < l.ez

/-! ## Iteration shares (R36, R37) -/

/-- First iteration of the share of workgroup `w`. -/
def Launch.shareAt (l : Launch) (w : Nat) : Nat := w * l.itotal / l.total

/-- A segment: tile, k_begin, k_end, FIRST, LAST, FIX. -/
structure Segment where
  tile  : Nat
  kBeg  : Nat
  kEnd  : Nat
  first : Bool
  last  : Bool
  fix   : Bool
  deriving DecidableEq, Repr

/-- The `n`-th segment of the share of workgroup `w`, where it has one. -/
def Launch.segment (l : Launch) (w n : Nat) : Option Segment :=
  let a := l.shareAt w
  let b := l.shareAt (w + 1)
  let k := l.iperTile
  let t := a / k + n
  let lo := max a (t * k)
  let hi := min b ((t + 1) * k)
  let tEnd := min l.itotal ((t + 1) * k)
  if lo < hi then
    some { tile := t, kBeg := lo - t * k, kEnd := hi - t * k, first := lo = t * k, last := hi = tEnd, fix := !(lo = t * k && hi = tEnd) }
  else none

end Sys2Proof.Machine
end

