-- ==== Sys2Proof/Machine/Fetch.lean ====
section
/-! DEFINITION. Fetching the instruction at a unit's PC (R147, R148): its words through the instruction cache, what they decode to, and the
traps of words that do not decode (R165, R174) or cannot be fetched. -/

namespace Sys2Proof.Machine

/-- A fetch that fails a row of R78: the word's address, class and subcode. -/
structure FetchFail where
  addr : W64
  cls  : Nat
  sub  : Nat
  deriving DecidableEq, Repr

/-- A word of code as it stood when the warp's launch started on its core (R126), where its page was mapped then. A page that was not is fetched
as it stands, through the instruction cache: DEDUCED (log 23), since no code stood there at the start. -/
def State.codeAtStart (s : State) (g : Nat) (a : W64) : Option W32 :=
  match s.launchOf g with
  | none => none
  | some (key, l) =>
    match (s.core (coreOf g)).code.find? key with
    | none => none
    | some m =>
      match State.walk { s with mem := m, dies := [] } (dieOf g) l.root a.toNat with
      | .leaf pte _ => some (BitVec.ofNat 32 (leNat (Store.bytes m (pteFrame pte * 65536 + a.toNat % 65536) 4)))
      | .fail _ _ => none

/-- Fetches one word of code for a warp (R82, R148). -/
def State.fetchWord (s : State) (g : Nat) (a : W64) : State × Except FetchFail W32 :=
  match s.xlatCore (coreOf g) (s.rootOf g) a .fetch with
  | (s', .fail c k) => (s', .error { addr := a, cls := c, sub := k })
  | (s', .ok pa pte addr) =>
    let s' := s'.touch addr false
    match s'.codeAtStart g a with
    | some w => (s', .ok w)
    | none =>
      let (s', bs) := s'.readLine (coreOf g) .code (pteScope pte) pa 4
      (s', .ok (BitVec.ofNat 32 (leNat bs)))

/-- Fetches `n` words of code. -/
def fetchWords (g : Nat) : Nat → State → W64 → State × Except FetchFail (List W32)
  | 0, s, _ => (s, .ok [])
  | n + 1, s, a =>
    match s.fetchWord g a with
    | (s, .error e) => (s, .error e)
    | (s, .ok w) =>
      match fetchWords g n s (a + 4) with
      | (s, .error e) => (s, .error e)
      | (s, .ok ws) => (s, .ok (w :: ws))

/-- Fetches the words of the instruction at an address: the first fixes how many (R147). -/
def State.fetch (s : State) (g : Nat) (a : W64) : State × Except FetchFail (List W32) :=
  match s.fetchWord g a with
  | (s, .error e) => (s, .error e)
  | (s, .ok w) =>
    match fetchWords g (wordCount w - 1) s (a + 4) with
    | (s, .error e) => (s, .error e)
    | (s, .ok ws) => (s, .ok (w :: ws))

/-- The focus unit, where it holds its issue slot. -/
def State.issuer (s : State) : Option (Nat × Nat × WUnit) :=
  match s.focus with
  | none => none
  | some (g, sub) =>
    match s.unit? g sub with
    | none => none
    | some u => if u.st = .issuing && !u.waitsLook then some (g, sub, u) else none

/-- The results that the next instruction waits for have been written. -/
def State.settleLooks (s : State) (g sub : Nat) : State := s.writeLooks g sub (fun k => k.left = 0)

/-- Raises the illegal-instruction trap on the focus unit, with the subcode of R165. -/
def State.illegal (s : State) (sub : Nat) : State :=
  match s.issuer with
  | none => s
  | some (g, u, _) => s.takeTrap g u (TrapInfo.unit 0 sub 0)

/-- What the focus unit's PC holds. -/
inductive AtPc where
  | none
  | fail (f : FetchFail)
  | word (d : Decoded)
  deriving DecidableEq, Repr

/-- Fetches and decodes the focus unit's next instruction. -/
def State.atPc (s : State) : State × AtPc :=
  match s.issuer with
  | none => (s, .none)
  | some (g, _, u) =>
    match s.fetch g u.pc with
    | (s', .error f) => (s', .fail f)
    | (s', .ok ws) => (s', .word (decode ws))

/-- UNASSIGNED_OPCODE (R174): the focus unit's word has an unassigned OP7 or OP10. -/
def execUnassignedOpcode (s : State) : Out :=
  .next (match s.atPc with
    | (s', .word (.illegal 0)) => s'.illegal 0
    | _ => s)

/-- Takes the trap of a fetch that fails on the focus unit. A region that its last instruction ended is over first, so that the replay begins
at this PC and issues nothing twice (R191). -/
def State.fetchTrap (s : State) (g sub : Nat) (u : WUnit) (f : FetchFail) : State :=
  (if u.enters && !u.entered then s.commitUnit g sub else s).takeTrap g sub (TrapInfo.unit f.cls f.sub f.addr)

/-- INSTRUCTION_FETCH_FAULT (R148): a word at the focus unit's PC cannot be fetched. -/
def execInstructionFetchFault (s : State) : Out :=
  .next (match s.atPc with
    | (s', .fail f) =>
      match s'.issuer with
      | some (g, sub, u) => s'.fetchTrap g sub u f
      | none => s
    | _ => s)

end Sys2Proof.Machine
end

