-- ==== Sys2Proof/Machine/IntAlu.lean ====
section
/-! DEFINITION. Integer and address instructions (R218 to R227): one shared operation for each shape, and the meaning of each instruction in its
base vector, base scalar and extended forms. -/

namespace Sys2Proof.Machine

/-! ## Types (R220) -/

/-- Width of a type code of MOD 1:0. -/
def ityW (t : Nat) : Nat := if t % 4 < 2 then 32 else 64

/-- A signed type. -/
def itySigned (t : Nat) : Bool := t % 2 = 0

/-- A source under its type. -/
def ityRead (t : Nat) (x : W64) : Int := if itySigned t then sextN x.toNat (ityW t) else ((x.toNat % 2 ^ ityW t : Nat) : Int)

/-- Smallest and largest value of a type. -/
def ityMin (t : Nat) : Int := if itySigned t then -(2 ^ (ityW t - 1) : Int) else 0
def ityMax (t : Nat) : Int := if itySigned t then 2 ^ (ityW t - 1) - 1 else 2 ^ ityW t - 1

/-- An integer taken modulo 2^w, zero-extended. -/
def wrapN (w : Nat) (r : Int) : W64 := BitVec.ofNat 64 (r % (2 ^ w : Int)).toNat

/-- The result of R221 from an exact integer, with SAT's flag. -/
def ityWrite (t : Nat) (sat : Bool) (r : Int) : W64 × W32 :=
  if sat then
    let o := clampI r (ityMin t) (ityMax t)
    (wrapN (ityW t) o, flagIf (o ≠ r) flSAT)
  else (wrapN (ityW t) r, 0)

/-! ## Shapes -/

/-- Flags of every active lane. -/
def orFlags (c : Ctx) (f : Nat → W32) : W32 := c.lanes.foldl (fun m l => m ||| f l) 0

/-- A lane-by-lane result of up to three sources, with flags. -/
def laneJob (x : Op) (len : Nat) (f : W64 → W64 → W64 → W64 × W32) : Job :=
  jobOf x len (fun c =>
    let a := c.src x.lit x.a
    let b := c.src x.lit x.b
    let d := c.src x.lit x.c
    let r : List (W64 × W32) := laneIds.map (fun l => f (a.at l) (b.at l) (d.at l))
    .go (c.put x.d (r.map (·.1)) (orFlags c (fun l => (r.getD l (0, 0)).2))))

/-- Arithmetic of R221: the exact result, then SAT or the wrap. -/
def intJob (x : Op) (len : Nat) (f : Int → Int → Int → Int) : Job :=
  let t := x.mod.toNat % 4
  let sat := x.mod.toNat.testBit 2
  laneJob x len (fun a b c => ityWrite t sat (f (ityRead t a) (ityRead t b) (ityRead t c)))

/-- Operations on the w-bit patterns: the width, then the sources. -/
def bitJob (x : Op) (len : Nat) (f : Nat → Nat → Nat → Nat) : Job :=
  let w := ityW x.mod.toNat
  laneJob x len (fun a b _ => (BitVec.ofNat 64 (f w (a.toNat % 2 ^ w) b.toNat % 2 ^ w), 0))

/-- The high half of a product (R221). -/
def mulHigh (t : Nat) (a b : Int) : Int := a * b / 2 ^ ityW t

/-- A number's 1 bits. -/
def popN (w x : Nat) : Nat := ((List.range w).filter (fun i => x.testBit i)).length

/-- Leading zero bits of a w-bit pattern (R221). -/
def clzN (w x : Nat) : Nat := if x = 0 then w else w - 1 - Nat.log2 x

/-- A w-bit pattern reversed (R221). -/
def brevN (w x : Nat) : Nat := ((List.range w).map (fun i => if x.testBit i then 2 ^ (w - 1 - i) else 0)).foldl (· + ·) 0

/-- Shifts of R222; the count is B[7:0]. -/
def shlN (w a b : Nat) : Nat := let n := b % 256; if w ≤ n then 0 else a * 2 ^ n
def shrN (w a b : Nat) : Nat := let n := b % 256; if w ≤ n then 0 else a / 2 ^ n
def sarN (w a b : Nat) : Nat := (sextN a w / 2 ^ min (b % 256) w % (2 ^ w : Int)).toNat
def rotN (w a b : Nat) : Nat := let n := b % 256 % w; a * 2 ^ n + a / 2 ^ (w - n)

/-- The value MOV and MOVI write by type (R225). -/
def movVal (t : Nat) (x : W64) : W64 :=
  match t % 4 with
  | 0 => w64 (sextN x.toNat 32)
  | 1 => BitVec.ofNat 64 (x.toNat % 2 ^ 32)
  | _ => x

def movJob (x : Op) (len : Nat) : Job := laneJob x len (fun a _ _ => (movVal x.mod.toNat a, 0))
def moviJob (x : Op) (len : Nat) : Job := laneJob x len (fun _ b _ => (movVal x.mod.toNat b, 0))

/-- LEA (R224). -/
def leaJob (x : Op) (len : Nat) : Job :=
  let n := x.mod.toNat % 4
  laneJob x len (fun a b _ => (a + (if x.mod.toNat.testBit 2 then w64 (sextN b.toNat 32) else b) * BitVec.ofNat 64 (2 ^ n), 0))

/-- BFE and BFI of R223. -/
def bfeN (t a b c : Nat) : Nat :=
  let w := ityW t
  let pos := b % 256
  let len := c % 256
  if w ≤ pos || len = 0 then 0
  else
    let len := min len (w - pos)
    let f := a % 2 ^ w / 2 ^ pos % 2 ^ len
    if itySigned t then (sextN f len % (2 ^ w : Int)).toNat else f

def bfiN (t a b c : Nat) : Nat :=
  let w := ityW t
  let pos := c % 256
  let len := c / 256 % 256
  let b := b % 2 ^ w
  if w ≤ pos || len = 0 then b
  else
    let len := min len (w - pos)
    b - b / 2 ^ pos % 2 ^ len * 2 ^ pos + a % 2 ^ len * 2 ^ pos

/-- SEL (R226). -/
def selJob (x : Op) : Job :=
  jobOf x x.bytes (fun c =>
    let a := c.src x.lit x.a
    let b := c.src x.lit x.b
    let p := c.w.pred (x.func.toNat % 8)
    let neg := x.func.toNat.testBit 3
    .go (c.put x.d (Lanes.tab (fun l => if inMask p l != neg then a.at l else b.at l)) 0))

/-- Pushes a bit into every lane of EXEC; a lane the guard excludes pushes 0 (R52). -/
def Ctx.pushed (c : Ctx) (bit : W32) (flags : W32) : Fin :=
  { Fin.nil (c.s.modWarp c.g (fun w => w.push c.u.exec (bit &&& c.act))) with flags := flags }

/-- The relation of R227. -/
def condHolds (k : Cond) (a b : Int) : Bool :=
  match k with
  | .eq => a = b
  | .ne => a ≠ b
  | .lt => a < b
  | .le => a ≤ b
  | .gt => b < a
  | .ge => b ≤ a

/-- ICMP (R227). -/
def icmpJob (k : Cond) (x : Op) (len : Nat) : Job :=
  let t := x.mod.toNat % 4
  jobOf x len (fun c =>
    let a := c.src x.lit x.a
    let b := c.src x.lit x.b
    .go (c.pushed (maskOf (fun l => condHolds k (ityRead t (a.at l)) (ityRead t (b.at l)))) 0))

/-! ## The instructions -/

/-- IADD (R221). -/
def execIadd (x : Op) (s : State) : Out := issue (intJob x x.bytes (fun a b _ => a + b)) s
/-- IADD_V (R221). -/
def execIaddV (b : Bw) (s : State) : Out := issue (intJob (b.op 0x00 false) b.bytes (fun a b _ => a + b)) s
/-- IADD_S (R221). -/
def execIaddS (b : Bw) (s : State) : Out := issue (intJob (b.op 0x20 false) b.bytes (fun a b _ => a + b)) s

/-- ISUB (R221). -/
def execIsub (x : Op) (s : State) : Out := issue (intJob x x.bytes (fun a b _ => a - b)) s
/-- ISUB_V (R221). -/
def execIsubV (b : Bw) (s : State) : Out := issue (intJob (b.op 0x01 false) b.bytes (fun a b _ => a - b)) s
/-- ISUB_S (R221). -/
def execIsubS (b : Bw) (s : State) : Out := issue (intJob (b.op 0x21 false) b.bytes (fun a b _ => a - b)) s

/-- IMUL (R221). -/
def execImul (x : Op) (s : State) : Out := issue (intJob x x.bytes (fun a b _ => a * b)) s
/-- IMUL_V (R221). -/
def execImulV (b : Bw) (s : State) : Out := issue (intJob (b.op 0x02 false) b.bytes (fun a b _ => a * b)) s
/-- IMUL_S (R221). -/
def execImulS (b : Bw) (s : State) : Out := issue (intJob (b.op 0x22 false) b.bytes (fun a b _ => a * b)) s

/-- IMULH (R221). -/
def execImulh (x : Op) (s : State) : Out := issue (intJob x x.bytes (fun a b _ => mulHigh x.mod.toNat a b)) s
/-- IMULH_V (R221). -/
def execImulhV (b : Bw) (s : State) : Out := issue (intJob (b.op 0x03 false) b.bytes (fun x y _ => mulHigh b.mod.toNat x y)) s
/-- IMULH_S (R221). -/
def execImulhS (b : Bw) (s : State) : Out := issue (intJob (b.op 0x23 false) b.bytes (fun x y _ => mulHigh b.mod.toNat x y)) s

/-- IMAD (R221). -/
def execImad (x : Op) (s : State) : Out := issue (intJob x x.bytes (fun a b c => a * b + c)) s
/-- IMAD_V (R221). -/
def execImadV (b : Bw) (s : State) : Out := issue (intJob (b.op 0x04 true) b.bytes (fun a b c => a * b + c)) s
/-- IMAD_S (R221). -/
def execImadS (b : Bw) (s : State) : Out := issue (intJob (b.op 0x24 true) b.bytes (fun a b c => a * b + c)) s

/-- IMIN (R221). -/
def execImin (x : Op) (s : State) : Out := issue (intJob x x.bytes (fun a b _ => min a b)) s
/-- IMIN_V (R221). -/
def execIminV (b : Bw) (s : State) : Out := issue (intJob (b.op 0x05 false) b.bytes (fun a b _ => min a b)) s
/-- IMIN_S (R221). -/
def execIminS (b : Bw) (s : State) : Out := issue (intJob (b.op 0x25 false) b.bytes (fun a b _ => min a b)) s

/-- IMAX (R221). -/
def execImax (x : Op) (s : State) : Out := issue (intJob x x.bytes (fun a b _ => max a b)) s
/-- IMAX_V (R221). -/
def execImaxV (b : Bw) (s : State) : Out := issue (intJob (b.op 0x06 false) b.bytes (fun a b _ => max a b)) s
/-- IMAX_S (R221). -/
def execImaxS (b : Bw) (s : State) : Out := issue (intJob (b.op 0x26 false) b.bytes (fun a b _ => max a b)) s

/-- IABS (R221). -/
def execIabs (x : Op) (s : State) : Out := issue (intJob x x.bytes (fun a _ _ => (a.natAbs : Int))) s
/-- IABS_V (R221). -/
def execIabsV (b : Bw) (s : State) : Out := issue (intJob (b.op 0x07 false) b.bytes (fun a _ _ => (a.natAbs : Int))) s
/-- IABS_S (R221). -/
def execIabsS (b : Bw) (s : State) : Out := issue (intJob (b.op 0x27 false) b.bytes (fun a _ _ => (a.natAbs : Int))) s

/-- AND (R221). -/
def execAnd (x : Op) (s : State) : Out := issue (bitJob x x.bytes (fun _ a b => a &&& b)) s
/-- AND_V (R221). -/
def execAndV (b : Bw) (s : State) : Out := issue (bitJob (b.op 0x08 false) b.bytes (fun _ a b => a &&& b)) s
/-- AND_S (R221). -/
def execAndS (b : Bw) (s : State) : Out := issue (bitJob (b.op 0x28 false) b.bytes (fun _ a b => a &&& b)) s

/-- OR (R221). -/
def execOr (x : Op) (s : State) : Out := issue (bitJob x x.bytes (fun _ a b => a ||| b)) s
/-- OR_V (R221). -/
def execOrV (b : Bw) (s : State) : Out := issue (bitJob (b.op 0x09 false) b.bytes (fun _ a b => a ||| b)) s
/-- OR_S (R221). -/
def execOrS (b : Bw) (s : State) : Out := issue (bitJob (b.op 0x29 false) b.bytes (fun _ a b => a ||| b)) s

/-- XOR (R221). -/
def execXor (x : Op) (s : State) : Out := issue (bitJob x x.bytes (fun _ a b => a ^^^ b)) s
/-- XOR_V (R221). -/
def execXorV (b : Bw) (s : State) : Out := issue (bitJob (b.op 0x0A false) b.bytes (fun _ a b => a ^^^ b)) s
/-- XOR_S (R221). -/
def execXorS (b : Bw) (s : State) : Out := issue (bitJob (b.op 0x2A false) b.bytes (fun _ a b => a ^^^ b)) s

/-- NOT (R221). -/
def execNot (x : Op) (s : State) : Out := issue (bitJob x x.bytes (fun w a _ => 2 ^ w - 1 - a)) s
/-- NOT_V (R221). -/
def execNotV (b : Bw) (s : State) : Out := issue (bitJob (b.op 0x0B false) b.bytes (fun w a _ => 2 ^ w - 1 - a)) s
/-- NOT_S (R221). -/
def execNotS (b : Bw) (s : State) : Out := issue (bitJob (b.op 0x2B false) b.bytes (fun w a _ => 2 ^ w - 1 - a)) s

/-- SHL (R222). -/
def execShl (x : Op) (s : State) : Out := issue (bitJob x x.bytes shlN) s
/-- SHL_V (R222). -/
def execShlV (b : Bw) (s : State) : Out := issue (bitJob (b.op 0x0C false) b.bytes shlN) s
/-- SHL_S (R222). -/
def execShlS (b : Bw) (s : State) : Out := issue (bitJob (b.op 0x2C false) b.bytes shlN) s

/-- SHR (R222). -/
def execShr (x : Op) (s : State) : Out := issue (bitJob x x.bytes shrN) s
/-- SHR_V (R222). -/
def execShrV (b : Bw) (s : State) : Out := issue (bitJob (b.op 0x0D false) b.bytes shrN) s
/-- SHR_S (R222). -/
def execShrS (b : Bw) (s : State) : Out := issue (bitJob (b.op 0x2D false) b.bytes shrN) s

/-- SAR (R222). -/
def execSar (x : Op) (s : State) : Out := issue (bitJob x x.bytes sarN) s
/-- SAR_V (R222). -/
def execSarV (b : Bw) (s : State) : Out := issue (bitJob (b.op 0x0E false) b.bytes sarN) s
/-- SAR_S (R222). -/
def execSarS (b : Bw) (s : State) : Out := issue (bitJob (b.op 0x2E false) b.bytes sarN) s

/-- ROT (R222). -/
def execRot (x : Op) (s : State) : Out := issue (bitJob x x.bytes rotN) s
/-- ROT_V (R222). -/
def execRotV (b : Bw) (s : State) : Out := issue (bitJob (b.op 0x0F false) b.bytes rotN) s
/-- ROT_S (R222). -/
def execRotS (b : Bw) (s : State) : Out := issue (bitJob (b.op 0x2F false) b.bytes rotN) s

/-- POPC (R221). -/
def execPopc (x : Op) (s : State) : Out := issue (bitJob x x.bytes (fun w a _ => popN w a)) s
/-- POPC_V (R221). -/
def execPopcV (b : Bw) (s : State) : Out := issue (bitJob (b.op 0x10 false) b.bytes (fun w a _ => popN w a)) s
/-- POPC_S (R221). -/
def execPopcS (b : Bw) (s : State) : Out := issue (bitJob (b.op 0x30 false) b.bytes (fun w a _ => popN w a)) s

/-- CLZ (R221). -/
def execClz (x : Op) (s : State) : Out := issue (bitJob x x.bytes (fun w a _ => clzN w a)) s
/-- CLZ_V (R221). -/
def execClzV (b : Bw) (s : State) : Out := issue (bitJob (b.op 0x11 false) b.bytes (fun w a _ => clzN w a)) s
/-- CLZ_S (R221). -/
def execClzS (b : Bw) (s : State) : Out := issue (bitJob (b.op 0x31 false) b.bytes (fun w a _ => clzN w a)) s

/-- BREV (R221). -/
def execBrev (x : Op) (s : State) : Out := issue (bitJob x x.bytes (fun w a _ => brevN w a)) s
/-- BREV_V (R221). -/
def execBrevV (b : Bw) (s : State) : Out := issue (bitJob (b.op 0x12 false) b.bytes (fun w a _ => brevN w a)) s
/-- BREV_S (R221). -/
def execBrevS (b : Bw) (s : State) : Out := issue (bitJob (b.op 0x32 false) b.bytes (fun w a _ => brevN w a)) s

/-- MOV (R225). -/
def execMov (x : Op) (s : State) : Out := issue (movJob x x.bytes) s
/-- MOV_V (R225). -/
def execMovV (b : Bw) (s : State) : Out := issue (movJob (b.op 0x13 false) b.bytes) s
/-- MOV_S (R225). -/
def execMovS (b : Bw) (s : State) : Out := issue (movJob (b.op 0x33 false) b.bytes) s

/-- MOVI (R225). -/
def execMovi (x : Op) (s : State) : Out := issue (moviJob x x.bytes) s
/-- MOVI_V (R225). -/
def execMoviV (b : Bw) (s : State) : Out := issue (moviJob (b.op 0x14 false) b.bytes) s
/-- MOVI_S (R225). -/
def execMoviS (b : Bw) (s : State) : Out := issue (moviJob (b.op 0x34 false) b.bytes) s

/-- LEA (R224). -/
def execLea (x : Op) (s : State) : Out := issue (leaJob x x.bytes) s
/-- LEA_V (R224). -/
def execLeaV (b : Bw) (s : State) : Out := issue (leaJob (b.op 0x15 false) b.bytes) s
/-- LEA_S (R224). -/
def execLeaS (b : Bw) (s : State) : Out := issue (leaJob (b.op 0x35 false) b.bytes) s

/-- BFE (R223). -/
def execBfe (x : Op) (s : State) : Out :=
  issue (laneJob x x.bytes (fun a b c => (BitVec.ofNat 64 (bfeN x.mod.toNat a.toNat b.toNat c.toNat), 0))) s
/-- BFI (R223). -/
def execBfi (x : Op) (s : State) : Out :=
  issue (laneJob x x.bytes (fun a b c => (BitVec.ofNat 64 (bfiN x.mod.toNat a.toNat b.toNat c.toNat), 0))) s
/-- SEL (R226). -/
def execSel (x : Op) (s : State) : Out := issue (selJob x) s
/-- ICMP (R227). -/
def execIcmp (k : Cond) (x : Op) (s : State) : Out := issue (icmpJob k x x.bytes) s

/-- ICMP_EQ_V (R227). -/
def execIcmpEqV (b : Bw) (s : State) : Out := issue (icmpJob .eq (b.op 0x58 false) b.bytes) s
/-- ICMP_NE_V (R227). -/
def execIcmpNeV (b : Bw) (s : State) : Out := issue (icmpJob .ne (b.op 0x59 false) b.bytes) s
/-- ICMP_LT_V (R227). -/
def execIcmpLtV (b : Bw) (s : State) : Out := issue (icmpJob .lt (b.op 0x5A false) b.bytes) s
/-- ICMP_LE_V (R227). -/
def execIcmpLeV (b : Bw) (s : State) : Out := issue (icmpJob .le (b.op 0x5B false) b.bytes) s
/-- ICMP_GT_V (R227). -/
def execIcmpGtV (b : Bw) (s : State) : Out := issue (icmpJob .gt (b.op 0x5C false) b.bytes) s
/-- ICMP_GE_V (R227). -/
def execIcmpGeV (b : Bw) (s : State) : Out := issue (icmpJob .ge (b.op 0x5D false) b.bytes) s

end Sys2Proof.Machine
end

