-- ==== Sys2Proof/Machine/Control.lean ====
section
/-! DEFINITION. Control instructions (R188 to R204): branches, splits and serial branches, calls, EXIT, FUSE, predicates and EXEC; and the traps,
special registers and GETWORK of R213 to R217. -/

namespace Sys2Proof.Machine

/-! ## Targets (R163) -/

/-- A PC-relative count of words. -/
def relPc (pc : W64) (n : Nat) : W64 := pc + w64 (sextN n 32 * 4)

/-- Target of a literal. -/
def Ctx.target (c : Ctx) (x : Op) : W64 := relPc c.u.pc ((x.lit.getD 0).toNat % 2 ^ 32)

/-- Reconvergence PC of a literal. -/
def Ctx.join (c : Ctx) (x : Op) : W64 := relPc c.u.pc ((x.lit.getD 0).toNat / 2 ^ 32)

/-- A transfer of control that ends the stroke. -/
def Ctx.jump (c : Ctx) (pc : W64) (e : StrokeEnd) : Fin := { Fin.nil c.s with pc := some pc, ends := some e }

/-! ## Dividing a unit (R16, R18, R192) -/

/-- The SUBID and split-table entry a division would take, where R16 allows a split. -/
def Ctx.splitRoom (c : Ctx) : Option (Nat × Nat) :=
  match c.s.freeSplit c.core, c.s.freeSub c.g with
  | some e, some k => some (e, k)
  | _, _ => none

/-- The DIV byte (R411). -/
def divSplit (taken other : Nat) : Byte := BitVec.ofNat 8 (taken + other * 8 + 64)
def divSerial : Byte := 128

/-- Pushes a serial record (R18, R19) and runs the taken lanes. -/
def State.serialPush (s : State) (g sub : Nat) (taken : W32) (target other join : W64) : State :=
  match s.warp? g, s.unit? g sub with
  | some w, some u =>
    let a := w.stkptr - 32
    let nt := u.exec &&& ~~~taken
    let w := w.stackPuts [(a.toNat, other), (a.toNat + 8, join), (a.toNat + 16, BitVec.ofNat 64 (nt.toNat + u.exec.toNat * 2 ^ 32)), (a.toNat + 24, 0)]
    (s.setWarp g { w with stkptr := a, wstat := w.wstat ||| wsSerial }).modUnit g sub
      (fun u => { u with pc := target, exec := taken, serial := a :: u.serial })
  | _, _ => s

/-- Divides the unit: a split where R16 allows one and `ser` does not forbid it, else a serial branch (R192). `other` is where the
lanes that are not taken go on; `mk` gives the trace's event. -/
def Ctx.divide (c : Ctx) (ser : Bool) (taken : W32) (target other join : W64) (mk : Byte → StrokeEnd) : Run :=
  match if ser then none else c.splitRoom with
  | some (e, k) =>
    .go { Fin.nil c.s with pc := some other, ends := some (mk (divSplit c.sub k)),
                           post := fun s => s.splitUnit c.g c.sub e k taken target other join }
  | none =>
    if c.w.stkptr.toNat < 32 + c.w.stklim.toNat then .trap (TrapInfo.unit 5 0 0)
    else
      match c.s.stackOpen c.g (c.w.stkptr.toNat - 32) with
      | (_, false) => .trap (TrapInfo.stackFault (c.w.stkptr.toNat - 32))
      | (s, true) => .go { Fin.nil s with pc := some other, ends := some (mk divSerial),
                                          post := fun s => s.serialPush c.g c.sub taken target other join }

/-- A serial record as the stack holds it: NTPC, RCPC, the two masks, and the dword of PHASE. -/
structure SerialRec where
  ntpc  : W64
  rcpc  : W64
  masks : W64
  phase : W64
  deriving DecidableEq, Repr

/-- Reads a serial record; `none` when its line cannot be fetched, or not be written where PHASE is to change (R335). -/
def State.serialRec (s : State) (g a : Nat) : State × Option SerialRec :=
  match s.stackGet g a with
  | (s, some p) =>
    match s.stackGet g (a + 8) with
    | (s, some r) =>
      match s.stackGet g (a + 16) with
      | (s, some m) =>
        match s.stackGet g (a + 24) with
        | (s, some h) =>
          let r : SerialRec := { ntpc := p, rcpc := r, masks := m, phase := h }
          if h.getLsbD 0 then (s, some r)
          else
            match s.stackOpen g (a + 24) with
            | (s, true) => (s, some r)
            | (s, false) => (s, none)
        | (s, none) => (s, none)
      | (s, none) => (s, none)
    | (s, none) => (s, none)
  | (s, none) => (s, none)

/-- The phase switch or the restore of R18 for the innermost record, at `a`. -/
def State.serialReach (s : State) (g sub : Nat) (a : W64) (r : SerialRec) : State :=
  if r.phase.getLsbD 0 then
    let s := s.modUnit g sub (fun u => { u with pc := r.rcpc, exec := r.masks.extractLsb' 32 32 &&& u.owned, serial := u.serial.tail })
    (s.modWarp g (fun w => { w with stkptr := a + 32 })).undiverge g
  else
    let s := s.modWarp g (fun w => w.stackPut (a.toNat + 24) (setFld r.phase 7 0 1))
    s.modUnit g sub (fun u => { u with pc := r.ntpc, exec := r.masks.setWidth 32 &&& u.owned })

/-! ## BRA (R192) -/

/-- BRA without a condition. -/
def braJob (x : Op) (len : Nat) : Job := jobOf x len (fun c => .go (c.jump (c.target x) .taken))

/-- BRA on depth `k`. -/
def braPkJob (k : Nat) (x : Op) (len : Nat) : Job :=
  jobOf x len (fun c =>
    let p := c.w.pred k
    let taken := (if x.mod.getLsbD 0 then ~~~p else p) &&& c.u.exec
    if c.u.exec ≠ 0 && taken = c.u.exec then .go (c.jump (c.target x) .taken)
    else if taken = 0 then .go (c.jump c.next .notTaken)
    else c.divide (x.mod.getLsbD 1) taken (c.target x) c.next (c.join x) (.divergent taken))

def execBraBase (b : Bw) (s : State) : Out := issue (braJob (b.op 0x70 false) b.bytes) s
def execBra (x : Op) (s : State) : Out := issue (braJob x x.bytes) s
def execBraPkBase (k : BitVec 3) (b : Bw) (s : State) : Out := issue (braPkJob k.toNat (b.op 0x71 false) b.bytes) s
def execBraPk (k : BitVec 3) (x : Op) (s : State) : Out := issue (braPkJob k.toNat x x.bytes) s

/-! ## BRX (R195) -/

/-- Target of each lane of a list, reading the table through the instruction path. -/
def brxTargets (g : Nat) (pc table next : W64) (n : Nat) (idx : Nat → Nat) : List Nat → State → State × Except FetchFail (List (Nat × W64))
  | [], s => (s, .ok [])
  | l :: ls, s =>
    let i := idx l
    let here : State × Except FetchFail W64 :=
      if i < n then
        match s.fetchWord g (table + BitVec.ofNat 64 (4 * i)) with
        | (s, .ok w) => (s, .ok (relPc pc w.toNat))
        | (s, .error e) => (s, .error e)
      else (s, .ok next)
    match here with
    | (s, .error e) => (s, .error e)
    | (s, .ok t) =>
      match brxTargets g pc table next n idx ls s with
      | (s, .ok ts) => (s, .ok ((l, t) :: ts))
      | (s, .error e) => (s, .error e)

/-- BRX: the remaining lanes execute the BRX again. -/
def brxJob (x : Op) : Job :=
  jobOf x x.bytes (fun c =>
    let a := c.src x.lit x.a
    match brxTargets c.g c.u.pc (c.target x) c.next x.func.toNat (fun l => (a.at l).toNat % 2 ^ 32) (lanesOf c.u.exec) c.s with
    | (_, .error e) => .trap (TrapInfo.unit e.cls e.sub e.addr)
    | (s, .ok ts) =>
      let c := { c with s := s }
      match ts with
      | [] => .go (c.jump c.next (.indirect c.next 0 0))
      | (_, first) :: _ =>
        let taken := maskOf (fun l => ts.any (fun p => p.1 = l && p.2 = first))
        if taken = c.u.exec then .go (c.jump first (.indirect first taken 0))
        else c.divide (x.mod.getLsbD 1) taken first c.u.pc (c.join x) (.indirect first taken))

def execBrx (x : Op) (s : State) : Out := issue (brxJob x) s

/-! ## Calls (R196) -/

/-- CALL. -/
def callJob (x : Op) (len : Nat) : Job :=
  jobOf x len (fun c => .go { c.jump (c.target x) .taken with sw := [(.s 127, c.next)] })

/-- A jump to an address held in a scalar: ALIGN where it is no multiple of 4. -/
def Ctx.goto (c : Ctx) (pc : W64) (f : Fin → Fin) : Run :=
  if pc.toNat % 4 ≠ 0 then .trap (TrapInfo.unit 4 0 0) else .go (f (c.jump pc (.indirect pc c.u.exec 0)))

/-- CALLX. -/
def callxJob (x : Op) : Job := jobOf x x.bytes (fun c => c.goto (c.scalar x.lit x.a) (fun f => { f with sw := [(.s 127, c.next)] }))

/-- RET. -/
def retJob (x : Op) : Job := jobOf x x.bytes (fun c => c.goto (c.scalar x.lit x.a) id)

def execCallBase (b : Bw) (s : State) : Out := issue (callJob (b.op 0x79 false) b.bytes) s
def execCall (x : Op) (s : State) : Out := issue (callJob x x.bytes) s
def execCallx (x : Op) (s : State) : Out := issue (callxJob x) s
def execRet (x : Op) (s : State) : Out := issue (retJob x) s

/-! ## EXIT (R198) -/

/-- Lanes of a warp that have not ended. -/
def State.lanesLeft (s : State) (g : Nat) : W32 :=
  (match s.warp? g with
   | some w => w.units.foldl (fun m u => m ||| u.owned) 0
   | none => 0) ||| (s.splits g).foldl (fun m p => m ||| p.2.owned) 0

/-- Every helper ends once no other lane is left (R47). -/
def State.dropHelpers (s : State) (g : Nat) : State :=
  match s.warp? g with
  | none => s
  | some w =>
    if w.helpers ≠ 0 && s.lanesLeft g &&& ~~~w.helpers = 0 then
      (w.units.foldl (fun s u => s.forceLooks g u.sub) s).dropUnits g (fun _ => true)
    else s

/-- Ends lanes of a unit. -/
def State.endLanes (s : State) (g sub : Nat) (gone : W32) : State :=
  let s := s.modUnit g sub (fun u => { u with owned := u.owned &&& ~~~gone, exec := u.exec &&& ~~~gone })
  let s := match s.unit? g sub with
    | some u => if u.owned = 0 then s.exitUnit g sub else s
    | none => s
  s.dropHelpers g

/-- The end of lanes as an instruction's effect (R198, R306). -/
def Ctx.ending (c : Ctx) (f : Fin) (gone : W32) : Fin := { f with ends := some (.ended gone), post := fun s => (f.post s).endLanes c.g c.sub gone }

def exitJob (x : Op) : Job :=
  jobOf x x.bytes (fun c => .go (c.ending (Fin.nil c.s) (if x.mod.getLsbD 0 then c.u.owned else c.act)))

def execExit (x : Op) (s : State) : Out := issue (exitJob x) s

/-! ## NOP, RGN, YIELD, FUSE (R200, R201) -/

def nopJob (x : Op) (len : Nat) : Job := jobOf x len (fun c => .go (Fin.nil c.s))

def execNopBase (b : Bw) (s : State) : Out := issue (nopJob (b.op 0x3F false) b.bytes) s
def execNop (x : Op) (s : State) : Out := issue (nopJob x x.bytes) s
def execRgn (x : Op) (s : State) : Out := issue { nopJob x x.bytes with entry := true } s

/-- Marks a unit as having yielded. -/
def State.yieldUnit (s : State) (g sub : Nat) : State := s.modUnit g sub (fun u => { u with yielded := true })

def Ctx.yielding (c : Ctx) : Fin := { Fin.nil c.s with ends := some .none, post := fun s => s.yieldUnit c.g c.sub }

def execYield (x : Op) (s : State) : Out := issue (jobOf x x.bytes (fun c => .go c.yielding)) s

def fuseJob (x : Op) : Job :=
  jobOf x x.bytes (fun c =>
    match c.u.serial with
    | a :: _ =>
      match c.s.serialRec c.g a.toNat with
      | (_, none) => .trap (TrapInfo.stackFault a.toNat)
      | (s, some r) => .go { Fin.nil s with ends := some .none, post := fun s => s.serialReach c.g c.sub a r }
    | [] =>
      match c.u.entry with
      | some e => .go { Fin.nil c.s with ends := some .none, post := fun s => s.arrive c.g c.sub e }
      | none => .go { Fin.nil c.s with ends := some .none })

def execFuse (x : Op) (s : State) : Out := issue (fuseJob x) s

/-! ## Predicates (R202) -/

/-- Rewrites the depths of every lane of EXEC. -/
def Ctx.predsBy (c : Ctx) (f : Nat → W32) : Fin := Fin.nil (c.s.modWarp c.g (fun w => w.mapPreds c.u.exec f))

def ppopJob (x : Op) (len : Nat) : Job :=
  let n := x.mod.toNat % 4 + 1
  jobOf x len (fun c => .go (c.predsBy (fun k => if k + n < 8 then c.w.pred (k + n) else 0)))

def protJob (x : Op) : Job :=
  let n := x.func.toNat % 8
  jobOf x x.bytes (fun c => .go (c.predsBy (fun k => c.w.pred ((k + 8 - n) % 8))))

def plogJob (x : Op) : Job :=
  let f := x.func.toNat
  jobOf x x.bytes (fun c =>
    let pa := c.w.pred (f % 8)
    let pb := c.w.pred (f / 8 % 8)
    .go (c.pushed (maskOf (fun l => (f / 64).testBit ((if inMask pa l then 2 else 0) + (if inMask pb l then 1 else 0)))) 0))

def execPpopBase (b : Bw) (s : State) : Out := issue (ppopJob (b.op 0x64 false) b.bytes) s
def execPpop (x : Op) (s : State) : Out := issue (ppopJob x x.bytes) s
def execProt (x : Op) (s : State) : Out := issue (protJob x) s
def execPlog (x : Op) (s : State) : Out := issue (plogJob x) s

/-! ## EXEC (R203, R204) -/

/-- A write of EXEC. -/
def Ctx.setExec (c : Ctx) (m : W32) : Fin := { Fin.nil c.s with exec := some (m &&& c.u.owned) }

def ptoxJob (x : Op) : Job :=
  let f := x.func.toNat
  jobOf x x.bytes (fun c =>
    let p := if f.testBit 3 then ~~~(c.w.pred (f % 8)) else c.w.pred (f % 8)
    .go (c.setExec (if f.testBit 4 then p &&& c.u.exec else p)))

def xtopJob (x : Op) : Job :=
  jobOf x x.bytes (fun c => .go (Fin.nil (c.s.modWarp c.g (fun w => w.push c.u.owned c.u.exec))))

/-- A scalar result written whatever EXEC holds (R190). -/
def Ctx.always (c : Ctx) (d : Operand) (v : W64) : Fin :=
  match d with
  | .s n => { Fin.nil c.s with sw := [(.s n.toNat, v)] }
  | _ => Fin.nil c.s

def xrdJob (x : Op) (len : Nat) : Job := jobOf x len (fun c => .go (c.always x.d (c.u.exec.setWidth 64)))

def xwrJob (x : Op) (len : Nat) : Job := jobOf x len (fun c => .go (c.setExec ((c.scalar x.lit x.a).setWidth 32)))

def execPtox (x : Op) (s : State) : Out := issue (ptoxJob x) s
def execXtop (x : Op) (s : State) : Out := issue (xtopJob x) s
def execXrdBase (b : Bw) (s : State) : Out := issue (xrdJob (b.op 0x65 false) b.bytes) s
def execXrd (x : Op) (s : State) : Out := issue (xrdJob x x.bytes) s
def execXwrBase (b : Bw) (s : State) : Out := issue (xwrJob (b.op 0x66 false) b.bytes) s
def execXwr (x : Op) (s : State) : Out := issue (xwrJob x x.bytes) s

/-! ## TRAP, TRET, BRK (R213, R214) -/

def trapJob (x : Op) : Job :=
  jobOf x x.bytes (fun c =>
    if x.grd.isSome && c.act = 0 then .go (Fin.nil c.s) else .trap { TrapInfo.unit 11 0 0 with code := x.func.toNat })

def execTrap (x : Op) (s : State) : Out := issue (trapJob x) s

def tretJob (x : Op) : Job :=
  jobOf x x.bytes (fun c => c.goto c.w.trappc (fun f => { f with post := fun s => s.leaveHandler c.g }))

def execTret (x : Op) (s : State) : Out := issue (tretJob x) s

/-- A debugger is attached to the queue of a launch (R214), as the shadow says (R351). -/
def State.attached (s : State) (l : Launch) : Bool := s.shadowDbg { qid := l.qid, qcb := l.qcb }

/-- The launch of the warp is one a debugger watches. -/
def Ctx.debugged (c : Ctx) : Bool :=
  match c.s.launchOf c.g with
  | some (_, l) => c.s.attached l
  | none => false

def brkJob (x : Op) : Job :=
  jobOf x x.bytes (fun c =>
    if (x.grd.isSome && c.act = 0) || !c.debugged then .go (Fin.nil c.s)
    else .go { Fin.nil c.s with ends := some .none, post := fun s => s.modWarp c.g (fun w => { w with halted := true }) })

def execBrk (x : Op) (s : State) : Out := issue (brkJob x) s

/-! ## Special registers (R54, R55, R215, R216) -/

/-- A physical core's logical number in the die map (R424). -/
def State.logCore (s : State) (d phys : Nat) : Nat := ((s.die d).map.findIdx? (fun b => b.toNat = phys)).getD 63

/-- NBID of a workgroup (R31). -/
def Group.nbid (k : Group) : Nat :=
  if k.nbH = 0 then 0x0000_FF1F_FFFF_FFFF else k.nbK + k.nbM * 2 ^ 32 + k.nbW * 2 ^ 40 + k.nbH * 2 ^ 44

/-- VPOOL of a quadrant. -/
def State.vpool (s : State) (q : Nat) : Nat :=
  s.poolFree q + ((s.quadWarps q).map (fun p => p.2.regsMin)).foldl (· + ·) 0 % 2 ^ 11 * 2 ^ 16
    + ((s.quadWarps q).filter (fun p => p.2.parked)).length * 2 ^ 32

/-- Units of a warp that are live. -/
def Warp.live (w : Warp) : Nat := (w.units.filter (fun u => u.st ≠ .fusing)).length

/-- A special register as lane `l` of a unit sees it. -/
def State.special (s : State) (g : Nat) (w : Warp) (u : WUnit) (r : Special) (l : Nat) : W64 :=
  let phys := coreOf g % 48
  match r with
  | .laneid => BitVec.ofNat 64 (l + (if inMask w.helpers l then 32 else 0))
  | .warpid => BitVec.ofNat 64 (w.warpId g)
  | .subid => BitVec.ofNat 64 (u.sub + w.live * 2 ^ 8)
  | .wgid => BitVec.ofNat 64 (s.wgidOf w)
  | .nbid => BitVec.ofNat 64 (match s.group? w.wg with
    | some k => k.nbid
    | none => 0x0000_FF1F_FFFF_FFFF)
  | .core => BitVec.ofNat 64 (s.logCore (dieOf g) phys + phys * 2 ^ 8)
  | .die => BitVec.ofNat 64 (dieOf g)
  | .clk => BitVec.ofNat 64 (s.clk (dieOf g))
  | .rtime => BitVec.ofNat 64 s.rtime
  | .fpcr => w.fpcr.setWidth 64
  | .fpsr => w.fpsr.setWidth 64
  | .stkptr => w.stkptr
  | .stklim => w.stklim
  | .vpool => BitVec.ofNat 64 (s.vpool (quadOf g))
  | .vres => BitVec.ofNat 64 (w.regsMin + w.regsMax * 2 ^ 16 + w.held * 2 ^ 32)
  | .wstat => w.wstat.setWidth 64
  | .traph => w.traph
  | .trappc => w.trappc
  | .exec => u.exec.setWidth 64

def srdJob (x : Op) : Job :=
  jobOf x x.bytes (fun c =>
    match x.a with
    | .x r =>
      let v := Lanes.tab (c.s.special c.g c.w c.u r)
      match x.d with
      | .v _ => .go (c.put x.d v 0)
      | _ => .go (c.always x.d (v.at ((lowLane c.act).getD 0)))
    | _ => .go (Fin.nil c.s))

def execSrd (x : Op) (s : State) : Out := issue (srdJob x) s

/-- Sets a special register of a warp that is plain storage (R216). -/
def Warp.setSpecial (w : Warp) (r : Special) (v : W64) : Warp :=
  match r with
  | .fpcr => { w with fpcr := v.setWidth 32 &&& 7 }
  | .fpsr => { w with fpsr := w.fpsr &&& ~~~(v.setWidth 32) }
  | .wstat => { w with wstat := w.wstat &&& ~~~(v.setWidth 32 &&& 7) }
  | .traph => { w with traph := v &&& ~~~3 }
  | .trappc => { w with trappc := v &&& ~~~3 }
  | .stkptr => { w with stkptr := v }
  | _ => w

def swrJob (x : Op) : Job :=
  jobOf x x.bytes (fun c =>
    let v := c.scalar x.lit x.a
    match x.d with
    | .x .exec => .go (c.setExec (v.setWidth 32))
    | .x .stkptr =>
      if v.toNat % 32 ≠ 0 then .trap (TrapInfo.unit 4 0 0)
      else if v < c.w.stklim || c.w.stktop < v then .trap (TrapInfo.unit 5 0 0)
      else .go (Fin.nil (c.s.modWarp c.g (fun w => w.setSpecial .stkptr v)))
    | .x r => .go (Fin.nil (c.s.modWarp c.g (fun w => w.setSpecial r v)))
    | _ => .go (Fin.nil c.s))

def execSwr (x : Op) (s : State) : Out := issue (swrJob x) s

/-! ## GETWORK (R217) -/

/-- The two scalars of a segment; DONE where there is none. -/
def segWords : Option Segment → W64 × W64
  | none => (BitVec.ofNat 64 (2 ^ 35), 0)
  | some g => (BitVec.ofNat 64 (g.tile % 2 ^ 32 + (if g.first then 2 ^ 32 else 0) + (if g.last then 2 ^ 33 else 0) + (if g.fix then 2 ^ 34 else 0)),
      BitVec.ofNat 64 (g.kBeg + g.kEnd * 2 ^ 32))

/-- The next segment of a warp. -/
def Ctx.nextSegment (c : Ctx) : Option Segment :=
  match c.s.launchOf c.g, c.s.group? c.w.wg with
  | some (_, l), some k => if l.iterate then l.segment k.lin c.w.gwcalls else none
  | _, _ => none

def getworkJob (x : Op) : Job :=
  { jobOf x x.bytes (fun c =>
      if c.act = 0 then .go (Fin.nil c.s)
      else
        let (a, b) := segWords c.nextSegment
        let c := { c with s := c.s.modWarp c.g (fun w => { w with gwcalls := w.gwcalls + 1 }) }
        .go (c.putRun x.d [constLanes a, constLanes b] 0)) with long := true, endsRegion := true }

def execGetwork (x : Op) (s : State) : Out := issue (getworkJob x) s

end Sys2Proof.Machine
end

