-- ==== Sys2Proof/Machine/Sync.lean ====
section
/-! DEFINITION. Synchronisation (R205 to R212): workgroup barriers, group barriers, waits on memory words with the watch tables of R364, SLEEP
and SWI; and the events that end such waits. -/

namespace Sys2Proof.Machine

/-- A job that ends a region (R191). -/
def syncJob (x : Op) (run : Ctx → Run) : Job := { jobOf x x.bytes run with endsRegion := true }

/-! ## Workgroup barriers (R205) -/

def Barrier.empty : Barrier := { phase := 0, units := [], arrived := [], bara := [] }

/-- Barrier `b` of a workgroup. -/
def State.barrier (s : State) (wg b : Nat) : Barrier :=
  match s.group? wg with
  | some k => k.bars.getD b Barrier.empty
  | none => Barrier.empty

def State.modBar (s : State) (wg b : Nat) (f : Barrier → Barrier) : State :=
  s.modGroup wg (fun k => { k with bars := (List.range 16).map (fun i => let x := k.bars.getD i Barrier.empty; if i = b then f x else x) })

/-- Records a unit in the phase. -/
def Barrier.record (x : Barrier) (w sub : Nat) : Barrier := if x.units.contains (w, sub) then x else { x with units := x.units ++ [(w, sub)] }

/-- Records a BARA of a warp in the phase. -/
def Barrier.noteBara (x : Barrier) (w : Nat) : Barrier :=
  if x.bara.any (fun p => p.1 = w && p.2.1 = x.phase) then x else { x with bara := x.bara ++ [(w, x.phase, [])] }

/-- A BARW of a unit has used the warp's BARA of a phase. An entry that every live unit has used is dropped. -/
def Barrier.useBara (x : Barrier) (w sub phase : Nat) (live : List Nat) : Barrier :=
  { x with bara := x.bara.filterMap (fun p =>
      if p.1 = w && p.2.1 = phase then
        let used := if p.2.2.contains sub then p.2.2 else p.2.2 ++ [sub]
        if live.all used.contains then none else some (w, phase, used)
      else some p) }

/-- The oldest completed BARA phase of a warp that a unit's BARW has not used. DEDUCED (log 23), unsafe if the reading is wrong. -/
def Barrier.oldBara (x : Barrier) (w sub : Nat) : Option Nat :=
  ((x.bara.filter (fun p => p.1 = w && p.2.1 < x.phase && !p.2.2.contains sub)).map (fun p => p.2.1)).head?

def Barrier.hasBara (x : Barrier) (w : Nat) : Bool := x.bara.any (fun p => p.1 = w && p.2.1 = x.phase)

/-- SUBIDs of a warp's live units. -/
def Warp.liveSubs (w : Warp) : List Nat := (w.units.filter (fun u => u.st ≠ .fusing)).map (·.sub)

/-- Barrier an instruction names: A[3:0]. -/
def Ctx.barNo (c : Ctx) (x : Op) : Nat := (c.scalar x.lit x.a).toNat % 16

/-- Goes on where barrier `b` has left phase `p`, as an acquire; else waits for its completion. -/
def Ctx.barWait (c : Ctx) (s : State) (b p : Nat) : Run :=
  if p < (s.barrier c.w.wg b).phase then .go (Fin.nil (s.acquire c.core))
  else .go { Fin.nil s with wait := some (.bar b p) }

/-- BAR of a unit whose warp has not arrived. -/
def Ctx.barRun (c : Ctx) (b : Nat) : Run :=
  let x := c.s.barrier c.w.wg b
  if x.arrived.contains c.w.wgw then .block c.s (.bar b x.phase)
  else c.barWait ((c.s.modBar c.w.wg b (fun x => x.record c.w.wgw c.sub)).checkBars c.w.wg) b x.phase

def baraRun (c : Ctx) (b : Nat) : Run :=
  let x := c.s.barrier c.w.wg b
  if x.arrived.contains c.w.wgw then .block c.s (.bar b x.phase)
  else .go (Fin.nil ((c.s.modBar c.w.wg b (fun x => (x.record c.w.wgw c.sub).noteBara c.w.wgw)).checkBars c.w.wg))

def barwRun (c : Ctx) (b : Nat) : Run :=
  let x := c.s.barrier c.w.wg b
  let used (p : Nat) : Ctx := { c with s := c.s.modBar c.w.wg b (fun x => x.useBara c.w.wgw c.sub p c.w.liveSubs) }
  match x.oldBara c.w.wgw c.sub with
  | some p => .go (Fin.nil ((used p).s.acquire c.core))
  | none =>
    if x.arrived.contains c.w.wgw && x.hasBara c.w.wgw then (used x.phase).barWait (used x.phase).s b x.phase
    else if x.hasBara c.w.wgw then (used x.phase).barRun b
    else c.barRun b

def execBar (x : Op) (s : State) : Out := issue (syncJob x (fun c => c.barRun (c.barNo x))) s
def execBara (x : Op) (s : State) : Out := issue (syncJob x (fun c => baraRun c (c.barNo x))) s
def execBarw (x : Op) (s : State) : Out := issue (syncJob x (fun c => barwRun c (c.barNo x))) s

/-! ## Group barriers (R206, R33) -/

/-- The check of R206. -/
def gbarCheck (x : Op) (c : Ctx) : Option TrapInfo :=
  let e := (c.scalar x.lit x.a).toNat % 256
  match c.s.launchOf c.g, c.s.group? c.w.wg with
  | some (_, l), some k =>
    if k.relaunched || !(l.groups.getD e []).contains k.lin then some (TrapInfo.unit 7 4 0) else none
  | _, _ => some (TrapInfo.unit 7 4 0)

def gbarRun (x : Op) (c : Ctx) : Run :=
  let e := (c.scalar x.lit x.a).toNat % 256
  match c.s.launchOf c.g with
  | none => .go (Fin.nil c.s)
  | some (key, l) =>
    let n := l.gdone.getD e 0
    let s := c.s.modGroup c.w.wg (fun k => if k.garr.contains (e, c.w.wgw, c.sub) then k else { k with garr := k.garr ++ [(e, c.w.wgw, c.sub)] })
    let s := s.checkEntry key e
    let m := match s.launch? key with
      | some l => l.gdone.getD e 0
      | none => 0
    if n < m then .go (Fin.nil (s.acquire c.core)) else .go { Fin.nil s with wait := some (.gbar e n) }

def execGbar (x : Op) (s : State) : Out := issue { syncJob x (gbarRun x) with uniform := gbarCheck x } s

/-! ## Words in memory (R208 to R210) -/

/-- What the test of WATCH and WAITW finds. -/
inductive WordTest where
  | trap (t : TrapInfo)
  | pass (s : State)
  | no (s : State) (pa : Nat)

/-- The checks and the single read of WATCH and WAITW (R208). -/
def Ctx.testWord (c : Ctx) (x : Op) : WordTest :=
  let f := x.func.toNat
  let n := if f.testBit 3 then 8 else 4
  let va := c.scalar x.lit x.a
  let mask := (c.scalar x.lit x.c).toNat % 2 ^ (8 * n)
  let ref := (c.scalar x.lit x.b).toNat % 2 ^ (8 * n) &&& mask
  if va.toNat % n ≠ 0 then .trap (TrapInfo.unit 4 0 va)
  else
    match c.s.xlatCore c.core (c.s.rootOf c.g) va .read with
    | (_, .fail k j) => .trap (TrapInfo.unit k j va)
    | (s, .ok pa pte addr) =>
      if !s.memReady pa then .trap (TrapInfo.unit 1 1 va)
      else
        let (s, v) := (s.touch addr false).homeRead c.die (pteScope pte) pa n
        if watchPass (f % 8) (8 * n) v mask ref then .pass (s.acquire c.core) else .no s pa

/-- WAITER of a unit (R364). -/
def waiterUnit (g sub : Nat) : Nat := dieOf g + coreOf g % 48 * 4 + g % 128 * 2 ^ 8 + sub * 2 ^ 15

/-- Arms an entry in the table of the word's home die: the lowest that is free of 4,096. -/
def State.armWatch (s : State) (e : Watch) : Option (Nat × Nat × State) :=
  let d := s.homeDie e.pa
  ((List.range 4096).find? (fun i => ((s.die d).watches.find? i).isNone)).map
    (fun i => (d, i, s.modDie d (fun y => { y with watches := y.watches.put i e })))

def watchRun (x : Op) (c : Ctx) : Run :=
  let f := x.func.toNat
  if c.act = 0 then .go (Fin.nil c.s)
  else
    match c.testWord x with
    | .trap t => .trap t
    | .pass s => .go { (Ctx.put { c with s := s } x.d (constLanes 0) 0) with s := s }
    | .no s pa =>
      let w := if f.testBit 3 then 64 else 32
      let mask : W64 := BitVec.ofNat 64 ((c.scalar x.lit x.c).toNat % 2 ^ w)
      let e : Watch := { cmp := f % 8, w64 := f.testBit 3, kind := 0, pa := pa, mask := mask, ref := c.scalar x.lit x.b &&& mask,
                         waiter := waiterUnit c.g c.sub, fired := false }
      match s.armWatch e with
      | none => .go (Ctx.put { c with s := s } x.d (constLanes 1) 0)
      | some (d, i, s) =>
        let (h, s) := s.newHandle
        .go { (Ctx.put { c with s := s } x.d (constLanes 0) 0) with wait := some (.watch d i c.len), later := some (2 * h + 1) }

def execWatch (x : Op) (s : State) : Out := issue { jobOf x x.bytes (watchRun x) with long := true } s

def waitwRun (x : Op) (c : Ctx) : Run :=
  if c.act = 0 then .go (Fin.nil c.s)
  else
    match c.testWord x with
    | .trap t => .trap t
    | .pass s => .go (Ctx.put { c with s := s } x.d (constLanes 0) 0)
    | .no s _ => .go (Ctx.put { c with s := s } x.d (constLanes 2) 0)

def execWaitw (x : Op) (s : State) : Out := issue { jobOf x x.bytes (waitwRun x) with long := true } s

/-- Frees a watch entry. -/
def State.freeWatch (s : State) (d i : Nat) : State := s.modDie d (fun x => { x with watches := x.watches.del i })

/-- A blocked unit returns to Ready, with its wait from zero (R23). -/
def State.wake (s : State) (g sub : Nat) : State := s.modUnit g sub (fun u => { u with st := .ready, wait := 0 })

/-- The results an armed WATCH or an emulated conversion left open become known. -/
def readyLooks (s : State) (w : Warp) (ks : List Look) : List Look :=
  ks.map (fun k => if w.mops.any (fun o => o.look = some k.id) || s.lateAtom k.id then k else { k with ready := true })

/-- WATCH_FIRE (R124, R209): a fired entry is freed. A unit's wait ends as an acquire; an interrupt entry is raised (R364). A
queue slot's entry is left to its dependence (R362). -/
def execWatchFire (die idx : Nat) (s : State) : Out :=
  .next (match (s.die die).watches.find? idx with
    | none => s
    | some e =>
      if !e.fired || e.kind = 1 then s
      else
        let s' := s.freeWatch die idx
        if e.kind = 2 then s'.raise (bits e.waiter 5 0) (bits e.waiter 21 6)
        else
          let g := (bits e.waiter 1 0 * 48 + bits e.waiter 7 2) * 128 + bits e.waiter 14 8
          let sub := bits e.waiter 17 15
          match s'.warp? g, s'.unit? g sub with
          | some w, some _ =>
            ((s'.modUnit g sub (fun u => { u with looks := readyLooks s' w u.looks })).wake g sub).acquire (coreOf g)
          | _, _ => s')

/-! ## SLEEP (R211) -/

def sleepJob (x : Op) : Job :=
  jobOf x x.bytes (fun c =>
    let n := (c.scalar x.lit x.a).toNat % 2 ^ 32
    if n = 0 then .go c.yielding else .go { Fin.nil c.s with wait := some (.sleep ((c.s.clk c.die + n) % 2 ^ 64)) })

def execSleep (x : Op) (s : State) : Out := issue (sleepJob x) s

/-- SLEEP_EXPIRY (R211): the local CLK has reached the end of a unit's sleep, at a stroke boundary of its quadrant. -/
def execSleepExpiry (g sub : Nat) (s : State) : Out :=
  .next (match s.unit? g sub with
    | some u =>
      match u.st with
      | .blocked (.sleep t) => if (s.clk (dieOf g) + 2 ^ 64 - t) % 2 ^ 64 < 2 ^ 63 then s.wake g sub else s
      | _ => s
    | none => s)

/-! ## SWI (R212, R354) -/

/-- The effect of an SWI by a warp of a launch: target and value. -/
def State.swi (s : State) (g : Nat) (l : Launch) (a : W64) (v : Nat) : State :=
  if a.getLsbD 63 then
    if fld a 11 0 ≠ 0 then s.wakeDrop l.vif
    else s.setDieReg (dieOf g) .mbox (s.dieReg (dieOf g) .mbox ||| BitVec.ofNat 64 v)
  else
    match s.ownQueue l.vif (fld a 11 0) with
    | none => s.wakeDrop l.vif
    | some q => (s.orWord (q.qcb + qcbWAKE) v).kickQueue q

def swiRun (x : Op) (c : Ctx) : Run :=
  match c.s.launchOf c.g with
  | some (_, l) =>
    if c.real = 0 then .go (Fin.nil c.s)
    else .go (Fin.nil (c.s.swi c.g l (c.scalar x.lit x.a) ((c.scalar x.lit x.b).toNat % 2 ^ 32)))
  | none => .go (Fin.nil c.s)

def execSwi (x : Op) (s : State) : Out := issue (syncJob x (swiRun x)) s

end Sys2Proof.Machine
end

