-- ==== Sys2Proof/Machine/Shape.lean ====
section
/-! DEFINITION. The shape of a tile (R87, R88), and the matrix operations that a store to a tile's bytes leaves undefined (R118). -/

namespace Sys2Proof.Machine

/-! ## Shapes (R88) -/

/-- Bits of an element. -/
def Shape.bits (h : Shape) : Nat := 4 * 2 ^ h.esz

/-- Bytes that `m` elements take along the contiguous direction. -/
def Shape.span (h : Shape) (m : Nat) : Nat := if h.esz = 0 then (m + 1) / 2 else m * 2 ^ (h.esz - 1)

/-- Byte of element (i, j) in the window, and the first bit of the element in it. -/
def Shape.elem (h : Shape) (i j : Nat) : Nat × Nat :=
  let at' (m : Nat) : Nat := if h.esz = 0 then m / 2 else m * 2 ^ (h.esz - 1)
  let nib (m : Nat) : Nat := if h.esz = 0 then m % 2 * 4 else 0
  match h.layout with
  | 0 => (h.base + i * h.pitch * 8 + at' j, nib j)
  | 1 => (h.base + j * h.pitch * 8 + at' i, nib i)
  | _ => (h.base + i * h.pitch * 8 + ((at' j / 8) ^^^ (i % 8)) * 8 + at' j % 8, nib j)

/-- The shape words of TCFG (R263). -/
def shapeOf (b c : Nat) : Shape :=
  { base := bits b 24 0, rows := bits b 42 32, cols := bits b 53 43, esz := bits b 56 54, layout := bits b 59 57, pitch := bits c 15 0 }

/-- Whether TCFG accepts the words B and C in a window (R88, R263). The last element is (ROWS − 1, COLS − 1): DEDUCED (log 23). -/
def shapeOk (window b c : Nat) : Bool :=
  let h := shapeOf b c
  let row := (if h.layout = 1 then h.rows else h.cols) * h.bits
  bits b 31 25 = 0 && bits b 63 60 = 0 && c / 2 ^ 16 = 0 && h.esz ≤ 4 && h.layout ≤ 2 && h.base % 8 = 0
    && 1 ≤ h.rows && h.rows ≤ 1024 && 1 ≤ h.cols && h.cols ≤ 1024 && row ≤ h.pitch * 64
    && (h.layout ≠ 2 || (512 ≤ row && row % 512 = 0)) && (h.elem (h.rows - 1) (h.cols - 1)).1 + max 1 (h.bits / 8) ≤ window

/-! ## Queued operations that read a tile -/

/-- Element (i, j) of a tile takes one of the `len` bits of the window from bit `lo` on. -/
def Shape.meets (h : Shape) (i j lo len : Nat) : Bool :=
  let e := h.elem i j
  8 * e.1 + e.2 < lo + len && lo < 8 * e.1 + e.2 + h.bits

/-- K of a matrix format (R277). -/
def matK (fmt cont : Nat) : Nat :=
  match fmt with
  | 0 => 4
  | 1 => 8
  | 2 | 3 => 32
  | _ => if cont = 4 then 128 else 64

/-- The operation takes B from an element that lies in those bits. -/
def MOp.bMeets (o : MOp) (lo len : Nat) : Bool :=
  match o.bSrc with
  | .tile _ h k0 j0 => (List.range (matK o.fmt o.cont)).any (fun k => (List.range 16).any (fun j => h.meets (k0 + k) (j0 + j) lo len))
  | _ => false

/-- The rows of an add-on-store drain whose old elements lie in those bits. -/
def MOp.addMeets (o : MOp) (lo len : Nat) : W32 :=
  match o.drain with
  | .tile _ h i0 j0 => if o.add then maskOf (fun i => inMask o.rows i && (List.range 16).any (fun j => h.meets (i0 + i) (j0 + j) lo len)) else 0
  | _ => 0

/-- A store by a warp to window bits marks its operations that have them as operands, until the MWAIT for their batch (R118). -/
def State.spoilTiles (s : State) (g : Nat) (lo len : Nat) : State :=
  s.modWarp g (fun w => { w with mops := w.mops.map (fun m => { m with bSpoilt := m.bSpoilt || m.bMeets lo len, spoilt := m.spoilt ||| m.addMeets lo len }) })

end Sys2Proof.Machine
end

