-- ==== Sys2Proof/Machine/MemI.lean ====
section
/-! DEFINITION. Memory instructions (R247 to R261, R268): loads and stores on the generic, constant and scratchpad paths, atomics and
reductions, fences, and the frames of the warp stack. -/

namespace Sys2Proof.Machine

/-! ## Memory fields (R248) -/

def memSz (x : Op) : Nat := x.mod.toNat % 8
def memSx (x : Op) : Bool := x.mod.toNat.testBit 3
def memOrd (x : Op) : Nat := x.mod.toNat / 16 % 4
/-- Dwords or items of one lane. -/
def memCount (x : Op) : Nat := if memSz x < 4 then 1 else 2 ^ (memSz x - 3)
/-- Bytes of one item. -/
def memItem (x : Op) : Nat := if memSz x < 4 then 2 ^ memSz x else 8

/-- A loaded item as a register value. -/
def memExtend (x : Op) (v : Nat) : W64 := if memSx x then w64 (sextN v (8 * memItem x)) else BitVec.ofNat 64 v

/-- An operand that names a vector. -/
def isVec : Operand → Bool
  | .v _ => true
  | _ => false

/-! ## Lanes and addresses (R249) -/

/-- The lanes that access: every active lane, or the lowest for a scalar destination. -/
def Ctx.accLanes (c : Ctx) (unit : Bool) : List Nat := if unit then c.lanes.take 1 else c.lanes

/-- The effective address of a lane. -/
def effAddr (a b : Lanes) (l : Nat) : W64 := a.at l + b.at l

/-- The `i`-th value of a data run: consecutive registers, or one immediate for every dword. -/
def Ctx.nthData (c : Ctx) (x : Op) (o : Operand) (i : Nat) : Lanes :=
  match o with
  | .imm _ | .lit => c.src x.lit o
  | _ => c.nth o i

/-- One item a lane accesses, translated. -/
structure Acc where
  lane : Nat
  k    : Nat
  va   : W64
  pa   : Nat
  pte  : W64
  addr : Nat
  deriving DecidableEq, Repr

/-- Translates the items of one lane (R250 step 2); memory that is not ready counts as unmapped (R431). -/
def xlatItems (core root : Nat) (want : Want) (lane : Nat) : List (Nat × W64) → State → State × Except (Nat × Nat) (List Acc)
  | [], s => (s, .ok [])
  | (k, va) :: rest, s =>
    match s.xlatCore core root va want with
    | (s, .fail c j) => (s, .error (c, j))
    | (s, .ok pa pte addr) =>
      if !s.memReady pa then (s, .error (1, 1))
      else
        match xlatItems core root want lane rest s with
        | (s, .ok as) => (s, .ok ({ lane := lane, k := k, va := va, pa := pa, pte := pte, addr := addr } :: as))
        | (s, .error e) => (s, .error e)

/-- Translates the items of several lanes: the items of lanes that pass, and the lanes that fail with their rows. -/
def xlatLanes (core root : Nat) (want : Want) (item : Nat → List (Nat × W64)) : List Nat → State → State × List Acc × List (Nat × Nat × Nat)
  | [], s => (s, [], [])
  | l :: ls, s =>
    match xlatItems core root want l (item l) s with
    | (s, .ok as) => let (s, bs, fs) := xlatLanes core root want item ls s; (s, as ++ bs, fs)
    | (s, .error e) => let (s, bs, fs) := xlatLanes core root want item ls s; (s, bs, (l, e) :: fs)

/-- What the checks of R250 leave: a trap, or the state with the items of the lanes that access. -/
inductive Checked where
  | trap (t : TrapInfo)
  | ok (s : State) (as : List Acc)

/-- A trap of the lanes that failed one step. -/
def failTrap (ea : Nat → W64) (version : Nat) (fs : List (Nat × Nat × Nat)) : TrapInfo :=
  let f := fs.headD (0, 1, 1)
  TrapInfo.lanes f.2.1 f.2.2 version (fs.map (fun p => (p.1, ea p.1)))

/-- Steps 1 and 2 of R250. A helper's failure is silent: it makes no access. -/
def Ctx.checkMem (c : Ctx) (lanes : List Nat) (ea : Nat → W64) (align n size : Nat) (want : Want) : Checked :=
  let helper (l : Nat) : Bool := inMask c.w.helpers l
  let odd (l : Nat) : Bool := (ea l).toNat % align ≠ 0
  let bad := lanes.filter (fun l => odd l && !helper l)
  if !bad.isEmpty then .trap (failTrap ea 0 (bad.map (fun l => (l, 4, 0))))
  else
    let item (l : Nat) : List (Nat × W64) := (List.range n).map (fun k => (k, ea l + BitVec.ofNat 64 (k * size)))
    let (s, as, fs) := xlatLanes c.core (c.s.rootOf c.g) want item (lanes.filter (fun l => !odd l)) c.s
    let fs := fs.filter (fun f => !helper f.1)
    if fs.isEmpty then .ok s as else .trap (failTrap ea 0 fs)

/-- The value a lane got for its `k`-th item. -/
def laneVal (vs : List (Nat × Nat × W64)) (k l : Nat) : W64 := ((vs.find? (fun p => p.1 = l && p.2.1 = k)).map (fun p => p.2.2)).getD 0

/-- The registers of a load: one for each item. -/
def loadRun (n : Nat) (vs : List (Nat × Nat × W64)) : List Lanes := (List.range n).map (fun k => Lanes.tab (laneVal vs k))

/-! ## Writes, and the copy-on-write they may meet (R98) -/

/-- Gives an outstanding result's lane its value. -/
def Look.give (k : Look) (id lane : Nat) (v : W64) : Look :=
  let upd (p : Dest × Lanes) : Dest × Lanes := match p.1 with
    | .v _ => (p.1, Lanes.tab (fun l => if l = lane then v else p.2.at l))
    | _ => (p.1, [v])
  if k.id = id then { k with dests := k.dests.map upd } else k

/-- Changes every outstanding result of a warp, in its units and its split entries. -/
def State.mapLooks (s : State) (g : Nat) (f : Look → Look) : State :=
  (s.modWarp g (fun w => { w with units := w.units.map (fun u => { u with looks := u.looks.map f }) })).modCore (coreOf g)
    (fun c => { c with split := c.split.each (fun e => if e.warp = g then { e with looks := e.looks.map f } else e) })

/-- The write of a cas takes place (R258). -/
def casWrites (op n old : Nat) (cmp : W64) : Bool := op ≠ 7 || old = cmp.toNat % 2 ^ (8 * n)

/-- One atomic at its item: the state, the old value, and whether it wrote. The next read of the item by this unit sees no older value (R105). -/
def State.atomic (s : State) (core d scope pa op ty : Nat) (cmp v : W64) : State × Nat × Bool :=
  let n := atomWidth ty / 8
  let (s, old) := s.homeRead d scope pa n
  let writes := casWrites op n old cmp
  let s := if writes then s.writeMem d scope pa (leBytes n (atomNew op ty old v.toNat))
    else if scope = 1 then s.dirWrite d pa else s
  ((s.dropL1 core pa).dropCopy d pa, old, writes)

/-- A write lands at its item, on a page of the given scope. -/
def LateWrite.land (x : LateWrite) (s : State) (scope pa : Nat) : State :=
  match x.op with
  | .bytes bs =>
    match x.core with
    | some c => s.storeItem c scope pa bs
    | none => s.writeMem x.die scope pa bs
  | .red op ty v =>
    let s := s.reduce x.die scope pa op ty v
    match x.core with
    | some c => s.dropL1 c pa
    | none => s
  | .atom op ty cmp v look lane =>
    let (s, old, _) := s.atomic (x.core.getD 0) x.die scope pa op ty cmp v
    match x.who with
    | .unit g _ _ => s.mapLooks g (fun k => k.give look lane (BitVec.ofNat 64 old))
    | .link d port _ => { s with replies := s.replies ++ [(d, port, some (leBytes (atomWidth ty / 8) old))] }
    | _ => s
  | .record area bs => s.postFault x.die area bs

/-- A write to an item: at once, or in its order of arrival once the page's copy has ended (R98). -/
def LateWrite.put (x : LateWrite) (s : State) (a : Acc) : State :=
  match (s.touch a.addr true).cowTouch a.addr with
  | (s, .clear) => x.land s (pteScope a.pte) a.pa
  | (s, _) => s.queueLate a.addr x

/-- A write by an active lane of an instruction. -/
def Ctx.writer (c : Ctx) (a : Acc) (op : LateOp) : LateWrite :=
  { who := .unit c.g c.sub c.u.pc, core := some c.core, die := c.die, lane := a.lane, va := a.va, off := a.pa % 65536, op := op }

/-- The lanes whose writes fail at a page to be copied: MEMFAULT 5 on an inconsistent record, 7 once the ring has stayed empty (R94, R98). -/
def cowFails (s : State) (as : List Acc) : List (Nat × Nat × Nat) :=
  (as.filterMap (fun a => match (s.cowTouch a.addr).2 with
    | .bad => some (a.lane, 1, 5)
    | .noFrame => some (a.lane, 1, 7)
    | .clear | .wait => none)).eraseDups

/-- Runs a set of writes unless their pages make some lane fail. -/
def Ctx.afterCow (ea : Nat → W64) (s : State) (as : List Acc) (k : State → Run) : Run :=
  let fs := cowFails s as
  if fs.isEmpty then k s else .trap (failTrap ea 0 fs)

/-! ## Loads (R251, R254) -/

/-- Reads the items of a load through a path. -/
def readItems (core : Nat) (p : Path) (size : Nat) (ext : Nat → W64) : List Acc → State → State × List (Nat × Nat × W64)
  | [], s => (s, [])
  | a :: as, s =>
    let (s, bs) := (s.touch a.addr false).readLine core p (pteScope a.pte) a.pa size
    let (s, vs) := readItems core p size ext as s
    (s, (a.lane, a.k, ext (leNat bs)) :: vs)

/-- A job with a run of `n` destinations. -/
def loadJob (x : Op) (run : Ctx → Run) : Job :=
  { jobOf x x.bytes run with long := true, dests := x.d.run (memCount x), reads := x.a.run 1 ++ x.b.run 1 }

/-- LD and LDC: a load through path `p`. An acquire invalidates the L1 before it reads. -/
def ldRun (p : Path) (x : Op) (c : Ctx) : Run :=
  let ea := effAddr (c.src x.lit x.a) (c.src x.lit x.b)
  match c.checkMem (c.accLanes (!isVec x.d)) ea (memItem x) (memCount x) (memItem x) .read with
  | .trap t => .trap t
  | .ok s as =>
    let s := if memOrd x = 1 then s.acquire c.core else s
    let (s, vs) := readItems c.core p (memItem x) (memExtend x) as s
    .go (Ctx.putRun { c with s := s } x.d (loadRun (memCount x) vs) 0)

def execLd (x : Op) (s : State) : Out := issue (loadJob x (ldRun .generic x)) s
def execLdc (x : Op) (s : State) : Out := issue (loadJob x (ldRun .constant x)) s

/-! ## LDV (R253, R100) -/

/-- The version check of each item: the frame it reads, or the lanes that fail with their subcodes. -/
def checkVersions (s : State) (ver : Nat) : List Acc → List Acc × List (Nat × Nat × Nat)
  | [] => ([], [])
  | a :: as =>
    let (ok, fs) := checkVersions s ver as
    match s.versionFrame a.pte a.addr ver with
    | .ok f => ({ a with pa := f * 65536 + a.pa % 65536 } :: ok, fs)
    | .error k => (ok, (a.lane, 3, k) :: fs)

/-- Reads the items of an LDV. A published image gives what its page held at the publish point, whatever a cache holds of the frame's earlier
lines (R125); the current version is an ordinary read. -/
def readVersions (core ver size : Nat) (ext : Nat → W64) : List Acc → State → State × List (Nat × Nat × W64)
  | [], s => (s, [])
  | a :: as, s =>
    let s := s.touch a.addr false
    let (s, v) :=
      if s.isImage a.addr ver then s.homeRead (dieOfCore core) (pteScope a.pte) a.pa size
      else
        let (s, bs) := s.readLine core .generic (pteScope a.pte) a.pa size
        (s, leNat bs)
    let (s, vs) := readVersions core ver size ext as s
    (s, (a.lane, a.k, ext v) :: vs)

def ldvRun (x : Op) (c : Ctx) : Run :=
  let ea := effAddr (c.src x.lit x.a) (c.src x.lit x.b)
  let ver := (c.scalar x.lit x.c).toNat % 2 ^ 32
  match c.checkMem (c.accLanes (!isVec x.d)) ea (memItem x) (memCount x) (memItem x) .read with
  | .trap t => .trap t
  | .ok s as =>
    let (ok, fs) := checkVersions s ver as
    let real := fs.filter (fun f => !inMask c.w.helpers f.1)
    if !real.isEmpty then .trap (failTrap ea ver real.eraseDups)
    else
      let as := ok.filter (fun a => !fs.any (fun f => f.1 = a.lane))
      let s := if memOrd x = 1 then s.acquire c.core else s
      let (s, vs) := readVersions c.core ver (memItem x) (memExtend x) as s
      .go (Ctx.putRun { c with s := s } x.d (loadRun (memCount x) vs) 0)

def execLdv (x : Op) (s : State) : Out := issue (loadJob x (ldvRun x)) s

/-! ## Stores (R252) -/

/-- Of the lanes that write one item, the one whose value is written is unspecified (R104). -/
def winners (s : State) (key : Acc → Nat) (as : List Acc) : List Acc :=
  as.filter (fun a =>
    let same := as.filter (fun b => key b = key a)
    let i := if same.length = 1 then 0 else (s.freeVal ((same.map (·.lane)).headD 0)).toNat % same.length
    (same[i]?) = some a)

/-- Whether two items of an instruction coincide. -/
def clashes (key : Acc → Nat) (as : List Acc) : Bool := as.any (fun a => as.any (fun b => key a = key b && (a.lane ≠ b.lane || a.k ≠ b.k)))

/-- Moves on to the next free value where one was used. -/
def State.tickIf (s : State) (b : Bool) : State := if b then s.tickFree else s

/-- ST: the checks, then the writes. Address and data are captured, and nothing waits (R252). -/
def stRun (x : Op) (c : Ctx) : Run :=
  let ea := effAddr (c.src x.lit x.a) (c.src x.lit x.b)
  let n := memItem x
  match c.checkMem (lanesOf c.real) ea n (memCount x) n .write with
  | .trap t => .trap t
  | .ok s as =>
    Ctx.afterCow ea s as (fun s =>
      let data := (List.range (memCount x)).map (fun k => c.nthData x x.c k)
      let s' := (winners s (·.pa) as).foldl (fun s a =>
        (c.writer a (.bytes (leBytes n ((data.getD a.k []).at a.lane).toNat))).put s a) s
      .go (Fin.nil (s'.tickIf (clashes (·.pa) as))))

/-- A job whose data operand C is a run of `n`. -/
def storeJob (x : Op) (n : Nat) (run : Ctx → Run) : Job :=
  { jobOf x x.bytes run with hdr := x.hdr x.bytes 1 1 n, reads := x.a.run 1 ++ x.b.run 1 ++ x.c.run n }

def execSt (x : Op) (s : State) : Out := issue (storeJob x (memCount x) (stRun x)) s

/-! ## PREF (R255) -/

/-- Brings lines in; a line in state U is left, and a lane that fails a check asks for nothing. -/
def prefLines (core root : Nat) (l1 : Bool) : List W64 → State → State
  | [], s => s
  | va :: rest, s =>
    let s := match s.xlatCore core root va .read with
      | (s1, .ok pa pte _) =>
        if !s1.memReady pa || (s1.dirEnt pa).st = .u then s1
        else if l1 then (s1.readLine core .generic (pteScope pte) pa 1).1
        else (s1.l2Line (dieOfCore core) (pteScope pte) pa).1
      | (_, .fail _ _) => s
    prefLines core root l1 rest s

def prefRun (x : Op) (c : Ctx) : Run :=
  let ea := effAddr (c.src x.lit x.a) (c.src x.lit x.b)
  .go (Fin.nil (prefLines c.core (c.s.rootOf c.g) (x.func.getLsbD 0) (c.lanes.map ea) c.s))

def execPref (x : Op) (s : State) : Out := issue (jobOf x x.bytes (prefRun x)) s

/-! ## The scratchpad window (R30, R84, R256) -/

/-- Size of a workgroup's window. -/
def Group.window (k : Group) : Nat := if k.nbH = 0 then k.scrSize else k.nbW * k.nbH * 786432

/-- Core and offset of a window offset. -/
def Group.place (k : Group) (o : Nat) : Nat × Nat :=
  if k.nbH = 0 then (k.core, k.scrBase + o) else (k.nbCores.getD (o / 786432) k.core, o % 786432)

/-- Reads `n` bytes of a window. -/
def State.scrGet (s : State) (k : Group) (o n : Nat) : Nat :=
  leNat ((List.range n).map (fun i => let p := k.place (o + i); Store.get (s.core p.1).scratch p.2))

/-- Writes `n` bytes of a window. -/
def State.scrPut (s : State) (k : Group) (o n v : Nat) : State :=
  (List.range n).foldl (fun s i =>
    let p := k.place (o + i)
    s.modCore p.1 (fun c => { c with scratch := Store.set c.scratch p.2 (BitVec.ofNat 8 (v / 256 ^ i)) })) s

/-- The element of a core's scratchpad at an offset is about to change: the engine's staging may still show it as it is (R119). `who` is the writing
warp, none for a fill. -/
def State.stageAt (s : State) (core : Nat) (who : Option Nat) (off : Nat) : State :=
  let e : Staged := { seq := s.handles, elem := off / 8, val := BitVec.ofNat 64 (Store.item (s.core core).scratch (off / 8 * 8) 8), who := who }
  s.modCore core (fun c => { c with staged := c.staged ++ [e] })

/-- The same for the elements of `n` bytes of a window. A workgroup without tiles has no staged operand. -/
def State.stage (s : State) (k : Group) (who : Option Nat) (o n : Nat) : State :=
  if k.tiles = 0 then s
  else (List.range ((o + n + 7) / 8 - o / 8)).foldl (fun s i => let p := k.place ((o / 8 + i) * 8); s.stageAt p.1 who p.2) s

/-- A store by a warp to its window: the bytes, the staging of other warps' engine reads, and its own operations' operands (R118, R119). -/
def State.scrStore (s : State) (k : Group) (g o n v : Nat) : State := ((s.stage k (some g) o n).scrPut k o n v).spoilTiles g (8 * o) (8 * n)

/-- The checks of R250 with R256's second step: the lanes that access. -/
def scrCheck (c : Ctx) (k : Group) (lanes : List Nat) (ea : Nat → W64) (align total : Nat) : Except TrapInfo (List Nat) :=
  let helper (l : Nat) : Bool := inMask c.w.helpers l
  let odd (l : Nat) : Bool := (ea l).toNat % align ≠ 0
  let out (l : Nat) : Bool := k.window < (ea l).toNat + total
  let bad := lanes.filter (fun l => odd l && !helper l)
  let far := lanes.filter (fun l => out l && !helper l)
  if !bad.isEmpty then .error (failTrap ea 0 (bad.map (fun l => (l, 4, 0))))
  else if !far.isEmpty then .error (failTrap ea 0 (far.map (fun l => (l, 1, 8))))
  else .ok (lanes.filter (fun l => !odd l && !out l))

def ldsRun (x : Op) (c : Ctx) : Run :=
  match c.s.group? c.w.wg with
  | none => .go (Fin.nil c.s)
  | some k =>
    let ea := effAddr (c.src x.lit x.a) (c.src x.lit x.b)
    let n := memItem x
    match scrCheck c k (c.accLanes (!isVec x.d)) ea n (n * memCount x) with
    | .error t => .trap t
    | .ok ls =>
      let vs := ls.flatMap (fun l => (List.range (memCount x)).map (fun i => (l, i, memExtend x (c.s.scrGet k ((ea l).toNat + n * i) n))))
      .go (c.putRun x.d (loadRun (memCount x) vs) 0)

def execLds (x : Op) (s : State) : Out := issue (loadJob x (ldsRun x)) s

def stsRun (x : Op) (c : Ctx) : Run :=
  match c.s.group? c.w.wg with
  | none => .go (Fin.nil c.s)
  | some k =>
    let ea := effAddr (c.src x.lit x.a) (c.src x.lit x.b)
    let n := memItem x
    match scrCheck c k (lanesOf c.real) ea n (n * memCount x) with
    | .error t => .trap t
    | .ok ls =>
      let as := ls.flatMap (fun l => (List.range (memCount x)).map (fun i =>
        ({ lane := l, k := i, va := 0, pa := (ea l).toNat + n * i, pte := 0, addr := 0 } : Acc)))
      let data := (List.range (memCount x)).map (fun i => c.nthData x x.c i)
      let s := (winners c.s (·.pa) as).foldl (fun s a => s.scrStore k c.g a.pa n ((data.getD a.k []).at a.lane).toNat) c.s
      .go (Fin.nil (s.tickIf (clashes (·.pa) as)))

def execSts (x : Op) (s : State) : Out := issue (storeJob x (memCount x) (stsRun x)) s

/-! ## Atomics and reductions (R257 to R259) -/

def atomOp (x : Op) : Nat := x.func.toNat % 16
def atomTy (x : Op) : Nat := x.func.toNat / 16 % 16

/-- The items in the order they apply: lane order where they are distinct, else an unspecified order (R104). -/
def serialOrder (pick : Nat → Nat) : Nat → List Acc → List Acc
  | 0, as => as
  | n + 1, as =>
    match as[pick n % max as.length 1]? with
    | some a => a :: serialOrder pick n (as.erase a)
    | none => as

def applyOrder (s : State) (as : List Acc) : List Acc :=
  if clashes (·.pa) as then serialOrder (fun i => (s.freeVal i).toNat) as.length as else as

/-- What the atomics of an instruction give: the old values, the items that were written, and those that wait at a page being copied. -/
structure Atoms where
  vals  : List (Nat × Nat × W64)
  wrote : List Acc
  late  : List Acc

/-- Applies atomics in order. One that is to write a page under copy-on-write waits there, and its old value with it (R98). -/
def atomApply (c : Ctx) (op ty look : Nat) (cmp val : Lanes) : List Acc → State → State × Atoms
  | [], s => (s, { vals := [], wrote := [], late := [] })
  | a :: as, s =>
    let s := s.touch a.addr false
    let (t, old, writes) := s.atomic c.core c.die (pteScope a.pte) a.pa op ty (cmp.at a.lane) (val.at a.lane)
    match writes, (s.touch a.addr true).cowTouch a.addr with
    | true, (s', .wait) =>
      let x := c.writer a (.atom op ty (cmp.at a.lane) (val.at a.lane) look a.lane)
      let (s, r) := atomApply c op ty look cmp val as (s'.queueLate a.addr x)
      (s, { r with wrote := a :: r.wrote, late := a :: r.late })
    | true, _ =>
      let (s, r) := atomApply c op ty look cmp val as (t.touch a.addr true)
      (s, { r with vals := (a.lane, 0, BitVec.ofNat 64 old) :: r.vals, wrote := a :: r.wrote })
    | false, _ =>
      let (s, r) := atomApply c op ty look cmp val as t
      (s, { r with vals := (a.lane, 0, BitVec.ofNat 64 old) :: r.vals })

/-- A data operand of an atomic or reduction: with a floating type an inline immediate stands for its value (R160). -/
def Ctx.atomSrc (c : Ctx) (x : Op) (o : Operand) : Lanes := if atomTy x < 4 then c.fsrc (atomTy x) x.lit o else c.src x.lit o

def atomRun (x : Op) (c : Ctx) : Run :=
  let cas := atomOp x = 7
  let a := c.src x.lit x.a
  let b := c.src x.lit x.b
  let ea (l : Nat) : W64 := if cas then a.at l else a.at l + b.at l
  let n := atomWidth (atomTy x) / 8
  let ord := x.func.toNat / 256 % 4
  match c.checkMem ((c.accLanes (!isVec x.d)).filter (fun l => !inMask c.w.helpers l)) ea n 1 n .write with
  | .trap t => .trap t
  | .ok s as =>
    let look := 2 * s.handles + 1
    let (s1, r) := atomApply c (atomOp x) (atomTy x) look (c.atomSrc x x.b) (c.atomSrc x x.c) (applyOrder s as) s
    Ctx.afterCow ea s r.wrote (fun _ =>
      let s1 := if ord = 1 || ord = 3 then s1.acquire c.core else s1
      let s1 := s1.tickIf (clashes (·.pa) as)
      if r.late.isEmpty then .go (Ctx.putRun { c with s := s1 } x.d (loadRun 1 r.vals) 0)
      else .go { Ctx.putRun { c with s := s1.newHandle.2 } x.d (loadRun 1 r.vals) 0 with later := some look })

def execAtom (x : Op) (s : State) : Out := issue { storeJob x 1 (atomRun x) with long := true, dests := x.d.run 1 } s

def redRun (x : Op) (c : Ctx) : Run :=
  let ea := effAddr (c.src x.lit x.a) (c.src x.lit x.b)
  let n := atomWidth (atomTy x) / 8
  match c.checkMem (lanesOf c.real) ea n 1 n .write with
  | .trap t => .trap t
  | .ok s as =>
    Ctx.afterCow ea s as (fun s =>
      let val := c.atomSrc x x.c
      let s' := (applyOrder s as).foldl (fun s a => (c.writer a (.red (atomOp x) (atomTy x) (val.at a.lane))).put s a) s
      .go (Fin.nil (s'.tickIf (clashes (·.pa) as))))

def execRed (x : Op) (s : State) : Out := issue (storeJob x 1 (redRun x)) s

/-! ## Fences (R260, R261) -/

def fenceRun (x : Op) (c : Ctx) : Run := .go (Fin.nil (if x.mod.getLsbD 0 then c.s.acquire c.core else c.s))

def execFence (x : Op) (s : State) : Out := issue (jobOf x x.bytes (fenceRun x)) s

/-- The caches a PFENCE invalidates. -/
def Core.pfence (k : Core) (paths : Nat) : Core :=
  { k with l1 := if paths.testBit 0 then [] else k.l1, cc := if paths.testBit 1 then [] else k.cc, sc := if paths.testBit 2 then [] else k.sc }

def pfenceRun (x : Op) (c : Ctx) : Run := .go (Fin.nil (c.s.modCore c.core (fun k => k.pfence x.func.toNat)))

def execPfence (x : Op) (s : State) : Out := issue (jobOf x x.bytes (pfenceRun x)) s

/-! ## The stack (R268) -/

/-- Dwords per lane of a frame. -/
def frameLen (x : Op) : Nat := x.func.toNat % 16 + 1

def pushfRun (x : Op) (c : Ctx) : Run :=
  let n := frameLen x
  if c.w.stkptr.toNat < 256 * n + c.w.stklim.toNat then .trap (TrapInfo.unit 5 0 0)
  else
    let f := c.w.stkptr.toNat - 256 * n
    let ds := (List.range n).flatMap (fun k => let v := c.nth x.a k; (lanesOf c.real).map (fun l => (f + 256 * k + 8 * l, v.at l)))
    match c.s.stackReach c.g (lineHeads (ds.map (·.1))) with
    | (_, some a) => .trap (TrapInfo.stackFault a)
    | (s, none) => .go (Fin.nil (s.modWarp c.g (fun w => { w.stackPuts ds with stkptr := BitVec.ofNat 64 f })))

def execPushf (x : Op) (s : State) : Out :=
  issue { jobOf x x.bytes (pushfRun x) with hdr := x.hdr x.bytes (frameLen x) 0 0, reads := x.a.run (frameLen x) } s

/-- Reads dwords of a frame: lane, place, value; or the address whose line cannot be fetched. A helper lane of `quiet` reads zero there (R47). -/
def frameRead (g f : Nat) (quiet : W32) : List (Nat × Nat) → State → State × Except Nat (List (Nat × Nat × W64))
  | [], s => (s, .ok [])
  | (l, k) :: rest, s =>
    match s.stackGet g (f + 256 * k + 8 * l), inMask quiet l with
    | (s, none), false => (s, .error (f + 256 * k + 8 * l))
    | (s, v), _ =>
      match frameRead g f quiet rest s with
      | (s, .ok vs) => (s, .ok ((l, k, v.getD 0) :: vs))
      | (s, .error e) => (s, .error e)

def popfRun (x : Op) (c : Ctx) : Run :=
  let n := frameLen x
  let f := c.w.stkptr.toNat
  if c.w.stktop.toNat < f + 256 * n then .trap (TrapInfo.unit 5 0 0)
  else
    match frameRead c.g f c.w.helpers ((List.range n).flatMap (fun k => c.lanes.map (fun l => (l, k)))) c.s with
    | (_, .error a) => .trap (TrapInfo.stackFault a)
    | (s, .ok vs) =>
      let s := s.modWarp c.g (fun w => { w with stkptr := BitVec.ofNat 64 (f + 256 * n) })
      .go (Ctx.putRun { c with s := s } x.d (loadRun n vs) 0)

def execPopf (x : Op) (s : State) : Out := issue { jobOf x x.bytes (popfRun x) with long := true, dests := x.d.run (frameLen x), reads := [] } s

end Sys2Proof.Machine
end

