-- ==== Sys2Proof/Machine/Fp.lean ====
section
/-! DEFINITION. Floating-point arithmetic, comparison, classification, rounding to integral and CVT (R228 to R236): shared operations on patterns
with their flags, and the meaning of each instruction. -/

namespace Sys2Proof.Machine

/-! ## Operands -/

/-- A pattern with its source modifiers, NEG and ABS in bits `2i` and `2i + 1` of FUNC, applied after the BF16 flush (R229). -/
def fmodPat (code : Nat) (fz : Bool) (func i x : Nat) : Nat :=
  let f := ffmt code
  let y := flushIn code fz (x % 2 ^ f.width)
  let y := if func.testBit (2 * i + 1) then y % f.signBit else y
  if func.testBit (2 * i) then (y + f.signBit) % 2 ^ f.width else y

/-- A lane-by-lane floating job: the mode in force, the flush, and the modified patterns of A, B and C. -/
def fpJob (code : Nat) (x : Op) (len : Nat) (f : Rnd → Bool → Nat → Nat → Nat → Nat × W32) : Job :=
  jobOf x len (fun c =>
    let md := Rnd.select x.mod.toNat c.w.fpcr
    let fz := bffz c.w.fpcr
    let a := c.fsrc code x.lit x.a
    let b := c.fsrc code x.lit x.b
    let d := c.fsrc code x.lit x.c
    let pat (i : Nat) (v : W64) : Nat := fmodPat code fz x.func.toNat i v.toNat
    let r : List (Nat × W32) := laneIds.map (fun l => f md fz (pat 0 (a.at l)) (pat 1 (b.at l)) (pat 2 (d.at l)))
    .go (c.put x.d (r.map (fun p => BitVec.ofNat 64 p.1)) (orFlags c (fun l => (r.getD l (0, 0)).2))))

/-! ## Arithmetic (R230, R231) -/

def fsubPat (code : Nat) (fz : Bool) (md : Rnd) (a b : Nat) : Nat × W32 := sumRound code fz md [fval code fz a, (fval code fz b).neg]
def fmulPat (code : Nat) (fz : Bool) (md : Rnd) (a b : Nat) : Nat × W32 := roundVal code fz md ((fval code fz a).mul (fval code fz b))
def ffmaPat (code : Nat) (fz : Bool) (md : Rnd) (a b c : Nat) : Nat × W32 :=
  sumRound code fz md [(fval code fz a).mul (fval code fz b), fval code fz c]

def faddJob (code : Nat) (x : Op) (len : Nat) : Job := fpJob code x len (fun md fz a b _ => fadd code fz md a b)
def fsubJob (code : Nat) (x : Op) (len : Nat) : Job := fpJob code x len (fun md fz a b _ => fsubPat code fz md a b)
def fmulJob (code : Nat) (x : Op) (len : Nat) : Job := fpJob code x len (fun md fz a b _ => fmulPat code fz md a b)
def ffmaJob (code : Nat) (x : Op) (len : Nat) : Job := fpJob code x len (fun md fz a b c => ffmaPat code fz md a b c)
def fminJob (code : Nat) (x : Op) (len : Nat) : Job := fpJob code x len (fun _ _ a b _ => fminmax code false a b)
def fmaxJob (code : Nat) (x : Op) (len : Nat) : Job := fpJob code x len (fun _ _ a b _ => fminmax code true a b)

/-! ## Comparison (R232) -/

/-- Whether a condition signals on a quiet NaN. -/
def condSignals (k : FCond) : Bool :=
  match k with
  | .lt | .le | .gt | .ge => true
  | _ => false

/-- The relation of two patterns, with its flag. -/
def fcmpPat (code : Nat) (k : FCond) (a b : Nat) : Bool × W32 :=
  let f := ffmt code
  let va := f.decode a
  let vb := f.decode b
  let nan := va.isNan || vb.isNan
  let sig := va = .nan true || vb = .nan true
  let x := f.key a
  let y := f.key b
  let r : Bool := match k with
    | .eq => !nan && x = y
    | .ne => nan || x ≠ y
    | .lt => !nan && x < y
    | .le => !nan && x ≤ y
    | .gt => !nan && y < x
    | .ge => !nan && y ≤ x
    | .ord => !nan
    | .uno => nan
  (r, flagIf (sig || (nan && condSignals k)) flIO)

/-- FCMP; its format is MOD 1:0. -/
def fcmpJob (k : FCond) (x : Op) (len : Nat) : Job :=
  let code := x.mod.toNat % 4
  jobOf x len (fun c =>
    let fz := bffz c.w.fpcr
    let a := c.fsrc code x.lit x.a
    let b := c.fsrc code x.lit x.b
    let r (l : Nat) : Bool × W32 := fcmpPat code k (fmodPat code fz x.func.toNat 0 (a.at l).toNat) (fmodPat code fz x.func.toNat 1 (b.at l).toNat)
    .go (c.pushed (maskOf (fun l => (r l).1)) (orFlags c (fun l => (r l).2))))

/-! ## FCLASS, FRND (R233, R234) -/

/-- The class bit of a raw pattern. -/
def fclassBit (code x : Nat) : Nat :=
  let f := ffmt code
  let x := x % 2 ^ f.width
  let neg := x.testBit (f.eb + f.fb)
  let e := bits x (f.eb + f.fb - 1) f.fb
  let m := x % 2 ^ f.fb
  if e = 2 ^ f.eb - 1 then (if m = 0 then (if neg then 0 else 7) else if x.testBit (f.fb - 1) then 9 else 8)
  else if e = 0 then (if m = 0 then (if neg then 3 else 4) else if neg then 2 else 5)
  else if neg then 1 else 6

def fclassJob (code : Nat) (x : Op) : Job := laneJob x x.bytes (fun a _ _ => (BitVec.ofNat 64 (2 ^ fclassBit code a.toNat), 0))

/-- A pattern rounded to an integral value. -/
def frndPat (code : Nat) (md : Rnd) (a : Nat) : Nat × W32 :=
  match (ffmt code).decode a with
  | .fin neg m e => if 0 ≤ e then (a, 0) else (roundVal code false .rne (.fin neg (roundAt md neg m e 0 false).1 0)).1 |> fun r => (r, 0)
  | v => roundVal code false md v

def frndJob (code : Nat) (x : Op) : Job := fpJob code x x.bytes (fun md _ a _ _ => frndPat code md a)

/-! ## CVT (R137, R236) -/

/-- Width and signedness of an integer type code of R171. -/
def tyWidth (t : Nat) : Nat := 8 * 2 ^ (t % 4)
def tyMin (t : Nat) : Int := if tySigned t then -(2 ^ (tyWidth t - 1) : Int) else 0
def tyMax (t : Nat) : Int := if tySigned t then 2 ^ (tyWidth t - 1) - 1 else 2 ^ tyWidth t - 1

/-- An integer of a type, from the low bits of a slot. -/
def tyRead (t x : Nat) : Int := if tySigned t then sextN x (tyWidth t) else ((x % 2 ^ tyWidth t : Nat) : Int)

/-- The integer a float rounds to, clamped to a type. -/
def floatToInt (t : Nat) (md : Rnd) : FVal → Int × W32
  | .nan _ => (0, flIO ||| flSAT)
  | .inf neg => (if neg then tyMin t else tyMax t, flIO ||| flSAT)
  | .fin neg m e =>
    let (k, ix) := roundAt md neg m e 0 false
    let i : Int := if neg then -(k : Int) else k
    let o := clampI i (tyMin t) (tyMax t)
    if o = i then (i, flagIf ix flIX) else (o, flIO ||| flSAT)

/-- Converts the low bits of a slot from type `s` to type `d`. -/
def cvtPat (s d : Nat) (sat fz : Bool) (md : Rnd) (x : Nat) : Nat × W32 :=
  if s < 4 then
    let v := fval s fz x
    if d < 4 then roundVal d fz md v
    else let r := floatToInt d md v; ((r.1 % (2 ^ tyWidth d : Int)).toNat, r.2)
  else
    let i := tyRead s x
    if d < 4 then roundVal d fz md (.fin (i < 0) i.natAbs 0)
    else if sat then let o := clampI i (tyMin d) (tyMax d); ((o % (2 ^ tyWidth d : Int)).toNat, flagIf (o ≠ i) flSAT)
    else ((i % (2 ^ tyWidth d : Int)).toNat, 0)

def cvtJob (x : Op) : Job :=
  let src := x.func.toNat % 16
  let dst := x.func.toNat / 16 % 16
  let sat := x.mod.toNat.testBit 3
  jobOf x x.bytes (fun c =>
    let md := Rnd.select x.mod.toNat c.w.fpcr
    let fz := bffz c.w.fpcr
    let a := if src < 4 then c.fsrc src x.lit x.a else c.src x.lit x.a
    let r : List (Nat × W32) := laneIds.map (fun l => cvtPat src dst sat fz md (a.at l).toNat)
    .go (c.put x.d (r.map (fun p => BitVec.ofNat 64 p.1)) (orFlags c (fun l => (r.getD l (0, 0)).2))))

/-! ## The instructions -/

/-- FADD (R230). -/
def execFadd (f : Fmt) (x : Op) (s : State) : Out := issue (faddJob f.code x x.bytes) s
/-- FSUB (R230). -/
def execFsub (f : Fmt) (x : Op) (s : State) : Out := issue (fsubJob f.code x x.bytes) s
/-- FMUL (R230). -/
def execFmul (f : Fmt) (x : Op) (s : State) : Out := issue (fmulJob f.code x x.bytes) s
/-- FFMA (R230). -/
def execFfma (f : Fmt) (x : Op) (s : State) : Out := issue (ffmaJob f.code x x.bytes) s
/-- FMIN (R231). -/
def execFmin (f : Fmt) (x : Op) (s : State) : Out := issue (fminJob f.code x x.bytes) s
/-- FMAX (R231). -/
def execFmax (f : Fmt) (x : Op) (s : State) : Out := issue (fmaxJob f.code x x.bytes) s
/-- FADD_F64_V (R230). -/
def execFaddF64V (b : Bw) (s : State) : Out := issue (faddJob 0 (b.op 0x40 false) b.bytes) s
/-- FSUB_F64_V (R230). -/
def execFsubF64V (b : Bw) (s : State) : Out := issue (fsubJob 0 (b.op 0x41 false) b.bytes) s
/-- FMUL_F64_V (R230). -/
def execFmulF64V (b : Bw) (s : State) : Out := issue (fmulJob 0 (b.op 0x42 false) b.bytes) s
/-- FFMA_F64_V (R230). -/
def execFfmaF64V (b : Bw) (s : State) : Out := issue (ffmaJob 0 (b.op 0x43 true) b.bytes) s
/-- FMIN_F64_V (R231). -/
def execFminF64V (b : Bw) (s : State) : Out := issue (fminJob 0 (b.op 0x44 false) b.bytes) s
/-- FMAX_F64_V (R231). -/
def execFmaxF64V (b : Bw) (s : State) : Out := issue (fmaxJob 0 (b.op 0x45 false) b.bytes) s
/-- FADD_F64_S (R230). -/
def execFaddF64S (b : Bw) (s : State) : Out := issue (faddJob 0 (b.op 0x4C false) b.bytes) s
/-- FSUB_F64_S (R230). -/
def execFsubF64S (b : Bw) (s : State) : Out := issue (fsubJob 0 (b.op 0x4D false) b.bytes) s
/-- FMUL_F64_S (R230). -/
def execFmulF64S (b : Bw) (s : State) : Out := issue (fmulJob 0 (b.op 0x4E false) b.bytes) s
/-- FFMA_F64_S (R230). -/
def execFfmaF64S (b : Bw) (s : State) : Out := issue (ffmaJob 0 (b.op 0x4F true) b.bytes) s
/-- FMIN_F64_S (R231). -/
def execFminF64S (b : Bw) (s : State) : Out := issue (fminJob 0 (b.op 0x50 false) b.bytes) s
/-- FMAX_F64_S (R231). -/
def execFmaxF64S (b : Bw) (s : State) : Out := issue (fmaxJob 0 (b.op 0x51 false) b.bytes) s
/-- FADD_F32_V (R230). -/
def execFaddF32V (b : Bw) (s : State) : Out := issue (faddJob 1 (b.op 0x46 false) b.bytes) s
/-- FSUB_F32_V (R230). -/
def execFsubF32V (b : Bw) (s : State) : Out := issue (fsubJob 1 (b.op 0x47 false) b.bytes) s
/-- FMUL_F32_V (R230). -/
def execFmulF32V (b : Bw) (s : State) : Out := issue (fmulJob 1 (b.op 0x48 false) b.bytes) s
/-- FFMA_F32_V (R230). -/
def execFfmaF32V (b : Bw) (s : State) : Out := issue (ffmaJob 1 (b.op 0x49 true) b.bytes) s
/-- FMIN_F32_V (R231). -/
def execFminF32V (b : Bw) (s : State) : Out := issue (fminJob 1 (b.op 0x4A false) b.bytes) s
/-- FMAX_F32_V (R231). -/
def execFmaxF32V (b : Bw) (s : State) : Out := issue (fmaxJob 1 (b.op 0x4B false) b.bytes) s
/-- FADD_F32_S (R230). -/
def execFaddF32S (b : Bw) (s : State) : Out := issue (faddJob 1 (b.op 0x52 false) b.bytes) s
/-- FSUB_F32_S (R230). -/
def execFsubF32S (b : Bw) (s : State) : Out := issue (fsubJob 1 (b.op 0x53 false) b.bytes) s
/-- FMUL_F32_S (R230). -/
def execFmulF32S (b : Bw) (s : State) : Out := issue (fmulJob 1 (b.op 0x54 false) b.bytes) s
/-- FFMA_F32_S (R230). -/
def execFfmaF32S (b : Bw) (s : State) : Out := issue (ffmaJob 1 (b.op 0x55 true) b.bytes) s
/-- FMIN_F32_S (R231). -/
def execFminF32S (b : Bw) (s : State) : Out := issue (fminJob 1 (b.op 0x56 false) b.bytes) s
/-- FMAX_F32_S (R231). -/
def execFmaxF32S (b : Bw) (s : State) : Out := issue (fmaxJob 1 (b.op 0x57 false) b.bytes) s
/-- FCMP_EQ_V (R232). -/
def execFcmpEqV (b : Bw) (s : State) : Out := issue (fcmpJob .eq (b.op 0x5E false) b.bytes) s
/-- FCMP_NE_V (R232). -/
def execFcmpNeV (b : Bw) (s : State) : Out := issue (fcmpJob .ne (b.op 0x5F false) b.bytes) s
/-- FCMP_LT_V (R232). -/
def execFcmpLtV (b : Bw) (s : State) : Out := issue (fcmpJob .lt (b.op 0x60 false) b.bytes) s
/-- FCMP_LE_V (R232). -/
def execFcmpLeV (b : Bw) (s : State) : Out := issue (fcmpJob .le (b.op 0x61 false) b.bytes) s
/-- FCMP_GT_V (R232). -/
def execFcmpGtV (b : Bw) (s : State) : Out := issue (fcmpJob .gt (b.op 0x62 false) b.bytes) s
/-- FCMP_GE_V (R232). -/
def execFcmpGeV (b : Bw) (s : State) : Out := issue (fcmpJob .ge (b.op 0x63 false) b.bytes) s
/-- FCMP (R232). -/
def execFcmp (k : FCond) (x : Op) (s : State) : Out := issue (fcmpJob k x x.bytes) s
/-- FCLASS (R233). -/
def execFclass (f : Fmt) (x : Op) (s : State) : Out := issue (fclassJob f.code x) s
/-- FRND (R234). -/
def execFrnd (f : Fmt) (x : Op) (s : State) : Out := issue (frndJob f.code x) s
/-- CVT (R236). -/
def execCvt (x : Op) (s : State) : Out := issue (cvtJob x) s

end Sys2Proof.Machine
end

