-- ==== Sys2Proof/Machine/Narrow.lean ====
section
/-! DEFINITION. The narrow family and packed elements: FMTCVT (R138 to R142, R237), PACK and UNPACK (R127, R238). -/

namespace Sys2Proof.Machine

/-! ## FMTCVT -/

/-- The lanes whose format word is checked: the active ones, or lane 0 when there is none (R142, R237). -/
def Ctx.wordLanes (c : Ctx) : List Nat := if c.act = 0 then [0] else c.lanes

/-- Encodes or decodes one lane. An encoding the spec gives no code for is an undefined value. -/
def fmtcvtPat (code : Nat) (dir fz : Bool) (md : Rnd) (w : FWord) (free : W64) (a : Nat) : Nat × W32 :=
  if dir then roundVal code fz md (w.decode (a % 2 ^ w.box))
  else
    let r := w.encode md (fval code fz a)
    (r.1.getD (free.toNat % 2 ^ w.n), r.2)

/-- FMTCVT. A word outside the hardware subset makes a resource wait until Norem has written the destination (R141, R387). -/
def fmtcvtJob (x : Op) : Job :=
  let code := x.func.toNat % 4
  let dir := x.func.toNat.testBit 2
  { jobOf x x.bytes (fun c =>
    let md := Rnd.select x.mod.toNat c.w.fpcr
    let fz := bffz c.w.fpcr
    let b := c.src x.lit x.b
    let word (l : Nat) : FWord := FWord.ofBits ((b.at l).toNat % 2 ^ 32)
    let a := if dir then c.src x.lit x.a else c.fsrc code x.lit x.a
    let r : List (Nat × W32) := laneIds.map (fun l => fmtcvtPat code dir fz md (word l) (c.s.freeVal l) (a.at l).toNat)
    let f := c.put x.d (r.map (fun p => BitVec.ofNat 64 p.1)) (orFlags c (fun l => (r.getD l (0, 0)).2))
    let f := { f with s := c.s.tickFree }
    if c.lanes.any (fun l => !(word l).native) then
      let (h, s) := f.s.newHandle
      .go { f with s := s, later := some (2 * h + 1), wait := some .emul }
    else .go f) with
    decode := fun c =>
      if c.wordLanes.any (fun l => !(FWord.ofBits (((c.src x.lit x.b).at l).toNat % 2 ^ 32)).valid) then some (TrapInfo.unit 0 2 0) else none }

/-! ## PACK and UNPACK -/

/-- Element width of a code. -/
def packWidth (code : Nat) : Nat := 4 * 2 ^ (code % 4)

/-- Names a packed run of `n` elements of width `e` takes. -/
def packNames (n e : Nat) : Nat := (n * e + 63) / 64

/-- Element `i` of width `e` of a packed run read in lane `l` (R127). -/
def packedElem (run : List Lanes) (e i l : Nat) : Nat :=
  (((run.getD (i * e / 64) []).at l).toNat >>> (i * e % 64)) % 2 ^ e

/-- Slot `j` of a packed run of elements, one register each. -/
def packSlot (elems : List Lanes) (e j l : Nat) : W64 :=
  BitVec.ofNat 64 (((List.range (64 / e)).map (fun i => ((elems.getD (j * (64 / e) + i) []).at l).toNat % 2 ^ e * 2 ^ (i * e))).foldl (· + ·) 0)

def packJob (x : Op) : Job :=
  let e := packWidth x.func.toNat
  let n := x.func.toNat / 4 + 1
  let p := packNames n e
  { jobOf x x.bytes (fun c =>
      let elems := (List.range n).map (fun i => c.nth x.a i)
      .go (c.putRun x.d ((List.range p).map (fun j => Lanes.tab (fun l => packSlot elems e j l))) 0)) with
    hdr := x.hdr x.bytes n 0 0, dests := x.d.run p, reads := x.a.run n }

def unpackJob (x : Op) : Job :=
  let e := packWidth x.func.toNat
  let n := x.func.toNat / 4 + 1
  let p := packNames n e
  let sx := x.mod.toNat.testBit 0
  { jobOf x x.bytes (fun c =>
      let run := (List.range p).map (fun i => c.nth x.a i)
      .go (c.putRun x.d ((List.range n).map (fun i => Lanes.tab (fun l =>
        let v := packedElem run e i l
        if sx then w64 (sextN v e) else BitVec.ofNat 64 v))) 0)) with
    hdr := x.hdr x.bytes p 0 0, dests := x.d.run n, reads := x.a.run p }

/-! ## The instructions -/

/-- FMTCVT (R237). -/
def execFmtcvt (x : Op) (s : State) : Out := issue (fmtcvtJob x) s
/-- PACK (R238). -/
def execPack (x : Op) (s : State) : Out := issue (packJob x) s
/-- UNPACK (R238). -/
def execUnpack (x : Op) (s : State) : Out := issue (unpackJob x) s

end Sys2Proof.Machine
end

