-- ==== Sys2Proof/Machine/TileI.lean ====
section
/-! DEFINITION. Tiles (R87 to R90, R262 to R265), sampling (R266, R267) and SEND (R269). -/

namespace Sys2Proof.Machine

/-! ## Elements (R88) -/

/-- An element lies in the window. R88 tests the last element alone, and layout 2 can put others of its row behind it. -/
def Shape.inside (h : Shape) (k : Group) (i j : Nat) : Bool := (h.elem i j).1 + max 1 (h.bits / 8) ≤ k.window

/-- Reads an element; one outside the window is a free value: DESIGN CHOICE (log 23), safe. -/
def State.tileGet (s : State) (k : Group) (h : Shape) (i j : Nat) : Nat :=
  let e := h.elem i j
  if h.inside k i j then s.scrGet k e.1 (max 1 (h.bits / 8)) / 2 ^ e.2 % 2 ^ h.bits else (s.freeVal (900000 + e.1)).toNat % 2 ^ h.bits

/-- Writes an element; nothing stands outside the window. -/
def State.tilePut (s : State) (k : Group) (h : Shape) (i j v : Nat) : State :=
  let e := h.elem i j
  if !h.inside k i j then s
  else if h.esz = 0 then
    let old := s.scrGet k e.1 1
    s.scrPut k e.1 1 (old - old / 2 ^ e.2 % 16 * 2 ^ e.2 + v % 16 * 2 ^ e.2)
  else s.scrPut k e.1 (h.bits / 8) v

/-! ## Entries -/

/-- Whether a tile's state allows a use (R90). -/
def Tile.admits (t : Tile) : TileUse → Bool
  | .cfg => t.state = 0 || t.state = 2
  | .acq | .fill => t.state = 0 || (t.state = 2 && t.readers = 0)
  | .rel => (t.state = 1 && t.swfill) || (t.state = 2 && t.readers = 0)
  | .read => t.state = 2 && t.readers < 255
  | .stt => t.state = 2 || (t.state = 1 && t.swfill)
  | .copyout => t.state = 2 && t.readers < 255

/-- Entry `i` of a core. -/
def State.tile (s : State) (core i : Nat) : Tile := (s.core core).tiles.get Reset.tile i
def State.setTile (s : State) (core i : Nat) (t : Tile) : State := s.modCore core (fun c => { c with tiles := c.tiles.put i t })
def State.modTile (s : State) (core i : Nat) (f : Tile → Tile) : State := s.setTile core i (f (s.tile core i))

/-- The table entry a local index names, where it names one of the workgroup's and it has been configured (R262). -/
def Ctx.tileEntry (c : Ctx) (t : Nat) (anew : Bool) : Option (Group × Nat × Tile) :=
  match c.s.group? c.w.wg with
  | none => none
  | some k =>
    let e := c.s.tile k.core (k.tileBase + t)
    if t < k.tiles && (anew || e.conf) then some (k, k.tileBase + t, e) else none

/-- Local index of an operand: A[7:0]. -/
def Ctx.tileNo (c : Ctx) (x : Op) : Nat := (c.scalar x.lit x.a).toNat % 256

def tileBad (k : Nat) : TrapInfo := TrapInfo.unit 6 k 0

/-- The check of TILEBAD subcode 0. -/
def tileCheck (x : Op) (c : Ctx) : Option TrapInfo := if (c.tileEntry (c.tileNo x) false).isNone then some (tileBad 0) else none

/-- Runs an effect on the tile an operand names, when its state allows the use; else the unit waits (R22, R90). -/
def Ctx.withTile (c : Ctx) (x : Op) (u : TileUse) (f : Group → Nat → Tile → Run) : Run :=
  match c.tileEntry (c.tileNo x) (u = .cfg) with
  | none => .trap (tileBad 0)
  | some (k, i, t) => if t.admits u then f k i t else .block c.s (.tile i u)

/-! ## TCFG, TACQ, TREL, TSTAT (R263, R264) -/

def tcfgCheck (x : Op) (c : Ctx) : Option TrapInfo :=
  match c.tileEntry (c.tileNo x) true with
  | none => some (tileBad 0)
  | some (k, _, _) =>
    if shapeOk k.window (c.scalar x.lit x.b).toNat (c.scalar x.lit x.c).toNat then none else some (tileBad 1)

def tcfgRun (x : Op) (c : Ctx) : Run :=
  if c.act = 0 then .go (Fin.nil c.s)
  else c.withTile x .cfg (fun k i t =>
    .go (Fin.nil (c.s.setTile k.core i { t with shape := shapeOf (c.scalar x.lit x.b).toNat (c.scalar x.lit x.c).toNat, conf := true,
                                                gen := (t.gen + 1) % 2 ^ 16 })))

def tacqRun (x : Op) (c : Ctx) : Run :=
  if c.act = 0 then .go (Fin.nil c.s)
  else c.withTile x .acq (fun k i t => .go (Fin.nil (c.s.setTile k.core i { t with state := 1, swfill := true })))

def trelRun (x : Op) (c : Ctx) : Run :=
  if c.act = 0 then .go (Fin.nil c.s)
  else c.withTile x .rel (fun k i t =>
    .go (Fin.nil (c.s.setTile k.core i (if t.state = 1 then { t with state := 2 } else { t with state := 0 }))))

/-- The two dwords of an entry (R87). -/
def Tile.words (t : Tile) : W64 × W64 :=
  let h := t.shape
  (BitVec.ofNat 64 (h.base + h.rows * 2 ^ 32 + h.cols * 2 ^ 43 + h.esz * 2 ^ 54 + h.layout * 2 ^ 57 + t.state * 2 ^ 60),
   BitVec.ofNat 64 (t.gen + t.readers * 2 ^ 16 + (if t.swfill then 2 ^ 24 else 0) + h.pitch * 2 ^ 32))

def tstatRun (x : Op) (c : Ctx) : Run :=
  match c.tileEntry (c.tileNo x) false, x.d with
  | some (_, _, t), .s n => .go { Fin.nil c.s with sw := [(.s n.toNat, t.words.1), (.s (n.toNat + 1), t.words.2)] }
  | _, _ => .go (Fin.nil c.s)

def execTcfg (x : Op) (s : State) : Out := issue { jobOf x x.bytes (tcfgRun x) with uniform := tcfgCheck x } s
def execTacq (x : Op) (s : State) : Out := issue { jobOf x x.bytes (tacqRun x) with uniform := tileCheck x } s
def execTrel (x : Op) (s : State) : Out := issue { jobOf x x.bytes (trelRun x) with uniform := tileCheck x } s
def execTstat (x : Op) (s : State) : Out := issue { jobOf x x.bytes (tstatRun x) with uniform := tileCheck x } s

/-! ## LDT, STT (R265) -/

/-- Elements a lane moves. -/
def tileCnt (x : Op) : Nat := 2 ^ (x.mod.toNat % 4)

/-- Registers of a lane's packed elements. -/
def tileRegs (n e : Nat) : Nat := if n = 1 then 1 else (n * e + 63) / 64

/-- Subcodes 0 and 4. -/
def tileElemCheck (x : Op) (c : Ctx) : Option TrapInfo :=
  match c.tileEntry (c.tileNo x) false with
  | none => some (tileBad 0)
  | some (_, _, t) => if 256 < tileCnt x * t.shape.bits then some (tileBad 4) else none

/-- The run of data registers of LDT or STT: its length is fixed by CNT and the tile's element size (R265). -/
def Ctx.tileRun (c : Ctx) (x : Op) (o : Operand) : List Nat :=
  match c.tileEntry (c.tileNo x) false with
  | some (_, _, t) => if tileCnt x * t.shape.bits ≤ 256 then o.run (tileRegs (tileCnt x) t.shape.bits) else []
  | none => []

/-- A run may not pass v2047 (R162). The tile fixes its length, so the check is made at issue, before any state changes: DEDUCED (log 23). -/
def tileRunCheck (x : Op) (o : Operand) (c : Ctx) : Option TrapInfo :=
  if (c.tileRun x o).any (fun n => 2048 ≤ n) then some (TrapInfo.unit 0 3 0) else none

/-- The element a lane names first. -/
def tileIdx (b : Lanes) (l : Nat) : Nat × Nat := ((b.at l).toNat % 2 ^ 32, (b.at l).toNat / 2 ^ 32)

/-- Lanes whose elements lie in the tile, or the trap of those that do not; the address a fault record then names is not stated:
a free value, DESIGN CHOICE (log 14), safe. -/
def tileLanes (c : Ctx) (h : Shape) (b : Lanes) (n : Nat) (lanes : List Nat) : Except TrapInfo (List Nat) :=
  let out (l : Nat) : Bool := h.rows ≤ (tileIdx b l).1 || h.cols < (tileIdx b l).2 + n
  let bad := lanes.filter (fun l => out l && !inMask c.w.helpers l)
  if !bad.isEmpty then .error (failTrap c.s.freeVal 0 (bad.map (fun l => (l, 6, 3)))) else .ok (lanes.filter (fun l => !out l))

def ldtRun (x : Op) (c : Ctx) : Run :=
  if c.act = 0 then .go { Fin.nil c.s with keeps := c.tileRun x x.d }
  else c.withTile x .read (fun k _ t =>
    let h := t.shape
    let n := tileCnt x
    let b := c.src x.lit x.b
    match tileLanes c h b n c.lanes with
    | .error t => .trap t
    | .ok ls =>
      let elem (l m : Nat) : Nat := c.s.tileGet k h (tileIdx b l).1 ((tileIdx b l).2 + m)
      let reg (r l : Nat) : W64 :=
        if !ls.contains l then 0
        else if n = 1 then (if x.mod.getLsbD 3 then w64 (sextN (elem l 0) h.bits) else BitVec.ofNat 64 (elem l 0))
        else
          let per := 64 / h.bits
          BitVec.ofNat 64 (((List.range (min per (n - r * per))).map (fun i => elem l (r * per + i) * 2 ^ (i * h.bits))).foldl (· + ·) 0)
      .go (c.putRun x.d ((List.range (tileRegs n h.bits)).map (fun r => Lanes.tab (reg r))) 0))

/-- LDT: the tile's element size fixes the destination, so the names are taken at issue. -/
def execLdt (x : Op) (s : State) : Out :=
  issue { jobOf x x.bytes (ldtRun x) with long := true, dests := x.d.run 1, reads := x.b.run 1, decode := tileRunCheck x x.d, uniform := tileElemCheck x } s

/-- The element writes of an STT. -/
def sttWrite (x : Op) (c : Ctx) : Run :=
  if c.real = 0 then .go (Fin.nil c.s)
  else c.withTile x .stt (fun k _ t =>
    let h := t.shape
    let n := tileCnt x
    let b := c.src x.lit x.b
    match tileLanes c h b n (lanesOf c.real) with
    | .error t => .trap t
    | .ok ls =>
      let run := (List.range (tileRegs n h.bits)).map (fun r => c.nthData x x.c r)
      let as := ls.flatMap (fun l => (List.range n).map (fun m =>
        ({ lane := l, k := m, va := 0, pa := (tileIdx b l).1 * 2048 + (tileIdx b l).2 + m, pte := 0, addr := 0 } : Acc)))
      let s := (winners c.s (·.pa) as).foldl (fun s a =>
        let i := a.pa / 2048
        let j := a.pa % 2048
        let e := h.elem i j
        ((s.stage k (some c.g) e.1 (max 1 (h.bits / 8))).tilePut k h i j (packedElem run h.bits a.k a.lane)).spoilTiles c.g (8 * e.1 + e.2) h.bits) c.s
      .go (Fin.nil (s.tickIf (clashes (·.pa) as))))

/-- STT reads the whole run of its data operand, and a last use frees all of it (R59, R63). -/
def sttRun (x : Op) (c : Ctx) : Run :=
  match c.reading (c.tileRun x x.c) (sttWrite x c) with
  | .go f => .go { f with frees := if x.ulc then c.tileRun x x.c else [] }
  | r => r

def execStt (x : Op) (s : State) : Out :=
  issue { jobOf x x.bytes (sttRun x) with
          hdr := x.hdr x.bytes 1 1 0, reads := x.b.run 1, decode := tileRunCheck x x.c, uniform := tileElemCheck x } s

/-! ## SAMP (R266, R267) -/

/-- A texture record. -/
structure TexRec where
  base : W64
  ext  : List Nat
  fmt  : Nat
  mode : Nat
  rp   : W64
  sp   : W64
  deriving DecidableEq, Repr

def TexRec.ofBytes (b : List Byte) : TexRec :=
  { base := BitVec.ofNat 64 (fieldN b 0 8), ext := [fieldN b 8 2 + 1, fieldN b 10 2 + 1, fieldN b 12 2 + 1], fmt := fieldN b 14 1,
    mode := fieldN b 15 1, rp := BitVec.ofNat 64 (fieldN b 16 8), sp := BitVec.ofNat 64 (fieldN b 24 8) }

/-- Format of one component, its bytes, and the components of a texel. Format 4 stands for unorm8. -/
def texParts (fmt : Nat) : Nat × Nat × Nat :=
  match fmt with
  | 0 => (1, 4, 1)
  | 1 => (1, 4, 2)
  | 2 => (1, 4, 4)
  | 3 => (2, 2, 1)
  | 4 => (2, 2, 2)
  | 5 => (2, 2, 4)
  | 6 => (3, 2, 1)
  | 7 => (3, 2, 4)
  | _ => (4, 1, 4)

/-- Reads bytes through the sampler path, byte by byte. -/
def samplerBytes (core root : Nat) : Nat → W64 → State → State × Except (Nat × Nat) (List Byte)
  | 0, _, s => (s, .ok [])
  | n + 1, va, s =>
    match s.xlatCore core root va .read with
    | (s, .fail c k) => (s, .error (c, k))
    | (s, .ok pa pte addr) =>
      if !s.memReady pa then (s, .error (1, 1))
      else
        let (s, b) := (s.touch addr false).readLine core .sampler (pteScope pte) pa 1
        match samplerBytes core root n (va + 1) s with
        | (s, .ok bs) => (s, .ok (b ++ bs))
        | (s, .error e) => (s, .error e)

/-- Reads the texture record, or gives the RECBAD subcode (R266). -/
def Ctx.texRec (c : Ctx) (x : Op) : State × Except Nat TexRec :=
  let a := c.scalar x.lit x.a
  if a.toNat % 64 ≠ 0 then (c.s, .error 1)
  else
    match samplerBytes c.core (c.s.rootOf c.g) 64 a c.s with
    | (s, .error _) => (s, .error 1)
    | (s, .ok b) =>
      if (b.drop 32).any (fun y => y ≠ 0) then (s, .error 2)
      else if 8 < fieldN b 14 1 || 16 ≤ fieldN b 15 1 then (s, .error 3)
      else (s, .ok (TexRec.ofBytes b))

def sampCheck (x : Op) (c : Ctx) : Option TrapInfo :=
  match c.texRec x with
  | (_, .error k) => some (TrapInfo.unit 7 k (c.scalar x.lit x.a))
  | (_, .ok _) => none

/-- floor(i × 2^e). -/
def floorDy (i e : Int) : Int := if 0 ≤ e then i * 2 ^ e.toNat else i.fdiv (2 ^ (-e).toNat)

/-- Coordinate `c` of a dimension of extent `n`, scaled by 256 and floored: exactly floor(256 t) (R267). -/
def texCoord (n : Nat) (norm : Bool) (c : Nat) : Int :=
  let lim : Int := 2 ^ 32
  match (ffmt 1).decode (c % 2 ^ 32) with
  | .nan _ => 0
  | .inf neg => if neg then -lim else lim
  | .fin neg m e =>
    let i : Int := (if neg then -(m : Int) else m) * (if norm then (n : Int) else 1) * 256
    clampI (floorDy i e) (-lim) lim

/-- Taps of one dimension: index and weight in 256ths. -/
def texTaps (linear : Bool) (t : Int) : List (Int × Nat) :=
  if linear then
    let q := t - 128
    [(q.fdiv 256, 256 - (q.fmod 256).toNat), (q.fdiv 256 + 1, (q.fmod 256).toNat)]
  else [(t.fdiv 256, 256)]

/-- A tap's index under the address mode; `none` for a border texel. -/
def texWrap (mode n : Nat) (i : Int) : Option Nat :=
  match mode % 4 with
  | 0 => some (clampI i 0 (n - 1)).toNat
  | 1 => some (i.emod n).toNat
  | 2 => let m := (i.emod (2 * n)).toNat; some (if m < n then m else 2 * n - 1 - m)
  | _ => if 0 ≤ i && i < n then some i.toNat else none

/-- The taps of a lane: the texel, where it is not a border texel, and the weight in 256^3rds. -/
def texLane (r : TexRec) (cs : List Nat) : List (Option (Nat × Nat × Nat) × Nat) :=
  let dim (d : Nat) : List (Option Nat × Nat) :=
    let n := r.ext.getD d 1
    if n = 1 then [(some 0, 256)]
    else (texTaps (r.mode.testBit 2) (texCoord n (r.mode.testBit 3) (cs.getD d 0))).map (fun p => (texWrap r.mode n p.1, p.2))
  (dim 2).flatMap (fun z => (dim 1).flatMap (fun y => (dim 0).map (fun x =>
    (match x.1, y.1, z.1 with
     | some i, some j, some k => some (i, j, k)
     | _, _, _ => none, x.2 * y.2 * z.2))))

/-- Component `k` of a texel's bytes as a value times 255 where it is unorm8. -/
def texValue (fmt : Nat) (fz : Bool) (b : List Byte) (k : Nat) : FVal :=
  let (code, n, parts) := texParts fmt
  if parts ≤ k then (if k = 3 then .fin false (if code = 4 then 255 else 1) 0 else .fin false 0 0)
  else
    let p := fieldN b (k * n) n
    if code = 4 then .fin false p 0 else fval code fz p

/-- The weighted sum of a component, rounded once to FP32 (R267). -/
def texSum (unorm : Bool) (terms : List (FVal × Nat)) : Nat :=
  let ts := (terms.filter (fun t => t.2 ≠ 0)).map (fun t => t.1.mul (.fin false t.2 0))
  match sumVals .rne ts with
  | .fin neg m e =>
    if m = 0 then (ffmt 1).signed neg 0
    else if unorm then ((ffmt 1).round false .rne neg (m * 2 ^ 64 / 255) (e - 88) (m * 2 ^ 64 % 255 ≠ 0)).1
    else ((ffmt 1).round false .rne neg m (e - 24) false).1
  | v => (roundVal 1 false .rne v).1

/-- Reads the taps of a lane. -/
def texRead (core root : Nat) (r : TexRec) : List (Option (Nat × Nat × Nat) × Nat) → State → State × Except (Nat × Nat × W64) (List (List Byte × Nat))
  | [], s => (s, .ok [])
  | (t, w) :: rest, s =>
    let size := (texParts r.fmt).2.1 * (texParts r.fmt).2.2
    let here : State × Except (Nat × Nat × W64) (List Byte) := match t with
      | none => (s, .ok (List.replicate size 0))
      | some (i, j, k) =>
        let a := r.base + BitVec.ofNat 64 k * r.sp + BitVec.ofNat 64 j * r.rp + BitVec.ofNat 64 (i * size)
        match samplerBytes core root size a s with
        | (s, .ok b) => (s, .ok b)
        | (s, .error (c, q)) => (s, .error (c, q, a))
    match here with
    | (s, .error e) => (s, .error e)
    | (s, .ok b) =>
      match texRead core root r rest s with
      | (s, .ok bs) => (s, .ok ((b, w) :: bs))
      | (s, .error e) => (s, .error e)

/-- A border texel's components are all zero, absent ones included. -/
def texTerm (fmt : Nat) (fz : Bool) (k : Nat) (tap : Option (Nat × Nat × Nat) × Nat) (b : List Byte) : FVal :=
  if tap.1.isNone then .fin false 0 0 else texValue fmt fz b k

/-- The results of every lane, or the lanes whose taps fail. -/
def texLanes (core root : Nat) (r : TexRec) (fz : Bool) (n : Nat) (coord : Nat → List Nat) :
    List Nat → State → State × List (Nat × Nat × W64) × List (Nat × Nat × Nat × W64)
  | [], s => (s, [], [])
  | l :: ls, s =>
    let taps := texLane r (coord l)
    match texRead core root r taps s with
    | (s, .error e) => let (s, vs, fs) := texLanes core root r fz n coord ls s; (s, vs, (l, e) :: fs)
    | (s, .ok bs) =>
      let term (k i : Nat) : FVal × Nat := (texTerm r.fmt fz k (taps.getD i (none, 0)) ((bs.getD i ([], 0)).1), (taps.getD i (none, 0)).2)
      let out := (List.range n).map (fun k => (l, k, BitVec.ofNat 64 (texSum (r.fmt = 8) ((List.range taps.length).map (term k)))))
      let (s, vs, fs) := texLanes core root r fz n coord ls s
      (s, out ++ vs, fs)

def sampRun (x : Op) (c : Ctx) : Run :=
  match c.texRec x with
  | (_, .error k) => .trap (TrapInfo.unit 7 k (c.scalar x.lit x.a))
  | (s, .ok r) =>
    let n := x.mod.toNat % 4 + 1
    let used := (List.range 3).filter (fun d => 1 < r.ext.getD d 1)
    let names := used.flatMap (fun d => (x.b.run 3).drop d |>.take 1)
    c.reading names (
      let coord (l : Nat) : List Nat := (List.range 3).map (fun d => if used.contains d then ((c.nth x.b d).at l).toNat else 0)
      let (s, vs, fs) := texLanes c.core (c.s.rootOf c.g) r (bffz c.w.fpcr) n coord c.lanes s
      let fs := fs.filter (fun f => !inMask c.w.helpers f.1)
      if !fs.isEmpty then
        let f := fs.headD (0, 1, 1, 0)
        .trap (TrapInfo.lanes f.2.1 f.2.2.1 0 (fs.map (fun p => (p.1, p.2.2.2))))
      else
        .go (Ctx.putRun { c with s := s } x.d (loadRun n vs) 0))

def execSamp (x : Op) (s : State) : Out :=
  issue { jobOf x x.bytes (sampRun x) with
          hdr := x.hdr x.bytes 1 3 1, long := true, dests := x.d.run (x.mod.toNat % 4 + 1), reads := [], uniform := sampCheck x } s

/-! ## SEND (R164, R269) -/

/-- A physical core that is present in its die's map (R424). -/
def State.usable (s : State) (d phys : Nat) : Bool := (s.die d).map.any (fun b => b.toNat = phys)

/-- Walks turns from a physical core. -/
def routeWalk (s : State) (d : Nat) (turns : Nat) : Nat → Nat → Nat → Option Nat
  | 0, _, at' => some at'
  | n + 1, i, at' =>
    let (row, col) := ((at' / 8 : Int), (at' % 8 : Int))
    let (row, col) := match turns / 4 ^ i % 4 with
      | 0 => (row - 1, col)
      | 1 => (row, col + 1)
      | 2 => (row + 1, col)
      | _ => (row, col - 1)
    if row < 0 || 5 < row || col < 0 || 7 < col then none
    else
      let next := (row * 8 + col).toNat
      if s.usable d next then routeWalk s d turns n (i + 1) next else none

/-- The core a route string reaches, where the route is legal. -/
def route (s : State) (d phys : Nat) (lit : Nat) : Option Nat :=
  let hops := bits lit 60 56
  let turns := bits lit 55 0
  if !bitOf lit 63 || bits lit 62 61 ≠ 0 || 28 < hops || turns / 4 ^ hops ≠ 0 then none else routeWalk s d turns hops 0 phys

def sendCheck (x : Op) (c : Ctx) : Option TrapInfo :=
  if (route c.s c.die (c.core % 48) (x.lit.getD 0).toNat).isNone then some (TrapInfo.unit 0 2 0) else none

/-- The counter operand: none for the inline immediate 0. -/
def sendCtr (x : Op) (c : Ctx) : Option W64 := if x.c = .imm 0 then none else some (c.scalar x.lit x.c)

def sendRun (x : Op) (c : Ctx) : Run :=
  match lowLane c.real, c.s.launchOf c.g with
  | some l, some (key, _) =>
    let o : W64 := BitVec.ofNat 64 ((c.scalar x.lit x.b).toNat % 2 ^ 32)
    let one (cls sub : Nat) (a : W64) : Run := .trap (TrapInfo.lanes cls sub 0 [(l, a)])
    let go (s : State) : Run :=
      let (h, s) := s.newHandle
      let blk : SendBlk := { launch := key, src := c.g, srcSub := c.sub, core := c.die * 48 + (route c.s c.die (c.core % 48) (x.lit.getD 0).toNat).getD 0,
                             off := o.toNat, lanes := c.act, data := c.nth x.a 0, ctr := sendCtr x c, root := s.rootOf c.g, die := c.die }
      .go (Fin.nil { s with sends := s.sends.put h blk })
    if o.toNat % 8 ≠ 0 then one 4 0 o
    else
      match sendCtr x c with
      | none => if 786432 < o.toNat + 256 then one 1 8 o else go c.s
      | some a =>
        if a.toNat % 8 ≠ 0 then one 4 0 a
        else if 786432 < o.toNat + 256 then one 1 8 o
        else
          match c.s.xlatCore c.core (c.s.rootOf c.g) a .write with
          | (_, .fail k j) => one k j a
          | (s, .ok pa _ _) => if s.memReady pa then go s else one 1 1 a
  | _, _ => .go (Fin.nil c.s)

def execSend (x : Op) (s : State) : Out :=
  issue { jobOf x x.bytes (sendRun x) with endsRegion := true, reads := x.a.run 1, decode := sendCheck x } s

/-- Adds to a dword of an address space by an agent of a die, as an atomic at its coherence point. `none` while the page's copy
is under way; a page that fails R78 leaves memory as it is. -/
def State.addVa (s : State) (d root : Nat) (va : W64) (n : Nat) : Option State :=
  match s.xlatDie d root va .write true with
  | (_, .fail _ _) => some s
  | (s, .ok pa pte addr) =>
    match s.cowTouch addr with
    | (s, .clear) =>
      let (s, v) := (s.touch addr true).homeRead d (pteScope pte) pa 8
      some (s.writeMem d (pteScope pte) pa (leBytes 8 ((v + n) % 2 ^ 64)))
    | (_, .bad) => some s
    | (_, _) => none

/-- The workgroup of a launch whose scratchpad on a core holds a block's bytes (R269). -/
def State.sendGroup (s : State) (b : SendBlk) : Option (Nat × Group) :=
  s.groups.pick (fun _ k => k.launch = b.launch && k.core = b.core
    && (if k.nbH = 0 then k.scrBase ≤ b.off && b.off + 256 ≤ k.scrBase + k.scrSize else true))

/-- SEND_DELIVERY (R269): the block with handle `idx` lands, unless an earlier one of its unit for the same core is on its way, or its
counter's page is being copied. -/
def execSendDelivery (idx : Nat) (s : State) : Out :=
  .next (match s.sends.find? idx with
    | none => s
    | some b =>
      if s.sends.any (fun p => p.1 < idx && p.2.src = b.src && p.2.srcSub = b.srcSub && p.2.core = b.core) then s
      else
        let there := (s.sendGroup b).isSome
        let s := match s.sendGroup b with
          | some (_, k) => if k.tiles = 0 then s else (lanesOf b.lanes).foldl (fun s l => s.stageAt b.core (some b.src) (b.off + 8 * l)) s
          | none => s
        let s1 := if there then
            (lanesOf b.lanes).foldl (fun s l =>
              s.modCore b.core (fun c => { c with scratch := Store.setItem c.scratch (b.off + 8 * l) 8 (b.data.at l).toNat })) s
          else s
        let s1 := { s1 with sends := s1.sends.del idx }
        match b.ctr with
        | none => s1
        | some a =>
          match s1.addVa b.die b.root a (if there then 1 else 2 ^ 32) with
          | some s2 => s2
          | none =>
            -- The counter's page is being copied: the copy begins, and the block waits.
            match s.xlatDie b.die b.root a .write true with
            | (s', .ok _ _ addr) => (s'.cowTouch addr).1
            | (_, .fail _ _) => s)

end Sys2Proof.Machine
end

