-- ==== Sys2Proof/Machine/Coverage.lean ====
section
/-! DEFINITION. The coverage lattice (R317 to R319), reconstruction (R320), the controller (R323, R324), and COVQ and COVP (R321, R322). -/

namespace Sys2Proof.Machine

/-! ## The coverage record (R317), as eight dwords -/

abbrev CovRec := List W64

def covPat (r : CovRec) : Nat := recBits r 3 0
def covUpd4k (r : CovRec) : Bool := recBits r 4 4 = 1
/-- Kernel for a type. -/
def covKern (r : CovRec) (ty : Nat) : Nat := match ty with
  | 0 => recBits r 9 8
  | 1 => recBits r 11 10
  | _ => recBits r 13 12
def covType (r : CovRec) : Nat := recBits r 23 16
def covScale (r : CovRec) : Int := sextN (recBits r 31 24) 8
def covStride (r : CovRec) : Nat := recBits r 47 32
def covTarget (r : CovRec) : Nat := recBits r 63 48
def covKp (r : CovRec) : Int := sextN (recBits r 79 64) 16
def covKi (r : CovRec) : Int := sextN (recBits r 95 80) 16
def covOut (r : CovRec) : W64 := BitVec.ofNat 64 (recBits r 191 128)
def covPitch (r : CovRec) : W64 := BitVec.ofNat 64 (recBits r 255 192)
def covBlue (r : CovRec) : W64 := BitVec.ofNat 64 (recBits r 319 256)
def covEx (r : CovRec) : Nat := recBits r 351 320
def covEy (r : CovRec) : Nat := recBits r 383 352
def covEz (r : CovRec) : Nat := recBits r 415 384
def covBx (r : CovRec) : Nat := recBits r 431 416
def covBy (r : CovRec) : Nat := recBits r 447 432
def covBz (r : CovRec) : Nat := recBits r 463 448
def covGx (r : CovRec) : Nat := recBits r 479 464
def covGy (r : CovRec) : Nat := recBits r 495 480
def covGz (r : CovRec) : Nat := recBits r 511 496

/-- Nonzero reserved fields. -/
def covReserved (r : CovRec) : Bool := recBits r 7 5 ≠ 0 || recBits r 15 14 ≠ 0 || recBits r 127 96 ≠ 0

/-- Fields out of their range. -/
def covInvalid (r : CovRec) : Bool :=
  let block (n : Nat) : Bool := n = 0 || 1024 < n
  5 < covPat r || !([0, 1, 3].contains (covType r)) || covScale r < -64 || 63 < covScale r
    || block (covBx r) || block (covBy r) || block (covBz r) || covGx r = 0 || covGy r = 0 || covGz r = 0

/-! ## The lattice (R318, R319) -/

/-- Highest level of a pattern. -/
def covTop (pat : Nat) : Nat := [0, 1, 2, 7, 15, 255].getD pat 0

/-- 256 × fraction of a level, rounded up. -/
def covFrac (pat i : Nat) : Nat :=
  match pat with
  | 1 | 2 => 256 / 2 ^ i
  | 3 => (256 + i) / (i + 1)
  | 4 => (16 - i) * 16
  | 5 => 256 - i
  | _ => 256

/-- The fraction of a level is at least `f` / 256. -/
def covReaches (pat i f : Nat) : Bool := if pat = 3 then f * (i + 1) ≤ 256 else f ≤ covFrac pat i

/-- level(F): the largest level whose fraction reaches F. -/
def covLevel (pat f : Nat) : Nat := ((List.range (covTop pat + 1)).filter (fun i => covReaches pat i f)).getLast?.getD 0

/-- FRAC as it is read (R323). -/
def fracOf (x : Nat) : Nat := if x = 0 then 1 else min x 256

/-- An edge point. -/
def covEdge (r : CovRec) (x y : Nat) : Bool :=
  (1 < covEx r && (x = 0 || x = covEx r - 1)) || (1 < covEy r && (y = 0 || y = covEy r - 1))

/-- Bayer thresholds. -/
def bayer : List Nat := [0, 8, 2, 10, 12, 4, 14, 6, 3, 11, 1, 9, 15, 7, 13, 5]

/-- A point is computed at level `i`; `blue` gives the bytes of the BLUE tile. -/
def covComputed (r : CovRec) (blue : Nat → Nat) (i x y : Nat) : Bool :=
  i = 0 || covEdge r x y ||
  (match covPat r with
   | 1 => (x / 2 + y / 2) % 2 = 0
   | 2 => if i = 1 then (x + y) % 2 = 0 else x % 2 = 0 && y % 2 = 0
   | 3 => x % (i + 1) = 0
   | 4 => bayer.getD (y % 4 * 4 + x % 4) 0 < 16 - i
   | 5 => blue (y % 64 * 64 + x % 64) < 256 - i
   | _ => true)

/-- A point lies inside the extent, and in a block of the grid. -/
def covInside (r : CovRec) (p : Nat × Nat × Nat) : Bool :=
  p.1 < covEx r && p.2.1 < covEy r && p.2.2 < covEz r
    && p.1 < covGx r * covBx r && p.2.1 < covGy r * covBy r && p.2.2 < covGz r * covBz r

/-- Linear identifier of the block of a point. -/
def covBlockOf (r : CovRec) (p : Nat × Nat × Nat) : Nat :=
  p.1 / covBx r + covGx r * (p.2.1 / covBy r + covGy r * (p.2.2 / covBz r))

/-- The points of a block inside the extent, x fastest. -/
def covPoints (r : CovRec) (lin : Nat) : List (Nat × Nat × Nat) :=
  let ox := lin % covGx r * covBx r
  let oy := lin / covGx r % covGy r * covBy r
  let oz := lin / (covGx r * covGy r) * covBz r
  ((List.range (covBz r)).flatMap (fun k => (List.range (covBy r)).flatMap (fun j => (List.range (covBx r)).map (fun i =>
    (ox + i, oy + j, oz + k))))).filter (covInside r)

/-- The skipped points of a block at a level, in counting order. -/
def covSkipped (r : CovRec) (blue : Nat → Nat) (level lin : Nat) : List (Nat × Nat × Nat) :=
  (covPoints r lin).filter (fun p => !covComputed r blue level p.1 p.2.1)

/-- The probes of a block: every PSTRIDE-th skipped point. -/
def covProbes (r : CovRec) (blue : Nat → Nat) (level lin : Nat) : List (Nat × Nat × Nat) :=
  let n := covStride r
  if n = 0 then []
  else
    let ps := covSkipped r blue level lin
    (((List.range ps.length).zip ps).filter (fun q => q.1 % n = n - 1)).map (·.2)

/-! ## Reconstruction (R320) -/

/-- A choice of sources: the common denominator of the weights, and a weight and point for each source. -/
abbrev Recon := Nat × List (Nat × Nat × Nat)

/-- Orders candidates by squared distance, then y, then x. -/
def nearer (a b : Nat × Nat × Nat) : Bool :=
  a.1 < b.1 || (a.1 = b.1 && (a.2.2 < b.2.2 || (a.2.2 = b.2.2 && a.2.1 < b.2.1)))

def offs8 : List Int := (List.range 17).map (fun (i : Nat) => (i : Int) - 8)

def reconNearest (src : Int → Int → Bool) (x y : Int) : Recon :=
  let cands := offs8.flatMap (fun dy => (offs8.filter (fun dx => !(dx = 0 && dy = 0) && src (x + dx) (y + dy))).map (fun dx =>
    ((dx * dx + dy * dy).toNat, (x + dx).toNat, (y + dy).toNat)))
  match cands with
  | [] => (1, [])
  | c :: cs => let b := cs.foldl (fun b q => if nearer q b then q else b) c; (1, [(1, b.2.1, b.2.2)])

def reconLinear (src : Int → Int → Bool) (x y : Int) : Recon :=
  let steps := (List.range 8).map (fun (i : Nat) => (i : Int) + 1)
  let l := steps.find? (fun d => src (x - d) y)
  let r := steps.find? (fun d => src (x + d) y)
  match l, r with
  | some a, some b => ((a + b).toNat, [(b.toNat, (x - a).toNat, y.toNat), (a.toNat, (x + b).toNat, y.toNat)])
  | some a, none => (1, [(1, (x - a).toNat, y.toNat)])
  | none, some b => (1, [(1, (x + b).toNat, y.toNat)])
  | none, none => reconNearest src x y

/-- The pairs of offsets both of whose points are sources, averaged. -/
def reconPairs (src : Int → Int → Bool) (x y : Int) (ps : List (Int × Int)) : Recon :=
  let full := ps.filter (fun d => src (x + d.1) (y + d.2) && src (x - d.1) (y - d.2))
  (2 * full.length, full.flatMap (fun d => [(1, (x + d.1).toNat, (y + d.2).toNat), (1, (x - d.1).toNat, (y - d.2).toNat)]))

def reconstruct (kern : Nat) (src : Int → Int → Bool) (x y : Int) : Recon :=
  match kern with
  | 0 => reconNearest src x y
  | 1 => reconLinear src x y
  | _ =>
    let a := reconPairs src x y [(1, 0), (0, 1)]
    if !a.2.isEmpty then a
    else
      let b := reconPairs src x y [(1, 1), (1, -1)]
      if !b.2.isEmpty then b else reconLinear src x y

/-- The weighted sum of the sources' patterns, over the denominator, rounded once. -/
def reconValue (code : Nat) (fz : Bool) (den : Nat) (ts : List (Nat × Nat)) : Nat :=
  if ts.isEmpty then 0
  else
    match sumVals .rne (ts.map (fun t => (fval code fz t.2).mul (.fin false t.1 0))) with
    | .fin neg m e =>
      if m = 0 then (ffmt code).signed neg 0
      else ((ffmt code).round (fzFor code fz) .rne neg (m * 2 ^ 64 / den) (e - 64) (m * 2 ^ 64 % den ≠ 0)).1
    | v => (roundVal code fz .rne v).1

/-- Bytes of an element of a type. -/
def covBytes (ty : Nat) : Nat := if ty = 0 then 8 else if ty = 1 then 4 else 2

/-- Address of element (x, y, z) of a result array (R317). -/
def covElem (r : CovRec) (out pitch : W64) (ty : Nat) (x y z : Nat) : W64 :=
  out + BitVec.ofNat 64 (z * covEy r + y) * pitch + BitVec.ofNat 64 (x * covBytes ty)

/-- A point is a source, from the levels of the blocks. -/
def covSource (r : CovRec) (blue : Nat → Nat) (lev : Nat → Option Nat) (z : Nat) (x y : Int) : Bool :=
  0 ≤ x && 0 ≤ y && (
    let p := (x.toNat, y.toNat, z)
    covInside r p &&
    (match lev (covBlockOf r p) with
     | some i => i ≤ covTop (covPat r) && covComputed r blue i p.1 p.2.1
     | none => false))

/-- The blocks that hold a point's possible sources. -/
def covNear (r : CovRec) (p : Nat × Nat × Nat) : List Nat :=
  let xs := (List.range 17).map (fun i => p.1 + i - 8)
  let ys := (List.range 17).map (fun i => p.2.1 + i - 8)
  ((ys.flatMap (fun y => xs.map (fun x => (x, y, p.2.2)))).filter (covInside r)).map (covBlockOf r) |>.eraseDups

/-- A byte of an address space as an agent of a die reads it; `none` where R78 fails. -/
def State.byteAt (s : State) (d root : Nat) (va : W64) : Option Nat :=
  match (s.xlatDie d root va .read false).2 with
  | .ok pa _ _ => some (s.peekN pa 1)
  | .fail _ _ => none

/-- The BLUE tile of a record, read as the dispatcher reads it. -/
def State.blue (s : State) (d root : Nat) (r : CovRec) (i : Nat) : Nat :=
  if covPat r = 5 then (s.byteAt d root (covBlue r + BitVec.ofNat 64 i)).getD 0 else 0

/-! ## COVQ and COVP -/

/-- The launch and workgroup of a warp that runs under coverage. A relaunched warp has no block. -/
def Ctx.covered (c : Ctx) : Option (Launch × Group) :=
  match c.s.launchOf c.g, c.s.group? c.w.wg with
  | some (_, l), some k => if l.coverage && !k.relaunched then some (l, k) else none
  | _, _ => none

def covqRun (x : Op) (c : Ctx) : Run :=
  match c.covered with
  | none => .go (c.put x.d (constLanes (BitVec.ofNat 64 (2 ^ 9))) 0)
  | some (l, k) =>
    let blue := c.s.blue c.die l.root l.cov
    let probes := covProbes l.cov blue k.level k.lin
    let q (lane : Nat) : W64 :=
      let p := l.point k.lin c.w.wgw lane
      BitVec.ofNat 64 (k.level + (if probes.contains p then 2 ^ 8 else 0)
        + (if covComputed l.cov blue k.level p.1 p.2.1 then 2 ^ 9 else 0) + covPat l.cov * 2 ^ 12)
    .go (c.put x.d (Lanes.tab q) 0)

def execCovq (x : Op) (s : State) : Out := issue (jobOf x x.bytes (covqRun x)) s

/-- TYPE of COVP. -/
def covpType (x : Op) : Nat := x.func.toNat % 4

def covpCheck (x : Op) (c : Ctx) : Option TrapInfo :=
  match c.covered with
  | some (l, _) => if covpType x ≠ covType l.cov then some (TrapInfo.unit 7 3 (BitVec.ofNat 64 l.covrec)) else none
  | none => none

/-- The dispatcher has passed a block, and so has written its byte of the map (R39). -/
def Launch.written (l : Launch) (lin : Nat) : Bool := lin < l.nextWg || l.placed.contains lin

/-- The level the dispatcher has written for a block it has passed (R39). -/
def State.blockLevel (s : State) (d : Nat) (l : Launch) (lin : Nat) : Option Nat :=
  if l.written lin then s.byteAt d l.root (BitVec.ofNat 64 (l.covmap + lin)) else none

/-- The error of a probe (R322). -/
def covError (ty : Nat) (fz : Bool) (scale : Int) (t r : Nat) : Nat :=
  match fval ty fz t, fval ty fz r with
  | .nan _, _ | _, .nan _ => 65535
  | .inf a, .inf b => if a = b then 0 else 65535
  | .inf _, _ | _, .inf _ => 65535
  | a, b =>
    match sumVals .rne [a, b.neg] with
    | .fin _ m e => min 65535 (floorDy m (e + scale)).toNat
    | _ => 65535

/-- Reads the sources of a probe lane in order, or fails with the first source that does. -/
def covReads (core root n : Nat) : List W64 → State → State × Except (Nat × Nat × W64) (List Nat)
  | [], s => (s, .ok [])
  | va :: rest, s =>
    match s.xlatCore core root va .read with
    | (s, .fail c k) => (s, .error (c, k, va))
    | (s, .ok pa pte addr) =>
      if !s.memReady pa then (s, .error (1, 1, va))
      else
        let (s, bs) := (s.touch addr false).readLine core .generic (pteScope pte) pa n
        match covReads core root n rest s with
        | (s, .ok vs) => (s, .ok (leNat bs :: vs))
        | (s, .error e) => (s, .error e)

/-- Reads the sources of every probe lane. -/
def covLanes (core root n : Nat) (srcs : Nat → List W64) : List Nat → State → State × List (Nat × List Nat) × List (Nat × Nat × Nat × W64)
  | [], s => (s, [], [])
  | l :: ls, s =>
    match covReads core root n (srcs l) s with
    | (s, .error e) => let (s, vs, fs) := covLanes core root n srcs ls s; (s, vs, (l, e) :: fs)
    | (s, .ok v) => let (s, vs, fs) := covLanes core root n srcs ls s; (s, (l, v) :: vs, fs)

/-- Reports one error to a queue's coverage state (R322, R323). -/
def State.covReport (s : State) (qcb err : Nat) : State :=
  let a := qcb + qcbCOV
  let s := s.unU a
  let s := s.pokeN (a + 8) 8 ((s.peekN (a + 8) 8 + err) % 2 ^ 64)
  s.pokeN (a + 16) 4 ((s.peekN (a + 16) 4 + 1) % 2 ^ 32)

def covpRun (x : Op) (c : Ctx) : Run :=
  let a := c.src x.lit x.a
  match c.covered with
  | none => .go (c.put x.d a 0)
  | some (l, k) =>
    let ty := covpType x
    let n := covBytes ty
    let fz := bffz c.w.fpcr
    let blue := c.s.blue c.die l.root l.cov
    let probes := covProbes l.cov blue k.level k.lin
    let pt (lane : Nat) : Nat × Nat × Nat := l.point k.lin c.w.wgw lane
    let ls := (lanesOf c.real).filter (fun i => probes.contains (pt i))
    let levels : AMap Nat (Option Nat) := (ls.flatMap (fun i => covNear l.cov (pt i))).eraseDups.map (fun b => (b, c.s.blockLevel c.die l b))
    let rc (i : Nat) : Recon := let p := pt i; reconstruct (covKern l.cov ty) (covSource l.cov blue (fun b => levels.get none b) p.2.2) p.1 p.2.1
    let recons : AMap Nat Recon := ls.map (fun i => (i, rc i))
    let one (i : Nat) : Recon := recons.get (1, []) i
    let srcs (i : Nat) : List W64 := (one i).2.map (fun t => covElem l.cov (covOut l.cov) (covPitch l.cov) ty t.2.1 t.2.2 (pt i).2.2)
    let odd := ls.filterMap (fun i => ((srcs i).find? (fun va => va.toNat % n ≠ 0)).map (fun va => (i, va)))
    if !odd.isEmpty then .trap (TrapInfo.lanes 4 0 0 odd)
    else
      let (s, vs, fs) := covLanes c.core l.root n srcs ls c.s
      if !fs.isEmpty then
        let f := fs.headD (0, 1, 1, 0)
        .trap (TrapInfo.lanes f.2.1 f.2.2.1 0 (fs.map (fun p => (p.1, p.2.2.2))))
      else
        let res := vs.map (fun v => (v.1, reconValue ty fz (one v.1).1 (((one v.1).2.map (·.1)).zip v.2)))
        let s := res.foldl (fun s v => s.covReport l.qcb (covError ty fz (covScale l.cov) (a.at v.1).toNat v.2)) s
        let out := Lanes.tab (fun i => match res.find? (fun v => v.1 = i) with
          | some v => BitVec.ofNat 64 v.2
          | none => a.at i)
        .go (Ctx.put { c with s := s } x.d out 0)

def execCovp (x : Op) (s : State) : Out :=
  issue { jobOf x x.bytes (covpRun x) with endsRegion := true, long := true, uniform := covpCheck x } s

/-! ## The controller (R324) -/

/-- One step of the controller on the coverage state at a QCB. -/
def State.covStep (s : State) (qcb : Nat) (r : CovRec) : State :=
  let a := qcb + qcbCOV
  let s := s.unU a
  let esum := s.peekN (a + 8) 8
  let n := s.peekN (a + 16) 4
  if n = 0 then s
  else
    let d : Int := (esum / n : Nat) - (covTarget r : Int)
    let integ := clampI (sextN (s.peekN (a + 4) 4) 32 + d) (-(2 ^ 24)) (2 ^ 24)
    let raw := (clampI ((fracOf (s.peekN a 4 % 512) : Int) + (covKp r * d + covKi r * integ).fdiv 256) 1 256).toNat
    let frac := covFrac (covPat r) (covLevel (covPat r) raw)
    s.poke a (leBytes 4 frac ++ leBytes 4 (w64 integ).toNat ++ leBytes 8 0 ++ leBytes 4 0 ++ leBytes 4 (s.peekN (a + 20) 4 + 1))

/-- An update is due: a launch that asks for it has passed 4,096 workgroups since the last (R40, R391). -/
def Launch.dueStep (l : Launch) : Bool := l.coverage && covUpd4k l.cov && 4096 ≤ l.covcnt

/-- The controller steps where a launch has passed 4,096 workgroups since its last step. -/
def State.stepDue (s : State) (launch : Nat) : State :=
  match s.launch? launch with
  | some l => if l.dueStep then (s.covStep l.qcb l.cov).modLaunch launch (fun l => { l with covcnt := l.covcnt - 4096 }) else s
  | none => s

/-- COVERAGE_UPDATE_4K (R40): a step that is due is made. The dispatcher makes it as it passes the workgroup that completes the 4,096. -/
def execCoverageUpdate4k (launch : Nat) (s : State) : Out := .next (s.stepDue launch)

end Sys2Proof.Machine
end

