-- ==== Sys2Proof/Machine/Engine.lean ====
section
/-! DEFINITION. Engine commands (R270 to R276): their issue, the copy engine, the wellhead's PUBLISH and RETIRE (R96, R97, R273), the
acceleration-structure builder (R274, R300), the collectives (R275, R428, R429), RECON (R276), their completion records (R271), the
return of frames and the end of a copy-on-write (R97 to R99). -/

namespace Sys2Proof.Machine

/-! ## Memory of an address space, for engines -/

/-- The pieces in which bytes from an address are written: of at most 8 bytes, none across a multiple of 8, because an engine writes by elements and
in no larger unit (R103, R122). -/
def pieces : Nat → W64 → List Byte → List (W64 × List Byte)
  | 0, _, _ => []
  | n + 1, va, bs =>
    if bs.isEmpty then []
    else let k := 8 - va.toNat % 8; (va, bs.take k) :: pieces n (va + BitVec.ofNat 64 k) (bs.drop k)

def piecesOf (va : W64) (bs : List Byte) : List (W64 × List Byte) := pieces (bs.length + 1) va bs

/-- A piece is written at once; or, where its page is being copied, in its order of arrival (R98). A failing row gives its class and subcode. -/
def State.writePiece (s : State) (who : Writer) (d root : Nat) (va : W64) (bs : List Byte) : State × Option (Nat × Nat) :=
  match s.xlatDie d root va .write true with
  | (s, .fail cls sub) => (s, some (cls, sub))
  | (s, .ok pa pte addr) =>
    let x : LateWrite := { who := who, core := none, die := d, lane := 0, va := va, off := pa % 65536, op := .bytes bs }
    match (s.touch addr true).cowTouch addr with
    | (s, .clear) => (s.writeMem d (pteScope pte) pa bs, none)
    | (s, .wait) => (s.queueLate addr x, none)
    | (s, .bad) => (s, some (1, 5))
    | (s, .noFrame) =>
      match who with
      | .engine _ => (s, some (1, 7))
      | _ => (s.queueLate addr x, none)

/-- Pages that `n` bytes from an address touch. -/
def pageRun (va : W64) (n : Nat) : Nat := if n = 0 then 0 else (va.toNat % 65536 + n + 65535) / 65536

/-- Checks that a run of pages may be read. -/
def readPages (d root : Nat) : Nat → W64 → State → State × Option (Nat × Nat)
  | 0, _, s => (s, none)
  | n + 1, va, s =>
    match s.xlatDie d root va .read true with
    | (s, .fail c k) => (s, some (c, k))
    | (s, .ok _ _ addr) => readPages d root n (va + 65536) (s.touch addr false)

/-! ## Descriptors (R271 to R276), as eight dwords -/

abbrev Desc := List W64

def descW (d : Desc) (h l : Nat) : W64 := BitVec.ofNat 64 (recBits d h l)

/-- Nonzero reserved bytes. -/
def descReserved (kind : Nat) (d : Desc) : Bool :=
  recBits d 63 8 ≠ 0 ||
  (match kind with
   | 0 | 1 => recBits d 511 200 ≠ 0
   | 2 | 3 => recBits d 511 224 ≠ 0
   | 4 => recBits d 191 168 ≠ 0 || recBits d 511 384 ≠ 0
   | 5 => recBits d 191 160 ≠ 0 || recBits d 511 320 ≠ 0
   | 6 => recBits d 255 208 ≠ 0 || recBits d 511 320 ≠ 0
   | _ => recBits d 319 264 ≠ 0 || recBits d 511 384 ≠ 0)

/-- Fields invalid for the kind. -/
def descInvalid (kind : Nat) (d : Desc) : Bool :=
  let ty (n : Nat) : Bool := !([0, 1, 3].contains n)
  recBits d 7 0 ≠ kind ||
  (match kind with
   | 0 | 1 => false
   | 2 | 3 => recBits d 127 64 % 65536 ≠ 0 || recBits d 191 128 = 0 || recBits d 191 128 % 65536 ≠ 0
   | 4 => recBits d 159 128 = 0 || 2 ^ 28 < recBits d 159 128 || 1 < recBits d 167 160
   | 5 => recBits d 159 128 = 0 || 4096 < recBits d 159 128
   | 6 => recBits d 191 128 = 0 || 2 < recBits d 199 192 || ty (recBits d 207 200)
   | _ => ty (recBits d 263 256))

/-- Reads a 64-byte record through the generic path, sector by sector; `none` where it is misaligned or not readable. -/
def State.genRecord (s : State) (core root : Nat) (va : W64) : State × Option Desc :=
  if va.toNat % 64 ≠ 0 then (s, none)
  else
    match s.xlatCore core root va .read with
    | (s, .fail _ _) => (s, none)
    | (s, .ok pa pte addr) =>
      if !s.memReady pa then (s, none)
      else
        let (s, b) := (s.touch addr false).readLine core .generic (pteScope pte) pa 32
        let (s, b') := s.readLine core .generic (pteScope pte) (pa + 32) 32
        (s, some (dwords (b ++ b') 8))

/-- The completion record's address is a multiple of 16 on a writable page. -/
def Ctx.ctrOk (c : Ctx) (a : W64) : Bool :=
  a.toNat % 16 = 0 && (match (c.s.xlatCore c.core (c.s.rootOf c.g) a .write).2 with
    | .ok _ _ _ => true
    | .fail _ _ => false)

/-- What the checks at issue give: the descriptor and RECON's record, or a RECBAD subcode. -/
def Ctx.engRead (c : Ctx) (kind : Nat) (x : Op) : State × Except Nat (Desc × CovRec) :=
  let root := c.s.rootOf c.g
  match c.s.genRecord c.core root (c.scalar x.lit x.a) with
  | (s, none) => (s, .error 1)
  | (s, some d) =>
    let (s, r) := if kind = 7 then s.genRecord c.core root (descW d 127 64) else (s, some [])
    match r with
    | none => (s, .error 1)
    | some r =>
      if !c.ctrOk (c.scalar x.lit x.c) then (s, .error 1)
      else if descReserved kind d || (kind = 7 && covReserved r) then (s, .error 2)
      else if descInvalid kind d || (kind = 7 && covInvalid r) then (s, .error 3)
      else (s, .ok (d, r))

/-- The coordinates operand as the lowest active lane that is not a helper gives it; a scalar gives it whatever lanes are active. -/
def Ctx.engCoord (c : Ctx) (x : Op) : Option W64 :=
  if isVec x.b then (lowLane c.real).map (fun l => (c.src x.lit x.b).at l) else some (c.scalar x.lit x.b)

/-- RECON names a block of its record, or every block (R276). -/
def blockOk (r : CovRec) (n : Nat) : Bool := n = 2 ^ 32 - 1 || n < covGx r * covGy r * covGz r

def engCheck (kind : Nat) (x : Op) (c : Ctx) : Option TrapInfo :=
  let bad (k : Nat) : Option TrapInfo := some (TrapInfo.unit 7 k (c.scalar x.lit x.a))
  match (c.engRead kind x).2 with
  | .error k => bad k
  | .ok (d, r) =>
    if kind ≤ 1 && (c.tileEntry (recBits d 199 192) false).isNone then some (tileBad 0)
    else if kind = 7 then
      match c.engCoord x with
      | some b => if blockOk r (b.toNat % 2 ^ 32) then none else bad 3
      | none => none
    else none

/-- Ready bit of a kind's engine on the issuing die (R430); the wellhead's is looked at page by page, and RECON's unit has none. -/
def engReadyBit (kind : Nat) : Option Nat :=
  match kind with
  | 0 | 1 => some 19
  | 4 => some 21
  | 5 | 6 => some 20
  | _ => none

def engRun (kind : Nat) (x : Op) (c : Ctx) : Run :=
  let a := c.scalar x.lit x.a
  match c.engRead kind x, c.s.launchOf c.g, lowLane c.real, c.engCoord x with
  | (_, .error k), _, _, _ => .trap (TrapInfo.unit 7 k a)
  | (s, .ok (d, r)), some (key, l), some _, some xy =>
    let ready := match engReadyBit kind with
      | some b => (s.dieReg c.die .dready).getLsbD b
      | none => true
    let queue (s : State) (tile : Option (Nat × Nat × Shape)) : Run :=
      let (h, s) := s.newHandle
      let cmd : EngCmd :=
        { kind := kind, src := c.g, srcSub := c.sub, started := false, die := c.die, launch := key, wg := c.w.wg, lseq := c.w.lseq, wgid := s.wgidOf c.w, area := l.area,
          desc := d, x := xy.toNat % 2 ^ 32, y := xy.toNat / 2 ^ 32, ctr := c.scalar x.lit x.c, fpc := c.u.pc, tile := tile, recon := r,
          pages := 0, bad := 0, readDone := false, sent := false, data := [], buf := [], face := none, plan := [], todo := [], after := none,
          status := if ready then none else some (stNOT_READY, 0, 0), dead := false }
      .go (Fin.nil { s with engines := s.engines.put h cmd })
    if kind ≤ 1 then
      match c.tileEntry (recBits d 199 192) false with
      | none => .trap (tileBad 0)
      | some (k, i, t) =>
        if t.shape.esz = 0 && xy.toNat % 2 = 1 then .trap (TrapInfo.unit 7 3 a)
        else if !t.admits (if kind = 0 then .fill else .copyout) then .block s (.tile i (if kind = 0 then .fill else .copyout))
        else
          let t' := if kind = 0 then { t with state := 1, swfill := false } else { t with state := 3, readers := t.readers + 1 }
          queue (s.setTile k.core i t') (some (k.core, i, t.shape))
    else if kind = 7 && !blockOk r (xy.toNat % 2 ^ 32) then .trap (TrapInfo.unit 7 3 a)
    else queue s none
  | (s, .ok _), _, _, _ => .go (Fin.nil s)

def engJob (kind : Nat) (x : Op) : Job :=
  { jobOf x x.bytes (engRun kind x) with endsRegion := true, reads := x.b.run 1, uniform := engCheck kind x }

def execEngcmdCopyin (x : Op) (s : State) : Out := issue (engJob 0 x) s
def execEngcmdCopyout (x : Op) (s : State) : Out := issue (engJob 1 x) s
def execEngcmdPublish (x : Op) (s : State) : Out := issue (engJob 2 x) s
def execEngcmdRetire (x : Op) (s : State) : Out := issue (engJob 3 x) s
def execEngcmdAsbuild (x : Op) (s : State) : Out := issue (engJob 4 x) s
def execEngcmdHalo (x : Op) (s : State) : Out := issue (engJob 5 x) s
def execEngcmdAllred (x : Op) (s : State) : Out := issue (engJob 6 x) s
def execEngcmdRecon (x : Op) (s : State) : Out := issue (engJob 7 x) s

/-! ## Changing a command -/

def State.setEng (s : State) (id : Nat) (c : EngCmd) : State := { s with engines := s.engines.put id c }

/-- The command's effects end with a status. -/
def State.endEng (s : State) (id : Nat) (c : EngCmd) (code sub detail : Nat) : State :=
  s.setEng id { c with plan := [], todo := [], after := none, status := some (code, sub, detail) }

/-- The status of a row of R78 (R271); no frame is NOFRAME (R98). -/
def rowStatus (e : Nat × Nat) : Nat × Nat := if e.1 = 2 then (stSCOPEFAULT, e.2) else if e = (1, 7) then (stNOFRAME, 0) else (stMEMFAULT, e.2)

/-- A failing row ends the command. -/
def State.failEng (s : State) (id : Nat) (c : EngCmd) (e : Nat × Nat) : State := s.endEng id c (rowStatus e).1 (rowStatus e).2 0

/-- The engine a command goes to: the copy engine, the wellhead, the builder, the collective engine, the reconstruction unit (R270). -/
def engineOf (kind : Nat) : Nat := match kind with
  | 0 | 1 => 0
  | 2 | 3 => 1
  | 4 => 2
  | 5 | 6 => 3
  | _ => 4

/-- The commands of one unit to one engine start in issue order (R270). -/
def State.mayStart (s : State) (id : Nat) (c : EngCmd) : Bool :=
  s.engines.all (fun p => !(p.1 < id && !p.2.started && p.2.src = c.src && p.2.srcSub = c.srcSub && p.2.lseq = c.lseq
    && engineOf p.2.kind = engineOf c.kind))

/-- A write of the command waits at a page that is being copied. -/
def State.engLate (s : State) (id : Nat) : Bool := s.cows.any (fun p => p.2.late.any (fun x => x.who = .engine id))

/-- Writes that the command is to make, and the status it ends with after them. -/
def State.planWrites (s : State) (id : Nat) (c : EngCmd) (ws : List (W64 × List Byte)) (detail : Nat × Nat) : State :=
  s.setEng id { c with todo := ws, after := some (detail.1, 0, detail.2) }

/-! ## The copy engine (R272) -/

def copyAddr (c : EngCmd) : W64 := descW c.desc 127 64
def copyPitch (c : EngCmd) : W64 := descW c.desc 191 128

/-- Address of the first element of row `i` in memory. -/
def copyRow (c : EngCmd) (h : Shape) (i : Nat) : W64 :=
  copyAddr c + BitVec.ofNat 64 (c.y + i) * copyPitch c + BitVec.ofNat 64 (if h.esz = 0 then c.x / 2 else c.x * 2 ^ (h.esz - 1))

/-- Element `j` of a row's bytes. -/
def rowElem (h : Shape) (bs : List Byte) (j : Nat) : Nat :=
  if h.esz = 0 then fieldN bs (j / 2) 1 / 16 ^ (j % 2) % 16 else fieldN bs (j * 2 ^ (h.esz - 1)) (2 ^ (h.esz - 1))

/-- Where a copy stands: the row, the byte in it, the address there, and how many bytes lie in one element of the transfer (R103). -/
def copyAt (c : EngCmd) (h : Shape) : Nat × Nat × W64 × Nat :=
  let n := h.span h.cols
  let i := c.data.length / n
  let o := c.data.length % n
  let va := copyRow c h i + BitVec.ofNat 64 o
  (i, o, va, min (8 - va.toNat % 8) (n - o))

/-- The columns of a row whose last bit lies among `m` bytes from byte `o`. -/
def colsIn (h : Shape) (o m : Nat) : List Nat := (List.range h.cols).filter (fun j => o * 8 < (j + 1) * h.bits && (j + 1) * h.bits ≤ (o + m) * 8)

/-- COPYIN: the next bytes of the matrix are read, and the elements they complete are put in the tile. -/
def copyinUnit (id : Nat) (c : EngCmd) (s : State) : State :=
  match c.tile, s.group? c.wg with
  | some (_, _, h), some k =>
    let n := h.span h.cols
    if h.rows * n ≤ c.data.length then s.endEng id c 0 0 0
    else
      let (i, o, va, m) := copyAt c h
      match s.readVa c.die c.area.root va true m with
      | (s, .error e) => s.failEng id c e
      | (s, .ok b) =>
        let data := c.data ++ b
        let put (s : State) (j : Nat) : State :=
          (s.stage k none (h.elem i j).1 (max 1 (h.bits / 8))).tilePut k h i j (rowElem h (data.drop (i * n)) j)
        ((colsIn h o m).foldl put s).setEng id { c with data := data }
  | _, _ => s.endEng id c 0 0 0

/-- Bytes of row `i` of a tile as they go to memory. -/
def tileRow (s : State) (k : Group) (h : Shape) (i : Nat) : List Byte :=
  if h.esz = 0 then
    (List.range ((h.cols + 1) / 2)).map (fun m =>
      BitVec.ofNat 8 (s.tileGet k h i (2 * m) + (if 2 * m + 1 < h.cols then s.tileGet k h i (2 * m + 1) * 16 else 0)))
  else (List.range h.cols).flatMap (fun j => leBytes (2 ^ (h.esz - 1)) (s.tileGet k h i j))

/-- The bytes of a whole tile, row by row. -/
def tileBytes (s : State) (k : Group) (h : Shape) : List Byte := (List.range h.rows).flatMap (fun r => tileRow s k h r)

/-- COPYOUT_READS_END (R90, R272): the rest of the tile's bytes are captured, and the tile returns to Ready. -/
def execCopyoutReadsEnd (id : Nat) (s : State) : Out :=
  .next (match s.engines.find? id with
    | none => s
    | some c =>
      match c.tile, s.group? c.wg with
      | some (core, i, h), some k =>
        if c.kind ≠ 1 || c.readDone || c.status.isSome || !s.mayStart id c then s
        else
          (s.setEng id { c with started := true, readDone := true, data := c.data ++ (tileBytes s k h).drop c.data.length }).modTile core i
            (fun t => { t with state := 2, readers := t.readers - 1 })
      | _, _ => s)

/-- COPYOUT: the next bytes of the tile are captured, or, once its reads have ended, its writes are laid out. An odd row of 4-bit elements keeps
the nibble of memory beside its last. -/
def copyoutUnit (id : Nat) (c : EngCmd) (s : State) : State :=
  match c.tile, s.group? c.wg with
  | some (_, _, h), some k =>
    let n := h.span h.cols
    if !c.readDone then
      let (i, o, _, m) := copyAt c h
      s.setEng id { c with data := c.data ++ ((tileRow s k h i).drop o).take m }
    else
      let keep := h.esz = 0 && h.cols % 2 = 1
      let row (i : Nat) : List (W64 × List Byte) :=
        let bs := (c.data.drop (i * n)).take n
        let va := copyRow c h i
        let old := match s.readVa c.die c.area.root (va + BitVec.ofNat 64 (n - 1)) true 1 with
          | (_, .ok [b]) => b.toNat / 16 * 16
          | _ => 0
        piecesOf va (if keep then bs.take (n - 1) ++ [BitVec.ofNat 8 ((bs.getD (n - 1) 0).toNat + old)] else bs)
      s.planWrites id c ((List.range h.rows).flatMap row) (0, 0)
  | _, _ => s.endEng id c 0 0 0

/-! ## PUBLISH and RETIRE (R273) -/

/-- Pages of the run. -/
def runPages (c : EngCmd) : Nat := recBits c.desc 191 128 / 65536

/-- The next page of a command: the wellhead of its home die acts on it, or the command ends. -/
def State.pageStep (s : State) (id : Nat) (kind : Nat) (act : State → Nat → Nat → State × PageOut) : State :=
  match s.engines.find? id with
  | none => s
  | some c =>
    if c.kind ≠ kind || c.status.isSome || runPages c ≤ c.pages || !s.mayStart id c then s
    else
      let c := { c with started := true }
      let va := descW c.desc 127 64 + BitVec.ofNat 64 (c.pages * 65536)
      match s.xlatDie c.die c.area.root va .read true with
      | (s, .fail cls sub) => s.endEng id c (rowStatus (cls, sub)).1 (rowStatus (cls, sub)).2 c.bad
      | (s, .ok pa _ addr) =>
        if !(s.dieReg (s.homeDie pa) .dready).getLsbD 22 then s.endEng id c stNOT_READY 0 0
        else
          match act s addr (recBits c.desc 223 192) with
          | (s, .done) => s.setEng id { c with pages := c.pages + 1 }
          | (s, .bad) => s.setEng id { c with pages := c.pages + 1, bad := c.bad + 1 }
          | (s, .wait) => s.setEng id c
          | (s, .fault cls sub) => s.endEng id c (rowStatus (cls, sub)).1 (rowStatus (cls, sub)).2 c.bad

/-- PUBLISH_POINT (R96): one page of a PUBLISH. -/
def execPublishPoint (id : Nat) (s : State) : Out := .next (s.pageStep id 2 State.publish)

/-- RETIRE_PAGE (R97): one page of a RETIRE. -/
def execRetirePage (id : Nat) (s : State) : Out := .next (s.pageStep id 3 State.retire)

def pagesEffect (id : Nat) (c : EngCmd) (s : State) : State :=
  if c.pages < runPages c then s else s.endEng id c (if c.bad = 0 then 0 else stBADVER) 0 c.bad

/-- FRAME_RETURN (R97): the oldest freed frame of a die is appended to its return ring, when the ring has room. Every LDV read is
performed at its issue, so none is still directed to the frame. -/
def execFrameReturn (d : Nat) (s : State) : Out :=
  .next (match (s.die d).frees with
    | [] => s
    | f :: fs =>
      let ring := s.dieReg d .whfring
      let tail := s.dieReg d .whftail
      if ringSize ring ≤ ringHeld (s.dieReg d .whfhead) tail then s
      else
        let s := (s.poke (ringBase ring + tail.toNat % ringSize ring * 4) (leBytes 4 f)).bump d .whftail
        s.modDie d (fun x => { x with frees := fs }))

/-! ## The end of a copy-on-write (R98) -/

/-- The outstanding results whose last lane a write has given are ready. -/
def State.settleLook (s : State) (x : LateWrite) : State :=
  match x.op, x.who with
  | .atom _ _ _ _ k _, .unit g _ _ => if s.lateAtom k then s else s.mapLooks g (fun y => if y.id = k then { y with ready := true } else y)
  | _, _ => s

/-- The writers of bytes among some writes, each once. -/
def byteWriters (xs : List LateWrite) : List Writer :=
  ((xs.filter (fun x => match x.op with
    | .bytes _ => true
    | .red _ _ _ | .atom _ _ _ _ _ _ | .record _ _ => false)).map (·.who)).eraseDups

/-- A link write is answered once none of its parts waits. -/
def State.answerLink (s : State) (w : Writer) : State :=
  match w with
  | .link d port id =>
    if s.cows.any (fun p => p.2.late.any (fun y => y.who = .link d port id)) then s else { s with replies := s.replies ++ [(d, port, some [])] }
  | .unit _ _ _ | .engine _ | .hardware => s

/-- A write that waited for the copy of a page is performed on the page's new frame. -/
def releaseWrite (pte f : Nat) (s : State) (x : LateWrite) : State := x.land (s.touch pte true) (pteScope (s.leaf pte)) (f * 65536 + x.off)

/-- COPY_ON_WRITE_END (R98): steps 2 to 4 for the copy of the page whose leaf entry is at `idx`. The waiting writes are performed in their
order of arrival. -/
def execCopyOnWriteEnd (idx : Nat) (s : State) : Out :=
  .next (match s.cows.find? idx with
    | none => s
    | some c =>
      match c.frame with
      | none => s
      | some f =>
        let s := c.late.foldl (releaseWrite idx f) (s.cowFinish c f)
        (byteWriters c.late).foldl State.answerLink (c.late.foldl State.settleLook s))

/-- The lanes of a unit whose writes wait at one instruction, with their addresses. -/
def lateLanes (xs : List LateWrite) (g sub : Nat) (pc : W64) : List (Nat × W64) :=
  (xs.filter (fun x => x.who = .unit g sub pc)).foldl (fun r x => if r.any (fun p => p.1 = x.lane) then r else r ++ [(x.lane, x.va)]) []

/-- The writes of a unit fail (R98): it takes MEMFAULT 7 at the first instruction whose write waits, and the results that its atomics there still
owe are dropped, since the region is replayed. A unit whose warp cannot take the trap now keeps its writes waiting. -/
def State.failUnit (s : State) (idx g sub : Nat) (xs : List LateWrite) : State :=
  match s.unit? g sub, xs.find? (fun x => match x.who with
      | .unit g' sub' _ => g' = g && sub' = sub
      | _ => false) with
  | some u, some { who := .unit _ _ pc, .. } =>
    if u.st = .fusing || u.st = .faulted || u.enters then s
    else
      let mine (x : LateWrite) : Bool := match x.who with
        | .unit g' sub' _ => g' = g && sub' = sub
        | _ => false
      let owed := (xs.filter mine).filterMap (fun x => match x.op with
        | .atom _ _ _ _ k _ => some k
        | _ => none)
      let s := { s with cows := s.cows.modAt idx (fun c => { c with late := c.late.filter (fun x => !mine x) }) }
      let s := owed.foldl (fun s k => s.dropLook g k) s
      let s := s.modUnit g sub (fun u => { u with pc := pc, st := .ready })
      s.takeTrap g sub (TrapInfo.lanes 1 7 0 (lateLanes xs g sub pc))
  | _, _ => s

/-- What the end of the wait does to one write (R98): an engine command ends with NOFRAME, and a fault record is lost but counted; the write of a
link, and one of which nobody can be told, goes on waiting. -/
def State.failLate (s : State) (idx : Nat) (x : LateWrite) : State :=
  let drop (s : State) : State := { s with cows := s.cows.modAt idx (fun c => { c with late := c.late.erase x }) }
  match x.who, x.op with
  | .engine id, _ =>
    match s.engines.find? id with
    | some c => (drop s).endEng id c stNOFRAME 0 0
    | none => drop s
  | .hardware, .record area _ => (drop s).countFault area
  | _, _ => s

/-- The units that have a write waiting, each once. -/
def lateUnits (xs : List LateWrite) : List (Nat × Nat) :=
  (xs.filterMap (fun x => match x.who with
    | .unit g sub _ => some (g, sub)
    | _ => none)).eraseDups

/-- ALLOCATION_RING_TIMEOUT (R98): the ring has been empty for 1 ms. The waiting writes of warps and engines fail. -/
def execAllocationRingTimeout (idx : Nat) (s : State) : Out :=
  .next (match s.cows.find? idx with
    | none => s
    | some c =>
      match c.empty with
      | some t =>
        if c.frame.isSome || c.timedOut || s.rtime < t + 1000000 then s
        else
          let s := { s with cows := s.cows.put idx { c with timedOut := true } }
          let s := c.late.foldl (fun s x => s.failLate idx x) s
          (lateUnits c.late).foldl (fun s p => s.failUnit idx p.1 p.2 c.late) s
      | none => s)

/-! ## The acceleration-structure builder (R274, R300) -/

def magicScene : W64 := 0x53434E454C5A0001#64

/-- Bytes of a primitive. -/
def primBytes (pfmt : Nat) : Nat := if pfmt = 0 then 36 else 24

def asbuildEffect (id : Nat) (c : EngCmd) (s : State) : State :=
  let d := c.desc
  let root := c.area.root
  let prim := descW d 127 64
  let n := recBits d 159 128
  let pfmt := recBits d 167 160
  let out := recBits d 255 192
  let size := recBits d 319 256
  let own := descW d 383 320
  let nt := max 1 (min 65535 (Config.treelets n))
  let tsize (i : Nat) : Nat := max 1 (min 65536 (Config.treeletSize n i))
  let base0 := (out + 64 + 16 * nt + 65535) / 65536 * 65536
  let base (i : Nat) : Nat := base0 + i * 65536
  match readPages c.die root (pageRun prim (n * primBytes pfmt)) prim s with
  | (s, some e) => s.failEng id c e
  | (s, none) =>
    if out + size < base (nt - 1) + tsize (nt - 1) then s.endEng id c stMEMFAULT 1 0
    else
      let trees := List.range nt
      let owner (i : Nat) : Nat := match (s.xlatDie c.die root (BitVec.ofNat 64 (base i)) .read true).2 with
        | .ok pa _ _ => s.homeDie pa
        | .fail _ _ => 0
      let table := trees.flatMap (fun i => leBytes 8 (base i) ++ leBytes 4 (owner i) ++ leBytes 4 (tsize i))
      let scene := leBytes 4 n ++ leBytes 2 pfmt ++ leBytes 2 nt ++ leBytes 8 prim.toNat ++ leBytes 8 own.toNat
        ++ leBytes 8 (s.choice nt) ++ leBytes 8 magicScene.toNat ++ List.replicate 24 0
      let nodes (i : Nat) : List Byte := (List.range (tsize i)).map (fun b => Config.nodeByte (s.free + i) b)
      s.tickFree.planWrites id c (piecesOf (BitVec.ofNat 64 out) (scene ++ table) ++ piecesOf own table
        ++ trees.flatMap (fun i => piecesOf (BitVec.ofNat 64 (base i)) (nodes i))) (0, 0)

/-! ## Links a collective needs (R421, R430, R431) -/

/-- An edge of a die is ready: both dies report it. -/
def State.edgeReady (s : State) (d : Nat) (row : Bool) : Bool :=
  let o := if row then d ^^^ 1 else d ^^^ 2
  let b := if row then 17 else 18
  (s.dieReg d .dready).getLsbD b && (s.dieReg o .dready).getLsbD b

/-- The route between two dies (R421) is ready. -/
def State.routeReady (s : State) (a b : Nat) : Bool :=
  if a = b then true
  else if a ^^^ b = 1 then s.edgeReady a true
  else if a ^^^ b = 2 then s.edgeReady a false
  else s.edgeReady a true && s.edgeReady (a ^^^ 1) false

/-- The port that carries a die's collective traffic to an accelerator. -/
def collPort (d acc : Nat) : Nat := Config.linkPort d acc % 4

/-- A participant can be reached from a die. -/
def State.peerReady (s : State) (d acc die : Nat) : Bool :=
  if acc = fld (s.pkgReg .pkginfo) 12 3 then s.routeReady d die else (s.dieReg d .dready).getLsbD (13 + collPort d acc)

def State.accid (s : State) : Nat := fld (s.pkgReg .pkginfo) 12 3

/-! ## ALLRED (R275, R428) -/

/-- The participants of a ring, from its bytes. -/
def ringEntries (b : List Byte) : List (Nat × Nat) :=
  (List.range (fieldN b 0 2)).map (fun i => (fieldN b (16 + 16 * i) 2 % 1024, fieldN b (18 + 16 * i) 1 % 4))

def ringTag (b : List Byte) : W64 := BitVec.ofNat 64 (fieldN b 8 8)

/-- Bytes of a collective's element. -/
def collElem (c : EngCmd) : Nat := covBytes (recBits c.desc 207 200)

/-- Combines two elements (R428). -/
def collCombine (op ty a b : Nat) : Nat :=
  match op with
  | 0 => (fadd ty false .rne a b).1
  | 1 => (fminmax ty false a b).1
  | _ => (fminmax ty true a b).1

/-- The result of a ring, element by element, from the contributions in ring order. -/
def collResult (c : EngCmd) (xs : List (List Byte)) : List Byte :=
  let n := collElem c
  (List.range (recBits c.desc 191 128)).flatMap (fun i =>
    let v (b : List Byte) : Nat := fieldN b (i * n) n
    leBytes n (match xs with
      | [] => 0
      | x :: rest => rest.foldl (fun r y => collCombine (recBits c.desc 199 192) (recBits c.desc 207 200) r (v y)) (v x)))

/-- A local participant of a ring has ended. Once all have, what was kept for the collective is dropped: the contribution of
position p is kept under p, and the end of its command under 1024 + p. -/
def State.ringLeave (s : State) (tag : W64) (ring : List (Nat × Nat)) (p : Nat) : State :=
  let s := { s with allreds := s.allreds ++ [(tag, 1024 + p, [])] }
  let here := (List.range ring.length).filter (fun i => (ring.getD i (0, 0)).1 = s.accid)
  if here.all (fun i => s.allreds.any (fun a => a.1 = tag && a.2.1 = 1024 + i)) then
    { s with allreds := s.allreds.filter (fun a => a.1 ≠ tag), lost := s.lost.filter (fun t => t ≠ .allred tag) }
  else s

/-- The ring is read and checked. -/
def allredBegin (id : Nat) (c : EngCmd) (s : State) : State :=
  let d := c.die
  let root := c.area.root
  let at' := descW c.desc 319 256
  match s.readVa d root at' true 16 with
  | (s, .error e) => s.failEng id c e
  | (s, .ok hdr) =>
    let n := fieldN hdr 0 2
    if n < 2 || 256 < n then s.endEng id c stMEMFAULT 1 0
    else
      match s.readVa d root at' true (16 + 16 * n) with
      | (s, .error e) => s.failEng id c e
      | (s, .ok b) =>
        let ring := ringEntries b
        if !ring.contains (s.accid, d) || ring.eraseDups.length ≠ n then s.endEng id c stMEMFAULT 1 0
        else if ring.any (fun p => !s.peerReady d p.1 p.2) then s.endEng id c stNOT_READY 0 0
        else s.setEng id { c with data := b }

/-- This participant's BUF, read whole, is sent to the others. -/
def allredSend (id : Nat) (c : EngCmd) (s : State) : State :=
  let ring := ringEntries c.data
  let p := (ring.findIdx? (fun e => e = (s.accid, c.die))).getD 0
  let far := ((ring.map (·.1)).filter (fun a => a ≠ s.accid)).eraseDups
  let s := { s with allreds := s.allreds ++ [(ringTag c.data, p, c.buf)],
                    outbox := s.outbox ++ far.map (fun a => (a, VMsg.allred (ringTag c.data) p c.buf)) }
  s.setEng id { c with sent := true }

/-- The next bytes of `n` from an address that a collective reads, one element of the transfer. -/
def State.readSome (s : State) (id : Nat) (c : EngCmd) (va : W64) (n : Nat) : State :=
  match s.readVa c.die c.area.root va true (min (8 - va.toNat % 8) n) with
  | (s, .error e) => s.failEng id c e
  | (s, .ok b) => s.setEng id { c with buf := c.buf ++ b }

def allredUnit (id : Nat) (c : EngCmd) (s : State) : State :=
  let va := descW c.desc 127 64
  let n := recBits c.desc 191 128 * collElem c
  if c.data.isEmpty then allredBegin id c s
  else if c.buf.length < n then s.readSome id c (va + BitVec.ofNat 64 c.buf.length) (n - c.buf.length)
  else if !c.sent then allredSend id c s
  else
    let ring := ringEntries c.data
    let tag := ringTag c.data
    let p := (ring.findIdx? (fun e => e = (s.accid, c.die))).getD 0
    if s.lost.contains (.allred tag) then (s.ringLeave tag ring p).endEng id c stCONTEXT_LOST 0 0
    else
      let xs := (List.range ring.length).filterMap (fun i => (s.allreds.find? (fun a => a.1 = tag && a.2.1 = i)).map (fun a => a.2.2))
      if xs.length < ring.length then s else (s.ringLeave tag ring p).planWrites id c (piecesOf va (collResult c xs)) (0, 0)

/-! ## HALO (R275, R429) -/

/-- An entry of a neighbour list. -/
structure Peer where
  acc : Nat
  die : Nat
  srcOff : W64
  dstOff : W64
  len : Nat
  tag : W32
  deriving DecidableEq, Repr

def peerList (n : Nat) (b : List Byte) : List Peer :=
  (List.range n).map (fun i =>
    let e := (b.drop (32 * i)).take 32
    { acc := fieldN e 0 2 % 1024, die := fieldN e 2 1 % 4, srcOff := BitVec.ofNat 64 (fieldN e 8 8), dstOff := BitVec.ofNat 64 (fieldN e 16 8),
      len := fieldN e 24 4, tag := BitVec.ofNat 32 (fieldN e 28 4) })

def haloPeers (c : EngCmd) : List Peer := peerList (recBits c.desc 159 128) c.data

/-- The list is read and checked. -/
def haloBegin (id : Nat) (c : EngCmd) (s : State) : State :=
  let n := recBits c.desc 159 128
  match s.readVa c.die c.area.root (descW c.desc 127 64) true (32 * n) with
  | (s, .error e) => s.failEng id c e
  | (s, .ok b) =>
    let ps := peerList n b
    if ps.any (fun p => p.len = 0 || p.len % 8 ≠ 0) then s.endEng id c stMEMFAULT 1 0
    else if ps.any (fun p => !s.peerReady c.die p.acc p.die) then s.endEng id c stNOT_READY 0 0
    else s.setEng id { c with data := b }

/-- The entry whose data byte `n` of all that is sent belongs to, and the place in it. -/
def peerAt : List Peer → Nat → Option (Peer × Nat)
  | [], _ => none
  | p :: ps, n => if n < p.len then some (p, n) else peerAt ps (n - p.len)

/-- The data of each entry, from all of them together. -/
def peerData : List Peer → List Byte → List (Peer × List Byte)
  | [], _ => []
  | p :: ps, bs => (p, bs.take p.len) :: peerData ps (bs.drop p.len)

/-- Every send is made. -/
def haloSend (id : Nat) (c : EngCmd) (s : State) : State :=
  let sends := peerData (haloPeers c) c.buf
  let near := sends.filter (fun q => q.1.acc = s.accid)
  let far := sends.filter (fun q => q.1.acc ≠ s.accid)
  let me := s.accid
  let msg (q : Peer × List Byte) : HaloMsg :=
    { srcAcc := me, srcDie := c.die, dstAcc := q.1.acc, dstDie := q.1.die, tag := q.1.tag, off := q.1.dstOff, data := q.2 }
  let out := far.map (fun q => (q.1.acc, VMsg.halo me c.die q.1.die q.1.tag q.1.dstOff q.2))
  ({ s with halos := s.halos ++ near.map msg, outbox := s.outbox ++ out }).setEng id { c with sent := true }

/-- The first send that an entry of the list awaits. -/
def haloNext (s : State) (c : EngCmd) : Option HaloMsg :=
  s.halos.find? (fun m => m.dstAcc = s.accid && m.dstDie = c.die && (haloPeers c).any (fun p => p.acc = m.srcAcc && p.die = m.srcDie && p.tag = m.tag))

/-- A peer of the list has lost its context, as this participant is to learn. -/
def haloLost (s : State) (c : EngCmd) : Option Lost :=
  s.lost.find? (fun x => (haloPeers c).any (fun p => x = .halo p.tag p.acc p.die c.die))

def haloUnit (id : Nat) (c : EngCmd) (s : State) : State :=
  if c.data.isEmpty then haloBegin id c s
  else
    match peerAt (haloPeers c) c.buf.length with
    | some (p, o) => s.readSome id c (descW c.desc 255 192 + p.srcOff + BitVec.ofNat 64 o) (p.len - o)
    | none =>
      if !c.sent then haloSend id c s
      else
        match haloLost s c, c.face with
        | some x, _ => ({ s with lost := s.lost.erase x }).endEng id c stCONTEXT_LOST 0 0
        | none, some m => if s.engLate id then s else ({ s with halos := s.halos.erase m }).setEng id { c with face := none, pages := c.pages + 1 }
        | none, none =>
          match haloNext s c with
          | some m => s.setEng id { c with face := some m, todo := piecesOf (descW c.desc 319 256 + m.off) m.data }
          | none =>
            let mine := s.halos.any (fun m => m.srcAcc = s.accid && m.srcDie = c.die
              && (haloPeers c).any (fun p => p.acc = m.dstAcc && p.die = m.dstDie && p.tag = m.tag))
            if (haloPeers c).length ≤ c.pages && !mine then s.endEng id c 0 0 0 else s

/-! ## RECON (R276, R320) -/

/-- The dispatcher of a live launch has yet to write the map byte of a block: the block has no level (R39). -/
def State.levelOpen (s : State) (root : Nat) (map : W64) (lin : Nat) : Bool :=
  s.launches.any (fun p => p.2.coverage && p.2.root = root && BitVec.ofNat 64 p.2.covmap = map && lin < p.2.total && !p.2.written lin)

/-- The level of each block named that has one. -/
def reconLevels (c : EngCmd) : List Nat → State → State × Except (Nat × Nat) (AMap Nat Nat)
  | [], s => (s, .ok [])
  | b :: bs, s =>
    let map := descW c.desc 383 320
    match s.readVa c.die c.area.root (map + BitVec.ofNat 64 b) true 1 with
    | (s, .error e) => (s, .error e)
    | (s, .ok v) =>
      match reconLevels c bs s with
      | (s, .ok m) => (s, .ok (if s.levelOpen c.area.root map b then m else m.put b (leNat v)))
      | (s, .error e) => (s, .error e)

/-- Reads the sources of a point. -/
def reconReads (c : EngCmd) (n : Nat) : List W64 → State → State × Except (Nat × Nat) (List Nat)
  | [], s => (s, .ok [])
  | va :: vas, s =>
    match s.readVa c.die c.area.root va true n with
    | (s, .error e) => (s, .error e)
    | (s, .ok v) =>
      match reconReads c n vas s with
      | (s, .ok vs) => (s, .ok (leNat v :: vs))
      | (s, .error e) => (s, .error e)

/-- Reads the BLUE tile, for pattern 5 only. -/
def reconBlue (c : EngCmd) (s : State) : State × Except (Nat × Nat) (List Byte) :=
  if covPat c.recon = 5 then s.readVa c.die c.area.root (covBlue c.recon) true 4096 else (s, .ok [])

/-- Lays out the points to reconstruct, from the levels of their blocks. A block without a level is left as it is; one whose level is above the
pattern's is left too, and counted. -/
def reconBegin (id : Nat) (c : EngCmd) (s : State) : State :=
  let r := c.recon
  let ty := recBits c.desc 263 256
  let blocks := if c.x = 2 ^ 32 - 1 then List.range (covGx r * covGy r * covGz r) else [c.x]
  match reconBlue c s with
  | (s, .error e) => s.failEng id c e
  | (s, .ok tile) =>
    let blue (i : Nat) : Nat := (tile.getD i 0).toNat
    match reconLevels c (blocks ++ blocks.flatMap (fun b => (covPoints r b).flatMap (covNear r))).eraseDups s with
    | (s, .error e) => s.failEng id c e
    | (s, .ok lev) =>
      let above := blocks.filter (fun b => (lev.find? b).any (fun i => covTop (covPat r) < i))
      let good := blocks.filter (fun b => (lev.find? b).any (fun i => i ≤ covTop (covPat r)))
      let addr (p : Nat × Nat × Nat) : W64 := covElem r (descW c.desc 191 128) (descW c.desc 255 192) ty p.1 p.2.1 p.2.2
      let f (p : Nat × Nat × Nat) : Recon := reconstruct (covKern r ty) (covSource r blue (fun b => lev.find? b) p.2.2) p.1 p.2.1
      let pts := good.flatMap (fun b =>
        let probes := covProbes r blue (lev.get 0 b) b
        (covSkipped r blue (lev.get 0 b) b).filter (fun p => !probes.contains p))
      s.setEng id { c with plan := pts.map (fun p => (addr p, (f p).1, (f p).2.map (fun t => (t.1, addr (t.2.1, t.2.2, p.2.2))))),
                           after := some (if above.isEmpty then 0 else stBADMAP, 0, above.length) }

/-- Reads the sources of one point; its value is then among the writes. -/
def reconUnit (id : Nat) (c : EngCmd) (p : W64 × Nat × List (Nat × W64)) (s : State) : State :=
  let ty := recBits c.desc 263 256
  match reconReads c (covBytes ty) (p.2.2.map (·.2)) s with
  | (s, .error e) => s.failEng id c e
  | (s, .ok vs) =>
    let v := reconValue ty false p.2.1 ((p.2.2.map (·.1)).zip vs)
    s.setEng id { c with plan := c.plan.tail, todo := c.todo ++ piecesOf p.1 (leBytes (covBytes ty) v) }

/-! ## Completion (R271) -/

/-- The fault record of a command whose completion record could not be written. -/
def engRecord (s : State) (c : EngCmd) (cls sub : Nat) : List Byte :=
  leBytes 1 cls ++ leBytes 1 sub ++ leBytes 1 16 ++ leBytes 1 0xFF ++ leBytes 4 0 ++ leBytes 8 c.fpc.toNat ++ leBytes 8 0
    ++ leBytes 4 0 ++ leBytes 4 c.lseq ++ leBytes 8 c.ctr.toNat ++ leBytes 4 0 ++ leBytes 4 0 ++ leBytes 8 c.wgid ++ leBytes 2 0
    ++ leBytes 1 0 ++ leBytes 1 0 ++ leBytes 4 c.area.qid ++ leBytes 8 s.rtime ++ leBytes 8 0 ++ List.replicate 48 0

/-- A command leaves: its tile returns to Ready, and its workgroup may leave the core. -/
def State.dropEng (s : State) (id : Nat) (c : EngCmd) : State :=
  let s := match c.tile with
    | some (core, i, _) =>
      if c.kind = 0 then s.modTile core i (fun t => { t with state := 2 })
      else if c.readDone then s
      else s.modTile core i (fun t => { t with state := 2, readers := t.readers - 1 })
    | none => s
  { s with engines := s.engines.del id, cows := s.cows.each (fun y => { y with late := y.late.filter (fun x => x.who ≠ Writer.engine id) }) }.reapGroup c.wg

/-- Writes a completion record, after every write of the command (R123): STATUS on failure, then COUNT + 1. It waits for a copy-on-write of its
page. -/
def State.completeEng (s : State) (id : Nat) (c : EngCmd) (code sub detail : Nat) : State :=
  if c.dead then s.dropEng id c
  else if s.engLate id then s
  else
    match s.xlatDie c.die c.area.root c.ctr .write true with
    | (s, .fail cls k) => (s.postFault c.die c.area (engRecord s c cls k)).dropEng id c
    | (s, .ok pa pte addr) =>
      match s.cowTouch addr with
      | (s, .wait) | (s, .noFrame) => s
      | (s, .bad) => (s.postFault c.die c.area (engRecord s c 1 5)).dropEng id c
      | (s, .clear) =>
        let s := s.touch addr true
        let s := if code = 0 then s
          else s.writeMem c.die (pteScope pte) (pa + 8) (leBytes 8 (code + sub * 2 ^ 8 + c.kind * 2 ^ 16 + detail % 2 ^ 32 * 2 ^ 32))
        let (s, v) := s.homeRead c.die (pteScope pte) pa 8
        (s.writeMem c.die (pteScope pte) pa (leBytes 8 ((v + 1) % 2 ^ 64))).dropEng id c

/-- What a command does next beside its writes. -/
def engEffect (id : Nat) (c : EngCmd) (s : State) : State :=
  match c.kind with
  | 0 => copyinUnit id c s
  | 1 => copyoutUnit id c s
  | 2 | 3 => pagesEffect id c s
  | 4 => asbuildEffect id c s
  | 5 => haloUnit id c s
  | 6 => allredUnit id c s
  | _ => reconBegin id c s

/-- One transfer of a command (R103): it reads one element or makes one write. Its writes are not ordered with one another (R122): it makes
number `k` of those it may. -/
def State.engUnit (s : State) (id k : Nat) : State :=
  match s.engines.find? id with
  | none => s
  | some c0 =>
    if c0.status.isSome || !s.mayStart id c0 then s
    else
      let c := { c0 with started := true }
      match c.plan, c.todo[k % max 1 c.todo.length]?, c.after with
      | p :: _, none, _ => reconUnit id c p s
      | _, some (va, bs), _ =>
        let rest := c.todo.eraseIdx (k % max 1 c.todo.length)
        match s.writePiece (.engine id) c.die c.area.root va bs with
        | (s, none) => s.setEng id { c with todo := rest }
        | (s, some e) => s.failEng id c e
      | [], none, some (code, sub, detail) => s.endEng id c code sub detail
      | [], none, none => engEffect id c s

/-- Transfers one after another. -/
def engTransfers (id : Nat) : Nat → State → State
  | 0, s => s
  | n + 1, s => engTransfers id n (s.engUnit id 0)

/-- Enough transfers to bring a command to the next stage of its work. -/
def EngCmd.work (c : EngCmd) : Nat :=
  c.todo.length + 3 * c.plan.length + 2 + (match c.kind with
    | 0 | 1 => (c.tile.map (fun t => t.2.2.rows * t.2.2.span t.2.2.cols)).getD 0
    | 5 => ((haloPeers c).map (fun p => p.len)).foldl (· + ·) 0
    | 6 => recBits c.desc 191 128 * collElem c
    | _ => 0)

/-- The command goes on as far as it can in one stage. -/
def State.engStage (s : State) (id : Nat) : State :=
  match s.engines.find? id with
  | some c => engTransfers id c.work s
  | none => s

/-- ENGINE_COMMAND_COMPLETE (R271): the command with handle `id` goes on to its end, and completes once its effects have ended. -/
def execEngineCommandComplete (id : Nat) (s : State) : Out :=
  .next (
    let s := (((s.engStage id).engStage id).engStage id).engStage id
    match s.engines.find? id with
      | some c =>
        match c.status with
        | some (code, sub, detail) => s.completeEng id c code sub detail
        | none => s
      | none => s)

end Sys2Proof.Machine
end

