-- ==== Sys2Proof/Machine/Place.lean ====
section
/-! DEFINITION. Admission and start: what a workgroup asks of a core (R15, R64, R85, R90, R91), the reservations and shares that bind it (R360,
R376), the context blocks of its warps (R390), and the state a warp starts in (R48, R54, R309, R333, R358). -/

namespace Sys2Proof.Machine

/-! ## What a workgroup asks for -/

/-- The lanes a warp starts with: EXEC, helpers among them, probes among them (R14, R38, R46). -/
structure Plan where
  exec    : W32
  helpers : W32
  probes  : W32
  deriving DecidableEq, Repr

/-- A warp with no lane is never started (R14, R42). -/
def Plan.starts (p : Plan) : Bool := p.exec ≠ 0

/-- What a workgroup asks for: its launch, its warps, scratchpad bytes, tile entries, accumulator rows, and the registers each warp
holds from the start. -/
structure Ask where
  key     : Nat
  l       : Launch
  plans   : List Plan
  scratch : Nat
  tiles   : Nat
  acc     : Nat
  regs    : Nat
  deriving DecidableEq, Repr

/-- Warps that start; the warps it declares, which the shares count (R12, R376), are its plans. -/
def Ask.count (a : Ask) : Nat := (a.plans.filter Plan.starts).length

/-- Scratchpad a workgroup of a launch takes: whole units of 3,072 bytes, or a core's whole scratchpad in a neighbourhood (R30, R85). -/
def Launch.scratchTaken (l : Launch) : Nat := if l.nbN = 0 then (l.scratch + 3071) / 3072 * 3072 else 786432

/-- What a workgroup of the grid asks for. -/
def Launch.ask (l : Launch) (key : Nat) (plans : List Plan) : Ask :=
  { key := key, l := l, plans := plans, scratch := l.scratchTaken, tiles := l.tileCount, acc := l.accRows, regs := 0 }

/-! ## Where room is -/

/-- The lowest place of `n` on a line of `size` beside what is taken. DESIGN CHOICE (log 23), unsafe: the spec does not say which free run of the
scratchpad, the tile table or the accumulator rows a workgroup gets (R85, R87, R91). -/
def lowPlace (taken : List (Nat × Nat)) (size n : Nat) : Option Nat :=
  let free (b : Nat) : Bool := b + n ≤ size && taken.all (fun p => p.1 + p.2 ≤ b || b + n ≤ p.1)
  (((0 :: taken.map (fun p => p.1 + p.2)).filter free).foldl (fun (m : Option Nat) b => some (match m with
    | some x => min x b
    | none => b)) none)

/-- Taken in all. -/
def takenSum (taken : List (Nat × Nat)) : Nat := (taken.map (·.2)).foldl (· + ·) 0

/-- Adds a range to what is taken. -/
def takeRange (taken : List (Nat × Nat)) (b n : Nat) : List (Nat × Nat) := if n = 0 then taken else taken ++ [(b, n)]

/-- A core is usable and its column ready (R360, R424, R430). -/
def State.coreReady (s : State) (c : Nat) : Bool :=
  s.usable (dieOfCore c) (c % 48) && (s.dieReg (dieOfCore c) .dready).getLsbD (c % 8)

/-- Quadrant `q` takes `n` more warps of an ask: slots, and the reserves of R64. -/
def State.quadTakes (s : State) (q n : Nat) (a : Ask) : Bool :=
  let ws := s.quadWarps q
  let lo := (ws.map (fun p => p.2.regsMin)).foldl (· + ·) 0
  let gap := (ws.map (fun p => p.2.regsMax - p.2.regsMin)).foldl max (a.l.regsMax - a.l.regsMin)
  n = 0 || (ws.length + n ≤ 32 && lo + n * a.l.regsMin + gap ≤ 1536
    && (a.regs = 0 || s.grantable q ((s.die (q / 192)).nextSeq, 0) (n * a.regs)))

/-- Warps of an ask that quadrant `k` receives with a first quadrant `q0` (R15). -/
def Ask.inQuad (a : Ask) (q0 k : Nat) : Nat :=
  (((List.range a.plans.length).zip a.plans).filter (fun p => p.2.starts && (q0 + p.1) % 4 = k)).length

/-- Every quadrant of a core takes its warps. -/
def State.quadsTake (s : State) (c : Nat) (a : Ask) (q0 : Nat) : Bool :=
  [0, 1, 2, 3].all (fun k => s.quadTakes (c * 4 + k) (a.inQuad q0 k) a)

/-- A core's own stores have room. -/
def State.storesTake (s : State) (c : Nat) (a : Ask) : Bool :=
  let x := s.core c
  (a.scratch = 0 || (lowPlace x.scrUse 786432 a.scratch).isSome) && takenSum x.tileUse + a.tiles ≤ 256 && takenSum x.accUse + a.acc ≤ 512

/-- A core is reserved for a launch other than `key` (R360), or for a workgroup that is to be restored (R394). -/
def State.reservedFor (s : State) (c key : Nat) : Bool :=
  s.launches.any (fun p => (p.1 ≠ key && p.2.reserve = some c) || p.2.away.any (fun x => x.wanted && x.saved && x.group.core = c))

/-- The first quadrant a core admits a workgroup with: the wanted one, else the next that does. -/
def State.admits (s : State) (c : Nat) (a : Ask) (q0 : Nat) : Option Nat :=
  if !s.coreReady c || s.reservedFor c a.key || !s.storesTake c a then none
  else ((List.range 4).map (fun i => (q0 + i) % 4)).find? (fun q => s.quadsTake c a q)

/-! ## Shares (R376) and context blocks (R390) -/

/-- Warps of an interface resident on a die. -/
def State.resident (s : State) (vif d : Nat) : Nat :=
  (s.warps.filter (fun p => dieOf p.1 = d && (match s.launchOf p.1 with
    | some (_, l) => l.vif = vif
    | none => false))).length

/-- Some interface's guarantee is unmet while a slot of it waits in Dispatch. -/
def State.guarded (s : State) (d : Nat) : Bool :=
  (s.die d).slots.any (fun p => match p.2.st with
    | .dispatch k =>
      match s.launch? k with
      | some l => l.refused.isSome && s.resident l.vif d < fld (s.dieReg d (.vifshare l.vif)) 57 45
      | none => false
    | _ => false)

/-- The shares of a die let an interface place `n` more warps. -/
def State.shareAllows (s : State) (vif d n : Nat) : Bool :=
  let r := s.dieReg d (.vifshare vif)
  let here := s.resident vif d
  here + n ≤ fld r 44 32 && !(s.guarded d && fld r 57 45 ≤ here)

/-- Blocks on a die's free-block ring. -/
def State.blocks (s : State) (d : Nat) : Nat := ringHeld (s.dieReg d .ctxahead) (s.dieReg d .ctxatail)

/-- Takes a block from a die's free-block ring. -/
def State.takeBlock (s : State) (d : Nat) : Nat × State :=
  let head := s.dieReg d .ctxahead
  let ring := s.dieReg d .ctxaring
  (s.peekN (ringBase ring + head.toNat % ringSize ring * 8) 8, s.bump d .ctxahead)

/-- A die has drained: no warp is on it, and no saved one is to return to it with its old number (R9, R394). -/
def State.drained (s : State) (d : Nat) : Bool :=
  !s.warps.any (fun p => dieOf p.1 = d) && !s.launches.any (fun p => p.2.away.any (fun x => x.saved && dieOfCore x.group.core = d))

/-- The launch sequence numbers of a die allow `n` more warps: they start again once the die has drained (R9). -/
def State.seqRoom (s : State) (d n : Nat) : Bool := (s.die d).nextSeq + n ≤ 2 ^ 32 || s.drained d

/-- A die may take a workgroup of an interface, of `m` warps, of which `n` start: front end ready (R431), share, blocks and sequence numbers;
and nothing launches after a fatal error, or on a die whose clock is stopped (R380, R416). -/
def State.dieTakes (s : State) (vif d m n : Nat) : Bool :=
  !s.fatal && (s.die d).stall.isNone && (s.dieReg d .dready).getLsbD 23 && s.shareAllows vif d m && n ≤ s.blocks d && s.seqRoom d n

/-- Sequence numbers start again on a die that has drained and has fewer than `n` left (R9). -/
def State.seqStart (s : State) (d n : Nat) : State :=
  if (s.die d).nextSeq + n ≤ 2 ^ 32 || !s.drained d then s else s.modDie d (fun x => { x with nextSeq := 0 })

/-- The core of a die that takes a workgroup: the fewest resident warps, then the lowest number; with its first quadrant (R15). -/
def State.corePick (s : State) (d : Nat) (a : Ask) (q0 : Nat) : Option (Nat × Nat) :=
  let load (c : Nat) : Nat := (s.warps.filter (fun p => coreOf p.1 = c)).length
  if !s.dieTakes a.l.vif d a.plans.length a.count then none
  else
    (((List.range 48).map (fun i => d * 48 + i)).filterMap (fun c => (s.admits c a q0).map (fun q => (load c, c, q)))).foldl
      (fun (b : Option (Nat × Nat × Nat)) x => match b with
        | some y => if x.1 < y.1 then some x else some y
        | none => some x) none |>.map (fun x => (x.2.1, x.2.2))

/-! ## The start of a warp -/

/-- A warp in slot `g` as it starts (R48, R54, R333, R358). -/
def Launch.newWarp (l : Launch) (g wg wgw lseq block : Nat) (p : Plan) (pc : W64) : Warp :=
  let lim := BitVec.ofNat 64 (l.stkArea + g * l.stkSize * 4096)
  let top := lim + BitVec.ofNat 64 (l.stkSize * 4096)
  { lseq := lseq, wg := wg, wgw := wgw, block := block, regsMin := l.regsMin, regsMax := l.regsMax, names := [], pending := [], newList := [],
    sregs := (AMap.put (AMap.put [] 126 top) 0 (BitVec.ofNat 64 l.args)), preds := List.replicate 8 0, fpcr := BitVec.ofNat 32 l.fpcr, fpsr := 0,
    wstat := if l.unmapTrap then 8 else 0, stkptr := top, stktop := top, stklim := lim, traph := BitVec.ofNat 64 l.traph, trappc := 0,
    handler := false, grace := false, limit := l.watchdog * 1024, strokes := 0, rcount := 0, gwcalls := 0, closes := 0, bfw := 0, bsep := false,
    mops := [], joint2 := 0, joint4 := 0, batchLo := 0, waited := 0, fence := 0, stack := [],
    units := [{ sub := 0, pc := pc, exec := p.exec, owned := p.exec, st := .ready, entry := none, serial := [], rpc := pc,
                ckpt := List.replicate 8 0, enters := true, entered := false, moved := false, wait := 0, count := 0, spc := pc, sexec := p.exec, looks := [],
                wview := [], xsets := [], yielded := false, stopAt := false }],
    helpers := p.helpers, probes := p.probes, parked := false, faulted := false, halted := false, relaunched := false }

/-- Free warp slots of a quadrant. -/
def State.freeSlots (s : State) (q : Nat) : List Nat := ((List.range 32).map (fun i => q * 32 + i)).filter (fun g => (s.warp? g).isNone)

/-- Starts one warp in a free slot of its quadrant; `pick` says which. -/
def State.startWarp (s : State) (c q0 wg : Nat) (l : Launch) (pc : W64) (pick wgw : Nat) (p : Plan) : State :=
  let slots := s.freeSlots (c * 4 + (q0 + wgw) % 4)
  let g := slots.getD (pick % slots.length) 0
  let d := dieOfCore c
  let (b, s) := s.takeBlock d
  let n := (s.die d).nextSeq
  let s := s.modDie d (fun x => { x with nextSeq := n + 1 })
  let s := s.setWarp g (l.newWarp g wg wgw n b p pc)
  s.modGroup wg (fun k => { k with warps := (List.range k.warps.length).map (fun i => if i = wgw then some g else k.warps.getD i none) })

/-- The workgroup record of a placement, its warps still to start. -/
def State.newGroup (s : State) (c : Nat) (a : Ask) (lin : Nat) (xyz : Nat × Nat × Nat) (level : Nat) : Group :=
  let x := s.core c
  let scr := (lowPlace x.scrUse 786432 a.scratch).getD 0
  let tile := (lowPlace x.tileUse (takenSum x.tileUse * 2 + a.tiles + 256) a.tiles).getD 0
  let acc := (lowPlace x.accUse (takenSum x.accUse * 2 + a.acc + 512) a.acc).getD 0
  { launch := a.key, lin := lin, x := xyz.1, y := xyz.2.1, z := xyz.2.2, core := c, warps := a.plans.map (fun _ => none), count := a.plans.length,
    wregs := List.replicate 16 0, bars := [], garr := [], garrived := [], scrBase := scr, scrSize := a.scratch, tileBase := tile, tiles := a.tiles,
    accBase := acc, accRows := a.acc, nbK := 0, nbM := 0, nbW := 0, nbH := 0, nbCores := [], level := level, pre := .running, ending := false,
    relaunched := false, seed := none }

/-- Takes the core's stores for a workgroup: the bytes and cells read as zero, and the tile entries are fresh (R85, R87, R91). Every field of a
freed tile entry is 0 again, GEN with them: DESIGN CHOICE (log 23), unsafe, since the spec gives only its state at dispatch. -/
def State.takeStores (s : State) (k : Group) : State :=
  s.modCore k.core (fun c => { freeResources c k with
    scrUse := takeRange c.scrUse k.scrBase k.scrSize, tileUse := takeRange c.tileUse k.tileBase k.tiles,
    accUse := takeRange c.accUse k.accBase k.accRows })

/-- Memory with every partial result merged, as code is seen. -/
def State.mergedMem (s : State) : Store := (s.dir.foldl (fun s p => if p.2.st = .u then s.mergeLine p.1 else s) s).mem

/-- A launch starts its first workgroup on a core: the constant and instruction caches are invalidated, and the code is as it stands now
(R79, R82, R126). -/
def State.beginOn (s : State) (core key : Nat) : State :=
  if ((s.core core).code.find? key).isSome then s
  else s.modCore core (fun c => { c with cc := [], ic := [], code := c.code.put key s.mergedMem })

/-- A launch is over: its table entry is free, and no core keeps its code. -/
def State.forgetLaunch (s : State) (key : Nat) : State :=
  { s.dropLaunch key with cores := s.cores.each (fun c => { c with code := c.code.del key }) }

/-- Places a workgroup on a core: its stores are taken, and each warp that has a lane starts. -/
def State.place (s : State) (k : Group) (a : Ask) (q0 : Nat) (pick : List Nat) (pc : W64) : Nat × State :=
  let (wg, s) := s.newHandle
  let s := (((s.seqStart (dieOfCore k.core) a.count).beginOn k.core a.key).takeStores k).setGroup wg k
  (wg, ((List.range a.plans.length).zip a.plans).foldl (fun s p =>
    if p.2.starts then s.startWarp k.core q0 wg a.l pc (pick.getD p.1 0) p.1 p.2 else s) s)

/-! ## Relaunched warps (R309) -/

/-- Signed RPC of a continuation record, as its field. -/
def Ray.rpc (r : Ray) : Nat := fld ((r.hdr.headD 0).setWidth 64) 21 0

/-- Resume PC of a record. -/
def Ray.resume (r : Ray) (l : Launch) : W64 := BitVec.ofNat 64 l.entry + w64 (sextN r.rpc 22 * 4)

/-- Inserts a record by arrival. -/
def insertRay (p : Nat × Ray) : List (Nat × Ray) → List (Nat × Ray)
  | [] => [p]
  | x :: xs => if p.2.order < x.2.order then p :: x :: xs else x :: insertRay p xs

/-- The ready records of a key on a die, in arrival order. -/
def State.readyRays (s : State) (d launch rpc : Nat) : List (Nat × Ray) :=
  (s.rays.filter (fun p => p.2.die = d && p.2.launch = launch && p.2.rpc = rpc && p.2.ready)).foldr insertRay []

/-- The registers a relaunched warp starts with: its hits, where a record has one, and its live dwords. -/
def State.rayRegs (s : State) (rs : List Ray) : List (Nat × Lanes) :=
  let live := (rs.map (fun r => r.live.length)).foldl max 0
  let lane (f : Nat → Ray → W64) : Lanes := Lanes.tab (fun i => match rs[i]? with
    | some r => f i r
    | none => 0)
  (if rs.any (fun r => r.hit.isSome) then
    [(0, lane (fun i r => (r.hit.map (·.1)).getD (s.freeVal i))), (1, lane (fun i r => (r.hit.map (·.2)).getD (s.freeVal (32 + i))))]
   else []) ++ (List.range live).map (fun m => (m + 2, lane (fun _ r => r.live.getD m 0)))

/-- Starts a relaunched warp as a single-warp workgroup, where a core of the die admits it. The accesses before each RCAST or CONT happen before the
warp's (R307): its core's generic L1 is invalidated. -/
def State.startSeed (s : State) (d key : Nat) (l : Launch) (x : Seed) (q0 slot : Nat) : Option State :=
  let a : Ask := { key := key, l := l, plans := [{ exec := x.exec, helpers := 0, probes := 0 }], scratch := 0, tiles := 0, acc := 0, regs := x.regs.length }
  (s.corePick d a q0).map (fun p =>
    let k : Group := { s.newGroup p.1 a (2 ^ 32 - 1) (65535, 65535, 65535) 0 with relaunched := true, seed := some x }
    let (wg, s) := (s.acquire p.1).place k a p.2 [slot] x.pc
    (((s.group? wg).map (fun k => k.warps.filterMap id)).getD []).foldl (fun s g => s.modWarp g (fun w =>
      { w with relaunched := true, newList := [], names := x.regs.foldl (fun (m : AMap Nat RegEnt) y => m.put y.1 { st := .mapped, val := y.2 }) w.names })) s)

/-- Starts a warp of the first 32 ready records of a key, where a core of the die admits it. -/
def State.relaunch (s : State) (d launch rpc slot : Nat) : State :=
  let rs := (s.readyRays d launch rpc).take 32
  match s.launch? launch, rs with
  | none, _ | _, [] => s
  | some l, r :: _ =>
    let x : Seed := { pc := r.2.resume l, exec := BitVec.ofNat 32 (2 ^ rs.length - 1), regs := s.rayRegs (rs.map (·.2)) }
    match s.tickFree.startSeed d launch l x (slot / 32) slot with
    | some s => { s with rays := s.rays.filter (fun (x : Nat × Ray) => !(rs.any (fun y => y.1 = x.1))) }
    | none => s

/-- A slot that nothing determines, for a warp started inside another step. -/
def State.anySlot (s : State) : Nat := s.choice 128

/-- Starts a warp as soon as 32 records of a key are ready. -/
def State.relaunchFull (s : State) (d launch rpc : Nat) : State :=
  if 32 ≤ (s.readyRays d launch rpc).length then s.relaunch d launch rpc s.anySlot else s

end Sys2Proof.Machine
end

