-- ==== Sys2Proof/Machine/Ray.lean ====
section
/-! DEFINITION. Scenes, rays and raster (R300 to R309, R311, R312): RQ, RCAST, CONT and RAST, and the travel of rays between pools. Geometry is
exact: FP32 inputs are integers in units of 2^−149. -/

namespace Sys2Proof.Machine

/-! ## Exact fractions -/

/-- n / d with d > 0. -/
structure Frac where
  n : Int
  d : Nat
  deriving DecidableEq, Repr

def Frac.le (a b : Frac) : Bool := a.n * b.d ≤ b.n * a.d
def Frac.lt (a b : Frac) : Bool := a.n * b.d < b.n * a.d

/-- n / d for any nonzero d. -/
def Frac.mk' (n d : Int) : Frac := if d < 0 then { n := -n, d := d.natAbs } else { n := n, d := d.natAbs }

/-- round_rne to FP32 of an exact fraction. -/
def Frac.round (a : Frac) : Nat :=
  if a.n = 0 then 0
  else
    let k := Nat.log2 a.d + 40
    let m := a.n.natAbs * 2 ^ k
    ((ffmt 1).round false .rne (a.n < 0) (m / a.d) (-(k : Int)) (m % a.d ≠ 0)).1

/-- An FP32 pattern as a number in units of 2^−149; `none` where it is not finite. -/
def fix32 (x : Nat) : Option Int :=
  match (ffmt 1).decode (x % 2 ^ 32) with
  | .fin neg m e => let v : Int := (m : Int) * 2 ^ (e + 149).toNat; some (if neg then -v else v)
  | _ => none

/-- The unit of `fix32`. -/
def fixOne : Int := 2 ^ 149

abbrev Vec := Int × Int × Int

def Vec.sub (a b : Vec) : Vec := (a.1 - b.1, a.2.1 - b.2.1, a.2.2 - b.2.2)
def Vec.dot (a b : Vec) : Int := a.1 * b.1 + a.2.1 * b.2.1 + a.2.2 * b.2.2
def Vec.cross (a b : Vec) : Vec := (a.2.1 * b.2.2 - a.2.2 * b.2.1, a.2.2 * b.1 - a.1 * b.2.2, a.1 * b.2.1 - a.2.1 * b.1)

/-! ## Rays (R301, R302) -/

/-- A ray of FP32 patterns. -/
structure RayIn where
  org  : List Nat
  dir  : List Nat
  tmin : Nat
  tmax : Nat
  first : Bool
  cullb : Bool
  deriving DecidableEq, Repr

/-- A hit, or what is left open: patterns of t, u and v, and the primitive's index. -/
structure Hit where
  t   : Frac
  idx : Nat
  bits : Nat × Nat × Nat
  deriving DecidableEq, Repr

/-- An FP32 value compared as an ordered number; both must not be NaN. -/
def f32le (a b : Nat) : Bool := (ffmt 1).key (a % 2 ^ 32) ≤ (ffmt 1).key (b % 2 ^ 32)

def f32nan (a : Nat) : Bool := ((ffmt 1).decode (a % 2 ^ 32)).isNan

/-- The ray misses whatever the scene (R301). -/
def RayIn.dead (r : RayIn) : Bool :=
  (r.org ++ r.dir ++ [r.tmin, r.tmax]).any f32nan || r.dir.all (fun x => x % 2 ^ 31 = 0) || !f32le r.tmin r.tmax || !f32le 0 r.tmax

/-- t ≥ tmin and t ≤ tmax, exactly. -/
def RayIn.inRange (r : RayIn) (t : Frac) : Bool :=
  (match fix32 r.tmin with
   | some m => Frac.le { n := m, d := fixOne.natAbs } t
   | none => 2 ^ 31 ≤ r.tmin % 2 ^ 32) &&
  (match fix32 r.tmax with
   | some m => Frac.le t { n := m, d := fixOne.natAbs }
   | none => r.tmax % 2 ^ 32 < 2 ^ 31)

/-- Three patterns as a vector, where all are finite. -/
def vec3 (xs : List Nat) : Option Vec :=
  match fix32 (xs.getD 0 0), fix32 (xs.getD 1 0), fix32 (xs.getD 2 0) with
  | some a, some b, some c => some (a, b, c)
  | _, _, _ => none

/-- A hit on a triangle. -/
def hitTri (r : RayIn) (o d a b c : Vec) (idx : Nat) : Option Hit :=
  let e1 := Vec.sub b a
  let e2 := Vec.sub c a
  let p := Vec.cross d e2
  let det := Vec.dot e1 p
  if det = 0 then none
  else
    let tv := Vec.sub o a
    let q := Vec.cross tv e1
    let u := Frac.mk' (Vec.dot tv p) det
    let v := Frac.mk' (Vec.dot d q) det
    let t := Frac.mk' (Vec.dot e2 q) det
    let cw := Vec.dot (Vec.cross e1 e2) tv < 0
    if 0 ≤ u.n && 0 ≤ v.n && u.n + v.n ≤ (u.d : Int) && r.inRange t && !(r.cullb && cw) then
      some { t := t, idx := idx, bits := (t.round, u.round, v.round) }
    else none

/-- The slab of one axis: entry and exit; `none` for an axis the ray does not move along, `some none` where it misses it. -/
def slab (o d lo hi : Int) : Option (Option (Frac × Frac)) :=
  if d = 0 then (if lo ≤ o && o ≤ hi then none else some none)
  else if hi < lo then some none
  else
    let x := Frac.mk' (lo - o) d
    let y := Frac.mk' (hi - o) d
    some (some (if 0 < d then (x, y) else (y, x)))

/-- A hit on a box, at max(tmin, entry). -/
def hitBox (r : RayIn) (o d lo hi : Vec) (idx : Nat) : Option Hit :=
  let axes := [slab o.1 d.1 lo.1 hi.1, slab o.2.1 d.2.1 lo.2.1 hi.2.1, slab o.2.2 d.2.2 lo.2.2 hi.2.2].filterMap id
  if axes.any Option.isNone || hi.1 < lo.1 || hi.2.1 < lo.2.1 || hi.2.2 < lo.2.2 then none
  else
    match axes.filterMap id with
    | [] => none
    | s :: rest =>
      let e := rest.foldl (fun m x => if Frac.lt m x.1 then x.1 else m) s.1
      let x := rest.foldl (fun m x => if Frac.lt x.2 m then x.2 else m) s.2
      let t := match fix32 r.tmin with
        | some m => let f : Frac := { n := m, d := fixOne.natAbs }; if Frac.lt e f then f else e
        | none => e
      if Frac.le e x && Frac.le t x && r.inRange t then some { t := t, idx := idx, bits := (t.round, 0, 0) } else none

/-- A primitive's hit. `free` and `free'` supply what the spec leaves open where a coordinate is not finite: whether it hits, and the
patterns it reports. DESIGN CHOICE (log 12), safe. -/
def hitPrim (r : RayIn) (pfmt : Nat) (prim : List Nat) (idx : Nat) (free free' : W64) : Option Hit :=
  let open' : Option Hit :=
    if free.getLsbD 63 then
      some { t := { n := 0, d := 1 }, idx := idx, bits := (free.toNat % 2 ^ 32, free'.toNat % 2 ^ 32, free'.toNat / 2 ^ 32) }
    else none
  match vec3 r.org, vec3 r.dir, vec3 prim, vec3 (prim.drop 3) with
  | some o, some d, some a, some b =>
    if pfmt = 0 then
      match vec3 (prim.drop 6) with
      | some c => hitTri r o d a b c idx
      | none => open'
    else hitBox r o d a b idx
  | _, _, _, _ => open'

/-- Least t, then the lower index. -/
def nearest : List Hit → Option Hit
  | [] => none
  | h :: hs => some (hs.foldl (fun b x => if Frac.lt x.t b.t then x else b) h)

/-- The two registers of a result (R302). -/
def hitWords : Option Hit → W64 × W64
  | some h => (BitVec.ofNat 64 (h.bits.1 + h.idx * 2 ^ 32), BitVec.ofNat 64 (h.bits.2.1 + h.bits.2.2 * 2 ^ 32))
  | none => (BitVec.ofNat 64 (0x7F800000 + 0xFFFFFFFF * 2 ^ 32), 0)

/-- The result of a ray on a list of primitives; `pick` chooses the hit that FIRST reports, `free` the open values. -/
def traverse (r : RayIn) (pfmt : Nat) (prims : List (List Nat)) (pick : Nat) (free : Nat → W64) : Option Hit :=
  if r.dead then none
  else
    let hits := ((List.range prims.length).zip prims).filterMap (fun p => hitPrim r pfmt p.2 p.1 (free (2 * p.1)) (free (2 * p.1 + 1)))
    if r.first then hits[pick % max hits.length 1]? else nearest hits

/-! ## Scenes (R300) -/

/-- A scene record's dwords pass R299, or the subcode. -/
def sceneBad (r : Desc) : Option Nat :=
  if recBits r 47 40 ≠ 0 || recBits r 255 208 ≠ 0 || recBits r 511 320 ≠ 0 then some 2
  else if recBits r 319 256 ≠ magicScene.toNat || recBits r 31 0 = 0 || 2 ^ 28 < recBits r 31 0 || 1 < recBits r 39 32 || recBits r 63 48 = 0
      || recBits r 63 48 ≤ recBits r 207 192 then some 3
  else none

def sceneCount (r : Desc) : Nat := recBits r 31 0
def sceneFmt (r : Desc) : Nat := recBits r 39 32
def scenePrim (r : Desc) : W64 := descW r 127 64
/-- Address of the ownership entry of the root treelet. -/
def sceneRoot (r : Desc) : W64 := descW r 191 128 + BitVec.ofNat 64 (recBits r 207 192 * 16)

/-- Reads bytes through the generic path, byte by byte, or fails with the address that does. -/
def genBytes (core root : Nat) : Nat → W64 → State → State × Except (Nat × Nat × W64) (List Byte)
  | 0, _, s => (s, .ok [])
  | n + 1, va, s =>
    match s.xlatCore core root va .read with
    | (s, .fail c k) => (s, .error (c, k, va))
    | (s, .ok pa pte addr) =>
      if !s.memReady pa then (s, .error (1, 1, va))
      else
        let (s, b) := (s.touch addr false).readLine core .generic (pteScope pte) pa 1
        match genBytes core root n (va + 1) s with
        | (s, .ok bs) => (s, .ok (b ++ bs))
        | (s, .error e) => (s, .error e)

/-- FP32 patterns of a byte run, cut into primitives of `k` words. -/
def primWords (k n : Nat) (b : List Byte) : List (List Nat) :=
  (List.range n).map (fun i => (List.range k).map (fun j => fieldN b (4 * (k * i + j)) 4))

/-- Reads a scene record, or gives the RECBAD subcode. -/
def Ctx.scene (c : Ctx) (va : W64) : State × Except Nat Desc :=
  match c.s.genRecord c.core (c.s.rootOf c.g) va with
  | (s, none) => (s, .error 1)
  | (s, some r) => match sceneBad r with
    | some k => (s, .error k)
    | none => (s, .ok r)

/-- Reads what a traversal reads: the root treelet's ownership entry and its first byte, and every primitive. Which other parts of
the hierarchy it reads belongs to the builder. DEDUCED (log 11), unsafe as to which reads fault. -/
def readScene (core root : Nat) (r : Desc) (s : State) : State × Except (Nat × Nat × W64) (List (List Nat)) :=
  match genBytes core root 16 (sceneRoot r) s with
  | (s, .error e) => (s, .error e)
  | (s, .ok own) =>
    match genBytes core root 1 (BitVec.ofNat 64 (fieldN own 0 8)) s with
    | (s, .error e) => (s, .error e)
    | (s, .ok _) =>
      let k := primBytes (sceneFmt r)
      match genBytes core root (sceneCount r * k) (scenePrim r) s with
      | (s, .error e) => (s, .error e)
      | (s, .ok b) => (s, .ok (primWords (k / 4) (sceneCount r) b))

/-! ## RQ (R303) -/

/-- The ray of a lane from a run of eight registers. -/
def Ctx.ray8 (c : Ctx) (x : Op) (l : Nat) : RayIn :=
  let f (i : Nat) : Nat := ((c.nth x.a i).at l).toNat % 2 ^ 32
  { org := [f 0, f 1, f 2], tmin := f 3, dir := [f 4, f 5, f 6], tmax := f 7, first := x.func.getLsbD 0, cullb := x.func.getLsbD 1 }

def rqCheck (x : Op) (c : Ctx) : Option TrapInfo :=
  if c.act = 0 then none
  else
    let a := c.scalar x.lit x.b
    match (c.scene a).2 with
    | .error k => some (TrapInfo.unit 7 k a)
    | .ok _ => none

def rqRun (x : Op) (c : Ctx) : Run :=
  if c.act = 0 then .go (Fin.nil c.s)
  else
    let a := c.scalar x.lit x.b
    match c.scene a with
    | (_, .error k) => .trap (TrapInfo.unit 7 k a)
    | (s, .ok r) =>
      let go (l : Nat) : Bool := inMask c.real l && !(c.ray8 x l).dead
      let ls := laneIds.filter go
      let done (s : State) (prims : List (List Nat)) : Run :=
        let free (l i : Nat) : W64 := c.s.freeVal (l + 32 * (i + 1))
        let w := Lanes.tab (fun l => (hitWords (if go l then traverse (c.ray8 x l) (sceneFmt r) prims (c.s.freeVal l).toNat (free l) else none)).1)
        let v := Lanes.tab (fun l => (hitWords (if go l then traverse (c.ray8 x l) (sceneFmt r) prims (c.s.freeVal l).toNat (free l) else none)).2)
        .go (Ctx.putRun { c with s := s.tickFree } x.d [w, v] 0)
      if ls.isEmpty then done s []
      else
        match readScene c.core (c.s.rootOf c.g) r s with
        | (_, .error (cls, sub, va)) => .trap (TrapInfo.lanes cls sub 0 (ls.map (fun l => (l, va))))
        | (s, .ok prims) => done s prims

def execRq (x : Op) (s : State) : Out :=
  issue { jobOf x x.bytes (rqRun x) with
          hdr := x.hdr x.bytes 8 1 1, long := true, late := true, dests := x.d.run 2, reads := x.a.run 8, uniform := rqCheck x } s

/-! ## Relaunch pools (R304, R305) -/

/-- Address of a scene of the relaunch table, 0 where unused. -/
def Launch.sceneAt (l : Launch) (i : Nat) : W64 := l.relaunch.getD i 0
/-- Capacity of the pool on a die. -/
def Launch.poolCap (l : Launch) (d : Nat) : Nat := 2 ^ ((l.relaunch.getD (17 + 2 * d) 0).toNat % 256)
/-- A launch with a relaunch table. -/
def Launch.pooled (l : Launch) : Bool := l.cont && l.relTable ≠ 0
/-- Records in a pool. -/
def State.poolHeld (s : State) (launch d : Nat) : Nat := (s.rays.filter (fun p => p.2.launch = launch && p.2.die = d)).length

/-- Live dwords an instruction saves. -/
def liveCount (x : Op) : Nat := x.func.toNat / 4 % 16
/-- RPC of a resume PC, in words from the kernel entry. -/
def resumeWords (pc : W64) (l : Launch) : Int := (pc - BitVec.ofNat 64 l.entry).toInt / 4

/-- HDR of a record (R304). -/
def rayHdr (x : Op) (rpc : Int) (scene : Nat) : W32 :=
  BitVec.ofInt 32 (rpc.emod (2 ^ 22)) ||| BitVec.ofNat 32 (liveCount x * 2 ^ 22 + scene * 2 ^ 26
    + (if x.func.getLsbD 0 then 2 ^ 30 else 0) + (if x.func.getLsbD 1 then 2 ^ 31 else 0))

/-- The resume PC is near enough to the kernel entry for a record to hold it, or the instruction is illegal (R298). -/
def castDecode (x : Op) (c : Ctx) : Option TrapInfo :=
  match c.s.launchOf c.g with
  | none => none
  | some (_, l) =>
    let far := resumeWords (c.target x) l
    if far < -(2 ^ 21) || 2 ^ 21 ≤ far then some (TrapInfo.unit 0 2 0) else none

/-- Uniform checks of RCAST and CONT, in order: the relaunch table and scene, and REGFAULT. `scene` is SCENE for RCAST. -/
def castCheck (x : Op) (scene : Ctx → Option Nat) (c : Ctx) : Option TrapInfo :=
  match c.s.launchOf c.g with
  | none => none
  | some (_, l) =>
    let bad (k : Nat) (a : W64) : Option TrapInfo := some (TrapInfo.unit 7 k a)
    let rec' : Option TrapInfo :=
      if c.act = 0 then none
      else if !l.pooled then bad 3 0
      else
        match scene c with
        | none => none
        | some i =>
          if l.sceneAt i = 0 then bad 3 (BitVec.ofNat 64 l.relTable)
          else
            match c.scene (l.sceneAt i) with
            | (_, .error k) => bad k (l.sceneAt i)
            | (s, .ok r) =>
              match genBytes c.core l.root 16 (sceneRoot r) s with
              | (_, .error _) => bad 1 (l.sceneAt i)
              | (_, .ok _) => none
    match rec' with
    | some t => some t
    | none => if c.w.regsMax < liveCount x + 2 then some (TrapInfo.unit 8 1 0) else none

/-- Ends the active lanes into records of a pool, or waits for room. -/
def Ctx.castInto (c : Ctx) (x : Op) (s : State) (key : Nat) (l : Launch) (die scene : Nat) (ray : Nat → List W32) (ready : Bool) : Run :=
  let ls := lanesOf c.real
  if l.poolCap die < s.poolHeld key die + ls.length then .block s (.pool die)
  else
    let one (s : State) (lane : Nat) : State :=
      let (h, s) := s.newHandle
      let r : Ray :=
        { launch := key, die := die, order := h, hdr := rayHdr x (resumeWords (c.target x) l) scene :: ray lane,
          live := (List.range (liveCount x)).map (fun m => (c.nth x.c m).at lane), ready := ready, hit := none, stamp := s.clk die }
      { s with rays := s.rays.put h r }
    let f := c.ending (Fin.nil (ls.foldl one s)) c.act
    -- CONT records are ready at once, and 32 of them start a warp (R308, R309).
    let rpc := ((resumeWords (c.target x) l).emod (2 ^ 22)).toNat
    .go (if ready then { f with post := fun s => (f.post s).relaunchFull die key rpc } else f)

def castJob (x : Op) (na : Nat) (scene : Ctx → Option Nat) (run : Ctx → Run) : Job :=
  { jobOf x x.bytes run with
    hdr := x.hdr x.bytes na 1 (liveCount x), endsRegion := true, reads := x.a.run na ++ x.c.run (liveCount x), decode := castDecode x, uniform := castCheck x scene }

def rcastScene (x : Op) (c : Ctx) : Option Nat := some ((c.scalar x.lit x.b).toNat % 16)

def rcastRun (x : Op) (c : Ctx) : Run :=
  if c.act = 0 then .go (c.ending (Fin.nil c.s) 0)
  else
    match c.s.launchOf c.g, rcastScene x c with
    | some (key, l), some i =>
      match c.scene (l.sceneAt i) with
      | (s, .ok r) =>
        match genBytes c.core l.root 16 (sceneRoot r) s with
        | (s, .ok own) =>
          let f (n lane : Nat) : W32 := ((c.nth x.a n).at lane).setWidth 32
          c.castInto x s key l (fieldN own 8 1 % 4) i (fun lane => (List.range 7).map (fun n => f n lane)) false
        | (_, .error _) => .trap (TrapInfo.unit 7 1 (l.sceneAt i))
      | (_, .error k) => .trap (TrapInfo.unit 7 k (l.sceneAt i))
    | _, _ => .go (Fin.nil c.s)

def contRun (x : Op) (c : Ctx) : Run :=
  if c.act = 0 then .go (c.ending (Fin.nil c.s) 0)
  else
    match c.s.launchOf c.g with
    | some (key, l) => c.castInto x c.s key l c.die 0 (fun _ => List.replicate 7 0) true
    | none => .go (Fin.nil c.s)

def execRcast (x : Op) (s : State) : Out := issue (castJob x 7 (rcastScene x) (rcastRun x)) s
def execCont (x : Op) (s : State) : Out := issue (castJob x 0 (fun _ => none) (contRun x)) s

/-! ## The travel of a ray (R308) -/

/-- Scene index of a record. -/
def Ray.scene (r : Ray) : Nat := fld ((r.hdr.headD 0).setWidth 64) 29 26
/-- The ray of a record; tmin is 0. -/
def Ray.input (r : Ray) : RayIn :=
  let f (i : Nat) : Nat := (r.hdr.getD i 0).toNat
  { org := [f 1, f 2, f 3], dir := [f 4, f 5, f 6], tmin := 0, tmax := f 7, first := (r.hdr.headD 0).getLsbD 30, cullb := (r.hdr.headD 0).getLsbD 31 }

/-- Reads a scene for the relaunch unit of a die, which the SCOPE check does not bind (R78). -/
def State.unitScene (s : State) (d root : Nat) (va : W64) : State × Except (Nat × Nat) (Desc × List Byte) :=
  match s.readVa d root va false 64 with
  | (s, .error e) => (s, .error e)
  | (s, .ok b) =>
    let r := dwords b 8
    match s.readVa d root (descW r 191 128) false (16 * recBits r 63 48) with
    | (s, .error e) => (s, .error e)
    | (s, .ok own) => (s, .ok (r, own))

/-- RAY_MIGRATION (R308): a ray whose traversal needs a treelet that die `die` owns moves to that die's pool, where there is room. -/
def execRayMigration (idx die : Nat) (s : State) : Out :=
  .next (match s.rays.find? idx with
    | none => s
    | some r =>
      match s.launch? r.launch with
      | none => s
      | some l =>
        if r.ready || r.die = die || 4 ≤ die || l.poolCap die ≤ s.poolHeld r.launch die then s
        else
          match s.unitScene r.die l.root (l.sceneAt r.scene) with
          | (_, .error _) => s
          | (s1, .ok (rec', own)) =>
            if (List.range (recBits rec' 63 48)).any (fun i => fieldN own (16 * i + 8) 1 % 4 = die) then
              let (h, s1) := s1.newHandle
              { s1 with rays := s1.rays.put idx { r with die := die, order := h } }
            else s)

/-- The fault record of a treelet read that failed: class, subcode, resume PC and address; the rest is zero. -/
def rayFault (s : State) (l : Launch) (pc : W64) (cls sub : Nat) : List Byte :=
  leBytes 1 cls ++ leBytes 1 sub ++ leBytes 1 0 ++ leBytes 1 0xFF ++ leBytes 4 0 ++ leBytes 8 pc.toNat ++ List.replicate 44 0
    ++ leBytes 4 l.qid ++ leBytes 8 s.rtime ++ List.replicate 56 0

/-- The treelets a traversal reads: the root, and of the others those that a free value takes, since the hierarchy is the builder's own
(DEDUCED, log 11). -/
def treeletsRead (s : State) (n root : Nat) : List Nat := (List.range n).filter (fun i => i = root || (s.freeVal (2 ^ 48 + i)).getLsbD 0)

/-- Reads treelets, each of which lies on one page, or fails with the row that does. -/
def State.readTreelets (s : State) (d root : Nat) (own : List Byte) : List Nat → State × Option (Nat × Nat)
  | [] => (s, none)
  | i :: is =>
    match s.readVa d root (BitVec.ofNat 64 (fieldN own (16 * i) 8)) false 1 with
    | (s, .error e) => (s, some e)
    | (s, .ok _) => s.readTreelets d root own is

/-- RAY_TRAVERSAL_END (R308): the traversal of a ray ends, and its hit is kept with the record; or a read of the scene fails, and the
record is discarded with a fault record. `pick` says which hit FIRST reports. -/
def execRayTraversalEnd (idx pick : Nat) (s : State) : Out :=
  .next (match s.rays.find? idx with
    | none => s
    | some r =>
      match s.launch? r.launch with
      | none => s
      | some l =>
        if r.ready then s
        else
          let fail (s : State) (sub : Nat) : State :=
            let s := s.postFault r.die l.area (rayFault s l (r.resume l) 1 sub)
            { s with rays := s.rays.del idx }.modLaunch r.launch (fun l => l.fail stMEMFAULT)
          let finish (s : State) (h : Option Hit) : State :=
            let (h', s) := s.newHandle
            let s := { s with rays := s.rays.put idx { r with order := h', ready := true, hit := some (hitWords h), stamp := s.clk r.die } }
            s.relaunchFull r.die r.launch r.rpc
          match s.unitScene r.die l.root (l.sceneAt r.scene) with
          | (s, .error e) => fail s e.2
          | (s, .ok (rec', own)) =>
            let k := primBytes (sceneFmt rec')
            match s.readTreelets r.die l.root own (treeletsRead s (recBits rec' 63 48) (recBits rec' 207 192)) with
            | (s, some e) => fail s e.2
            | (s, none) =>
            match s.readVa r.die l.root (scenePrim rec') false (sceneCount rec' * k) with
            | (s, .error e) => fail s e.2
            | (s, .ok b) =>
              let prims := primWords (k / 4) (sceneCount rec') b
              finish s.tickFree (traverse r.input (sceneFmt rec') prims pick s.freeVal))

/-! ## RAST (R311, R312) -/

/-- Reads a triangle record, or gives the RECBAD subcode. -/
def Ctx.triRec (c : Ctx) (va : W64) : State × Except Nat Desc :=
  match c.s.genRecord c.core (c.s.rootOf c.g) va with
  | (s, none) => (s, .error 1)
  | (s, some r) =>
    let quad := match c.s.launchOf c.g with
      | some (_, l) => l.quad
      | none => false
    if recBits r 511 96 ≠ 0 then (s, .error 2)
    else if recBits r 95 64 = 0 || 2 ^ 24 < recBits r 95 64 || !quad then (s, .error 3)
    else (s, .ok r)

def rastCheck (x : Op) (c : Ctx) : Option TrapInfo :=
  let a := c.scalar x.lit x.b
  match (c.triRec a).2 with
  | .error k => some (TrapInfo.unit 7 k a)
  | .ok _ => none

/-- Twice the signed area of a, b, p in the xy plane. -/
def edge2 (a b p : Vec) : Int := (b.1 - a.1) * (p.2.1 - a.2.1) - (b.2.1 - a.2.1) * (p.1 - a.1)

/-- The point is inside an edge of a triangle of orientation `o`, or on it and inside after the nudge (δ, δ²). -/
def edgeIn (o : Int) (a b p : Vec) : Bool :=
  let e := edge2 a b p * o
  let gx := -(b.2.1 - a.2.1) * o
  let gy := (b.1 - a.1) * o
  0 < e || (e = 0 && (0 < gx || (gx = 0 && 0 < gy)))

/-- A covering triangle's z, b1 and b2 at a sample; `none` for a triangle of zero area. -/
def triAt (a b c p : Vec) : Option (Frac × Frac × Frac) :=
  let area := edge2 a b c
  if area = 0 then none
  else
    let w0 := edge2 b c p
    let w1 := edge2 c a p
    let w2 := edge2 a b p
    some (Frac.mk' (w0 * a.2.2 + w1 * b.2.2 + w2 * c.2.2) (area * fixOne), Frac.mk' w1 area, Frac.mk' w2 area)

def triCovers (a b c p : Vec) : Bool :=
  let o : Int := if edge2 a b c < 0 then -1 else 1
  edge2 a b c ≠ 0 && edgeIn o a b p && edgeIn o b c p && edgeIn o c a p

/-- The sample of a pixel. -/
def sampleAt (x y : Nat) : Vec := ((2 * (x : Int) + 1) * 2 ^ 148, (2 * (y : Int) + 1) * 2 ^ 148, 0)

/-- The winning triangle of a sample: index, and the patterns of z, b1 and b2. A triangle with a coordinate that is not finite wins or
not as a free value says, since the spec states no result for it. DESIGN CHOICE (log 12), safe. -/
def rastLane (tris : List (List Nat)) (p : Vec) (free : Nat → W64) : Option (Nat × Nat × Nat × Nat) :=
  let cand (i : Nat) (t : List Nat) : Option (Frac × Nat × Nat × Nat × Nat) :=
    match vec3 t, vec3 (t.drop 3), vec3 (t.drop 6) with
    | some a, some b, some c =>
      if triCovers a b c p then
        (triAt a b c p).bind (fun r =>
          if 0 ≤ r.1.n && r.1.n ≤ (r.1.d : Int) then some (r.1, i, r.1.round, r.2.1.round, r.2.2.round) else none)
      else none
    | _, _, _ =>
      if (free (2 * i)).getLsbD 63 then
        some ({ n := 0, d := 1 }, i, (free (2 * i)).toNat % 2 ^ 32, (free (2 * i + 1)).toNat % 2 ^ 32, (free (2 * i + 1)).toNat / 2 ^ 32)
      else none
  match ((List.range tris.length).zip tris).filterMap (fun q => cand q.1 q.2) with
  | [] => none
  | h :: hs => some (hs.foldl (fun b x => if Frac.lt x.1 b.1 then x else b) h).2

/-- A triangle's values at a helper lane's sample. -/
def rastHelper (tris : List (List Nat)) (i : Nat) (p : Vec) (free free' : W64) : Nat × Nat × Nat × Nat :=
  let t := tris.getD i []
  match vec3 t, vec3 (t.drop 3), vec3 (t.drop 6) with
  | some a, some b, some c =>
    match triAt a b c p with
    | some r => (i, r.1.round, r.2.1.round, r.2.2.round)
    | none => (i, 0, 0, 0)
  | _, _, _ => (i, free.toNat % 2 ^ 32, free'.toNat % 2 ^ 32, free'.toNat / 2 ^ 32)

/-- The two registers of a raster result. -/
def rastWords : Option (Nat × Nat × Nat × Nat) → W64 × W64
  | some r => (BitVec.ofNat 64 (r.1 + r.2.1 * 2 ^ 32), BitVec.ofNat 64 (r.2.2.1 + r.2.2.2 * 2 ^ 32))
  | none => (0xFFFFFFFF, 0)

def rastRun (x : Op) (c : Ctx) : Run :=
  if c.act = 0 then .go (Fin.nil c.s)
  else
    let a := c.scalar x.lit x.b
    match c.triRec a, c.s.launchOf c.g, c.s.group? c.w.wg with
    | (_, .error k), _, _ => .trap (TrapInfo.unit 7 k a)
    | (s, .ok r), some (_, l), some k =>
      let n := recBits r 95 64
      let tri : State × Except (Nat × Nat × W64) (List Byte) :=
        if c.real = 0 then (s, .ok []) else genBytes c.core l.root (36 * n) (descW r 63 0) s
      match tri with
      | (_, .error (cls, sub, va)) => .trap (TrapInfo.lanes cls sub 0 ((lanesOf c.real).map (fun l => (l, va))))
      | (s, .ok b) =>
        let tris := primWords 9 n b
        let at' (i : Nat) : Vec := let p := l.point k.lin c.w.wgw i; sampleAt p.1 p.2.1
        let won : List (Option (Nat × Nat × Nat × Nat)) :=
          laneIds.map (fun i => if inMask c.real i then rastLane tris (at' i) (fun t => c.s.freeVal (i + 32 * (t + 1))) else none)
        let covered (i : Nat) : Bool := (won.getD i none).isSome
        let lead (i : Nat) : Option Nat := (List.range 4).map (fun j => i / 4 * 4 + j) |>.find? covered
        let help := maskOf (fun i => inMask c.act i && !covered i && (lead i).isSome)
        let drop := maskOf (fun i => inMask c.act i && !covered i && (lead i).isNone)
        let res (i : Nat) : Option (Nat × Nat × Nat × Nat) :=
          if covered i then won.getD i none
          else
            match lead i with
            | some j => match won.getD j none with
              | some w => some (rastHelper tris w.1 (at' i) (c.s.freeVal i) (c.s.freeVal (i + 2 ^ 40)))
              | none => none
            | none => none
        let s := (s.tickFree.modWarp c.g (fun w => { w with helpers := w.helpers ||| help })).modUnit c.g c.sub (fun u => { u with exec := u.exec &&& ~~~drop })
        .go (Ctx.putRun { c with s := s } x.d [Lanes.tab (fun i => (rastWords (res i)).1), Lanes.tab (fun i => (rastWords (res i)).2)] 0)
    | (s, .ok _), _, _ => .go (Fin.nil s)

def execRast (x : Op) (s : State) : Out :=
  issue { jobOf x x.bytes (rastRun x) with long := true, late := true, dests := x.d.run 2, reads := [], uniform := rastCheck x } s

end Sys2Proof.Machine
end

