-- ==== Sys2Proof/Machine/Field.lean ====
section
/-! DEFINITION. Hash-grid fetch and scatter (R313 to R316). -/

namespace Sys2Proof.Machine

/-! ## The grid record (R313) -/

def gridL (r : Desc) : Nat := recBits r 196 192
def gridT (r : Desc) : Nat := recBits r 207 200
def gridF (r : Desc) : Nat := recBits r 211 208
/-- Format code of a feature: BF16 or FP16. -/
def gridFmt (r : Desc) : Nat := if recBits r 212 212 = 1 then 2 else 3
def gridScale (r : Desc) : Int := sextN (recBits r 223 216) 8

/-- N_l = floor(N0 × b^l), exactly. -/
def gridN (r : Desc) (l : Nat) : Nat :=
  match (ffmt 1).decode (recBits r 287 256) with
  | .fin _ m e => (floorDy ((recBits r 255 224 * m ^ l : Nat) : Int) (e * l)).toNat
  | _ => 0

/-- GROW is finite and lies from 1.0 to 16.0. -/
def growOk (r : Desc) : Bool := 0x3F800000 ≤ recBits r 287 256 && recBits r 287 256 ≤ 0x41800000

/-- The record passes R299 for a run from name `n`, or the subcode. -/
def gridBad (r : Desc) (n : Nat) : Option Nat :=
  if recBits r 199 197 ≠ 0 || recBits r 215 213 ≠ 0 || recBits r 511 288 ≠ 0 then some 2
  else if gridL r = 0 || 16 < gridL r || gridT r < 10 || 24 < gridT r || !([2, 4, 8].contains (gridF r)) || gridScale r < -64 || 63 < gridScale r
      || recBits r 255 224 = 0 || 2 ^ 20 < recBits r 255 224 || !growOk r || (List.range (gridL r)).any (fun l => 2 ^ 21 < gridN r l)
      || 2047 < n + gridL r * gridF r - 1 then some 3
  else none

/-- Name of the run that the record gives its length. -/
def runName : Operand → Nat
  | .v n => n.toNat
  | _ => 0

/-- Reads the grid record, or gives the subcode. -/
def Ctx.grid (c : Ctx) (x : Op) (run : Operand) : State × Except Nat Desc :=
  match c.s.genRecord c.core (c.s.rootOf c.g) (c.scalar x.lit x.b) with
  | (s, none) => (s, .error 1)
  | (s, some r) => match gridBad r (runName run) with
    | some k => (s, .error k)
    | none => (s, .ok r)

def gridCheck (x : Op) (run : Operand) (c : Ctx) : Option TrapInfo :=
  match (c.grid x run).2 with
  | .error k => some (TrapInfo.unit 7 k (c.scalar x.lit x.b))
  | .ok _ => none

/-! ## Corners (R314) -/

/-- sat(c, 0, 1) of a coordinate, in units of 2^−149; a NaN gives 0. -/
def gridCoord (x : Nat) : Nat :=
  match (ffmt 1).decode (x % 2 ^ 32) with
  | .nan _ => 0
  | .inf neg => if neg then 0 else 2 ^ 149
  | .fin neg m e => if neg then 0 else min (m * 2 ^ (e + 149).toNat) (2 ^ 149)

/-- Index and fraction of a coordinate along an axis. -/
def gridAxis (n c : Nat) : Nat × Nat :=
  let p := c * n
  let i := min (p / 2 ^ 149) (n - 1)
  (i, p - i * 2 ^ 149)

/-- The entry of a corner. -/
def gridEntry (n t i j k : Nat) : Nat :=
  if (n + 1) ^ 3 ≤ 2 ^ t then i + (n + 1) * (j + (n + 1) * k)
  else ((i * 0x6F4A7C15 % 2 ^ 32) ^^^ (j * 0xB5297A4D % 2 ^ 32) ^^^ (k * 0x3C6EF372 % 2 ^ 32)) % 2 ^ t

/-- The corners of a level that take part: entry, and weight in units of 2^−447. -/
def gridCorners (n t : Nat) (cs : List Nat) : List (Nat × Nat) :=
  let a (d : Nat) : Nat × Nat := gridAxis n (cs.getD d 0)
  let w (d b : Nat) : Nat := if b = 1 then (a d).2 else 2 ^ 149 - (a d).2
  ((List.range 8).map (fun q =>
    let dx := q % 2
    let dy := q / 2 % 2
    let dz := q / 4
    (gridEntry n t ((a 0).1 + dx) ((a 1).1 + dy) ((a 2).1 + dz), w 0 dx * w 1 dy * w 2 dz))).filter (fun p => p.2 ≠ 0)

/-- Coordinates of a lane. -/
def Ctx.coordsOf (c : Ctx) (x : Op) (l : Nat) : List Nat := (List.range 3).map (fun i => gridCoord ((c.nth x.a i).at l).toNat)

/-- A weight as a value. -/
def weightVal (w : Nat) : FVal := .fin false w (-447)

/-! ## HGF (R315) -/

/-- Address of a feature. -/
def featAddr (r : Desc) (l e f : Nat) : W64 := descW r 63 0 + BitVec.ofNat 64 ((l * 2 ^ gridT r * gridF r + e * gridF r + f) * 2)

/-- Reads 2-byte features in order through the sampler path. -/
def featReads (core root : Nat) : List W64 → State → State × Except (Nat × Nat × W64) (List Nat)
  | [], s => (s, .ok [])
  | va :: vas, s =>
    match samplerBytes core root 2 va s with
    | (s, .error (c, k)) => (s, .error (c, k, va))
    | (s, .ok b) =>
      match featReads core root vas s with
      | (s, .ok vs) => (s, .ok (leNat b :: vs))
      | (s, .error e) => (s, .error e)

/-- The features of one lane: level by level and feature by feature, the sums over the corners. -/
def featLane (core root : Nat) (r : Desc) (fz : Bool) (cs : List Nat) : List (Nat × Nat) → State → State × Except (Nat × Nat × W64) (List Nat)
  | [], s => (s, .ok [])
  | (l, f) :: rest, s =>
    let ks := gridCorners (gridN r l) (gridT r) cs
    match featReads core root (ks.map (fun k => featAddr r l k.1 f)) s with
    | (s, .error e) => (s, .error e)
    | (s, .ok vs) =>
      let sum := (sumRound 1 false .rne ((ks.zip vs).map (fun p => (fval (gridFmt r) fz p.2).mul (weightVal p.1.2)))).1
      match featLane core root r fz cs rest s with
      | (s, .ok out) => (s, .ok (sum :: out))
      | (s, .error e) => (s, .error e)

/-- The features of every lane, and the lanes that fail. -/
def featLanes (core root : Nat) (r : Desc) (fz : Bool) (cs : Nat → List Nat) :
    List Nat → State → State × List (Nat × List Nat) × List (Nat × Nat × Nat × W64)
  | [], s => (s, [], [])
  | l :: ls, s =>
    let slots := (List.range (gridL r)).flatMap (fun v => (List.range (gridF r)).map (fun f => (v, f)))
    match featLane core root r fz (cs l) slots s with
    | (s, .error e) => let (s, vs, fs) := featLanes core root r fz cs ls s; (s, vs, (l, e) :: fs)
    | (s, .ok v) => let (s, vs, fs) := featLanes core root r fz cs ls s; (s, (l, v) :: vs, fs)

def hgfRun (x : Op) (c : Ctx) : Run :=
  match c.grid x x.d with
  | (_, .error k) => .trap (TrapInfo.unit 7 k (c.scalar x.lit x.b))
  | (s, .ok r) =>
    if c.act = 0 then .go { Fin.nil s with keeps := x.d.run (gridL r * gridF r) }
    else
      let (s, vs, fs) := featLanes c.core (c.s.rootOf c.g) r (bffz c.w.fpcr) (c.coordsOf x) c.lanes s
      let fs := fs.filter (fun f => !inMask c.w.helpers f.1)
      if !fs.isEmpty then
        let f := fs.headD (0, 1, 1, 0)
        .trap (TrapInfo.lanes f.2.1 f.2.2.1 0 (fs.map (fun p => (p.1, p.2.2.2))))
      else
        let val (i l : Nat) : W64 := match vs.find? (fun v => v.1 = l) with
          | some v => BitVec.ofNat 64 (v.2.getD i 0)
          | none => 0
        .go (Ctx.putRun { c with s := s } x.d ((List.range (gridL r * gridF r)).map (fun i => Lanes.tab (val i))) 0)

def execHgf (x : Op) (s : State) : Out :=
  issue { jobOf x x.bytes (hgfRun x) with
          hdr := x.hdr x.bytes 3 1 1, long := true, dests := x.d.run 1, reads := x.a.run 3, uniform := gridCheck x x.d } s

/-! ## HGS (R316) -/

/-- The focus unit as an instruction about to issue sees it. -/
def State.focusCtx (s : State) (x : Op) : Option Ctx :=
  match s.focus with
  | none => none
  | some (g, sub) =>
    let s := s.writeLooks g sub (fun k => k.left = 0)
    match s.warp? g, s.unit? g sub with
    | some w, some u => some { s := s, g := g, sub := sub, w := w, u := u, act := guardMask w u.exec x.grd, len := x.bytes }
    | _, _ => none

/-- Length of the run of C, which the grid record gives; 0 where the record fails a check. -/
def State.gridRun (s : State) (x : Op) : Nat :=
  match s.focusCtx x with
  | none => 0
  | some c =>
    match (c.grid x x.c).2 with
    | .ok r => gridL r * gridF r
    | .error _ => 0

/-- Address of a gradient. -/
def gradAddr (r : Desc) (det : Bool) (l e f : Nat) : W64 :=
  (if det then descW r 191 128 else descW r 127 64)
    + BitVec.ofNat 64 ((l * 2 ^ gridT r * gridF r + e * gridF r + f) * (if det then 8 else 4))

/-- A contribution: FP32, or the fixed-point integer of .d. -/
def gradValue (r : Desc) (det : Bool) (w g : Nat) : W64 :=
  let v := ((ffmt 1).decode (g % 2 ^ 32)).mul (weightVal w)
  if det then
    match v with
    | .fin neg m e => let q : Int := (roundAt .rne neg m (e + gridScale r) 0 false).1; w64 (if neg then -q else q)
    | _ => 0
  else BitVec.ofNat 64 (roundVal 1 false .rne v).1

/-- The contributions of a lane: address and value. -/
def Ctx.gradLane (c : Ctx) (x : Op) (r : Desc) (lane : Nat) : List (W64 × W64) :=
  let det := x.func.getLsbD 0
  (List.range (gridL r)).flatMap (fun l =>
    (gridCorners (gridN r l) (gridT r) (c.coordsOf x lane)).flatMap (fun k =>
      (List.range (gridF r)).map (fun f =>
        (gradAddr r det l k.1 f, gradValue r det k.2 ((c.nth x.c (l * gridF r + f)).at lane).toNat))))

/-- Translates the items of a lane, or fails with the first that does. -/
def xlatFirst (core root : Nat) (want : Want) (lane : Nat) : List (Nat × W64) → State → State × Except (Nat × Nat × W64) (List Acc)
  | [], s => (s, .ok [])
  | (k, va) :: rest, s =>
    match s.xlatCore core root va want with
    | (s, .fail c j) => (s, .error (c, j, va))
    | (s, .ok pa pte addr) =>
      if !s.memReady pa then (s, .error (1, 1, va))
      else
        match xlatFirst core root want lane rest s with
        | (s, .ok as) => (s, .ok ({ lane := lane, k := k, va := va, pa := pa, pte := pte, addr := addr } :: as))
        | (s, .error e) => (s, .error e)

/-- Translates the items of every lane. -/
def xlatEach (core root : Nat) (want : Want) (item : Nat → List (Nat × W64)) : List Nat → State → State × List Acc × List (Nat × Nat × Nat × W64)
  | [], s => (s, [], [])
  | l :: ls, s =>
    match xlatFirst core root want l (item l) s with
    | (s, .ok as) => let (s, bs, fs) := xlatEach core root want item ls s; (s, as ++ bs, fs)
    | (s, .error e) => let (s, bs, fs) := xlatEach core root want item ls s; (s, bs, (l, e) :: fs)

/-- The address at which a lane meets a copy-on-write that cannot go on. -/
def cowAddr (s : State) (as : List Acc) (l : Nat) : W64 :=
  ((as.find? (fun a => a.lane = l && (match (s.cowTouch a.addr).2 with
    | .bad | .noFrame => true
    | .clear | .wait => false))).map (·.va)).getD 0

def hgsRun (x : Op) (c : Ctx) : Run :=
  match c.grid x x.c with
  | (_, .error k) => .trap (TrapInfo.unit 7 k (c.scalar x.lit x.b))
  | (s, .ok r) =>
    let det := x.func.getLsbD 0
    let n := if det then 8 else 4
    let ls := lanesOf c.real
    let item (l : Nat) : List (Nat × W64 × W64) := let xs := c.gradLane x r l; (List.range xs.length).zip xs
    let odd := ls.filterMap (fun l => ((item l).find? (fun p => p.2.1.toNat % n ≠ 0)).map (fun p => (l, p.2.1)))
    if !odd.isEmpty then .trap (TrapInfo.lanes 4 0 0 odd)
    else
      let (s, as, fs) := xlatEach c.core (c.s.rootOf c.g) .write (fun l => (item l).map (fun p => (p.1, p.2.1))) ls s
      if !fs.isEmpty then
        let f := fs.headD (0, 1, 1, 0)
        .trap (TrapInfo.lanes f.2.1 f.2.2.1 0 (fs.map (fun p => (p.1, p.2.2.2))))
      else
        Ctx.afterCow (cowAddr s as) s as (fun s =>
          let all : AMap Nat (List (Nat × W64 × W64)) := ls.map (fun l => (l, item l))
          let val (a : Acc) : W64 := ((all.get [] a.lane).getD a.k (0, 0, 0)).2.2
          let s' := (applyOrder s as).foldl (fun s a =>
            (c.writer a (.red 0 (if det then 7 else 1) (val a))).put s a) s
          .go (Fin.nil (s'.tickIf (clashes (·.pa) as))))

/-- HGS, whose run of C has the length `n`. -/
def hgsJob (x : Op) (n : Nat) : Job :=
  { jobOf x x.bytes (hgsRun x) with
    hdr := x.hdr x.bytes 3 1 n, endsRegion := true, reads := x.a.run 3 ++ x.c.run n, uniform := gridCheck x x.c }

def execHgs (x : Op) (s : State) : Out := issue (hgsJob x (s.gridRun x)) s

end Sys2Proof.Machine
end

