-- ==== Sys2Proof/Machine/Matrix.lean ====
section
/-! DEFINITION. The matrix engine (R277 to R297): what an instruction queues at issue, what the engine does when it performs a queued operation
(R118, R143), batches, and Norem's completion of formats outside the hardware subset (R141). -/

namespace Sys2Proof.Machine

/-! ## Formats (R277) -/

/-- Element width of a format. -/
def matEw (fmt cont : Nat) : Nat :=
  match fmt with
  | 0 => 64
  | 1 => 32
  | 2 | 3 => 16
  | _ => cont

/-- Registers of an A run. -/
def matNa (fmt : Nat) : Nat := if fmt < 2 then 4 else 8
/-- Registers of a B run. -/
def matNb (fmt : Nat) : Nat := if fmt < 2 then 2 else 4
/-- Tile ESZ of a format. -/
def matEsz (fmt cont : Nat) : Nat :=
  match fmt with
  | 0 => 4
  | 1 => 3
  | 2 | 3 => 2
  | _ => if cont = 4 then 0 else 1
/-- Bitmap registers of an MMAS A run. -/
def matBm (fmt : Nat) : Nat := if fmt = 4 then 2 else 1

/-- A narrow element converted to BF16 by RNE before its scale is applied, saturating, with its flags (R141). -/
def emulDecode (w : FWord) (x : Nat) : FVal × W32 :=
  match ({ w with scale := 0 } : FWord).decode x with
  | .fin neg m e =>
    let r := roundVal 3 false .rne (.fin neg m e)
    let sat := r.2 &&& flOF ≠ 0
    let p := if sat then (ffmt 3).signed neg (ffmt 3).maxBits else r.1
    match (ffmt 3).decode p with
    | .fin n m' e' => (.fin n m' (e' + w.scale), (r.2 &&& flIX) ||| flagIf sat flOF)
    | v => (v, 0)
  | v => (v, 0)

/-- The value of an element of a matrix format, with the flags of an emulated conversion. -/
def matVal (fmt : Nat) (fz emul : Bool) (word x : Nat) : FVal × W32 :=
  if fmt < 4 then (fval fmt fz x, 0)
  else
    let w := FWord.ofBits word
    if emul then emulDecode w (x % 2 ^ w.box) else (w.decode (x % 2 ^ w.box), 0)

/-! ## One k-step (R143) -/

/-- The new cell from the old one and the K products; FP64 by the fixed tree, the others by one exact sum. -/
def kStep (fmt : Nat) (md : Rnd) (cell : W64) (p : List FVal) : W64 × W32 :=
  if fmt = 0 then
    let z : FVal := .fin false 0 0
    let t0 := sumRound 0 false md [p.getD 0 z, p.getD 1 z]
    let t1 := sumRound 0 false md [p.getD 2 z, p.getD 3 z]
    let t := sumRound 0 false md [fval 0 false t0.1, fval 0 false t1.1]
    let r := sumRound 0 false md [fval 0 false cell.toNat, fval 0 false t.1]
    (BitVec.ofNat 64 r.1, t0.2 ||| t1.2 ||| t.2 ||| r.2)
  else
    let r := sumRound 1 false md (fval 1 false (cell.toNat % 2 ^ 32) :: p)
    (BitVec.ofNat 64 r.1, r.2)

/-! ## Operands at the engine -/

/-- Accumulator cell of a workgroup's local row and column. -/
def State.cell (s : State) (k : Group) (row col : Nat) : W64 := (s.core k.core).acc.get 0 ((k.accBase + row) * 64 + col)

def State.setCell (s : State) (k : Group) (row col : Nat) (v : W64) : State :=
  s.modCore k.core (fun c => { c with acc := c.acc.put ((k.accBase + row) * 64 + col) v })

/-- Place of the `k`-th present element of a bitmap, where present. -/
def sparseAt (bm k : Nat) : Option Nat :=
  if bm.testBit k then some ((List.range k).filter bm.testBit).length else none

/-- Bitmap of a lane in an MMAS run with `n` bitmap registers. -/
def bitmapOf (regs : List Lanes) (n l : Nat) : Nat :=
  ((List.range n).map (fun i => ((regs.getD i []).at l).toNat * 2 ^ (64 * i))).foldl (· + ·) 0

/-- Element `k` of row `i` of A; `none` where MMAS has none. -/
def MOp.aElem (s : State) (g : Group) (o : MOp) (i k : Nat) : Option (FVal × W32) :=
  let ew := matEw o.fmt o.cont
  let fz := bffz o.fpcr
  let word := (o.aw.at i).toNat % 2 ^ 32
  match o.aSrc with
  | .acc row col =>
    let x := (s.cell g (row + i) (col + k)).toNat
    match o.fmt with
    | 0 => some (fval 0 false x, 0)
    | 1 => some (fval 1 false (x % 2 ^ 32), 0)
    | 2 | 3 => let r := roundVal o.fmt fz .rne (fval 1 false (x % 2 ^ 32)); some (fval o.fmt fz r.1, r.2)
    | _ =>
      let w := FWord.ofBits word
      let r := w.encode .rne (fval 1 false (x % 2 ^ 32))
      let v := matVal 4 fz o.emul word (r.1.getD ((s.freeVal (i * 64 + k)).toNat % 2 ^ w.n))
      some (v.1, r.2 ||| v.2)
  | _ =>
    if o.kind = .mmas then
      (sparseAt (bitmapOf o.aRegs (matBm o.fmt) i) k).map (fun m => matVal o.fmt fz o.emul word (packedElem (o.aRegs.drop (matBm o.fmt)) ew m i))
    else some (matVal o.fmt fz o.emul word (packedElem o.aRegs ew k i))

/-- The values that the engine's staging may show of an element of a core's scratchpad, beside the one it holds (R119): what stood there before
the writes of others since the warp's OFENCE, and since its own last write and the last fill of a tile there before the issue. -/
def MOp.stagedVals (s : State) (g core elem : Nat) (o : MOp) : List W64 :=
  ((s.core core).staged.filter (fun e => e.elem = elem && o.fence < e.seq)).foldl (fun vs e =>
    if e.who = some g || (e.who.isNone && e.seq ≤ o.id) then [] else vs ++ [e.val]) []

/-- An element of a scratchpad as the engine finds it: as it is, or, without an OFENCE between, as it was before another warp's write; which of
them is open for each element (R86, R119). -/
def MOp.elemNow (s : State) (g core elem : Nat) (o : MOp) : Nat :=
  let now := Store.item (s.core core).scratch (elem * 8) 8
  let vs := o.stagedVals s g core elem
  if vs.isEmpty then now else ((BitVec.ofNat 64 now :: vs).getD ((s.freeVal (800000 + elem)).toNat % (vs.length + 1)) 0).toNat

/-- A tile element as the engine reads it for an operation of warp slot `g`. -/
def MOp.tileElem (s : State) (g : Nat) (k : Group) (o : MOp) (h : Shape) (i j : Nat) : Nat :=
  let e := h.elem i j
  if h.inside k i j then
    let p := k.place (e.1 / 8 * 8)
    o.elemNow s g p.1 (p.2 / 8) / 2 ^ (e.1 % 8 * 8 + e.2) % 2 ^ h.bits
  else (s.freeVal (900000 + e.1)).toNat % 2 ^ h.bits

/-- Element (k, j) of B of an operation of warp slot `w`; `none` where MMAS has none. -/
def MOp.bElem (s : State) (w : Nat) (g : Group) (o : MOp) (k j : Nat) : Option (FVal × W32) :=
  let ew := matEw o.fmt o.cont
  let fz := bffz o.fpcr
  let half := matK o.fmt o.cont / 2
  let l := k / half * 16 + j
  match o.bSrc with
  | .tile _ h k0 j0 => some (matVal o.fmt fz o.emul o.bw (o.tileElem s w g h (k0 + k) (j0 + j)))
  | _ =>
    if o.kind = .mmas then
      (sparseAt (bitmapOf o.bRegs 1 l % 2 ^ half) (k % half)).map (fun m => matVal o.fmt fz o.emul o.bw (packedElem (o.bRegs.drop 1) ew m l))
    else some (matVal o.fmt fz o.emul o.bw (packedElem o.bRegs ew (k % half) l))

/-- A product; an absent element gives an exact +0 (R287). -/
def product (a b : Option (FVal × W32)) : FVal × W32 :=
  match a, b with
  | some x, some y => (x.1.mul y.1, x.2 ||| y.2)
  | _, _ => (.fin false 0 0, 0)

/-- Flags of a row whose operands are undefined. -/
def State.freeFlags (s : State) (i : Nat) : W32 := (s.freeVal (7000 + i)).setWidth 32 &&& 0x1D

/-- The B operand of an operation of warp slot `w`, column by column. -/
def MOp.bCols (s : State) (w : Nat) (g : Group) (o : MOp) : List (List (Option (FVal × W32))) :=
  (List.range 16).map (fun j => (List.range (matK o.fmt o.cont)).map (fun k => o.bElem s w g k j))

/-- MMA, MMAS and MMAC of one member: the new cells of its rows, with the flags. B is operation `b`'s, with the elements `bs`; source cells are read
in `s0`, the state before any member of the operation writes (R289). -/
def mulCells (s0 s : State) (g : Group) (o b : MOp) (bs : List (List (Option (FVal × W32)))) : List (Nat × Nat × W64) × W32 :=
  let md := Rnd.select o.sel o.fpcr
  let ks := List.range (matK o.fmt o.cont)
  let alien : Bool := o.kind ≠ b.kind || o.fmt ≠ b.fmt || o.cont ≠ b.cont
  let rows := (lanesOf o.rows).map (fun i =>
    if alien || b.bSpoilt || inMask o.spoilt i then
      ((List.range 16).map (fun j =>
        let v := s.freeVal ((o.id * 32 + i) * 16 + j)
        (o.row0 + i, o.col0 + j, if o.fmt = 0 then v else (v.setWidth 32).setWidth 64)), s.freeFlags i)
    else
      let as := ks.map (fun k => o.aElem s0 g i k)
      let cells := (List.range 16).map (fun j =>
        let ps := (as.zip (bs.getD j [])).map (fun p => product p.1 p.2)
        let r := kStep o.fmt md (s.cell g (o.row0 + i) (o.col0 + j)) (ps.map (·.1))
        ((o.row0 + i, o.col0 + j, r.1), r.2 ||| ps.foldl (fun m p => m ||| p.2) 0))
      (cells.map (·.1), cells.foldl (fun m p => m ||| p.2) 0))
  (rows.flatMap (·.1), rows.foldl (fun m r => m ||| r.2) 0)

/-! ## Drains (R293) -/

/-- The pattern a drain writes for a cell over an old element, with its flags. -/
def drainPat (o : MOp) (word : Nat) (free : W64) (cell : W64) (old : Nat) : Nat × W32 :=
  let md := Rnd.select o.sel o.fpcr
  let fz := bffz o.fpcr
  let src := if o.atype = 0 then 0 else 1
  let v := fval src false (if src = 0 then cell.toNat else cell.toNat % 2 ^ 32)
  if o.add then sumRound o.fmt fz md [fval o.fmt fz old, v]
  else if o.fmt = 4 then
    let w := FWord.ofBits word
    let r := w.encode md v
    (r.1.getD (free.toNat % 2 ^ w.n), r.2)
  else if o.fmt = src then (if src = 0 then cell.toNat else cell.toNat % 2 ^ 32, 0)
  else roundVal o.fmt fz md v

/-- Width in bits of a drained element. -/
def MOp.drainBits (o : MOp) : Nat := matEw o.fmt o.cont

/-- One drained element: the pattern, with the flags. -/
def drainElem (s : State) (g : Group) (o : MOp) (i j old : Nat) : Nat × W32 :=
  let free := s.freeVal ((o.id * 32 + i) * 16 + j)
  if inMask o.spoilt i then (free.toNat % 2 ^ o.drainBits, s.freeFlags i)
  else drainPat o ((o.aw.at i).toNat % 2 ^ 32) free (s.cell g (o.row0 + i) (o.col0 + j)) old

/-- The rows and columns of a drain, in order. -/
def MOp.grid (o : MOp) : List (Nat × Nat) := (lanesOf o.rows).flatMap (fun i => (List.range 16).map (fun j => (i, j)))

/-- A drain to a tile. -/
def drainTile (g : Group) (o : MOp) (h : Shape) (i0 j0 : Nat) : List (Nat × Nat) → State → State × W32
  | [], s => (s, 0)
  | (i, j) :: rest, s =>
    let r := drainElem s g o i j (s.tileGet g h (i0 + i) (j0 + j))
    let e := h.elem (i0 + i) (j0 + j)
    let (s, f) := drainTile g o h i0 j0 rest ((s.stage g none e.1 (max 1 (h.bits / 8))).tilePut g h (i0 + i) (j0 + j) r.1)
    (s, r.2 ||| f)

/-- Address of a drained element. -/
def MOp.drainVa (o : MOp) (addr : Lanes) (i j : Nat) : W64 :=
  addr.at i + BitVec.ofNat 64 (if o.drainBits = 4 then j / 2 else j * max 1 (o.drainBits / 8))

/-- Where a drain's element goes now: through a translation that passes, else through the one held since issue (R292). -/
def drainPlace (s : State) (d root : Nat) (o : MOp) (va : W64) : State × Option HeldPage :=
  let page := va.toNat / 65536
  match s.xlatDie d root va .write true with
  | (s, .ok pa pte addr) => (s, some { page := page, frame := pa - pa % 65536, scope := pteScope pte, leaf := addr })
  | (_, .fail _ _) => (s, o.pages.find? (fun p => p.page = page))

/-- A drain to memory, element by element, on the pages that may be written. A page that is still to be copied is not: its frame is an
image's (R95). -/
def drainMem (g : Group) (d root : Nat) (o : MOp) (addr : Lanes) : List (Nat × Nat) → State → State × W32
  | [], s => (s, 0)
  | (i, j) :: rest, s =>
    let n := max 1 (o.drainBits / 8)
    let va := o.drainVa addr i j
    let sh := if o.drainBits = 4 then j % 2 * 4 else 0
    match drainPlace s d root o va with
    | (s, none) => drainMem g d root o addr rest s
    | (s, some p) =>
      if (s.cowTouch p.leaf).2 ≠ .clear then drainMem g d root o addr rest s
      else
        let s := if pteV (s.leaf p.leaf) then s.touch p.leaf true else s
        let pa := p.frame + va.toNat % 65536
        let (s, whole) := s.homeRead d p.scope pa n
        let r := drainElem s g o i j (whole / 2 ^ sh % 2 ^ o.drainBits)
        let new := whole - whole / 2 ^ sh % 2 ^ o.drainBits * 2 ^ sh + r.1 * 2 ^ sh
        let (s, f) := drainMem g d root o addr rest (s.writeMem d p.scope pa (leBytes n new))
        (s, r.2 ||| f)

/-- Starts the copies a drain to memory needs; true once none is under way, with the rows whose page has an inconsistent record (R94). A drain
waits for a frame without limit (R293). -/
def drainReady (d root : Nat) (o : MOp) (addr : Lanes) : List (Nat × Nat) → State → State × Bool × List Nat
  | [], s => (s, true, [])
  | (i, j) :: rest, s =>
    let (s, here) := match drainPlace s d root o (o.drainVa addr i j) with
      | (s, some p) => s.cowTouch p.leaf
      | (s, none) => (s, .clear)
    let (s, more, bad) := drainReady d root o addr rest s
    (s, (here = .clear || here = .bad) && more, if here = .bad && !bad.contains i then i :: bad else bad)

/-! ## Batches (R294) -/

/-- The close number a batch waits on is complete. -/
def Warp.batchDone (w : Warp) (n : Nat) : Bool := n < w.batchLo

/-- Completes the batches whose operations are done, in order: their flags are ORed into FPSR. -/
def advanceBatches : Nat → Warp → Warp
  | 0, w => w
  | n + 1, w =>
    let mine (o : MOp) : Bool := o.batch = some w.batchLo
    if w.batchLo < w.closes && (w.mops.filter mine).all (·.done) then
      advanceBatches n { w with batchLo := w.batchLo + 1, fpsr := w.fpsr ||| (w.mops.filter mine).foldl (fun m o => m ||| o.flags) 0,
                              }
    else w

/-- Operations of complete batches are forgotten once an MWAIT has named their batch: until then their operands must stay as they are (R118). -/
def Warp.dropWaited (w : Warp) : Warp := { w with mops := w.mops.filter (fun o => !(o.done && o.batch.any (fun n => n < w.batchLo && n < w.waited))) }

def Warp.advance (w : Warp) : Warp := (advanceBatches (w.closes - w.batchLo) w).dropWaited

/-! ## The engine performs an operation -/

/-- The warp's next operation. -/
def Warp.nextOp (w : Warp) : Option MOp := w.mops.find? (fun o => !o.done)

/-- Marks an operation done: tile readers and fills end, held registers go onto the pending list, batches may complete. `own` says that its B
was the one the operation read (R286). -/
def State.opDone (s : State) (g : Nat) (o : MOp) (own : Bool) (flags : W32) : State :=
  let core := coreOf g
  let s := if o.rows = 0 then s else match o.bSrc with
    | .tile i _ _ _ => s.modTile core i (fun t => { t with readers := t.readers - 1 })
    | _ => s
  let s := if o.rows = 0 then s else match o.drain with
    | .tile i _ _ _ => s.modTile core i (fun t => if o.add then { t with readers := t.readers - 1 } else { t with state := 2 })
    | _ => s
  s.modWarp g (fun w =>
    let ms : List MOp :=
      if o.kind = .accst then w.mops.filter (fun (x : MOp) => x.id ≠ o.id)
      else w.mops.map (fun (x : MOp) => if x.id = o.id then
        { x with done := true, flags := flags, held := [], spoilt := 0, bSpoilt := false, bNames := if own then x.bNames else [],
                 bSrc := if own then x.bSrc else .none } else x)
    let w : Warp := { w with pending := w.pending ++ o.held, mops := ms }
    w.advance)

/-- Gives an outstanding result its values. -/
def State.fillLook (s : State) (g id : Nat) (vs : List Lanes) : State :=
  let fill (k : Look) : Look :=
    if k.id = id then { k with ready := true, dests := (k.dests.zip vs).map (fun p => (p.1.1, p.2)) } else k
  let s := s.modWarp g (fun w => { w with units := w.units.map (fun u => { u with looks := u.looks.map fill }) })
  s.modCore (coreOf g) (fun c => { c with split := c.split.each (fun e => { e with looks := e.looks.map fill }) })

/-- The registers an ACCST writes. -/
def accstRegs (s : State) (k : Group) (o : MOp) : List Lanes :=
  if o.fmt = 0 then (List.range 16).map (fun j => Lanes.tab (fun i => s.cell k (o.row0 + i) (o.col0 + j)))
  else (List.range 8).map (fun r => Lanes.tab (fun i =>
    let lo := (s.cell k (o.row0 + i) (o.col0 + 2 * r)).toNat % 2 ^ 32
    let hi := (s.cell k (o.row0 + i) (o.col0 + 2 * r + 1)).toNat % 2 ^ 32
    BitVec.ofNat 64 (lo + hi * 2 ^ 32)))

/-- Writes cells. -/
def State.setCells (s : State) (k : Group) (cs : List (Nat × Nat × W64)) : State := cs.foldl (fun s c => s.setCell k c.1 c.2.1 c.2.2) s

/-- The cells ACCLD writes. -/
def accldCells (s : State) (o : MOp) : List (Nat × Nat × W64) :=
  o.grid.map (fun p =>
    let v := if o.fmt = 0 then (o.aRegs.getD p.2 []).at p.1 else BitVec.ofNat 64 (packedElem o.aRegs 32 p.2 p.1)
    let free := s.freeVal ((o.id * 32 + p.1) * 16 + p.2)
    (o.row0 + p.1, o.col0 + p.2,
     if inMask o.spoilt p.1 then (if o.fmt = 0 then free else (free.setWidth 32).setWidth 64) else v))

/-- The write of an issued drain fails on an inconsistent record (R94): MEMFAULT 5 on the warp's first live unit, for its rows. DESIGN CHOICE
(log 19), unsafe: the spec does not say where the trap of a drain that has issued is taken. -/
def State.drainFault (s : State) (g : Nat) (addr : Lanes) (rows : List Nat) : State :=
  match s.warp? g with
  | some w =>
    match rows, w.units.find? (fun u => u.st ≠ .fusing) with
    | [], _ | _, none => s
    | rows, some u => s.takeTrap g u.sub (TrapInfo.lanes 1 5 0 (rows.map (fun i => (i, addr.at i))))
  | none => s

/-- Performs one operation that is not joint, or one member of a joint one with B from `b`, the lowest member's, read as `bs`; `s0` is the state
before the whole of it. A drain that waits for a copy stays queued. -/
def State.performOp (s0 s : State) (g : Nat) (k : Group) (o b : MOp) (bs : List (List (Option (FVal × W32)))) : State :=
  match o.kind with
  | .mma | .mmas | .mmac =>
    let (cs, f) := mulCells s0 s k o b bs
    ((s.setCells k cs).opDone g o (o.id = b.id) f)
  | .accld => (s.setCells k (accldCells s o)).opDone g o true 0
  | .accz => (s.setCells k (o.grid.map (fun p => (o.row0 + p.1, o.col0 + p.2, 0)))).opDone g o true 0
  | .accst =>
    match o.look with
    | some id => (s.fillLook g id (accstRegs s k o)).opDone g o true 0
    | none => s.opDone g o true 0
  | .mdrain =>
    match o.drain with
    | .tile _ h i0 j0 => let (s, f) := drainTile k o h i0 j0 o.grid s; s.opDone g o true f
    | .mem addr =>
      match drainReady (dieOf g) (s.rootOf g) o addr o.grid s with
      | (s, false, _) => s
      | (s, true, bad) =>
        let (s, f) := drainMem k (dieOf g) (s.rootOf g) o addr o.grid s
        (s.opDone g o true f).drainFault g addr bad
    | _ => s.opDone g o true 0

/-- An operation that is done has had an operand rewritten before the MWAIT for its batch (R118). -/
def MOp.stale (o : MOp) : Bool := o.done && (o.bSpoilt || o.spoilt ≠ 0)

/-- Some results have become undefined since they were written. -/
def State.staleOps (s : State) : Bool := s.warps.any (fun p => p.2.mops.any MOp.stale)

/-- Makes the results of some rows of an operation that is done undefined values (R118). -/
def State.unresult (s : State) (g : Nat) (k : Group) (o : MOp) (rows : W32) : State :=
  let o : MOp := { o with rows := o.rows &&& rows, spoilt := ~~~0 }
  match o.kind with
  | .mma | .mmas | .mmac | .accld => s.setCells k (mulCells s s k o o []).1
  | .mdrain =>
    match o.drain with
    | .tile _ h i0 j0 => (drainTile k o h i0 j0 o.grid s).1
    | .mem addr => (drainMem k (dieOf g) (s.rootOf g) o addr o.grid s).1
    | _ => s
  | .accst | .accz => s

/-- The operations whose results a rewritten operand makes undefined, with the rows: B serves every member of a joint operation. -/
def State.staleRows (s : State) (g : Nat) (k : Group) (o : MOp) : List (Nat × MOp × W32) :=
  if !o.bSpoilt then [(g, o, o.spoilt)]
  else if o.joint ≤ 1 then [(g, o, ~~~0)]
  else (k.warps.filterMap id).flatMap (fun h => match s.warp? h with
    | some w => (w.mops.filter (fun p => p.done && p.joint = o.joint && p.jseq = o.jseq)).map (fun p => (h, p, ~~~0))
    | none => [])

/-- Makes the results that have become undefined undefined values, and clears the marks. -/
def State.settleStale (s : State) : State :=
  let s' := s.warps.foldl (fun s p => match s.group? p.2.wg with
    | none => s
    | some k => (p.2.mops.filter MOp.stale).foldl (fun s o => (s.staleRows p.1 k o).foldl (fun s r => s.unresult r.1 k r.2.1 r.2.2) s) s) s
  let clear (o : MOp) : MOp := if o.done then { o with spoilt := 0, bSpoilt := false } else o
  State.tickFree { s' with warps := s'.warps.each (fun w => { w with mops := w.mops.map clear }) }

/-- Where a member of a joint group stands with its `n`-th operation of width `j`. -/
inductive Member where
  | late
  | gone
  | here (g : Nat) (o : MOp)
  deriving DecidableEq, Repr

/-- Joint operations of a width that a warp has issued. -/
def Warp.joints (w : Warp) (j : Nat) : Nat := if j = 2 then w.joint2 else w.joint4

def State.member (s : State) (k : Group) (idx j n : Nat) : Member :=
  match (k.warps.getD idx none).bind (fun g => (s.warp? g).map (fun w => (g, w))) with
  | none => .gone
  | some (g, w) =>
    if w.joints j ≤ n then (if w.units.isEmpty then .gone else .late)
    else
      match w.nextOp with
      | some o => if o.joint = j && o.jseq = n then .here g o else .late
      | none => .late

/-- The members of an operation's joint group, ascending, where all of them are ready (R286). -/
def State.jointGroup (s : State) (g : Nat) (w : Warp) (k : Group) (o : MOp) : Option (List (Nat × MOp)) :=
  if o.joint ≤ 1 then some [(g, o)]
  else
    let ms := (List.range o.joint).map (fun i => s.member k (w.wgw / o.joint * o.joint + i) o.joint o.jseq)
    if ms.any (fun m => m = .late) then none
    else some (ms.filterMap (fun m => match m with
      | .here g o => some (g, o)
      | _ => none))

/-- Performs the next operation of a warp, with every member of its joint group, where some member's need of Norem is `emul`. -/
def State.performNext (s : State) (g : Nat) (emul : Bool) : State :=
  match s.warp? g with
  | none => s
  | some w =>
    match w.nextOp, s.group? w.wg with
    | some o, some k =>
      match s.jointGroup g w k o with
      | none => s
      | some ms =>
        if ms.any (fun m => m.2.emul) ≠ emul then s
        else
          let (h, b) := ms.headD (g, o)
          let bs := if o.kind = .mma || o.kind = .mmas || o.kind = .mmac then b.bCols s h k else []
          let s' := ms.foldl (fun t m => State.performOp s t m.1 k m.2 b bs) s
          ms.foldl (fun s m => s.reapWarp m.1) s'.tickFree
    | _, _ => s

/-- MATRIX_OPERATION_PERFORM (R285): the engine performs the next operation of a warp. -/
def execMatrixOperationPerform (g : Nat) (s : State) : Out := .next (s.performNext g false)

/-- FORMAT_EMULATION_DONE (R141): Norem writes the results of a format outside the hardware subset. The performance counter of emulated operations
that R141 names has no register, address or width anywhere in the spec, so the state holds none: DESIGN CHOICE (log 6). -/
def execFormatEmulationDone (g : Nat) (s : State) : Out := .next (s.performNext g true)

/-- FMTCVT_EMULATION_RESUME (R387): the destination is written, and the unit resumes at the next instruction. -/
def execFmtcvtEmulationResume (g sub : Nat) (s : State) : Out :=
  .next (match s.warp? g, s.unit? g sub with
    | some w, some u =>
      if u.st = .blocked .emul then (s.modUnit g sub (fun u => { u with looks := readyLooks s w u.looks })).wake g sub else s
    | _, _ => s)

/-! ## Fields of the instructions (R281, R282) -/

def matRow0 (x : Op) : Nat := x.func.toNat % 16 * 32
def matCol0 (x : Op) : Nat := x.func.toNat / 16 % 4 * 16
def matFmt (x : Op) : Nat := x.func.toNat / 64 % 8
/-- Joint width. -/
def matJoint (x : Op) : Nat :=
  match x.mod.toNat / 8 % 4 with
  | 1 => 2
  | 2 => 4
  | _ => 1

/-- The format words by lane. -/
def Ctx.words (c : Ctx) (x : Op) : Lanes := c.src x.lit x.c

/-- Container width of a narrow operation: from the lowest active lane, or lane 0. -/
def Ctx.container (c : Ctx) (x : Op) : Nat := (FWord.ofBits (((c.words x).at ((c.wordLanes.head?).getD 0)).toNat % 2 ^ 32)).box

/-- Operations issued and not yet performed. -/
def Warp.queued (w : Warp) : Nat := (w.mops.filter (fun o => !o.done)).length

/-! ## Checks (R283) -/

/-- The first check of a list that fails. -/
def firstBad (cs : List (Bool × TrapInfo)) : Option TrapInfo := (cs.find? (fun c => c.1)).map (·.2)

/-- The words that are checked are valid (R139, R142). -/
def Ctx.wordsBad (c : Ctx) (x : Op) : Bool := c.wordLanes.any (fun l => !(FWord.ofBits (((c.words x).at l).toNat % 2 ^ 32)).valid)

/-- The decode checks of a multiply's format words. -/
def Ctx.mulWordBad (c : Ctx) (x : Op) (mmac : Bool) : Bool :=
  matFmt x = 4 && (c.wordsBad x || (mmac && c.container x = 4)
    || (c.w.bsep && c.wordLanes.any (fun l => (FWord.ofBits (((c.words x).at l).toNat % 2 ^ 32)).box ≠ (FWord.ofBits c.w.bfw.toNat).box)))

/-- The accumulator region lies outside the workgroup's rows. -/
def Ctx.regionBad (c : Ctx) (row0 : Nat) : Bool :=
  match c.s.group? c.w.wg with
  | some k => k.accRows ≤ row0
  | none => true

/-- The tile selector of an operand: index, first row, first column (R280). -/
def Ctx.selector (c : Ctx) (x : Op) (o : Operand) : Nat × Nat × Nat :=
  let v := c.scalar x.lit o
  (fld v 7 0, fld v 23 8, fld v 39 24)

/-- TILEBAD checks of a tile operand of `rows` by `cols` elements of size `esz`. -/
def Ctx.selBad (c : Ctx) (x : Op) (o : Operand) (rows cols esz : Nat) : List (Bool × TrapInfo) :=
  let (t, k0, j0) := c.selector x o
  match c.tileEntry t false with
  | none => [(true, tileBad 0)]
  | some (_, _, e) =>
    [(c.regionBad (matRow0 x), tileBad 2), (e.shape.rows < k0 + rows || e.shape.cols < j0 + cols, tileBad 3), (e.shape.esz ≠ esz, tileBad 5)]

/-- The joint group reaches past the workgroup. -/
def Ctx.jointBad (c : Ctx) (j : Nat) : Bool :=
  match c.s.group? c.w.wg with
  | some k => k.count < c.w.wgw / j * j + j
  | none => true

/-- MMAC's source selector: first row and first column. -/
def Ctx.mmacSrc (c : Ctx) (x : Op) : Nat × Nat := let v := c.scalar x.lit x.a; (fld v 3 0 * 32, fld v 9 4)

/-- The decode check of MMA, MMAS and MMAC. -/
def mulDecode (kind : MKind) (x : Op) (c : Ctx) : Option TrapInfo := if c.mulWordBad x (kind = .mmac) then some (TrapInfo.unit 0 2 0) else none

/-- The uniform checks of MMA, MMAS and MMAC. -/
def mulCheck (kind : MKind) (x : Op) (c : Ctx) : Option TrapInfo :=
  let cont := c.container x
  let kk := matK (matFmt x) cont
  let src := c.mmacSrc x
  firstBad ((if isVec x.b then [] else (c.selBad x x.b kk 16 (matEsz (matFmt x) cont)).take 1 |>.filter (fun p => p.2 = tileBad 0))
    ++ [(c.regionBad (matRow0 x), tileBad 2), (kind = .mmac && (c.regionBad src.1 || 64 < src.2 + kk), tileBad 2)]
    ++ (if isVec x.b then [] else c.selBad x x.b kk 16 (matEsz (matFmt x) cont))
    ++ [(c.jointBad (matJoint x), tileBad 6)])

/-- The words of the active lanes differ (R142). -/
def Ctx.voteFails (c : Ctx) (x : Op) : Bool :=
  let w (l : Nat) : Nat := ((c.words x).at l).toNat % 2 ^ 32
  c.lanes.any (fun l => w l ≠ w ((c.lanes.head?).getD 0))

/-- FMTDIV. -/
def fmtDiv : TrapInfo := TrapInfo.unit 9 0 0

/-! ## Queueing -/

/-- An operation with nothing captured yet. -/
def MOp.base (kind : MKind) (id : Nat) (fmt : Nat) (c : Ctx) (x : Op) : MOp :=
  { id := id, kind := kind, fmt := fmt, cont := c.container x, rows := c.real, row0 := matRow0 x, col0 := matCol0 x, sel := x.mod.toNat % 8,
    fpcr := c.w.fpcr, joint := 1, jseq := 0, aRegs := [], aSrc := .none, bRegs := [], bSrc := .none, aNames := [], bNames := [],
    aw := c.words x, bw := 0, drain := .none, add := false, atype := 0, held := [], look := none, emul := false, spoilt := 0, bSpoilt := false,
    pages := [], fence := c.w.fence, done := false, flags := 0, batch := none }

/-- Takes the last uses of a matrix source: the engine holds the registers until its reads end; a divergent warp defers them;
with no lane they take effect at issue (R59, R61, R118, R284). -/
def Warp.holdUses (w : Warp) (div none' : Bool) (ns : List Nat) : Warp × List Pend :=
  if div || none' then (ns.foldl (fun w n => w.lastUse div n) w, [])
  else
    let held : List Pend := ns.eraseDups.filterMap (fun n => (w.names.find? n).map (fun e => { name := n, val := e.val, slot := none, prior := false }))
    ({ w with names := w.names.filter (fun p => !ns.contains p.1) }, held)

/-- Queues an operation, with the last uses of the names `uses`. -/
def Ctx.enqueue (c : Ctx) (s : State) (o : MOp) (uses : List Nat) : State :=
  let div := s.divergent c.g
  s.modWarp c.g (fun w =>
    let (w, held) := w.holdUses div (c.act = 0) uses
    let seq (j : Nat) : Nat := if o.joint = j then 1 else 0
    { w with mops := w.mops ++ [{ o with held := held, jseq := w.joints o.joint }], joint2 := w.joint2 + seq 2, joint4 := w.joint4 + seq 4 })

/-- Names of the last uses of A and B, over their runs. -/
def srcUses (x : Op) (na nb : Nat) : List Nat := (if x.ula then x.a.run na else []) ++ (if x.ulb then x.b.run nb else [])

/-- A name that a last use leaves readable: it stays an operand the warp must not rewrite (R118). -/
def keptNames (div : Bool) (used : Bool) (ns : List Nat) : List Nat := if used && !div then [] else ns

/-- Registers of an MMAS run that are read: the bitmaps that hold a bit below `k`, and the packed registers some lane needs. -/
def sparseReads (o : Operand) (regs : List Lanes) (nbm n k ew : Nat) (lanes : List Nat) : List Nat :=
  let names := o.run (nbm + n)
  let most := (lanes.map (fun l => ((List.range k).filter (bitmapOf regs nbm l).testBit).length)).foldl max 0
  (names.take ((k + 63) / 64)) ++ ((names.drop nbm).take ((most * ew + 63) / 64))

/-- A use of a tile at issue: the wait of R90, or the state with the tile as the use leaves it. -/
def Ctx.useTile (c : Ctx) (t : Nat) (u : TileUse) (s : State) (k : State → Shape → Nat → Run) : Run :=
  match c.tileEntry t false with
  | none => .trap (tileBad 0)
  | some (g, i, e) =>
    if c.real = 0 then k s e.shape i
    else if !e.admits u then .block c.s (.tile i u)
    else k (s.setTile g.core i (if u = .fill then { e with state := 1, swfill := false } else { e with readers := e.readers + 1 })) e.shape i

/-- The B operand of a member of a joint operation may be read: no member before it is left that could supply B (R286). A later member's is taken as
not read while an earlier one lives: DESIGN CHOICE (log 23), since at issue it is open which member will be the lowest that issued. -/
def Ctx.readsB (c : Ctx) (j : Nat) : Bool :=
  match c.s.group? c.w.wg with
  | none => true
  | some k => (List.range (c.w.wgw % j)).all (fun i => match (k.warps.getD (c.w.wgw / j * j + i) none).bind c.s.warp? with
    | some w => w.units.isEmpty
    | none => true)

/-- MMA, MMAS, MMAC at issue (R285, R287, R289). -/
def mulRun (kind : MKind) (x : Op) (c : Ctx) : Run :=
  let fmt := matFmt x
  let q8 : Bool := fmt = 4
  let kk := matK fmt (c.container x)
  let ew := matEw fmt (c.container x)
  let sp : Bool := kind = .mmas
  let na := if kind = .mmac then 0 else matNa fmt + (if sp then matBm fmt else 0)
  let nb := matNb fmt + (if sp then 1 else 0)
  let aRegs := (List.range na).map (fun i => c.nth x.a i)
  let bRegs := if isVec x.b then (List.range nb).map (fun i => c.nth x.b i) else []
  let aReads := if sp then sparseReads x.a aRegs (matBm fmt) (matNa fmt) kk ew (lanesOf c.real) else x.a.run na
  let bReads := if !c.readsB (matJoint x) then [] else if sp then sparseReads x.b bRegs 1 (matNb fmt) (kk / 2) ew laneIds else x.b.run nb
  c.reading (aReads ++ bReads ++ (if q8 then x.c.run 1 else []))
  (if q8 && c.voteFails x then .trap fmtDiv
  else if 32 ≤ c.w.queued then .block c.s .matrix
  else
    let bword : Nat := if c.w.bsep then c.w.bfw.toNat else ((c.words x).at ((c.wordLanes.head?).getD 0)).toNat % 2 ^ 32
    let emul := q8 && c.act ≠ 0 && (c.lanes.any (fun l => !(FWord.ofBits (((c.words x).at l).toNat % 2 ^ 32)).native) || !(FWord.ofBits bword).native)
    let div := c.s.divergent c.g
    let (h, s) := c.s.newHandle
    let o : MOp := { MOp.base kind h fmt c x with
      joint := matJoint x, aRegs := aRegs, aSrc := if kind = .mmac then .acc (c.mmacSrc x).1 (c.mmacSrc x).2 else .regs, bRegs := bRegs, bSrc := .regs,
      aNames := keptNames div x.ula (x.a.run na), bNames := keptNames div x.ulb (x.b.run nb), bw := bword, emul := emul }
    if isVec x.b then .go (Fin.nil (c.enqueue s o (srcUses x na nb)))
    else
      let (t, k0, j0) := c.selector x x.b
      c.useTile t .read s (fun s h i => .go (Fin.nil (c.enqueue s { o with bSrc := .tile i h k0 j0 } (srcUses x na 0)))))

/-- A job of the matrix engine: it ends a region, and its A and B last uses are the engine's. -/
def matJob (x : Op) (reads : List Nat) (run : Ctx → Run) : Job :=
  { jobOf x x.bytes run with
    hdr := { x.hdr x.bytes 0 0 0 with uses := if x.ulc then x.c.run 1 else [] }, endsRegion := true, dests := [], reads := reads }

def execMma (x : Op) (s : State) : Out := issue { matJob x [] (mulRun .mma x) with decode := mulDecode .mma x, uniform := mulCheck .mma x } s
def execMmas (x : Op) (s : State) : Out := issue { matJob x [] (mulRun .mmas x) with decode := mulDecode .mmas x, uniform := mulCheck .mmas x } s
def execMmac (x : Op) (s : State) : Out := issue { matJob x [] (mulRun .mmac x) with decode := mulDecode .mmac x, uniform := mulCheck .mmac x } s

/-! ## ACCLD, ACCST, ACCZ (R291) -/

/-- Registers of an accumulator copy. -/
def accRegs (x : Op) : Nat := if matFmt x = 0 then 16 else 8

def regionCheck (x : Op) (c : Ctx) : Option TrapInfo := firstBad [(c.regionBad (matRow0 x), tileBad 2)]

def accldRun (x : Op) (c : Ctx) : Run :=
  if 32 ≤ c.w.queued then .block c.s .matrix
  else
    let (h, s) := c.s.newHandle
    let n := accRegs x
    let vs := (List.range n).map (fun i => c.nth x.a i)
    let ns := keptNames (c.s.divergent c.g) x.ula (x.a.run n)
    let o : MOp := { MOp.base .accld h (matFmt x) c x with aRegs := vs, aNames := ns }
    .go (Fin.nil (c.enqueue s o (srcUses x n 0)))

def acczRun (x : Op) (c : Ctx) : Run :=
  if 32 ≤ c.w.queued then .block c.s .matrix
  else let (h, s) := c.s.newHandle; .go (Fin.nil (c.enqueue s (MOp.base .accz h 0 c x) []))

def accstRun (x : Op) (c : Ctx) : Run :=
  if c.act = 0 then .go (Fin.nil c.s)
  else if 32 ≤ c.w.queued then .block c.s .matrix
  else
    let (h, s) := c.s.newHandle
    let id := 2 * h + 1
    let o : MOp := { MOp.base .accst h (matFmt x) c x with rows := c.act, look := some id }
    let c' := { c with s := c.enqueue s o [] }
    .go { c'.putRun x.d (List.replicate (accRegs x) zeroLanes) 0 with later := some id }

def execAccld (x : Op) (s : State) : Out := issue { matJob x (x.a.run (accRegs x)) (accldRun x) with uniform := regionCheck x } s
def execAccst (x : Op) (s : State) : Out :=
  issue { matJob x [] (accstRun x) with long := true, dests := x.d.run (accRegs x), uniform := regionCheck x } s
def execAccz (x : Op) (s : State) : Out := issue { matJob x [] (acczRun x) with uniform := regionCheck x } s

/-! ## MDRAIN (R292) -/

def drainMemForm (x : Op) : Bool := x.mod.getLsbD 4
def drainAdd (x : Op) : Bool := x.mod.getLsbD 3

def drainDecode (x : Op) (c : Ctx) : Option TrapInfo := if matFmt x = 4 && c.wordsBad x then some (TrapInfo.unit 0 2 0) else none

def drainCheck (x : Op) (c : Ctx) : Option TrapInfo :=
  firstBad (if drainMemForm x then [(c.regionBad (matRow0 x), tileBad 2)] else c.selBad x x.a 32 16 (matEsz (matFmt x) (c.container x)))

/-- Address of a lane's row. -/
def drainRows (x : Op) (c : Ctx) : Lanes :=
  let a := c.src x.lit x.a
  if isVec x.a then a else Lanes.tab (fun i => a.at i + BitVec.ofNat 64 i * c.scalar x.lit x.b)

/-- A page that a write must copy and whose record is inconsistent (R94). -/
def State.cowBad (s : State) (addr : Nat) : Bool :=
  let e := s.leaf addr
  pteVS e && pteCW e && (s.cows.find? addr).isNone && !(s.readVrec (s.vrec e)).ok addr

def mdrainRun (x : Op) (c : Ctx) : Run :=
  let dt := matFmt x
  let cont := c.container x
  let q8 : Bool := dt = 4
  let ew := matEw dt cont
  let (h, s0) := c.s.newHandle
  let emul := q8 && c.lanes.any (fun l => !(FWord.ofBits (((c.words x).at l).toNat % 2 ^ 32)).native)
  let ns := if drainMemForm x then keptNames (c.s.divergent c.g) x.ula (x.a.run 1) else []
  let o : MOp := { MOp.base .mdrain h dt c x with add := drainAdd x, atype := x.func.toNat / 512 % 2, emul := emul, aNames := ns }
  let uses := srcUses x 1 0
  if q8 && c.voteFails x then .trap fmtDiv
  else if drainMemForm x then
    let rows := drainRows x c
    let n := if ew = 4 then 8 else 16
    let size := max 1 (ew / 8)
    match c.checkMem (lanesOf c.real) rows.at size n size .write with
    | .trap t => .trap t
    | .ok s as =>
      match ((as.filter (fun a => s.cowBad a.addr)).map (fun a => (a.lane, 1, 5))).eraseDups with
      | f :: fs => .trap (failTrap rows.at 0 (f :: fs))
      | [] =>
        if 32 ≤ c.w.queued then .block c.s .matrix
        else
          let (h, s) := s.newHandle
          let pages : List HeldPage :=
            (as.map (fun a => { page := a.va.toNat / 65536, frame := a.pa / 65536 * 65536, scope := pteScope a.pte, leaf := a.addr })).eraseDups
          .go (Fin.nil (c.enqueue s { o with id := h, drain := .mem rows, pages := pages } uses))
  else if 32 ≤ c.w.queued then .block c.s .matrix
  else
    let (t, i0, j0) := c.selector x x.a
    c.useTile t (if drainAdd x then .read else .fill) s0 (fun s h i => .go (Fin.nil (c.enqueue s { o with drain := .tile i h i0 j0 } uses)))

def execMdrain (x : Op) (s : State) : Out :=
  issue { matJob x ((if drainMemForm x then x.a.run 1 else []) ++ (if matFmt x = 4 then x.c.run 1 else [])) (mdrainRun x) with
          hdr := { x.hdr x.bytes 0 0 0 with uses := srcUses x 1 0 ++ (if x.ulc then x.c.run 1 else []) }, decode := drainDecode x,
          uniform := drainCheck x } s

/-! ## MBATCH, MWAIT, OFENCE, MCFG (R290, R294 to R296) -/

def mbatchRun (x : Op) (c : Ctx) : Run :=
  let n := c.w.closes
  if 16 ≤ n && !c.w.batchDone (n - 16) then .block c.s (.mwait (n - 16))
  else
    let s := c.s.modWarp c.g (fun w =>
      let ms := w.mops.map (fun (o : MOp) => if o.batch.isNone && o.kind != .accst then { o with batch := some n } else o)
      let w : Warp := { w with closes := n + 1, mops := ms, waited := max w.waited (n - 15) }
      w.advance)
    .go { (Ctx.always { c with s := s } x.d (BitVec.ofNat 64 (n % 16))) with s := s }

def execMbatch (x : Op) (s : State) : Out := issue (matJob x [] (mbatchRun x)) s

/-- The most recent close that produced number `n`. -/
def lastClose (closes n : Nat) : Option Nat := if closes ≤ n then none else some (closes - 1 - (closes - 1 - n) % 16)

def mwaitRun (x : Op) (c : Ctx) : Run :=
  match lastClose c.w.closes ((c.scalar x.lit x.a).toNat % 16) with
  | none => .go (Fin.nil c.s)
  | some k =>
    let s := c.s.modWarp c.g (fun w => Warp.dropWaited { w with waited := max w.waited (k + 1) })
    if c.w.batchDone k then .go (Fin.nil s) else .go { Fin.nil s with wait := some (.mwait k) }

def execMwait (x : Op) (s : State) : Out := issue (jobOf x x.bytes (mwaitRun x)) s
/-- OFENCE: operations that issue later read what every write before it left (R119). -/
def ofenceRun (c : Ctx) : Run :=
  let (h, s) := c.s.newHandle
  .go (Fin.nil (s.modWarp c.g (fun w => { w with fence := h })))

def execOfence (x : Op) (s : State) : Out := issue (jobOf x x.bytes ofenceRun) s

def mcfgCheck (x : Op) (c : Ctx) : Option TrapInfo :=
  if !x.mod.getLsbD 0 && !(FWord.ofBits ((c.scalar x.lit x.a).toNat % 2 ^ 32)).valid then some (TrapInfo.unit 0 2 0) else none

def mcfgRun (x : Op) (c : Ctx) : Run :=
  .go (Fin.nil (c.s.modWarp c.g (fun w =>
    if x.mod.getLsbD 0 then { w with bsep := false } else { w with bsep := true, bfw := (c.scalar x.lit x.a).setWidth 32 })))

def execMcfg (x : Op) (s : State) : Out := issue { jobOf x x.bytes (mcfgRun x) with decode := mcfgCheck x } s

end Sys2Proof.Machine
end

