-- ==== Sys2Proof/Machine/Sched.lean ====
section
/-! DEFINITION. Scheduling (R17, R22 to R24, R27, R193): the end of waits, arrivals and the grant at a stroke boundary, results that arrive, the
registers of a quadrant (R65 to R67), the stack cache in the background (R72) and the stroke watchdog (R44). -/

namespace Sys2Proof.Machine

/-! ## The end of a wait (R22) -/

/-- How a wait stands: not over, over, or over as an acquire (R113). -/
inductive WaitEnd where
  | no | yes | acquire
  deriving DecidableEq, Repr

/-- What a blocked unit's wait has come to. Allocation, WATCH and emulation end by events of their own. -/
def State.waitEnd (s : State) (g : Nat) (w : Warp) (x : Wait) : WaitEnd :=
  let yes (b : Bool) : WaitEnd := if b then .yes else .no
  match x with
  | .bar b phase =>
    match s.group? w.wg with
    | some k => if phase < (k.bars.getD b Barrier.empty).phase then .acquire else .no
    | none => .no
  | .gbar e epoch =>
    match s.launchOf g with
    | some (_, l) => if epoch < l.gdone.getD e 0 then .acquire else .no
    | none => .no
  | .tile i u => yes ((s.tile (coreOf g) i).admits u)
  | .mwait n => yes (w.batchDone n)
  | .sleep t => yes ((s.clk (dieOf g) + 2 ^ 64 - t) % 2 ^ 64 < 2 ^ 63)
  | .matrix => yes (w.queued < 32)
  | .pool d =>
    match s.launchOf g with
    | some (key, l) => yes (s.poolHeld key d < l.poolCap d)
    | none => .no
  | .alloc _ _ | .watch _ _ _ | .emul => .no

/-- Ends the wait of one unit, where it is over. -/
def State.wakeUnit (s : State) (g : Nat) (w : Warp) (u : WUnit) : State :=
  match u.st with
  | .blocked x =>
    match s.waitEnd g w x with
    | .no => s
    | .yes => s.wake g u.sub
    | .acquire => (s.wake g u.sub).acquire (coreOf g)
  | _ => s

/-- Ends every wait of a quadrant that is over. A parked warp's units keep theirs until it is reloaded (R67). -/
def State.wakeQuad (s : State) (q : Nat) : State :=
  (s.quadWarps q).foldl (fun s p => if p.2.parked then s else p.2.units.foldl (fun s u => s.wakeUnit p.1 p.2 u) s) s

/-! ## Arrivals at a reconvergence PC (R193) -/

/-- What a unit's PC has reached. -/
inductive Join where
  | none
  | serial (a : W64) (r : SerialRec)
  | entry (e : Nat)
  /-- A serial record that cannot be read (R335). -/
  | fault (a : W64)
  deriving DecidableEq, Repr

/-- Whether a unit stands at the RCPC of its innermost serial record, or at its entry's reconvergence PC. -/
def State.joinOf (s : State) (g : Nat) (u : WUnit) : State × Join :=
  let own : Join := match u.entry with
    | some e =>
      match (s.core (coreOf g)).split.find? e with
      | some x => if x.rpc = u.pc then .entry e else .none
      | none => .none
    | none => .none
  match u.serial with
  | [] => (s, own)
  | a :: _ =>
    match s.serialRec g a.toNat with
    | (s, none) => (s, .fault a)
    | (s, some r) => (s, if r.rcpc = u.pc then .serial a r else own)

/-- Settles a ready unit: phase switches and restores, then its arrival, and with the last arrival the parent that has become live, which
may stand at its own join in turn. -/
def settleUnit : Nat → State → Nat → Nat → State
  | 0, s, _, _ => s
  | n + 1, s, g, sub =>
    match s.unit? g sub with
    | none => s
    | some u =>
      if u.st ≠ .ready || u.stopAt then s
      else
        match s.joinOf g u with
        | (s, .none) => s
        | (s, .serial a r) => settleUnit n (s.serialReach g sub a r) g sub
        | (s, .entry e) =>
          let up := ((s.core (coreOf g)).split.find? e).map (·.parentSub)
          settleUnit n (s.arrive g sub e) g (up.getD sub)
        | (s, .fault a) => s.takeTrap g sub (TrapInfo.stackFault a.toNat)

/-- The most joins a unit can pass at one boundary: each serial record of its warp is left at most twice, each split entry once. -/
def State.joinFuel (s : State) (g : Nat) : Nat :=
  let held := match s.warp? g with
    | some w => (w.units.map (fun u => u.serial.length)).foldl (· + ·) 0
    | none => 0
  2 * ((s.splits g).foldl (fun n p => n + p.2.serial.length) held) + (s.splits g).length + 2

/-- Settles every unit of a warp that may act. -/
def State.settleWarp (s : State) (g : Nat) : State :=
  match s.warp? g with
  | some w => if w.parked || w.faulted then s else w.units.foldl (fun s u => settleUnit (s.joinFuel g) s g u.sub) s
  | none => s

/-- Settles every unit of a quadrant that may act. -/
def State.settleQuad (s : State) (q : Nat) : State := (s.quadWarps q).foldl (fun s p => s.settleWarp p.1) s

/-! ## The grant (R23) -/

/-- A workgroup whose warps stop at their stroke boundaries (R45, R393). -/
def Group.stops (k : Group) : Bool :=
  k.ending || (match k.pre with
    | .flushing | .stopping => true
    | .running | .draining _ _ => false)

/-- A warp may issue a stroke: it is neither parked, Faulted, stopped nor ending, and its watchdog allows another (R44). -/
def State.mayIssue (s : State) (w : Warp) : Bool :=
  !w.parked && !w.faulted && !w.halted && (w.limit = 0 || w.strokes ≤ w.limit) &&
  (match s.group? w.wg with
   | some k => !k.stops
   | none => false)

/-- A candidate for the slot: warp slot, SUBID, WARPID, wait, effective priority, and whether it has yielded. -/
structure Cand where
  g    : Nat
  sub  : Nat
  id   : Nat
  wait : Nat
  prio : Nat
  yielded : Bool
  deriving DecidableEq, Repr

/-- The ready units of a quadrant. -/
def State.cands (s : State) (q : Nat) : List Cand :=
  (s.quadWarps q).flatMap (fun p =>
    if s.mayIssue p.2 then
      (p.2.units.filter (fun u => u.st = .ready && !u.stopAt && !u.waitsLook)).map (fun u =>
        { g := p.1, sub := u.sub, id := p.2.warpId p.1, wait := u.wait, yielded := u.yielded,
          prio := min 63 ((match s.launchOf p.1 with
            | some (_, l) => l.prio
            | none => 0) + u.wait / 64) })
    else [])

/-- Ties go to the greater wait, then the lower WARPID, then the lower SUBID. -/
def Cand.beats (a b : Cand) : Bool :=
  b.wait < a.wait || (a.wait = b.wait && (a.id < b.id || (a.id = b.id && a.sub < b.sub)))

/-- The winner of R23; a unit that has yielded wins only over others that have, unless a unit is overdue (R200). -/
def pickCand (cs : List Cand) : Option Cand :=
  let best (cs : List Cand) (f : Cand → Cand → Bool) : Option Cand :=
    match cs with
    | [] => none
    | c :: r => some (r.foldl (fun b x => if f x b then x else b) c)
  let late := cs.filter (fun c => 512 ≤ c.wait)
  if !late.isEmpty then best late Cand.beats
  else
    let eager := cs.filter (fun c => !c.yielded)
    best (if eager.isEmpty then cs else eager) (fun a b => b.prio < a.prio || (a.prio = b.prio && a.beats b))

/-- Grants the slot of a quadrant: the winner's stroke begins, and the others wait one stroke more. A unit that yielded is passed over at
this one boundary only (R200). -/
def State.grant (s : State) (q : Nat) : State :=
  let cs := s.cands q
  match pickCand cs with
  | none => s
  | some c =>
    let s := cs.foldl (fun s x => if x = c then s else s.modUnit x.g x.sub (fun u => { u with wait := u.wait + 1, yielded := false })) s
    s.beginStroke c.g c.sub

/-- A quadrant's slot is held. -/
def State.slotHeld (s : State) (q : Nat) : Bool := (s.quadWarps q).any (fun p => p.2.units.any (fun u => u.st = .issuing))

/-- STROKE_BOUNDARY (R17, R23, R193): waits that are over end, units at a reconvergence PC arrive, and the slot is granted. A die whose
clock is stopped issues nothing (R416). -/
def execStrokeBoundary (core quad : Nat) (s : State) : Out :=
  let q := core * 4 + quad % 4
  .next (if s.slotHeld q || (s.die (dieOfCore core)).stall.isSome then s else ((s.wakeQuad q).settleQuad q).grant q)

/-- LONG_LATENCY_RESULT (R24): the `idx`-th outstanding result of a unit is written. -/
def execLongLatencyResult (g sub idx : Nat) (s : State) : Out :=
  .next (match s.warp? g, s.unit? g sub with
    | some w, some u =>
      match u.looks[idx]? with
      | some k => if k.ready && !w.parked then s.writeLook g sub k else s
      | none => s
    | _, _ => s)

/-! ## The registers of a quadrant (R65 to R67) -/

/-- Resumes a Faulted warp: the unit that trapped replays its region, and the wait of the others starts from 0 (R385, R386). -/
def State.resumeWarp (s : State) (g : Nat) (w : Warp) : State :=
  let s := s.modWarp g (fun w => { w with faulted := false, units := w.units.map (fun u => if u.st = .ready then { u with wait := 0 } else u) })
  (w.units.filter (fun u => u.st = .faulted)).foldl (fun s u => s.replayUnit g u.sub) s

/-- Grants a request: a unit's destinations are mapped, and it reissues; a parked warp reloads its slots. A warp that was saved while
Faulted replays now that its registers are back (R385). Where siblings were granted in the meantime and the registers would now pass
regs_max, nothing is mapped, and the reissue raises REGFAULT (R58). -/
def State.grantRegs (s : State) (g : Nat) (sub : Option Nat) : State :=
  match sub with
  | none =>
    let s := (s.reload g).modWarp g (fun w =>
      { w with parked := false, units := w.units.map (fun u => if u.st = .ready then { u with wait := 0 } else u) })
    match s.warp? g with
    | some w => if w.faulted then s.resumeWarp g w else s
    | none => s
  | some k =>
    match s.unit? g k with
    | some u =>
      match u.st with
      | .blocked (.alloc ns _) =>
        (s.modWarp g (fun w => if w.held + (newNames w ns).length ≤ w.regsMax then ns.foldl (fun w n => w.alloc n) w else w)).wake g k
      | _ => s
    | none => s

/-- Oldest request first. -/
def insertReq (r : Nat × Option Nat × (Nat × Nat) × Nat) : List (Nat × Option Nat × (Nat × Nat) × Nat) → List (Nat × Option Nat × (Nat × Nat) × Nat)
  | [] => [r]
  | x :: xs => if olderThan r.2.2.1 x.2.2.1 then r :: x :: xs else x :: insertReq r xs

/-- ALLOCATION_GRANT (R65): the oldest request of a quadrant that can be granted is. -/
def execAllocationGrant (core quad : Nat) (s : State) : Out :=
  let q := core * 4 + quad % 4
  .next (match ((s.requests q).foldr insertReq []).find? (fun r => s.grantable q r.2.2.1 r.2.2.2) with
    | some r => s.grantRegs r.1 r.2.1
    | none => s)

/-- A wait that lets the quadrant spill. -/
def Wait.spillable : Wait → Bool
  | .alloc _ _ | .bar _ _ | .gbar _ _ | .watch _ _ _ | .tile _ _ => true
  | _ => false

/-- A warp's state lets the quadrant spill (R66). -/
def Warp.spillOk (w : Warp) : Bool :=
  w.parked || w.faulted || w.halted || w.units.all (fun u => match u.st with
    | .blocked x => x.spillable
    | .fusing => true
    | .ready => u.stopAt
    | .issuing | .faulted => false)

/-- The three conditions of R66. -/
def State.spills (s : State) (q : Nat) : Bool :=
  !(s.requests q).isEmpty && !s.slotHeld q && (s.quadWarps q).all (fun p => p.2.spillOk)

/-- The victim: the youngest warp, other than the oldest that waits for registers and other than a Faulted one, above its reserve.
DEDUCED (log 23), unsafe if the reading is wrong. -/
def State.victim (s : State) (q : Nat) : Option (Nat × Warp) :=
  let o := (((s.requests q).foldr insertReq []).head?).map (·.1)
  match (s.quadWarps q).filter (fun p => some p.1 ≠ o && !p.2.faulted && p.2.regsMin < p.2.held) with
  | [] => none
  | p :: r => some (r.foldl (fun b x => if b.2.lseq < x.2.lseq then x else b) p)

/-- REGISTER_SPILL (R66). -/
def execRegisterSpill (core quad : Nat) (s : State) : Out :=
  let q := core * 4 + quad % 4
  let s := s.wakeQuad q
  .next (if s.spills q then
      match s.victim q with
      | some (g, w) => (spillN (w.held - w.regsMin) (s.modWarp g Warp.endReads) g).modWarp g (fun w => { w with parked := true, wstat := w.wstat ||| wsParked })
      | none => s
    else s)

/-! ## The stack cache in the background (R72, R335) -/

/-- STACK_LINE_FILL (R72): a line of the window arrives. -/
def execStackLineFill (g line : Nat) (s : State) : Out :=
  .next (match s.warp? g with
    | some w =>
      if w.inWindow line then
        match s.stackFill g line with
        | (s', some _) => s'
        | (_, none) => s
      else s
    | none => s)

/-- The unit of a warp that issues next, should the warp issue. -/
def State.nextUnit (s : State) (g : Nat) : Option Nat :=
  match s.warp? g with
  | none => none
  | some w =>
    ((pickCand ((w.units.filter (fun u => u.st = .ready && !u.stopAt && !u.waitsLook)).map (fun u =>
      { g := g, sub := u.sub, id := w.warpId g, wait := u.wait, prio := u.wait / 64, yielded := u.yielded })))).map (·.sub)

/-- STACK_LINE_WRITEBACK (R72): a line that fell out of the window is written back. A failure halts the warp at the first instruction
of its next stroke (R335). -/
def execStackLineWriteback (g line : Nat) (s : State) : Out :=
  .next (match s.warp? g with
    | some w =>
      if w.inWindow line || (w.stack.find? line).isNone || w.units.any (fun u => u.st = .issuing) then s
      else
        match s.stackFlush g line with
        | (s', .done) | (s', .wait) => s'
        | (_, .fail) =>
          match s.nextUnit g with
          | some sub => s.takeTrap g sub (TrapInfo.stackFault (line * 32))
          | none => s
    | none => s)

/-! ## The stroke watchdog (R44, R389) -/

/-- The warp has exceeded its limit at a stroke boundary. -/
def Warp.overdue (w : Warp) : Bool := w.limit ≠ 0 && w.limit < w.strokes && !w.units.any (fun u => u.st = .issuing)

/-- WDOG on a unit of an overdue warp. A first WDOG that enters the handler gives it its grace. -/
def State.wdogUnit (s : State) (g sub : Nat) : State :=
  let first := (s.warp? g).any (fun w => !w.handler)
  let s := s.takeTrap g sub (TrapInfo.unit 10 0 0)
  match s.launchOf g with
  | some (_, l) =>
    s.modWarp g (fun w => if first && w.handler then { w with grace := true, limit := l.watchdog * 1024 + max 64 (l.watchdog * 64) } else w)
  | none => s

/-- WDOG on the unit of a warp that would issue its next stroke: units at a reconvergence PC arrive first (R193). -/
def State.wdog (s : State) (g : Nat) : State :=
  let s := s.settleWarp g
  match s.nextUnit g with
  | some sub => s.wdogUnit g sub
  | none => s

/-- The watchdog acts on a warp. -/
def Warp.watched (w : Warp) (grace : Bool) : Bool := w.overdue && w.grace = grace && !w.faulted && !w.parked && !w.halted

/-- STROKE_WATCHDOG (R44): WDOG before the warp's next stroke. -/
def execStrokeWatchdog (g : Nat) (s : State) : Out := .next (if (s.warp? g).any (fun w => w.watched false) then s.wdog g else s)

/-- WATCHDOG_GRACE_EXPIRY (R44): the grace is exhausted, and the warp halts. -/
def execWatchdogGraceExpiry (g : Nat) (s : State) : Out := .next (if (s.warp? g).any (fun w => w.watched true) then s.wdog g else s)

end Sys2Proof.Machine
end

