-- ==== Sys2Proof/Machine/Front.lean ====
section
/-! DEFINITION. The front end (R350 to R363): slots and their shadows, kicks, records and their checks, dependences, the dispatcher with its
placements (R15, R28 to R36, R39 to R42), the relaunch unit (R309), and the completion of launches. -/

namespace Sys2Proof.Machine

/-! ## Slots (R351, R359, R365) -/

def State.slot (s : State) (d k : Nat) : Slot := (s.die d).slots.get Reset.slot k

/-- Changes a slot, and SLOTQ.IDLE with it. -/
def State.modSlot (s : State) (d k : Nat) (f : Slot → Slot) : State :=
  let x := f (s.slot d k)
  let idle : Nat := match x.st with
    | .unloaded | .idle => 1
    | _ => 0
  (s.modDie d (fun y => { y with slots := y.slots.put k x })).setDieReg d (.slotq k) (setFld (s.dieReg d (.slotq k)) 14 14 idle)

/-- SLOTQ.QCB as an address, and SLOTQ.HALT. -/
def State.slotQcb (s : State) (d k : Nat) : Nat := fld (s.dieReg d (.slotq k)) 55 16 * 256
def State.slotHalted (s : State) (d k : Nat) : Bool := (s.dieReg d (.slotq k)).getLsbD 13

/-- A field of an accepted shadow, by its bits in the QCB. -/
def shadowBits (b : List Byte) (h l : Nat) : Nat := bits (leNat b) (h - 32) (l - 32)

/-- Reads the shadow of a slot's QCB (R351): accepted where SHSEQ is even, with RD and WR read where the slot held none before;
otherwise the read is repeated later. -/
def State.readShadow (s : State) (d k : Nat) : State :=
  let a := s.slotQcb d k
  if s.peekN (a + qcbSHSEQ) 4 % 2 = 0 then
    s.modSlot d k (fun x => { x with shadow := some (s.peek (a + qcbSHADOW) 60), retry := false, wr := BitVec.ofNat 32 (s.peekN (a + qcbWR) 4) })
  else s.modSlot d k (fun x => { x with retry := true })

/-- Loads a queue into a slot (R365). -/
def State.loadSlot (s : State) (d k qid qcb : Nat) : State :=
  let s := s.setDieReg d (.slotq k) (BitVec.ofNat 64 (qid % 4096 + 2 ^ 12 + 2 ^ 14 + qcb / 256 % 2 ^ 40 * 2 ^ 16))
  let s := s.modSlot d k (fun _ => { Reset.slot with st := .idle, rd := BitVec.ofNat 32 (s.peekN (qcb + qcbRD) 4) })
  s.readShadow d k

/-- Keeps the cursor of the launch a slot has in Dispatch, and the slot goes Idle (R359, R391). -/
def State.keepCursor (s : State) (d k : Nat) : State :=
  match (s.slot d k).st with
  | .dispatch key => (s.modLaunch key (fun l => { l with cursor := true, refused := none, reserve := none })).modSlot d k (fun x => { x with st := .idle })
  | _ => s

/-- HALT (R365): dispatch and fetch stop at once. -/
def State.haltSlot (s : State) (d k : Nat) : State :=
  let s := s.setDieReg d (.slotq k) (setFld (s.dieReg d (.slotq k)) 13 13 1)
  let s := if (s.slot d k).st = .fetch then s.modSlot d k (fun x => { x with st := .idle }) else s
  s.keepCursor d k

/-- Frees the watch entry of a slot's dependence. -/
def State.dropDepend (s : State) (d k : Nat) : State :=
  { s with dies := s.dies.each (fun x => { x with watches := x.watches.filter (fun e => !(e.2.kind = 1 && e.2.waiter = d + k * 4)) }) }

/-- Unloads a slot (R359, R365): RD is written back to the QCB. A launch it was still to dispatch keeps its cursor. -/
def State.unloadSlot (s : State) (d k : Nat) : State :=
  let x := s.slot d k
  if x.st = .unloaded then s
  else
    let s := s.keepCursor d k
    let s := match x.st with
      | .depend key => (s.dropDepend d k).modLaunch key (fun l => { l with cursor := true })
      | _ => s
    let s := s.pokeN (s.slotQcb d k + qcbRD) 4 x.rd.toNat
    let s := s.setDieReg d (.slotq k) (setFld (s.dieReg d (.slotq k)) 13 12 0)
    s.modSlot d k (fun _ => Reset.slot)

/-- SLOTQ_VALID_LOAD (R365). -/
def execSlotqValidLoad (die slot qid qcb : Nat) (s : State) : Out :=
  .next (if die < 4 && slot < 32 then (s.unloadSlot die slot).loadSlot die slot qid (qcb / 256 % 2 ^ 40 * 256) else s)

/-- SLOTQ_UNLOAD (R365). -/
def execSlotqUnload (die slot : Nat) (s : State) : Out := .next (if die < 4 && slot < 32 then s.unloadSlot die slot else s)

/-- SLOTQ_HALT (R365). -/
def execSlotqHalt (die slot : Nat) (s : State) : Out := .next (if die < 4 && slot < 32 then s.haltSlot die slot else s)

/-- SLOTQ_RELOAD (R351, R365): the shadow is read again. -/
def execSlotqReload (die slot : Nat) (s : State) : Out :=
  .next (if die < 4 && slot < 32 && (s.slot die slot).st ≠ .unloaded then s.readShadow die slot else s)

/-- SHADOW_RETRY (R351). -/
def execShadowRetry (die slot : Nat) (s : State) : Out :=
  .next (if (s.slot die slot).retry && (s.slot die slot).st ≠ .unloaded then s.readShadow die slot else s)

/-- KICK (R353): a store to a doorbell page. -/
def execKick (vif qid : Nat) (s : State) : Out :=
  .next (match s.ownQueue vif qid with
    | some q => s.kickQueue q
    | none => if vif < 64 then s.wakeDrop vif else s)

/-! ## Writes by the front end, which the SCOPE check does not bind (R78) -/

/-- How the opening of an address for the front end ends: open, failed with a row of R78, waiting for a copy of its page, or with no frame for one. -/
inductive VaOut where
  | ok (s : State)
  | fail (s : State) (cls sub : Nat)
  | wait (s : State)
  | noFrame (s : State)

/-- Opens an address for a write of the front end of a die: the state, the physical address and the scope. -/
def State.feOpen (s : State) (d root : Nat) (va : W64) : VaOut × Nat × Nat :=
  match s.xlatDie d root va .write false with
  | (s, .fail c k) => (.fail s c k, 0, 0)
  | (s, .ok pa pte addr) =>
    match s.cowTouch addr with
    | (s, .clear) => (.ok (s.touch addr true), pa, pteScope pte)
    | (s, .wait) => (.wait s, 0, 0)
    | (s, .noFrame) => (.noFrame s, 0, 0)
    | (s, .bad) => (.fail s 1 5, 0, 0)

/-! ## The checks of a record (R356) -/

/-- The reserved ranges of R355. -/
def recordReserved : List (Nat × Nat) :=
  [(63, 59), (127, 121), (191, 180), (255, 225), (383, 371), (423, 413), (639, 592), (1087, 1072), (1151, 1120), (1599, 1540),
   (1727, 1664), (1791, 1728), (1855, 1792), (1919, 1856), (1983, 1920), (2047, 1984)]

/-- The checks that bind a marker as well. -/
def Launch.recordOk (l : Launch) : Bool :=
  (l.kind = 1 || l.kind = 2) && recordReserved.all (fun p => l.fieldOf p.1 p.2 = 0) && l.depCmp ≠ 7
    && l.depAddr % (if l.depW64 then 8 else 4) = 0 && l.doneRec % 32 = 0

/-- Ranges and alignments of a launch's fields (R12, R28, R46, R64, R183, R355). DEDUCED (log 22), unsafe at the edge of a check. -/
def Launch.fieldsOk (l : Launch) : Bool :=
  let dim (n : Nat) : Bool := 1 ≤ n
  let blk (n : Nat) : Bool := 1 ≤ n && n ≤ 1024
  let nb := l.nbw ≠ 0 || l.nbh ≠ 0
  let kinds := [l.affinity && !l.coverage, l.iterate, nb, l.coverage].filter id
  !l.flagBit 7 && dim l.gx && dim l.gy && dim l.gz && l.total < 2 ^ 32 && blk l.bx && blk l.by' && blk l.bz
    && l.bx * l.by' * l.bz = 32 * l.warps && l.regsMin ≤ l.regsMax && 1 ≤ l.regsMax && l.regsMax ≤ 1536
    && l.tileCount ≤ 256 && l.accRows ≤ 512 && l.accRows % 32 = 0 && l.scratch ≤ 786432 && l.groupCount ≤ 256
    && kinds.length ≤ 1 && (!nb || (1 ≤ l.nbw && l.nbw ≤ 8 && 1 ≤ l.nbh && l.nbh ≤ 6 && l.nbN ≤ 24 && l.total % l.nbN = 0))
    && (!l.quad || (l.bx % 2 = 0 && l.by' % 2 = 0)) && 1 ≤ l.iperTile && (!l.cont || l.relTable ≠ 0)
    && l.entry % 64 = 0 && l.stkArea % 4096 = 0 && l.gtab % 16 = 0 && l.covrec % 64 = 0

/-- The coverage record agrees with the launch (R317). -/
def Launch.covOk (l : Launch) : Bool :=
  let r := l.cov
  !covReserved r && !covInvalid r && covPat r = l.covpat && covEx r = l.ex && covEy r = l.ey && covEz r = l.ez
    && covBx r = l.bx && covBy r = l.by' && covBz r = l.bz && covGx r = l.gx && covGy r = l.gy && covGz r = l.gz

/-- The words of a run of bytes. -/
def words32 (bs : List Byte) : Nat → List Nat
  | 0 => []
  | n + 1 => fieldN bs 0 4 :: words32 (bs.drop 4) n

/-- Reads the lists of a group table (R357); `none` where an entry is malformed or cannot be read. -/
def readGroups (d root : Nat) : Nat → List Byte → State → State × Option (List (List Nat))
  | 0, _, s => (s, some [])
  | n + 1, tab, s =>
    let len := fieldN tab 8 4
    if len = 0 || 2 ^ 24 < len || fieldN tab 12 4 ≠ 0 then (s, none)
    else
      match s.readVa d root (BitVec.ofNat 64 (fieldN tab 0 8)) false (4 * len) with
      | (s, .error _) => (s, none)
      | (s, .ok b) =>
        match readGroups d root n (tab.drop 16) s with
        | (s, some r) => (s, some (words32 b len :: r))
        | (s, none) => (s, none)

/-- The lists obey R32. -/
def Launch.groupsOk (l : Launch) : Bool :=
  l.groups.all (fun g => g.eraseDups.length = g.length && g.all (fun i => i < l.total))
    && (l.groups.flatten.eraseDups).all (fun i => (l.groups.filter (fun g => g.contains i)).length ≤ 4)

/-- The workgroups placed at once, before any other (R34, R36). -/
def Launch.gang (l : Launch) : List Nat := if l.iterate then List.range l.total else l.groups.flatten.eraseDups

/-- How many workgroups are placed at once. -/
def Launch.gangSize (l : Launch) : Nat := if l.iterate then l.total else l.groups.flatten.eraseDups.length

/-! ## Completion (R361) -/

/-- Writes the completion record of a launch; `none` while its page is being copied. -/
def State.writeDone (s : State) (l : Launch) : State × Bool :=
  if l.doneRec = 0 || l.doneRec % 32 ≠ 0 then (s, true)
  else
    match s.feOpen l.die l.root (BitVec.ofNat 64 l.doneRec) with
    | (.fail s _ _, _) => (s, true)
    | (.wait s, _) | (.noFrame s, _) => (s, false)
    | (.ok s, pa, sc) =>
      let h := s.homeDie pa
      if s.fatal && (s.die h).failed then (s, true)
      else
        let s := if l.status = 0 then s else s.writeMem h sc (pa + 8) (leBytes 8 l.status.toNat)
        let s := (s.writeMem h sc (pa + 16) (leBytes 8 l.affmiss)).writeMem h sc (pa + 24) (leBytes 8 0)
        let (s, v) := s.homeRead h sc pa 8
        (s.writeMem h sc pa (leBytes 8 ((v + 1) % 2 ^ 64)), true)

/-- WR is read again when a record is finished (R352). -/
def State.rereadWr (s : State) (qid : Nat) : State :=
  match s.slotOf qid with
  | some (d, k) => s.modSlot d k (fun x => { x with wr := BitVec.ofNat 32 (s.peekN (s.slotQcb d k + qcbWR) 4) })
  | none => s

/-- Completes a launch in the order of R361, and its entry is freed. While the completion record's page is being copied, nothing is
done yet. -/
def State.completeLaunch (s : State) (key : Nat) : State :=
  match s.launch? key with
  | none => s
  | some l =>
    if l.silent then s.forgetLaunch key
    else
      let s1 := if l.chain && l.coverage && l.kind = 1 && !l.cov.isEmpty then s.covStep l.qcb l.cov else s
      match s1.writeDone l with
      | (_, false) => (s.writeDone l).1
      | (s2, true) =>
        let s3 := s2.addWord (l.qcb + qcbDONE) 1
        let s4 := if l.irq then s3.raiseUnless l.vif l.ivec else s3
        (s4.forgetLaunch key).rereadWr l.qid

/-- Every workgroup and relaunched warp of a launch has ended, and its pools hold no record. -/
def State.launchOver (s : State) (key : Nat) (l : Launch) : Bool :=
  !l.placing && !l.waiting && l.live = 0 && l.away.isEmpty && !s.groups.any (fun p => p.2.launch = key) && !s.rays.any (fun p => p.2.launch = key)

/-- LAUNCH_COMPLETE (R361). -/
def execLaunchComplete (launch : Nat) (s : State) : Out :=
  .next (match s.launch? launch with
    | some l => if s.launchOver launch l then s.completeLaunch launch else s
    | none => s)

/-- Drops what a launch has saved or re-primed; the blocks of its saved warps return (R390). -/
def State.dropAway (s : State) (key : Nat) : State :=
  match s.launch? key with
  | none => s
  | some l =>
    let grid := l.away.filter (fun x => !x.group.relaunched)
    let s := s.setLaunch key { l with live := l.live - grid.length, gone := l.gone ++ grid.map (fun x => x.group.lin), away := [] }
    l.away.foldl (fun s x => x.warps.foldl (fun s p => s.postLeave (dieOf p.1) (leaveEntry p.2.block x.group.lin l.lidx 3)) s) s

/-- Ends every workgroup of a launch as R45 lays down; what is saved or waits in a pool is dropped, and nothing more is placed. -/
def State.endLaunch (s : State) (key : Nat) : State :=
  let s := (s.dropAway key).modLaunch key (fun l => { l with ending := true, placing := false, waiting := false, refused := none, reserve := none })
  let s := { s with rays := s.rays.filter (fun p => p.2.launch ≠ key) }
  let s := s.dies.foldl (fun s p => p.2.slots.foldl (fun s q =>
    if q.2.st = .dispatch key then s.modSlot p.1 q.1 (fun x => { x with st := .idle })
    else if q.2.st = .depend key then (s.dropDepend p.1 q.1).modSlot p.1 q.1 (fun x => { x with st := .idle }) else s) s) s
  (s.groups.filter (fun p => p.2.launch = key)).foldl (fun s p => s.endGroup p.1) s

/-- LAUNCH_TIMEOUT (R363). -/
def execLaunchTimeout (launch : Nat) (s : State) : Out :=
  .next (match s.launch? launch with
    | some l =>
      match l.started with
      | some t =>
        if l.timeout ≠ 0 && !l.ending && t + l.timeout * 2 ^ 20 ≤ s.rtime then (s.modLaunch launch (fun l => l.fail stTIMEOUT)).endLaunch launch else s
      | none => s
    | none => s)

/-! ## From Fetch to Dispatch (R359, R362) -/

/-- A record that breaks a rule completes with BADREC, and its slot goes Idle. -/
def State.badRecord (s : State) (d k key : Nat) : State :=
  let s := (s.modLaunch key (fun l => { l with placing := false, waiting := false }.fail stBADREC)).modSlot d k (fun x => { x with st := .idle })
  s.completeLaunch key

/-- A record enters Dispatch; a marker completes at once. A slot that has been halted keeps the launch's cursor. -/
def State.enterDispatch (s : State) (d k key : Nat) : State :=
  match s.launch? key with
  | none => s
  | some l =>
    if l.kind = 2 then
      let s := (s.modLaunch key (fun l => { l with placing := false, waiting := false })).modSlot d k (fun x => { x with st := .idle })
      s.completeLaunch key
    else
      let s := (s.modLaunch key (fun l => { l with waiting := false, cursor := false })).modSlot d k (fun x => { x with st := .dispatch key })
      if s.slotHalted d k then s.keepCursor d k else s

/-- The dependence of a launch has passed, as an acquire of its word (R124, R359): every later access of the launch follows what was released. -/
def State.dependPassed (s : State) (d k key : Nat) : State :=
  ({ s with cores := s.cores.each (fun c => { c with l1 := [] }), dies := s.dies.each (fun x => { x with sCopies := [] }) }).enterDispatch d k key

/-- What a look at the dependence word finds. -/
inductive DepLook where
  | bad (s : State)
  | pass (s : State)
  | no (s : State) (pa : Nat)

/-- Translates and tests the dependence word of a launch (R362). -/
def State.depTest (s : State) (d : Nat) (l : Launch) : DepLook :=
  let n := if l.depW64 then 8 else 4
  match s.xlatDie d l.root (BitVec.ofNat 64 l.depAddr) .read false with
  | (s, .fail _ _) => .bad s
  | (s, .ok pa pte addr) =>
    if !s.memReady pa then .bad s
    else
      let (s, v) := (s.touch addr false).homeRead (s.homeDie pa) (pteScope pte) pa n
      let mask := l.depMask % 2 ^ (8 * n)
      if watchPass l.depCmp (8 * n) v mask (l.depVal % 2 ^ (8 * n) &&& mask) then .pass s else .no s pa

/-- Arms the dependence of a launch, unless its word passes already. With the table full the slot polls. -/
def State.armDepend (s : State) (d k key : Nat) (l : Launch) : State :=
  match s.depTest d l with
  | .bad s => s.badRecord d k key
  | .pass s => s.dependPassed d k key
  | .no s pa =>
    let w := if l.depW64 then 64 else 32
    let mask : W64 := BitVec.ofNat 64 (l.depMask % 2 ^ w)
    let e : Watch := { cmp := l.depCmp, w64 := l.depW64, kind := 1, pa := pa, mask := mask, ref := BitVec.ofNat 64 l.depVal &&& mask,
                       waiter := d + k * 4, fired := false }
    let s := s.modSlot d k (fun x => { x with st := .depend key })
    match s.armWatch e with
    | some (_, _, s) => s
    | none => s

/-- Goes from Fetch to Depend or Dispatch. -/
def State.startRecord (s : State) (d k key : Nat) : State :=
  match s.launch? key with
  | none => s
  | some l => if l.depAddr ≠ 0 && l.waiting then s.armDepend d k key l else s.enterDispatch d k key

/-- The launch of a queue that dispatch left with its cursor (R391). -/
def State.cursorOf (s : State) (qid : Nat) : Option (Nat × Launch) := s.launches.pick (fun _ l => l.qid = qid && l.cursor && l.placing)

/-- The launch of a captured record, with what the front end keeps of the shadow. -/
def newLaunch (d k qid qcb : Nat) (sh : List Byte) (rec' : List W64) (lidx : Nat) : Launch :=
  { die := d, lidx := lidx, qid := qid, qcb := qcb, vif := shadowBits sh 145 140, root := shadowBits sh 239 208, prio := shadowBits sh 139 136, slot := k,
    record := rec', nextWg := 0, live := 0, status := 0, affmiss := 0, covcnt := 0, cursor := false, started := none, placing := true,
    timeout := shadowBits sh 191 160, fbase := BitVec.ofNat 64 (shadowBits sh 319 256), flog2 := shadowBits sh 323 320, ivec := shadowBits sh 347 332,
    groups := [], gdone := [], gone := [], placed := [], cov := [], relaunch := [], sent := none, moved := false, refused := none, reserve := none, away := [],
    ending := false, silent := false, waiting := true }

/-- The lowest free entry of a die's launch table. -/
def State.freeLidx (s : State) (d : Nat) : Option Nat := (List.range 1024).find? (fun i => (s.launch? (launchKey d i)).isNone)

/-- The watch entry of a slot's dependence: die and number. -/
def State.dependWatch (s : State) (d k : Nat) : Option (Nat × Nat × Watch) :=
  s.dies.findSome? (fun p => (p.2.watches.pick (fun _ e => e.kind = 1 && e.waiter = d + k * 4)).map (fun e => (p.1, e.1, e.2)))

/-- DEPENDENCE_FIRE (R362): the entry has met a passing value and is freed. -/
def execDependenceFire (die slot : Nat) (s : State) : Out :=
  .next (match (s.slot die slot).st, s.dependWatch die slot with
    | .depend key, some (d, i, e) => if e.fired then (s.freeWatch d i).dependPassed die slot key else s
    | _, _ => s)

/-- DEPENDENCE_POLL (R362): without an entry, the slot translates and reads the word again. -/
def execDependencePoll (die slot : Nat) (s : State) : Out :=
  .next (match (s.slot die slot).st, s.dependWatch die slot with
    | .depend key, none =>
      match s.launch? key with
      | some l =>
        match s.depTest die l with
        | .bad s => s.badRecord die slot key
        | .pass s => s.dependPassed die slot key
        | .no s _ => s
      | none => s
    | _, _ => s)

/-! ## What a workgroup starts with (R14, R38, R39, R42, R46) -/

/-- The level of a workgroup dispatched now. -/
def State.levelNow (s : State) (l : Launch) : Nat :=
  if l.coverage then covLevel (covPat l.cov) (fracOf (s.peekN (l.qcb + qcbCOV) 4 % 512)) else 0

/-- The lanes of one warp. -/
def Launch.plan (l : Launch) (blue : Nat → Nat) (probes : List (Nat × Nat × Nat)) (level lin w : Nat) : Plan :=
  let pt (i : Nat) : Nat × Nat × Nat := l.point lin w i
  let hit (i : Nat) : Bool := probes.contains (pt i)
  let real := maskOf (fun i => l.inside (pt i) && (!l.coverage || covComputed l.cov blue level (pt i).1 (pt i).2.1 || hit i))
  let help := maskOf (fun i => l.quad && !inMask real i && [0, 1, 2, 3].any (fun j => inMask real (i / 4 * 4 + j)))
  { exec := real ||| help, helpers := help, probes := maskOf (fun i => inMask real i && hit i) }

/-- The warps of a workgroup. -/
def State.plans (s : State) (l : Launch) (level lin : Nat) : List Plan :=
  let blue := s.blue l.die l.root l.cov
  let probes := if l.coverage then covProbes l.cov blue level lin else []
  (List.range l.warps).map (fun w => l.plan blue probes level lin w)

/-! ## Where a workgroup goes (R15, R29, R35) -/

/-- The address that decides a workgroup's home. -/
def Launch.affinityAddr (l : Launch) (lin : Nat) : W64 :=
  let (x, y, z) := l.coords lin
  BitVec.ofNat 64 (l.abase + x * l.asx + y * l.asy + z * l.asz)

/-- The home die of the page that holds an address, read as a walk does, with no trace (R35). -/
def State.homeOf (s : State) (l : Launch) (va : W64) : Option Nat :=
  if fld va 63 57 ≠ 0 then none
  else
    match s.walk l.die l.root va.toNat with
    | .leaf pte _ => if pteHole pte then none else some (s.homeDie (pteFrame pte * 65536))
    | .fail _ _ => none

/-- Workgroups of a launch assigned to a die and not ended. -/
def State.queuedOn (s : State) (key : Nat) (l : Launch) (d : Nat) : Nat :=
  (s.groups.filter (fun p => p.2.launch = key && !p.2.relaunched && dieOfCore p.2.core = d)).length
    + (l.away.filter (fun x => dieOfCore x.group.core = d)).length

/-- The die with the fewest queued workgroups, then the lowest number. -/
def State.leastQueued (s : State) (key : Nat) (l : Launch) : Nat :=
  [1, 2, 3].foldl (fun b d => if s.queuedOn key l d < s.queuedOn key l b then d else b) 0

/-- The die of a workgroup, with the affinity miss it makes. -/
def State.targetOf (s : State) (key : Nat) (l : Launch) (lin : Nat) : Nat × Bool :=
  if !l.affinity then (l.die, false)
  else
    match s.homeOf l (l.affinityAddr lin) with
    | some d => (d, false)
    | none => (s.leastQueued key l, true)

/-- The dies that share an edge with a die, lower number first (R4, R421). -/
def edgeDies (d : Nat) : List Nat := if d = 0 || d = 3 then [1, 2] else [0, 3]

/-- No continuation launch places a workgroup on a die one of whose pools is more than half full (R309). -/
def State.throttled (s : State) (d : Nat) : Bool :=
  s.launches.any (fun p => p.2.pooled && p.2.poolCap d < 2 * s.poolHeld p.1 d)

/-- A core of a die with no scratchpad allocated, that admits one member (R29). -/
def State.memberFits (s : State) (c : Nat) (a : Ask) : Bool := (s.core c).scrUse.isEmpty && (s.admits c a 0).isSome

/-- The first rectangle of a die that qualifies for a neighbourhood: its cores, in row-major order (R29). -/
def State.rectangle (s : State) (d : Nat) (l : Launch) (as : List Ask) : Option (List Nat) :=
  let cells (o : Nat) : List Nat := (List.range l.nbN).map (fun m => d * 48 + o + m / l.nbw * 8 + m % l.nbw)
  if !s.dieTakes l.vif d ((as.map (fun a => a.plans.length)).foldl (· + ·) 0) ((as.map Ask.count).foldl (· + ·) 0) then none
  else
    ((List.range 48).find? (fun o => o % 8 + l.nbw ≤ 8 && o / 8 + l.nbh ≤ 6
      && ((cells o).zip as).all (fun p => s.memberFits p.1 p.2))).map cells

/-! ## Passing workgroups (R39, R40, R42, R360) -/

/-- Records the level of a workgroup in the coverage map; `none` while the map's page is being copied. -/
def State.mapLevel (s : State) (l : Launch) (lin level : Nat) : State × Bool :=
  if !l.coverage then (s, true)
  else
    match s.feOpen l.die l.root (BitVec.ofNat 64 (l.covmap + lin)) with
    | (.ok s, pa, sc) => (s.writeMem (s.homeDie pa) sc pa [BitVec.ofNat 8 level], true)
    | (.wait s, _) | (.noFrame s, _) => (s, false)
    | (.fail s _ _, _) => (s, true)

/-- The launch after a workgroup was passed, dispatched or not. -/
def Launch.passed (l : Launch) (lin now : Nat) (placed : Bool) : Launch :=
  { l with placed := if lin = l.nextWg then l.placed else l.placed ++ [lin], nextWg := if lin = l.nextWg then l.nextWg + 1 else l.nextWg,
           live := if placed then l.live + 1 else l.live, gone := if placed then l.gone else l.gone ++ [lin],
           covcnt := if l.coverage then l.covcnt + 1 else l.covcnt, started := if placed then (match l.started with
             | some t => some t
             | none => some now) else l.started,
           sent := none, moved := false, refused := none, reserve := none }

/-- A workgroup is passed, and the controller steps where that makes 4,096 (R40). -/
def State.passGroup (s : State) (key lin : Nat) (placed : Bool) : State := (s.modLaunch key (fun l => l.passed lin s.rtime placed)).stepDue key

/-- Places one workgroup on a die, or passes it undispatched; `none` where no core admits it. -/
def State.placeOne (s : State) (key lin d q0 : Nat) (pick : List Nat) : Option State :=
  match s.launch? key with
  | none => none
  | some l =>
    let level := s.levelNow l
    let ps := s.plans l level lin
    let a := l.ask key ps
    if a.count = 0 then
      match s.mapLevel l lin level with
      | (s, true) => some ((s.passGroup key lin false).checkGbars key lin)
      | (s, false) => some s
    else
      match s.corePick d a q0 with
      | none => none
      | some (c, q) =>
        match s.mapLevel l lin level with
        | (s, true) => some ((s.place (s.newGroup c a lin (l.coords lin) level) a q pick (BitVec.ofNat 64 l.entry)).2.passGroup key lin true)
        | (s, false) => some s

/-- Places a neighbourhood in one step on a die; `none` where no rectangle qualifies. Member m takes digit m of `q0` to the base 4, and the slots
that `pick` names for it in its turn. -/
def State.placeNb (s : State) (key k d q0 : Nat) (pick : List Nat) : Option State :=
  match s.launch? key with
  | none => none
  | some l =>
    let level := s.levelNow l
    let lins := (List.range l.nbN).map (fun m => l.nbN * k + m)
    let as := lins.map (fun lin => l.ask key (s.plans l level lin))
    match s.rectangle d l as with
    | none => none
    | some cores =>
      let s := s.seqStart d ((as.map Ask.count).foldl (· + ·) 0)
      some (((List.range l.nbN).zip (cores.zip as)).foldl (fun s p =>
        let (m, c, a) := p
        let lin := l.nbN * k + m
        if a.count = 0 then (s.passGroup key lin false).checkGbars key lin
        else
          let g : Group := { s.newGroup c a lin (l.coords lin) level with nbK := k, nbM := m, nbW := l.nbw, nbH := l.nbh, nbCores := cores }
          let q := q0 / 4 ^ m
          (s.place g a ((s.admits c a q).getD q) (pick.drop (m * l.warps)) (BitVec.ofNat 64 l.entry)).2.passGroup key lin true) s)

/-- Places a workgroup, or the neighbourhood it begins, on the die chosen for it. A die whose pool for the launch is more than half full takes
none (R309). A neighbourhood without affinity tries the slot's die first, then the others in ascending order: DESIGN CHOICE (log 23), unsafe,
because R29 says one die and not which. -/
def State.placeUnit (s : State) (key lin d q0 : Nat) (pick : List Nat) : Option State :=
  match s.launch? key with
  | none => none
  | some l =>
    let on (d : Nat) : Option State :=
      if l.pooled && s.throttled d then none
      else if l.nbN = 0 then s.placeOne key lin d q0 pick else s.placeNb key (lin / l.nbN) d q0 pick
    if l.nbN = 0 || l.affinity then on d else (d :: [0, 1, 2, 3].filter (· ≠ d)).findSome? on

/-- The workgroups of a gang as units of placement: single workgroups, or the first members of neighbourhoods. -/
def Launch.gangUnits (l : Launch) : List Nat :=
  if l.nbN = 0 then l.gang else (l.gang.map (fun lin => lin / l.nbN * l.nbN)).eraseDups

/-- Places a whole gang in one step (R34, R36), or none of it. The choices of `q0` and `pick` go to its workgroups in turn. Where `loose`, a unit
without room at its home goes to a die that shares an edge with it (R35). -/
def placeGang (key : Nat) (loose : Bool) : List Nat → Nat → List Nat → State → Option State
  | [], _, _, s => some s
  | lin :: rest, q0, pick, s =>
    match s.launch? key with
    | none => none
    | some l =>
      let (d, miss) := s.targetOf key l lin
      let s := if miss then s.modLaunch key (fun l => { l with affmiss := l.affmiss + 1 }) else s
      let n := max 1 l.nbN
      match (if loose then d :: edgeDies d else [d]).findSome? (fun d => s.placeUnit key lin d q0 pick) with
      | some s => placeGang key loose rest (q0 / 4 ^ n) (pick.drop (n * l.warps)) s
      | none => none

/-- Opens the bytes of the coverage map that a gang's workgroups write, so that none of them waits in the middle of it. -/
def openMaps (l : Launch) : List Nat → State → State × Bool
  | [], s => (s, true)
  | lin :: rest, s =>
    match s.feOpen l.die l.root (BitVec.ofNat 64 (l.covmap + lin)) with
    | (.wait s, _) | (.noFrame s, _) => ((openMaps l rest s).1, false)
    | (.ok s, _) | (.fail s _ _, _) => openMaps l rest s

/-- The next workgroup to pass, which is none of those placed ahead. -/
def nextFree (placed : List Nat) (total : Nat) : Nat → Nat → Nat
  | 0, n => n
  | k + 1, n => if n < total && placed.contains n then nextFree placed total k (n + 1) else n

/-- Goes over the workgroups that were placed ahead. -/
def Launch.skipPlaced (l : Launch) : Launch := { l with nextWg := nextFree l.placed l.total (l.placed.length + 1) l.nextWg }

/-- A gang that is still to be placed. -/
def Launch.gangDue (l : Launch) : Bool := l.gangSize ≠ 0 && l.placed.isEmpty && l.nextWg = 0

/-- Everything of a launch has been passed: its slot goes Idle (R359). -/
def State.finishPlacing (s : State) (key : Nat) : State :=
  match s.launch? key with
  | some l =>
    let l' := l.skipPlaced
    if l'.total ≤ l'.nextWg then
      let s := s.setLaunch key { l' with placing := false }
      (if (s.slot l.die l.slot).st = .dispatch key then s.modSlot l.die l.slot (fun x => { x with st := .idle }) else s).rereadWr l.qid
    else s.modLaunch key (fun l => l.skipPlaced)
  | none => s

/-- How a launch's offer ends. -/
inductive Offer where
  | placed (s : State)
  | refused (s : State)

/-- Marks the next workgroup of a launch as refused since now. -/
def State.markRefused (s : State) (key d : Nat) : State :=
  s.modLaunch key (fun l => match l.refused with
    | some _ => l
    | none => { l with refused := some (s.clk d) })

/-- Some core of a die is ready. -/
def State.anyReady (s : State) (d : Nat) : Bool := (List.range 48).any (fun c => s.coreReady (d * 48 + c))

/-- Nothing more of a launch is placed: its strict home has no ready core (R360). -/
def State.noHome (s : State) (key : Nat) : State :=
  (s.modLaunch key (fun l => { l.fail stNOT_READY with nextWg := l.total, sent := none, refused := none, reserve := none })).finishPlacing key

/-- Offers the gang of a launch. -/
def State.offerGang (s : State) (key d q0 : Nat) (pick : List Nat) (l : Launch) : Offer :=
  if l.affinity && l.strict && l.gangUnits.any (fun lin => !s.anyReady (s.targetOf key l lin).1) then .placed (s.noHome key)
  else
    match openMaps l (if l.coverage then l.gang else []) s with
    | (s, false) => .refused s
    | (s, true) =>
      match placeGang key (l.affinity && l.moved) l.gangUnits q0 pick s with
      | some s => .placed (s.finishPlacing key)
      | none => .refused (s.markRefused key d)

/-- Offers the next workgroup of a launch to the dispatcher of a die (R360). A launch whose strict home has no ready core ends with
NOT_READY. -/
def State.offer (s : State) (key d q0 : Nat) (pick : List Nat) : Offer :=
  match s.launch? key with
  | none => .refused s
  | some l =>
    if l.gangDue then s.offerGang key d q0 pick l
    else
      let lin := l.nextWg
      let (t, miss) := match l.sent with
        | some t => (t, false)
        | none => s.targetOf key l lin
      let s := if l.affinity && l.sent.isNone then s.modLaunch key (fun l => { l with sent := some t, affmiss := l.affmiss + (if miss then 1 else 0) }) else s
      if l.affinity && l.strict && !s.anyReady t then .placed (s.noHome key)
      else if t ≠ d then .refused s
      else
        match s.placeUnit key lin d q0 pick with
        | some s => .placed (s.finishPlacing key)
        | none => .refused (s.markRefused key d)

/-! ## The checks of a launch (R356) -/

/-- The package with nothing resident and everything ready, and one launch, for the test of R34 and R36. -/
def State.emptied (s : State) (key : Nat) (l : Launch) : State :=
  let regs (x : Die) : AMap DieReg W64 := (((x.regs.put .dready (-1)).put (.vifshare l.vif) (-1)).put .ctxahead 0).put .ctxatail 6144
  let full (x : Die) : Die := { x with nextSeq := 0, stall := none, slots := [], regs := regs x }
  { s with warps := [], groups := [], cores := [], rays := [], fatal := false, launches := [(key, l)], dies := [0, 1, 2, 3].map (fun d => (d, full (s.die d))) }

/-- The workgroups that a launch places at once could all be resident, were nothing else (R34, R356). -/
def State.gangFits (s : State) (l : Launch) : Bool :=
  let key := launchKey l.die l.lidx
  (placeGang key (l.affinity && !l.strict) l.gangUnits 0 [] (s.emptied key l)).isSome

/-- The relaunch table of a continuation launch has nothing but zeros in its reserved bytes, and its pools are well formed (R305). -/
def Launch.poolsOk (l : Launch) : Bool :=
  !l.pooled || (recBits l.relaunch 2047 1984 = 0 && recBits l.relaunch 1983 1920 = 0 && recBits l.relaunch 1919 1856 = 0
    && recBits l.relaunch 1855 1792 = 0 && recBits l.relaunch 1791 1728 = 0 && recBits l.relaunch 1727 1664 = 0
    && recBits l.relaunch 1663 1600 = 0 && recBits l.relaunch 1599 1536 = 0
    && [0, 1, 2, 3].all (fun d =>
      let b := (l.relaunch.getD (16 + 2 * d) 0).toNat
      let c := (l.relaunch.getD (17 + 2 * d) 0).toNat
      b % 65536 = 0 && 12 ≤ c && c ≤ 24))

/-- Reads what a launch names and makes the checks of R356; `none` where one fails. -/
def State.checkLaunch (s : State) (d : Nat) (l : Launch) : State × Option Launch :=
  if !l.fieldsOk then (s, none)
  else
    let va (n : Nat) : W64 := BitVec.ofNat 64 n
    let rd (s : State) (on : Bool) (a n : Nat) : State × Option (List Byte) :=
      if on then
        match s.readVa d l.root (va a) false n with
        | (s, .ok b) => (s, some b)
        | (s, .error _) => (s, none)
      else (s, some [])
    match rd s l.coverage l.covrec 64 with
    | (s, none) => (s, none)
    | (s, some cb) =>
      match rd s (l.gtab ≠ 0) l.gtab (16 * l.groupCount) with
      | (s, none) => (s, none)
      | (s, some gb) =>
        match readGroups d l.root (if l.gtab = 0 then 0 else l.groupCount) gb s with
        | (s, none) => (s, none)
        | (s, some gs) =>
          match rd s l.pooled l.relTable 256 with
          | (s, none) => (s, none)
          | (s, some rb) =>
            let l := { l with cov := if l.coverage then dwords cb 8 else [], groups := gs, gdone := gs.map (fun _ => 0),
                              relaunch := if l.pooled then dwords rb 32 else [] }
            (s, if (l.coverage && !l.covOk) || !l.groupsOk || !l.poolsOk || !s.gangFits l then none else some l)

/-- Reads record RD of a slot (R352, R355, R356, R359). -/
def State.fetchRecord (s : State) (d k : Nat) (sh : List Byte) : State :=
  let x := s.slot d k
  let a := s.slotQcb d k
  match s.freeLidx d with
  | none => s.modSlot d k (fun x => { x with st := .fetch })
  | some i =>
    let key := launchKey d i
    let va := BitVec.ofNat 64 (shadowBits sh 127 64 + x.rd.toNat % 2 ^ shadowBits sh 132 128 * 256)
    let new (r : List W64) : Launch := newLaunch d k (fld (s.dieReg d (.slotq k)) 11 0) a sh r i
    let s := (s.modSlot d k (fun x => { x with rd := x.rd + 1, st := .fetch })).pokeN (a + qcbRD) 4 ((x.rd.toNat + 1) % 2 ^ 32)
    match s.readVa d (shadowBits sh 239 208) va false 256 with
    | (s, .error _) => (s.setLaunch key (new (List.replicate 32 0))).badRecord d k key
    | (s, .ok b) =>
      let l := new (dwords b 32)
      let s := s.setLaunch key l
      if !l.recordOk then s.badRecord d k key
      else if l.kind = 2 then s.startRecord d k key
      else
        match s.checkLaunch d l with
        | (s, none) => s.badRecord d k key
        | (s, some l) => (s.setLaunch key l).startRecord d k key

/-- RECORD_FETCH (R359): an idle slot with an accepted shadow finishes a launch that was halted, or reads its next record. -/
def execRecordFetch (die slot : Nat) (s : State) : Out :=
  .next (let x := s.slot die slot
    if !(x.st = .idle || x.st = .fetch) || x.retry || s.slotHalted die slot || !s.feReady die || s.fatal || (s.die die).stall.isSome then s
    else
      match x.shadow with
      | none => s
      | some sh =>
        let a := s.slotQcb die slot
        match s.cursorOf (fld (s.dieReg die (.slotq slot)) 11 0) with
        | some (key, _) =>
          (s.modLaunch key (fun l => { l with die := die, slot := slot, prio := shadowBits sh 139 136, cursor := false, sent := none })).startRecord die slot key
        | none =>
          let s1 := if x.kicked then s.modSlot die slot (fun x => { x with kicked := false, wr := BitVec.ofNat 32 (s.peekN (a + qcbWR) 4) }) else s
          if (s1.slot die slot).rd = (s1.slot die slot).wr then s1 else s1.fetchRecord die slot sh)

/-! ## The dispatcher (R360) -/

/-- The launches in Dispatch whose next workgroup a die's dispatcher serves: slots of the die, and workgroups sent to it; with the priority of
the slot's accepted shadow. -/
def State.served (s : State) (d : Nat) : List (Nat × Nat × Nat) :=
  s.dies.flatMap (fun p => p.2.slots.filterMap (fun q => match q.2.st with
    | .dispatch key =>
      match s.launch? key with
      | some l =>
        let prio := match q.2.shadow with
          | some sh => shadowBits sh 139 136
          | none => l.prio
        if l.sent.getD p.1 = d then some (key, prio, (q.1 + 32 - ((s.die d).lastSlot + 1) % 32) % 32) else none
      | none => none
    | _ => none))

/-- Highest priority first, then round robin from the slot served last. -/
def insertServed (x : Nat × Nat × Nat) : List (Nat × Nat × Nat) → List (Nat × Nat × Nat)
  | [] => [x]
  | y :: ys => if y.2.1 < x.2.1 || (y.2.1 = x.2.1 && x.2.2 < y.2.2) then x :: y :: ys else y :: insertServed x ys

/-- Offers each launch in turn until one is placed. A launch that R35 assigns to another die is left to that die. -/
def offerAll (d q0 : Nat) (pick : List Nat) : List Nat → State → State
  | [], s => s
  | key :: rest, s =>
    match s.offer key d q0 pick with
    | .placed s' =>
      match s'.launch? key with
      | some l => s'.modDie d (fun x => { x with lastSlot := l.slot })
      | none => s'
    | .refused s' => offerAll d q0 pick rest s'

/-- WORKGROUP_DISPATCH (R15, R360): the dispatcher of a die places one workgroup, one neighbourhood or one gang. `q0` and `pick` stand
for the choice of quadrant and slots that nothing determines. -/
def execWorkgroupDispatch (die q0 : Nat) (pick : List Nat) (s : State) : Out :=
  .next (if die < 4 && (s.dieReg die .dready).getLsbD 23 && !s.fatal then
      offerAll die q0 pick (((s.served die).foldr insertServed []).map (fun (x : Nat × Nat × Nat) => x.1)) s
    else s)

/-- AFFINITY_TIMEOUT (R35): a loose workgroup whose home die has had no room for 4,096 cycles goes to a neighbouring die with room; the units of
a gang may then do so. -/
def execAffinityTimeout (launch : Nat) (s : State) : Out :=
  .next (match s.launch? launch with
    | some l =>
      match l.refused with
      | some t =>
        let h := l.sent.getD l.die
        if !l.affinity || l.strict || !l.placing || l.moved || s.clk h < t + 4096 then s
        else if l.gangDue then s.modLaunch launch (fun l => { l with moved := true })
        else
          match (edgeDies h).find? (fun d => (s.placeUnit launch l.nextWg d 0 []).isSome) with
          | some d => s.modLaunch launch (fun l => { l with sent := some d, moved := true, refused := none })
          | none => s
      | none => s
    | none => s)

/-- A core as it would be with nothing on it. -/
def State.cleared (s : State) (c : Nat) : State :=
  { s with warps := s.warps.filter (fun p => coreOf p.1 ≠ c),
           cores := s.cores.put c { s.core c with split := [], tiles := [], tileUse := [], scrUse := [], accUse := [] } }

/-- A core could admit the next workgroup of a launch if it were emptied. -/
def State.couldAdmit (s : State) (c key : Nat) (l : Launch) : Bool :=
  ((s.cleared c).admits c (l.ask key (s.plans l (s.levelNow l) l.nextWg)) 0).isSome

/-- DISPATCH_RESERVATION (R360). -/
def execDispatchReservation (launch : Nat) (s : State) : Out :=
  .next (match s.launch? launch with
    | some l =>
      let d := l.sent.getD l.die
      match l.refused with
      | some t =>
        if !l.placing || l.reserve.isSome || s.clk d < t + 2 ^ 20 then s
        else
          match ((List.range 48).map (fun i => d * 48 + i)).find? (fun c => s.couldAdmit c launch l) with
          | some c => s.modLaunch launch (fun l => { l with reserve := some c })
          | none => s
      | none => s
    | none => s)

/-! ## The relaunch unit (R309) -/

/-- RELAUNCH_TIMEOUT (R309): a warp of the ready records of a key starts, because it holds 32, or because 256 cycles have passed since
the last arrived. -/
def execRelaunchTimeout (die launch rpc slot : Nat) (s : State) : Out :=
  .next (let rs := s.readyRays die launch rpc
    let last := (rs.map (fun p => p.2.stamp)).foldl max 0
    if rs.isEmpty || !(s.dieReg die .dready).getLsbD 22 || (rs.length < 32 && s.clk die < last + 256) then s
    else s.relaunch die launch rpc slot)

end Sys2Proof.Machine
end

