-- ==== Sys2Proof/Machine/Norem.lean ====
section
/-! DEFINITION. Norem's part of the queues (R350, R351, R364, R366 to R370): registration, updates of a QCB, mapping and unmapping, the mapping
policy, the lease with its takeover and repairs, and the watch entries of interrupts. -/

namespace Sys2Proof.Machine

/-! ## Updates of a QCB (R351) -/

/-- MAPPED, DIE and SLOT of the working area. -/
def State.qcbMapped (s : State) (q : Queue) : Bool := bitOf (s.peekN (q.qcb + 40) 1) 4
def State.qcbPrio (s : State) (q : Queue) : Nat := bits (s.peekN (q.qcb + 17) 1) 3 0
def State.qcbPend (s : State) (q : Queue) : Bool := bitOf (s.peekN (q.qcb + qcbPEND) 1) 0
def State.qcbAge (s : State) (q : Queue) : Nat := bits (s.peekN (q.qcb + qcbPEND) 1) 4 1

/-- Writes PEND and AGE. -/
def State.setPend (s : State) (q : Queue) (pend : Bool) (age : Nat) : State :=
  s.pokeN (q.qcb + qcbPEND) 1 ((if pend then 1 else 0) + age % 16 * 2)

/-- The die that holds the lease, where its control core is running Norem for the package: as the leader, or in the repairs that come first. -/
def State.noremDie (s : State) : Option Nat :=
  let l := s.pkgReg .lease
  let d := fld l 1 0
  if l.getLsbD 2 && ((s.die d).role = .leader || (s.die d).role = .taking) && (s.dieReg d .dready).getLsbD 24 then some d else none

/-- The die whose control core leads: it has made its repairs. -/
def State.leader (s : State) : Option Nat := s.noremDie.filter (fun d => (s.die d).role = .leader)

/-- The lease holder's control core hangs. -/
def State.hang (s : State) (d : Nat) : State := { s with cut := none }.modDie d (fun x => { x with role := .hung s.rtime })

/-- The lease holder's control core has hung, and nothing of Norem's goes on. -/
def State.noremHung (s : State) : Bool :=
  (s.pkgReg .lease).getLsbD 2 && (match (s.die (fld (s.pkgReg .lease) 1 0)).role with
    | .hung _ => true
    | .follower | .taking | .leader => false)

/-- The writes of an update, in order. -/
def qcbWrites (q : Queue) (seq : Nat) (change : State → State) : List (State → State) :=
  let word (o n : Nat) (s : State) : State := s.pokeN (q.qcb + o) 4 (n % 2 ^ 32)
  [word qcbSEQ (seq + 1), change, word qcbSEQ (seq + 2), word qcbSHSEQ (seq + 1), fun s => s.poke (q.qcb + qcbSHADOW) (s.peek (q.qcb + 4) 60),
   word qcbSHSEQ (seq + 2)]

/-- An update of a QCB, and whether it was finished. A core that hangs in it leaves it after the first of its writes; otherwise they are made in one
step: DESIGN CHOICE (log 20), safe, because a slot that read in the middle would read again (R351). -/
def State.updateQcb (s : State) (q : Queue) (change : State → State) : State × Bool :=
  let ws := qcbWrites q (s.peekN (q.qcb + qcbSEQ) 4) change
  match s.cut, s.noremDie with
  | some n, some d =>
    if n < ws.length then (((ws.take n).foldl (fun s f => f s) s).hang d, false)
    else (ws.foldl (fun s f => f s) { s with cut := some (n - ws.length) }, true)
  | _, _ => (ws.foldl (fun s f => f s) s, true)

/-- Writes MAPPED, DIE and SLOT in the working area. -/
def State.writeMapped (s : State) (q : Queue) (mapped : Bool) (d k : Nat) : State :=
  let w : W64 := BitVec.ofNat 64 (s.peekN (q.qcb + 40) 2)
  s.pokeN (q.qcb + 40) 2 (setFld w 11 4 ((if mapped then 1 else 0) + d % 4 * 2 + k % 32 * 8)).toNat

/-! ## Mapping and unmapping (R366) -/

/-- Records wait in a queue: WR against RD as its slot counts it, or as the QCB holds it. -/
def State.hasWork (s : State) (q : Queue) : Bool :=
  let wr := s.peekN (q.qcb + qcbWR) 4
  match s.slotOf q.qid with
  | some (d, k) => (s.slot d k).rd.toNat ≠ wr
  | none => s.peekN (q.qcb + qcbRD) 4 ≠ wr

/-- Maps a queue onto a free slot. -/
def State.mapQueue (s : State) (q : Queue) (d k : Nat) : State :=
  match s.updateQcb q (fun s => s.writeMapped q true d k) with
  | (s, true) => (s.loadSlot d k q.qid q.qcb).setPend q false 0
  | (s, false) => s

/-- Unmaps the queue of a slot: HALT, and once the slot is idle the rest. The slot of a record in Depend stays until it is. -/
def State.unmapSlot (s : State) (d k : Nat) : State :=
  let s := s.haltSlot d k
  if (s.slot d k).st ≠ .idle then s
  else
    let qid := fld (s.dieReg d (.slotq k)) 11 0
    let s := s.unloadSlot d k
    match s.queue? qid with
    | none => s
    | some q =>
      match s.updateQcb q (fun s => s.writeMapped q false (bits (s.peekN (q.qcb + 40) 2) 6 5) (bits (s.peekN (q.qcb + 40) 2) 11 7)) with
      | (s, true) => if s.hasWork q then s.setPend q true 0 else s
      | (s, false) => s

/-! ## The mapping policy (R367) -/

/-- A queue that waits to be mapped. -/
def State.pendingQueue (s : State) (q : Queue) : Bool :=
  s.qcbEn q && s.qcbPend q && (s.slotOf q.qid).isNone && s.vifState (s.qcbVif q) = vifActive

/-- MP of a queue. -/
def State.mapPrio (s : State) (q : Queue) : Nat := s.qcbPrio q + s.qcbAge q

/-- The best of a list by a test that says which of two goes first. -/
def bestOf {α : Type} (first : α → α → Bool) : List α → Option α
  | [] => none
  | x :: xs => some (xs.foldl (fun b y => if first y b then y else b) x)

/-- Slots of a die that an interface's share gives. -/
def State.shareSlots (s : State) (d vif : Nat) : List Nat := (List.range 32).filter (fun k => (s.dieReg d (.vifshare vif)).getLsbD k)

/-- The pending queue of an interface that is mapped first: highest MP, then lowest QID. -/
def State.nextPending (s : State) (vif : Nat) : Option Queue :=
  bestOf (fun a b => s.mapPrio b < s.mapPrio a || (s.mapPrio a = s.mapPrio b && a.qid < b.qid))
    (s.queues.filter (fun q => s.pendingQueue q && s.qcbVif q = vif))

/-- The queues mapped on an interface's slots of a die, by slot. -/
def State.mappedOn (s : State) (d vif : Nat) : List (Nat × Queue) :=
  (s.shareSlots d vif).filterMap (fun k =>
    if (s.slot d k).st = .unloaded then none else (s.queue? (fld (s.dieReg d (.slotq k)) 11 0)).map (fun q => (k, q)))

/-- The mapped queue that gives way first: lowest PRIO, then lowest QID. -/
def State.weakest (s : State) (qs : List (Nat × Queue)) : Option (Nat × Queue) :=
  bestOf (fun a b => s.qcbPrio a.2 < s.qcbPrio b.2 || (s.qcbPrio a.2 = s.qcbPrio b.2 && a.2.qid < b.2.qid)) qs

/-- Steps 2 and 3 over the slots of one die that one interface's share gives, as long as there is a leader. -/
def mapShare (d vif : Nat) : Nat → State → State
  | 0, s => s
  | n + 1, s =>
    match s.leader, s.nextPending vif with
    | none, _ | _, none => s
    | some _, some c =>
      match (s.shareSlots d vif).find? (fun k => (s.slot d k).st = .unloaded) with
      | some k => mapShare d vif n (s.mapQueue c d k)
      | none =>
        let on := s.mappedOn d vif
        let idle := on.filter (fun p => !s.hasWork p.2)
        let victim := match s.weakest idle with
          | some v => some v
          | none => (s.weakest on).filter (fun v => 4 + s.qcbPrio v.2 ≤ s.mapPrio c)
        match victim with
        | none => s
        | some (k, _) =>
          let s := s.unmapSlot d k
          if (s.slot d k).st = .unloaded && s.leader.isSome then mapShare d vif n (s.mapQueue c d k) else s

/-- Slots that were halted and have gone idle since are unmapped first. -/
def State.finishUnmaps (s : State) : State :=
  s.dies.foldl (fun s p => p.2.slots.foldl (fun s q =>
    if s.leader.isSome && q.2.st = .idle && s.slotHalted p.1 q.1 && ((s.queue? (fld (s.dieReg p.1 (.slotq q.1)) 11 0)).any (s.qcbMapped ·)) then s.unmapSlot p.1 q.1 else s) s) s

/-- Steps 2 and 3 for every die and interface. -/
def State.mappingPass (s : State) : State :=
  let vifs := ((s.queues.map s.qcbVif).eraseDups)
  [0, 1, 2, 3].foldl (fun s d => vifs.foldl (fun s v => mapShare d v (s.queues.length + 1) s) s) s.finishUnmaps

/-- Step 1: pending queues age. -/
def State.ageQueues (s : State) : State :=
  s.queues.foldl (fun s q =>
    if (s.slotOf q.qid).isNone && s.qcbPend q && s.qcbEn q then s.setPend q true (min 15 (s.qcbAge q + 1)) else s) s

/-- NOREM_MAPPING_PASS (R367): the leader's mailbox reports a kick, and the report is cleared. -/
def execNoremMappingPass (s : State) : Out :=
  .next (match s.leader with
    | some d => if (s.dieReg d .mbox).getLsbD 32 then (s.setDieReg d .mbox (setFld (s.dieReg d .mbox) 32 32 0)).mappingPass else s
    | none => s)

/-! ## The lease (R368 to R370) -/

/-- A claim is applied: the register is free, the claimer's own, or stale. -/
def State.claimOk (s : State) (d : Nat) : Bool :=
  let l := s.pkgReg .lease
  !l.getLsbD 2 || fld l 1 0 = d || 5000000 < (s.rtime + 2 ^ 56 - fld l 63 8) % 2 ^ 56

/-- The part a control core plays once die `die` has claimed: the others follow, a core that hangs goes on hanging, and one that was no leader has
its repairs to make first (R370). -/
def Role.afterClaim (r : Role) (mine : Bool) : Role :=
  match r, mine with
  | .hung t, _ => .hung t
  | .follower, true => .taking
  | r, true => r
  | _, false => .follower

/-- A claim write of the lease by a die (R368). -/
def State.claimLease (s : State) (die : Nat) : State :=
  if !s.claimOk die then s
  else
    [0, 1, 2, 3].foldl (fun s d =>
        let r := (s.die d).role.afterClaim (d = die)
        if (s.die d).role = r then s else s.modDie d (fun x => { x with role := r }))
      (s.setPkgReg .lease (BitVec.ofNat 64 (die + 4 + s.rtime % 2 ^ 56 * 2 ^ 8)))

/-- LEASE_CLAIM (R368). -/
def execLeaseClaim (die : Nat) (s : State) : Out := .next (if 4 ≤ die then s else s.claimLease die)

/-- A tick of RTIME that Norem has not yet had (R367). -/
def State.tickDue (s : State) : Bool := s.ticked < s.rtime / 1000000

/-- A follower claims at a tick where the last claim is more than 5 ms old (R368). -/
def State.followerTick (s : State) (d : Nat) : State :=
  if (s.die d).role = .follower && !(s.die d).failed && (s.dieReg d .dready).getLsbD 24
      && 5000000 < (s.rtime + 2 ^ 56 - fld (s.pkgReg .lease) 63 8) % 2 ^ 56 then s.claimLease d
  else s

/-- NOREM_MAPPING_TICK (R367, R368): the next tick of 1 ms. The lease holder claims again, and as the leader it ages the queues and maps; where
Norem runs on no holder, the followers claim in an order that nothing determines. -/
def execNoremMappingTick (s : State) : Out :=
  .next (if !s.tickDue then s
    else
      let s := { s with ticked := s.ticked + 1 }
      match s.noremDie with
      | some d =>
        let s := s.claimLease d
        if s.leader.isSome then s.ageQueues.mappingPass else s
      | none => ((List.range 4).map (fun i => (i + s.choice 4) % 4)).foldl State.followerTick s |>.tickFree)

/-- The slot whose register names a queue, VALID. -/
def State.namedSlot (s : State) (q : Queue) : Option (Nat × Nat) := s.slotOf q.qid

/-- Repairs one QCB. -/
def State.repairQcb (s : State) (q : Queue) : State :=
  let seq := s.peekN (q.qcb + qcbSEQ) 4
  let s :=
    if seq % 2 = 1 then
      let s := s.poke (q.qcb + 4) (s.peek (q.qcb + qcbSHADOW) 60)
      let s := match s.namedSlot q with
        | some (d, k) => s.writeMapped q true d k
        | none => s.writeMapped q false (bits (s.peekN (q.qcb + 40) 2) 6 5) (bits (s.peekN (q.qcb + 40) 2) 11 7)
      let n := (seq + 1) % 2 ^ 32
      let s := (s.pokeN (q.qcb + qcbSEQ) 4 n).poke (q.qcb + qcbSHADOW) (s.peek (q.qcb + 4) 60)
      s.pokeN (q.qcb + qcbSHSEQ) 4 n
    else if s.peekN (q.qcb + qcbSHSEQ) 4 ≠ seq then
      (s.poke (q.qcb + qcbSHADOW) (s.peek (q.qcb + 4) 60)).pokeN (q.qcb + qcbSHSEQ) 4 seq
    else s
  if !s.qcbMapped q && s.hasWork q then s.setPend q true (s.qcbAge q) else s

/-- A slot that is VALID though its queue has MAPPED = 0. -/
def State.strayAt (s : State) (d k : Nat) : Bool :=
  (s.slot d k).st ≠ .unloaded && (s.queue? (fld (s.dieReg d (.slotq k)) 11 0)).any (fun x => !s.qcbMapped x)

/-- The slots of the package that are VALID though their queues have MAPPED = 0. -/
def State.strays (s : State) : List (Nat × Nat) :=
  s.dies.flatMap (fun p => (p.2.slots.filter (fun q => s.strayAt p.1 q.1)).map (fun q => (p.1, q.1)))

/-- LEADER_REPAIR (R370): a new leader's repairs. It runs no tick until every slot that it is to unmap is unmapped. -/
def execLeaderRepair (die : Nat) (s : State) : Out :=
  .next (if s.noremDie = some die && (s.die die).role = .taking then
      let s := s.queues.foldl State.repairQcb s
      let s := s.strays.foldl (fun s p => if s.noremHung then s else s.unmapSlot p.1 p.2) s
      if s.noremHung || !s.strays.isEmpty then s else s.modDie die (fun x => { x with role := .leader })
    else s)

/-- A core that has hung for 2 ms, in which it did not service its watchdog (R369). -/
def State.watchdogDue (s : State) (d : Nat) : Bool :=
  match (s.die d).role with
  | .hung t => t + 2000000 ≤ s.rtime
  | .follower | .taking | .leader => false

/-- CONTROL_CORE_WATCHDOG (R369): the core restarts alone, as a follower, and MBOX.WDOG is set. -/
def execControlCoreWatchdog (die : Nat) (s : State) : Out :=
  .next (if die < 4 then (s.setDieReg die .mbox (setFld (s.dieReg die .mbox) 33 33 1)).modDie die (fun x => { x with role := .follower }) else s)

/-! ## Registration and interrupt watches (R350, R364) -/

/-- Registers a queue: its QCB is 256-byte aligned memory that names it, and no other queue has its number. -/
def State.registerQueue (s : State) (qid qcb : Nat) : State :=
  let q : Queue := { qid := qid, qcb := qcb }
  if 4096 ≤ qid || qcb % 256 ≠ 0 || !(isHbm qcb || isSystem qcb) || bits (s.peekN (qcb + 18) 2) 15 4 ≠ qid || (s.queue? qid).isSome then s
  else { s with queues := s.queues ++ [q] }

/-- QUEUE_REGISTER (R350). -/
def execQueueRegister (qid qcb : Nat) (s : State) : Out := .next (s.registerQueue qid qcb)

/-- A watch entry as Norem reads it through its register window (R364), as four dwords; a free one reads zero. -/
def State.watchWindow (s : State) (d k : Nat) : List W64 :=
  match (s.die d).watches.find? k with
  | none => [0, 0, 0, 0]
  | some e => [BitVec.ofNat 64 (1 + e.cmp * 2 + (if e.w64 then 16 else 0) + e.kind * 32 + e.pa * 256), e.mask, e.ref, BitVec.ofNat 64 e.waiter]

/-- INTERRUPT_WATCH_ARM (R364): the word is tested as WATCH tests it; where it passes the entry is raised at once, and where the table
is full nothing is armed, and Norem's register reports 1 as WATCH does. -/
def execInterruptWatchArm (vif entry cmp : Nat) (w64 : Bool) (pa : Nat) (ref mask : W64) (s : State) : Out :=
  .next (let n := if w64 then 8 else 4
    if 64 ≤ vif || 2 ^ 16 ≤ entry || 7 ≤ cmp || pa % n ≠ 0 || !(isHbm pa || isSystem pa) || s.vifState vif ≠ vifActive then s
    else
      let m : W64 := BitVec.ofNat 64 (mask.toNat % 2 ^ (8 * n))
      let s := s.unU pa
      if watchPass cmp (8 * n) (s.peekN pa n) m.toNat (ref &&& m).toNat then { s.raise vif entry with mailbox := .watch 0 }
      else
        match s.armWatch { cmp := cmp, w64 := w64, kind := 2, pa := pa, mask := m, ref := ref &&& m, waiter := vif + entry * 64, fired := false } with
        | some (_, _, s) => { s with mailbox := .watch 0 }
        | none => { s with mailbox := .watch 1 })

end Sys2Proof.Machine
end

