-- ==== Sys2Proof/Machine/Vif.lean ====
section
/-! DEFINITION. Virtual interfaces (R373 to R379): the delivery of unmasked interrupts, activation, teardown, and the refusal of a die
reset. -/

namespace Sys2Proof.Machine

/-! ## Interrupts that were masked (R375) -/

/-- Clears PEND of a message-table entry. -/
def State.clearPend (s : State) (e : Nat) : State := s.pokeN (e + 12) 1 (s.peekN (e + 12) 1 % 256 - (if bitOf (s.peekN (e + 12) 1) 1 then 2 else 0))

/-- INTERRUPT_UNMASK_DELIVERY (R375): software has cleared MASK of an entry with PEND set; its message is written once. -/
def execInterruptUnmaskDelivery (vif entry : Nat) (s : State) : Out :=
  .next (let e := s.imtEntry vif entry
    if 64 ≤ vif || s.vifState vif ≠ vifActive || fld (s.pkgReg (.vifimt vif)) 63 48 ≤ entry || !s.entryReadable e || s.peekN (e + 12) 1 % 4 ≠ 2 then s
    else
      let s1 := s.clearPend e
      if !isSystem (s1.peekN e 8) || s1.peekN (e + 12) 4 / 4 ≠ 0 then s1.irqDrop vif else s1.sendMessage e)

/-! ## Activation and teardown (R377) -/

def State.setVifState (s : State) (i v : Nat) : State := s.setPkgReg (.vifcfg i) (setFld (s.pkgReg (.vifcfg i)) 1 0 v)

/-- VIF_ACTIVATE (R377): ACT written while Free. -/
def State.activate (s : State) (vif : Nat) : State :=
  if vif < 64 && s.vifState vif = vifFree then (s.setVifState vif vifActive).setPkgReg (.vifcnt vif) 0 else s

def execVifActivate (vif : Nat) (s : State) : Out := .next (s.activate vif)

/-- TEAR written while Active: PEND is cleared in every entry of the table. -/
def State.tear (s : State) (vif : Nat) (addr : Option Nat) : State :=
  if vif < 64 && s.vifState vif = vifActive then
    let s := s.setVifState vif vifTearing
    let s := (List.range (fld (s.pkgReg (.vifimt vif)) 63 48)).foldl (fun s v =>
      if inHole (s.imtEntry vif v) then s else s.clearPend (s.imtEntry vif v)) s
    { s with teardowns := s.teardowns ++ [{ vif := vif, step := 0, addr := addr }] }
  else s

/-- VIF_TEAR (R377). -/
def execVifTear (vif addr : Nat) (s : State) : Out := .next (s.tear vif (some addr))

/-- The queues of an interface, and the roots of its address spaces. -/
def State.vifQueues (s : State) (vif : Nat) : List Queue := s.queues.filter (fun q => s.qcbVif q = vif)
def State.vifRoots (s : State) (vif : Nat) : List Nat :=
  ((s.vifQueues vif).map (fun q => bits (s.peekN (q.qcb + 24) 8) 47 16) ++ (s.launches.filter (fun p => p.2.vif = vif)).map (fun p => p.2.root)).eraseDups

/-- Step 1: every slot that holds a queue of the interface is unloaded as R366 lays down: it is halted, and once it is idle the rest follows. Norem
does nothing while the core that holds the lease hangs. -/
def State.tearSlots (s : State) (vif : Nat) : State :=
  (s.vifQueues vif).foldl (fun s q => match s.slotOf q.qid with
    | some (d, k) => if s.noremHung then s else s.unmapSlot d k
    | none => s) s

/-- No slot holds a queue of an interface. -/
def State.slotsGone (s : State) (vif : Nat) : Bool := (s.vifQueues vif).all (fun q => (s.slotOf q.qid).isNone)

/-- Step 2: the workgroups of the interface end, with no record, and its saved contexts are discarded. -/
def State.tearLaunches (s : State) (vif : Nat) : State :=
  (s.launches.filter (fun p => p.2.vif = vif)).foldl (fun s p => (s.modLaunch p.1 (fun l => { l with silent := true })).endLaunch p.1) s

/-- What a collective's command names, read now where it had not begun. -/
def State.collData (s : State) (c : EngCmd) : List Byte :=
  if !c.data.isEmpty then c.data
  else
    match c.kind with
    | 5 =>
      match s.readVa c.die c.area.root (descW c.desc 127 64) true (32 * recBits c.desc 159 128) with
      | (_, .ok b) => b
      | (_, .error _) => []
    | _ =>
      match s.readVa c.die c.area.root (descW c.desc 319 256) true 16 with
      | (_, .ok h) =>
        match s.readVa c.die c.area.root (descW c.desc 319 256) true (16 + 16 * min 256 (fieldN h 0 2)) with
        | (_, .ok b) => b
        | (_, .error _) => []
      | (_, .error _) => []

/-- Tells the other participants of a collective that one has lost its context (R271, R378, R380). -/
def State.loseColl (s : State) (c : EngCmd) : State :=
  let tell (s : State) (x : Lost) (accs : List Nat) (here : Bool) : State :=
    let s := { s with outbox := s.outbox ++ accs.eraseDups.map (fun a => (a, VMsg.lost x)) }
    if here && !s.lost.contains x then { s with lost := s.lost ++ [x] } else s
  if c.status.isSome then s
  else
    match c.kind with
    | 5 =>
      let ps := peerList (recBits c.desc 159 128) (s.collData c)
      ps.foldl (fun s p => tell s (.halo p.tag s.accid c.die p.die) (if p.acc = s.accid then [] else [p.acc]) (p.acc = s.accid)) s
    | 6 =>
      let b := s.collData c
      let ring := ringEntries b
      let p := (ring.findIdx? (fun e => e = (s.accid, c.die))).getD 0
      let s := tell s (.allred (ringTag b)) ((ring.map (·.1)).filter (fun a => a ≠ s.accid)) true
      s.ringLeave (ringTag b) ring p
    | _ => s

/-- Step 3: its engine commands stop, and no counter of the interface is incremented; blocks in flight are dropped. -/
def State.tearEngines (s : State) (vif : Nat) : State :=
  let roots := s.vifRoots vif
  let s := { s with sends := s.sends.filter (fun (p : Nat × SendBlk) => !roots.contains p.2.root) }
  (s.engines.filter (fun (p : Nat × EngCmd) => p.2.area.vif = vif)).foldl (fun s p => (s.loseColl p.2).dropEng p.1 p.2) s

/-- The entries of a table that are not zero: those that memory lists a byte of. -/
def State.tableEntries (s : State) (t n : Nat) : List W64 :=
  (((s.mem.filter (fun c => t ≤ c.1 && c.1 < t + 8 * n)).map (fun c => (c.1 - t) / 8)).eraseDups).map (fun i => BitVec.ofNat 64 (s.peekN (t + 8 * i) 8))

/-- The frames that the leaf entries below a table name (R76), `n` levels above the leaves. -/
def State.leafFrames (s : State) : Nat → Nat → List Nat
  | 0, t => ((s.tableEntries t 8192).filter pteV).map pteFrame
  | n + 1, t => ((s.tableEntries t (if n = 2 then 4 else 8192)).filter pteV).flatMap (fun e => s.leafFrames n (fld e 47 16 * 65536))

/-- Merges every U line of the pages of an interface. -/
def State.mergeAll (s : State) (vif : Nat) : State :=
  let frames := (s.vifRoots vif).flatMap (fun r => s.leafFrames 3 (r * 65536))
  (s.dir.filter (fun p => p.2.st = .u && frames.contains (p.1 * 128 / 65536))).foldl (fun s p => (s.mergeLine p.1).setDir (p.1 * 128) { st := .i, owner := 0, sharers := [] }) s

/-- Step 4: its watch entries are freed, the U lines of its pages are merged, and its translations are invalidated. -/
def State.tearMemory (s : State) (vif : Nat) : State :=
  let qids := (s.vifQueues vif).map (·.qid)
  let mine (d : Nat) (e : Watch) : Bool :=
    (e.kind = 2 && bits e.waiter 5 0 = vif)
      || (e.kind = 1 && qids.contains (fld (s.dieReg (bits e.waiter 1 0) (.slotq (bits e.waiter 6 2))) 11 0) && d < 4)
  let clean (p : Nat × Die) : Nat × Die := (p.1, { p.2 with watches := p.2.watches.filter (fun e => !mine p.1 e.2) })
  let s := { s with dies := s.dies.map clean }
  (s.vifRoots vif).foldl (fun s r => s.invalidate r (fun _ => true) true) (s.mergeAll vif)

def State.setStep (s : State) (vif n : Nat) : State :=
  { s with teardowns := s.teardowns.map (fun t => if t.vif = vif then { t with step := n } else t) }

/-- TEARDOWN_PROGRESS (R377): the next step of a teardown, where its condition holds. -/
def execTeardownProgress (vif : Nat) (s : State) : Out :=
  .next (match s.teardowns.find? (fun t => t.vif = vif) with
    | none => s
    | some t =>
      match t.step with
      | 0 =>
        let s := s.tearSlots vif
        if s.slotsGone vif then s.setStep vif 1 else s
      | 1 => (s.tearLaunches vif).setStep vif 2
      | 2 =>
        if s.warps.any (fun p => (s.launchOf p.1).any (fun x => x.2.vif = vif)) then s
        else
          let s := (s.tearEngines vif).setStep vif 3
          (s.launches.filter (fun p => p.2.vif = vif)).foldl (fun s p => s.forgetLaunch p.1) s
      | 3 => (s.tearMemory vif).setStep vif 4
      | _ =>
        let s := { s with teardowns := s.teardowns.filter (fun x => x.vif ≠ vif) }
        (match t.addr with
          | some a => (s.unU a).pokeN a 8 1
          | none => s).setVifState vif vifFree)

/-- DIE_RESET_REQUEST (R379, R432): refused with PKG_ONLY. -/
def execDieResetRequest (_die : Nat) (s : State) : Out := .next { s with mailbox := .pkgOnly }

end Sys2Proof.Machine
end

