-- ==== Sys2Proof/Machine/Preempt.lean ====
section
/-! DEFINITION. Pre-emption, the context image and restores (R392 to R397), the resumption and abort of Faulted warps (R385), and the
translation machinery (R398 to R400). -/

namespace Sys2Proof.Machine

/-! ## PREQ (R392, R393) -/

/-- The largest stroke counter among a workgroup's warps. -/
def State.topStrokes (s : State) (k : Group) : Nat := ((s.liveWarps k).map (fun p => p.2.strokes)).foldl max 0

/-- The workgroups of a neighbourhood, or the one workgroup. -/
def State.mates (s : State) (k : Group) : List Group :=
  if k.nbH = 0 then [k]
  else (s.groups.filter (fun p => p.2.launch = k.launch && p.2.nbH ≠ 0 && p.2.nbK = k.nbK && !p.2.relaunched)).map (·.2)

/-- The mode of a workgroup at GO (R392). -/
def State.preMode (s : State) (r : W64) (k : Group) : Preempt :=
  let p := ((s.mates k).map s.topStrokes).foldl max 0
  let e := fld r 37 14 * 64
  let b := fld r 61 38 * 64
  if r.getLsbD 13 && 4 * p < e then .flushing else if e - p ≤ b || k.nbH ≠ 0 then .draining p b else .stopping

/-- PREQ_GO (R392): the mode of each resident workgroup of the queue is chosen. -/
def execPreqGo (die : Nat) (val : W64) (s : State) : Out :=
  .next (if 4 ≤ die || !val.getLsbD 12 then s
    else
      let r := setFld val 63 62 0
      let s1 := s.setDieReg die .preq r
      let mine (k : Group) : Bool :=
        k.core / 48 = die && k.pre = .running && !k.ending && (s.launch? k.launch).any (fun l => l.qid = fld r 11 0)
      let s2 := { s1 with groups := s.groups.each (fun k => if mine k then { k with pre := s.preMode r k } else k) }
      s2.settlePreq die)

/-- DRAIN_OVERRUN (R393). -/
def execDrainOverrun (wg : Nat) (s : State) : Out :=
  .next (match s.group? wg with
    | some k =>
      match k.pre with
      | .draining p b => if k.nbH = 0 && p + 2 * b < s.topStrokes k then s.setGroup wg { k with pre := .stopping } else s
      | _ => s
    | none => s)

/-- Every warp of a workgroup has stopped at a stroke boundary. -/
def State.stopped (s : State) (k : Group) : Bool := (s.liveWarps k).all (fun p => !p.2.units.any (fun u => u.st = .issuing))

/-- Frees the watch entries of a warp's units (R209). -/
def State.freeWatches (s : State) (g : Nat) : State :=
  let mine (e : Watch) : Bool := e.kind = 0 && e.waiter % 2 ^ 15 = waiterUnit g 0 % 2 ^ 15
  let clean (x : Die) : Die := { x with watches := x.watches.filter (fun e => !mine e.2) }
  { s with dies := s.dies.each clean }

/-- Takes a workgroup off its core: its warps, split entries, watch entries and stores. -/
def State.vacate (s : State) (wg : Nat) (k : Group) : State :=
  let gs := k.warps.filterMap id
  let s := gs.foldl (fun s g => s.freeWatches g) s
  let keep (x : Nat × Split) : Bool := !gs.contains x.2.warp
  let s := s.modCore k.core (fun c => { freeResources c k with split := c.split.filter keep })
  let s := { s with warps := s.warps.filter (fun (p : Nat × Warp) => !gs.contains p.1), groups := s.groups.del wg }
  let s := match s.focus with
    | some (g, _) => if gs.contains g then { s with focus := none } else s
    | none => s
  s.settlePreq (k.core / 48)

/-- REPRIME_FLUSH_DONE (R393): a flushed workgroup leaves, to be dispatched afresh. -/
def execReprimeFlushDone (wg : Nat) (s : State) : Out :=
  .next (match s.group? wg with
    | some k =>
      if k.pre ≠ .flushing || !s.stopped k || s.tilesBusy wg then s
      else
        let d := k.core / 48
        let lidx := k.launch % 1024
        let blocks := (s.liveWarps k).map (fun p => p.2.block)
        let s := s.vacate wg k
        let s := s.modLaunch k.launch (fun l => { l with away := l.away ++ [{ group := k, warps := [], splits := [], saved := false, wanted := false }] })
        let s := blocks.foldl (fun s b => s.postLeave d (leaveEntry b k.lin lidx 3)) s
        s.postLeave d (leaveEntry 0 k.lin lidx 2)
    | none => s)

/-! ## The context image (R395 to R397) -/

/-- Pads a run of bytes with zeros. -/
def padTo (n : Nat) (b : List Byte) : List Byte := b ++ List.replicate (n - b.length) 0

/-- The state and wait codes of a unit. -/
def USt.code : USt → Nat × Nat × Nat
  | .ready | .issuing => (0, 0, 0)
  | .fusing => (3, 0, 0)
  | .faulted => (4, 0, 0)
  | .blocked (.bar b p) => (1, 1, b + p * 256)
  | .blocked (.gbar e n) => (1, 2, e + n * 256)
  | .blocked (.watch _ _ n) => (1, 3, n)
  | .blocked (.tile i _) => (1, 4, i)
  | .blocked (.alloc ns _) => (1, 5, ns.length)
  | .blocked (.sleep _) => (1, 6, 0)
  | .blocked _ => (0, 0, 0)

/-- The PC a unit is saved with: a unit in WATCH executes it again. -/
def WUnit.savedPc (u : WUnit) : W64 :=
  match u.st with
  | .blocked (.watch _ _ n) => u.pc - BitVec.ofNat 64 n
  | _ => u.pc

/-- Unit record `k` of a warp. -/
def unitRecord (w : Warp) (parents : List Nat) (k : Nat) : List Byte :=
  match unitOf w.units k with
  | some u =>
    let (st, wt, op) := u.st.code
    padTo 64 (leBytes 8 u.savedPc.toNat ++ leBytes 8 u.rpc.toNat ++ leBytes 4 u.exec.toNat ++ leBytes 4 u.owned.toNat ++ leBytes 1 u.sub
      ++ leBytes 1 st ++ leBytes 1 wt ++ leBytes 1 (u.entry.getD 0xFF) ++ leBytes 4 op)
  | none => padTo 64 (List.replicate 25 0 ++ leBytes 1 (if parents.contains k then 2 else 5) ++ leBytes 1 0 ++ leBytes 1 0xFF)

/-- A split-table entry of the image, with its number. -/
def splitRecord (p : Nat × Split) : List Byte :=
  padTo 32 (leBytes 8 p.2.rpc.toNat ++ leBytes 4 p.2.exec.toNat ++ leBytes 4 p.2.arrived.toNat ++ leBytes 1 (p.2.parentEntry.getD 0xFF)
    ++ leBytes 1 p.2.parentSub ++ leBytes 1 p.2.left ++ leBytes 1 p.1 ++ leBytes 4 p.2.owned.toNat ++ leBytes 1 p.2.taken ++ leBytes 1 p.2.other)

/-- A register of the saved area: its name, its kind as the table gives it (mapped 1, deferred 3, pending 0), its contents, and for a pending
register its place on the list. -/
structure SavedReg where
  name : Nat
  kind : Nat
  val  : Lanes
  at?  : Option Nat
  deriving DecidableEq, Repr

/-- Places on the pending list of the registers of a name. -/
def Warp.pendAt (w : Warp) (n : Nat) : List Nat := (List.range w.pending.length).filter (fun i => (w.pending[i]?).any (fun p => p.name = n))

/-- The pending register that the table's entry for an unmapped name shows: the one a replay would map again (R62), where it may show one only. -/
def Warp.pendShown (w : Warp) (n : Nat) : Option Nat :=
  if w.mapped n then none
  else
    match (w.pendAt n).find? (fun i => (w.pending[i]?).any (fun p => !p.prior)) with
    | some i => some i
    | none => (w.pendAt n).head?

/-- Saved registers (R69): every mapped or deferred name and every pending register that is not in a spill slot. -/
def Warp.savedRegs (w : Warp) : List SavedReg :=
  (List.range 2048).flatMap (fun n =>
    (match w.names.find? n with
     | some e =>
       match e.st with
       | .mapped => [{ name := n, kind := 1, val := e.val, at? := none }]
       | .deferred => [{ name := n, kind := 3, val := e.val, at? := none }]
       | .spilled _ _ => []
     | none => [])
    ++ (w.pendAt n).filterMap (fun i => ((w.pending[i]?).filter (fun p => p.slot.isNone)).map (fun p => { name := n, kind := 0, val := p.val, at? := some i })))

/-- Registers of an earlier image that still stand in the saved area, which come first. -/
def Warp.savedBase (w : Warp) : Nat := (w.slotsUsed.map (fun k => k + 1 - w.regsMax)).foldl max 0

/-- Number of a saved register in the saved area. -/
def Warp.savedIdx (w : Warp) (saved : List SavedReg) (n : Nat) (at? : Option Nat) : Nat :=
  w.savedBase + (saved.findIdx? (fun x => x.name = n && x.at? = at?)).getD 0

/-- The rename-table entry of a name (R397). -/
def Warp.nameEntry (w : Warp) (saved : List SavedReg) (n : Nat) : Nat :=
  let new := if w.newList.contains n then 8 else 0
  let slot (k : Nat) : Nat := if k < w.regsMax then 16 + k * 32 else (k - w.regsMax) * 32
  new + (match w.names.find? n, w.pendShown n with
    | some e, _ =>
      match e.st with
      | .mapped => 1 + w.savedIdx saved n none * 32
      | .deferred => 3 + w.savedIdx saved n none * 32
      | .spilled k d => 2 + slot k + (if d then 2 ^ 16 else 0)
    | none, some i =>
      match (w.pending[i]?).bind (fun p => p.slot) with
      | some k => 4 + slot k
      | none => 4 + w.savedIdx saved n (some i) * 32
    | none, none => 0)

/-- Registers in the saved area. -/
def Warp.nsaved (w : Warp) : Nat := w.savedBase + w.savedRegs.length

/-- The warp header (R396). -/
def Warp.header (w : Warp) : List Byte :=
  let f := (if w.faulted then 1 else 0) + (if w.handler then 2 else 0) + (if w.grace then 4 else 0) + (if w.parked then 8 else 0)
  padTo 256 (leBytes 4 w.lseq ++ leBytes 4 w.rcount.toNat ++ leBytes 8 w.strokes ++ leBytes 1 f ++ leBytes 1 w.live ++ leBytes 2 w.nsaved
    ++ leBytes 4 w.closes ++ leBytes 4 w.bfw.toNat ++ leBytes 1 (if w.bsep then 1 else 0) ++ [0, 0, 0] ++ leBytes 4 w.fpcr.toNat
    ++ leBytes 4 w.fpsr.toNat ++ leBytes 4 w.wstat.toNat ++ leBytes 4 w.gwcalls ++ leBytes 8 w.stkptr.toNat ++ leBytes 8 w.traph.toNat
    ++ leBytes 8 w.trappc.toNat)

/-- Byte `l` of a predicate image: lane `l`, with depth k in bit k. -/
def predBytes (ps : List W32) : List Byte :=
  laneIds.map (fun l => BitVec.ofNat 8 (((List.range 8).map (fun k => if inMask (ps.getD k 0) l then 2 ^ k else 0)).foldl (· + ·) 0))

/-- The predicates of a predicate image. -/
def predsOf (b : List Byte) : List W32 := (List.range 8).map (fun k => maskOf (fun l => (b.getD l 0).getLsbD k))

/-- Used bytes of a warp's stack. -/
def Warp.stackUsed (w : Warp) : Nat := w.stktop.toNat - w.stkptr.toNat

/-- Bytes of a warp's part of the image, by offset in its block; the stack aside. -/
def State.warpImage (s : State) (g : Nat) (w : Warp) : List (Nat × List Byte) :=
  let sp := s.splits g
  let saved := w.savedRegs
  let ckpt (k : Nat) : List Byte := predBytes (match unitOf w.units k with
    | some u => u.ckpt
    | none => [])
  [(0, w.header), (0x100, (List.range 8).flatMap (unitRecord w (sp.map (fun p => p.2.parentSub)))),
   (0x300, padTo 256 (sp.flatMap splitRecord)), (0x400, (List.range 128).flatMap (fun i => leBytes 8 (w.sreg i).toNat)),
   (0x800, predBytes w.preds ++ (List.range 8).flatMap ckpt), (0x1000, (List.range 2048).flatMap (fun n => leBytes 4 (w.nameEntry saved n))),
   (0x4000 + (w.regsMax + w.savedBase) * 256, saved.flatMap (fun x => lanesBytes x.val))]

/-- Bytes of the workgroup's part of the image. -/
def State.groupImage (s : State) (k : Group) (blocks : List Nat) : List (Nat × List Byte) :=
  let bar (i : Nat) : List Byte :=
    let b := k.bars.getD i Barrier.empty
    leBytes 4 ((b.arrived.map (fun x => 2 ^ x)).foldl (· ||| ·) 0) ++ leBytes 2 b.phase ++ [0, 0]
  let es := match s.launch? k.launch with
    | some l => (List.range l.groups.length).filter (fun e => (l.groups.getD e []).contains k.lin)
    | none => []
  let gbar := (((List.range es.length).zip es).map (fun p => if groupArrived s k p.2 then 2 ^ p.1 else 0)).foldl (· + ·) 0
  let core := s.core k.core
  let tile (i : Nat) : List Byte := let t := core.tiles.get Reset.tile (k.tileBase + i); leBytes 8 t.words.1.toNat ++ leBytes 8 t.words.2.toNat
  [(0xE4000, padTo 1024 ((List.range 32).flatMap (fun i => leBytes 8 (blocks.getD i 0)) ++ (List.range 16).flatMap (fun i => leBytes 8 (k.wregs.getD i 0).toNat)
      ++ (List.range 16).flatMap bar ++ leBytes 8 k.wgid ++ leBytes 4 k.lin ++ leBytes 2 (k.launch % 1024) ++ leBytes 1 k.count ++ leBytes 1 gbar
      ++ leBytes 4 k.scrSize ++ leBytes 2 k.tiles ++ leBytes 2 k.accRows)),
   (0xE4400, (List.range k.tiles).flatMap tile),
   (0xE6000, (List.range (k.accRows * 64)).flatMap (fun i => leBytes 8 (core.acc.get 0 (k.accBase * 64 + i)).toNat))]

/-- Writes parts of an image into a block. -/
def State.writeParts (s : State) (block : Nat) (ps : List (Nat × List Byte)) : State := ps.foldl (fun s p => s.poke (block + p.1) p.2) s

/-- Copies a run of one store into another. -/
def Store.move (src : Store) (a : Nat) (dst : Store) (b n : Nat) : Store :=
  (src.filter (fun c => a ≤ c.1 && c.1 < a + n)).foldl (fun m c => m.set (b + (c.1 - a)) c.2) (Store.clear dst b n)

/-- The warp whose block carries the workgroup header: warp 0, or the first that has not ended. -/
def State.headBlock (s : State) (k : Group) : Nat := (((s.liveWarps k).head?).map (fun p => p.2.block)).getD 0

/-- Blocks by warp index. -/
def State.blocksOf (s : State) (k : Group) : List Nat :=
  (List.range 32).map (fun i => (((k.warps.getD i none).bind s.warp?).map (fun w => w.block)).getD 0)

/-- Bytes of a warp's used stack; `none` where they cannot be read. -/
def State.usedStack (s : State) (g : Nat) (w : Warp) : Option (List Byte) :=
  match s.readVa (dieOf g) (s.rootOf g) w.stkptr false w.stackUsed with
  | (_, .ok b) => some b
  | (_, .error _) => none

/-- Copies a scratchpad's window into memory; in the hole it is lost (log 9). -/
def State.moveOut (s : State) (src : Store) (a pa n : Nat) : State := if inHole pa then s else { s with mem := Store.move src a s.mem pa n }

/-- Copies memory into a scratchpad; in the hole each byte is a free value (log 9). -/
def State.moveIn (s : State) (pa : Nat) (dst : Store) (b n : Nat) : Store :=
  if inHole pa then (List.range n).foldl (fun m i => m.set (b + i) ((s.freeVal (pa + i)).setWidth 8)) dst else Store.move s.mem pa dst b n

/-- Writes the whole image of a workgroup (R395). -/
def State.writeImage (s : State) (k : Group) : State :=
  let ws := (k.warps.filterMap id).filterMap (fun g => (s.warp? g).map (fun w => (g, w)))
  let s1 := ws.foldl (fun s p => (s.writeParts p.2.block (s.warpImage p.1 p.2)).poke (p.2.block + 0xC4000) ((s.usedStack p.1 p.2).getD [])) s
  let b := s.headBlock k
  let s2 := s1.writeParts b (s.groupImage k (s.blocksOf k))
  s2.moveOut (s.core k.core).scratch k.scrBase (b + 0x126000) k.scrSize

/-- Everything a warp has in progress has ended, but for the waits an image can hold (R393). -/
def State.settled (s : State) (g : Nat) (w : Warp) : Bool :=
  w.mops.all (fun o => o.done) && w.units.all (fun u => u.st ≠ .blocked .emul) && (s.allLooks g).all (fun k => k.ready)

/-- The results of a warp are written (R26), those that a waiting parent is to take with them, and the flags of the open batch, which ends with
every operation in it complete (R297). -/
def State.writeResults (s : State) (g : Nat) : State :=
  ((s.allLooks g).foldl (fun s k => s.writeLook g 0 k) s).modWarp g (fun w =>
    { w with fpsr := (w.mops.filter (fun o => o.batch.isNone)).foldl (fun m o => m ||| o.flags) w.fpsr })

/-- A warp whose stack cannot be written back halts with MEMFAULT (R73, R335). -/
def State.saveFault (s : State) (g a : Nat) : State :=
  match s.warp? g with
  | some w =>
    match w.units with
    | u :: _ => (s.postTrap g w u (TrapInfo.stackFault a) 0).haltWarp g stHALTED
    | [] => s
  | none => s

/-- A unit goes on from the image: its results are written, and a WATCH is executed again (R209, R211, R393). -/
def WUnit.fromImage (u : WUnit) : WUnit :=
  { u with pc := u.savedPc, looks := [], st := match u.st with
      | .blocked (.watch _ _ _) | .blocked (.sleep _) => .ready
      | x => x }

/-- A workgroup whose image did not fit resumes from it at once (R393). -/
def State.resumeSaved (s : State) (wg : Nat) (k : Group) : State :=
  let s := (k.warps.filterMap id).foldl (fun s g => (s.freeWatches g).modWarp g (fun w => { w with units := w.units.map WUnit.fromImage })) s
  s.setGroup wg { k with pre := .draining (s.topStrokes k) (fld (s.dieReg (k.core / 48) .preq) 61 38 * 64) }

/-- The stack cache of a warp holds nothing dirty. -/
def Warp.flushed (w : Warp) : Bool := w.stack.all (fun p => !p.2.isDirty)

/-- WORKGROUP_SAVE (R393): a stopped workgroup is written to its image and leaves, or goes on draining where a used stack does not fit. It waits for
stack lines whose pages are being copied, and a warp whose stack cannot be written back halts (R73, R335). -/
def execWorkgroupSave (wg : Nat) (s : State) : Out :=
  .next (match s.group? wg with
    | none => s
    | some k =>
      let d := k.core / 48
      let gs := k.warps.filterMap id
      if k.pre ≠ .stopping || k.ending || !s.stopped k || s.tilesBusy wg || !gs.all (fun g => (s.warp? g).all (fun w => s.settled g w)) then s
      else if !((s.die d).leaving.isEmpty && ringHeld (s.dieReg d .ctxshead) (s.dieReg d .ctxstail) < ringSize (s.dieReg d .ctxsring)) then
        if (s.die d).noremInts.contains .leaveRing then s else s.callNorem d .leaveRing
      else
        let s := gs.foldl (fun s g => (s.writeResults g).stackFlushAll g) s
        let ws := gs.filterMap (fun g => (s.warp? g).map (fun w => (g, w)))
        match gs.findSome? (fun g => (s.stackStuck g).map (fun a => (g, a))) with
        | some (g, a) => s.saveFault g a
        | none =>
          if !ws.all (fun p => p.2.flushed) then s
          else
            let s := s.writeImage k
            if ws.any (fun p => 131072 < p.2.stackUsed || (s.usedStack p.1 p.2).isNone) then s.resumeSaved wg k
            else
              let x : Away := { group := k, warps := ws, splits := gs.flatMap s.splits, saved := true, wanted := false }
              let b := s.headBlock k
              let s := (s.vacate wg k).modLaunch k.launch (fun l => { l with away := l.away ++ [x] })
              s.postLeave d (leaveEntry b k.lin (k.launch % 1024) 1))

/-! ## Restores (R394) -/

/-- A unit as the image gives it. What the image does not hold is as it was: DESIGN CHOICE (log 21), unsafe. -/
def restoreUnit (b : List Byte) (ckpt : List Byte) (entry : Nat → Nat) (tileShift : Nat → Nat) (u : WUnit) : WUnit :=
  let st : USt := match fieldN b 25 1, fieldN b 26 1 with
    | 3, _ => .fusing
    | 4, _ => .faulted
    | 1, 3 | 1, 6 => .ready
    | 1, _ =>
      match u.st with
      | .blocked (.tile i x) => .blocked (.tile (tileShift i) x)
      | .blocked x => .blocked x
      | _ => .ready
    | _, _ => .ready
  { u with pc := BitVec.ofNat 64 (fieldN b 0 8), rpc := BitVec.ofNat 64 (fieldN b 8 8), exec := BitVec.ofNat 32 (fieldN b 16 4),
           owned := BitVec.ofNat 32 (fieldN b 20 4), st := st, entry := if fieldN b 27 1 = 0xFF then none else some (entry (fieldN b 27 1)),
           ckpt := predsOf ckpt, wait := 0, looks := [], xsets := [], count := 0 }

/-- The names of the image: every saved register counts as spilled to a slot past the spill area. What the table cannot show of the pending list
is as it was: DESIGN CHOICE (log 21), unsafe. -/
def Warp.restoreNames (w : Warp) (table : List Byte) : AMap Nat RegEnt × List Pend × List Nat :=
  (List.range 2048).foldl (fun r n =>
    let e := fieldN (table.drop (4 * n)) 0 4
    let slot := bits e 15 5 + (if bitOf e 4 then 0 else w.regsMax)
    let new := if bitOf e 3 then r.2.2 ++ [n] else r.2.2
    let (names, pend, _) := r
    if bitOf e 2 then (names, pend ++ [{ name := n, val := [], slot := some slot, prior := (w.pendShown n).any (fun i => (w.pending[i]?).any (fun p => p.prior)) }], new)
    else if e % 4 = 0 then (names, pend, new)
    else (names.put n { st := .spilled slot (e % 4 = 3 || bitOf e 16), val := [] }, pend, new)) ([], [], [])

/-- The pending registers that the table of a saved warp does not show, in their slots or saved places. -/
def Warp.pendHidden (w : Warp) : List Pend :=
  let saved := w.savedRegs
  (List.range w.pending.length).filterMap (fun i => match w.pending[i]? with
    | some p => if w.pendShown p.name = some i then none
      else some { p with val := [], slot := some (p.slot.getD (w.regsMax + w.savedIdx saved p.name (some i))) }
    | none => none)

/-- A warp as its image gives it, parked (R67); reserved bits of its registers are zero (R7). PARKED of WSTAT is as the image has it: DESIGN CHOICE
(log 21), unsafe, because R55 does not say whether entering parked counts as having been parked. -/
def State.restoreWarp (s : State) (wg : Nat) (entry : Nat → Nat) (tileShift : Nat → Nat) (w : Warp) : Warp :=
  let h := s.peek w.block 256
  let f := fieldN h 16 1
  let (names, pend, new) := w.restoreNames (s.peek (w.block + 0x1000) 8192)
  { w with
    wg := wg, lseq := fieldN h 0 4, rcount := BitVec.ofNat 32 (fieldN h 4 4), strokes := fieldN h 8 8, faulted := bitOf f 0, handler := bitOf f 1,
    grace := bitOf f 2, parked := true, closes := fieldN h 20 4, bfw := BitVec.ofNat 32 (fieldN h 24 4), bsep := bitOf (fieldN h 28 1) 0,
    fpcr := BitVec.ofNat 32 (fieldN h 32 4 % 8), fpsr := BitVec.ofNat 32 (fieldN h 36 4 % 64), wstat := BitVec.ofNat 32 (fieldN h 40 4 % 16), gwcalls := fieldN h 44 4,
    stkptr := BitVec.ofNat 64 (fieldN h 48 8), traph := BitVec.ofNat 64 (fieldN h 56 8) &&& ~~~3, trappc := BitVec.ofNat 64 (fieldN h 64 8) &&& ~~~3,
    sregs := (List.range 128).foldl (fun (m : AMap Nat W64) i => let v := s.peekN (w.block + 0x400 + 8 * i) 8; if v = 0 then m else m.put i (BitVec.ofNat 64 v)) [],
    preds := predsOf (s.peek (w.block + 0x800) 32), names := names, pending := pend ++ w.pendHidden, newList := new, mops := [], batchLo := fieldN h 20 4, stack := [],
    units := w.units.map (fun u => restoreUnit (s.peek (w.block + 0x100 + 64 * u.sub) 64) (s.peek (w.block + 0x820 + 32 * u.sub) 32) entry tileShift u) }

/-- The ask of a saved workgroup. -/
def Away.ask (x : Away) (key : Nat) (l : Launch) : Ask :=
  { key := key, l := l, plans := x.warps.map (fun _ => { exec := 1, helpers := 0, probes := 0 }), scratch := x.group.scrSize, tiles := x.group.tiles,
    acc := x.group.accRows, regs := 0 }

/-- The old core and slots of a saved workgroup can take it back. -/
def State.takesBack (s : State) (key : Nat) (l : Launch) (x : Away) : Bool :=
  let c := x.group.core
  let d := c / 48
  let n (q : Nat) : Nat := (x.warps.filter (fun p => quadOf p.1 = q)).length
  !s.fatal && (s.die d).stall.isNone && (s.dieReg d .dready).getLsbD 23 && s.shareAllows l.vif d x.group.count && s.coreReady c && s.storesTake c (x.ask key l)
    && x.warps.all (fun p => (s.warp? p.1).isNone) && [0, 1, 2, 3].all (fun k => s.quadTakes (c * 4 + k) (n (c * 4 + k)) (x.ask key l))
    && (s.core c).split.length + x.splits.length ≤ 256

/-- Writes bytes at an address of an address space. -/
def State.writeBack (s : State) (d root : Nat) (va : W64) (bs : List Byte) : State :=
  (piecesOf va bs).foldl (fun s p => (s.writePiece .hardware d root p.1 p.2).1) s

/-- Reloads a saved workgroup on its core and slots (R394). -/
def State.restoreGroup (s : State) (key : Nat) (l : Launch) (x : Away) : State :=
  let c := x.group.core
  let (wg, s) := s.newHandle
  let k0 := s.newGroup c (x.ask key l) x.group.lin (x.group.x, x.group.y, x.group.z) x.group.level
  let b := ((x.warps.head?).map (fun p => p.2.block)).getD 0
  let k : Group := { x.group with
    scrBase := k0.scrBase, tileBase := k0.tileBase, accBase := k0.accBase, pre := .running,
    wregs := (List.range 16).map (fun i => BitVec.ofNat 64 (s.peekN (b + 0xE4000 + 256 + 8 * i) 8)),
    bars := (List.range 16).map (fun i =>
      let m := s.peekN (b + 0xE4000 + 384 + 8 * i) 4
      { x.group.bars.getD i Barrier.empty with arrived := (List.range 32).filter (fun j => bitOf m j), phase := s.peekN (b + 0xE4000 + 384 + 8 * i + 4) 2 + (x.group.bars.getD i Barrier.empty).phase / 65536 * 65536 }) }
  let s := (s.takeStores k).setGroup wg k
  let free := (List.range 256).filter (fun e => ((s.core c).split.find? e).isNone)
  let entry (e : Nat) : Nat := free.getD ((x.splits.findIdx? (fun p => p.1 = e)).getD 0) 0
  let shift (i : Nat) : Nat := i - x.group.tileBase + k.tileBase
  let sp (p : Nat × Split) : Nat × Split :=
    let i := (List.range 8).find? (fun i => s.peekN (((x.warps.find? (fun q => q.1 = p.2.warp)).map (fun q => q.2.block)).getD 0 + 0x300 + 32 * i + 19) 1 = p.1)
    let r := s.peek (((x.warps.find? (fun q => q.1 = p.2.warp)).map (fun q => q.2.block)).getD 0 + 0x300 + 32 * i.getD 0) 32
    (entry p.1, { p.2 with rpc := BitVec.ofNat 64 (fieldN r 0 8), exec := BitVec.ofNat 32 (fieldN r 8 4), arrived := BitVec.ofNat 32 (fieldN r 12 4),
                           parentEntry := p.2.parentEntry.map entry, parentSub := fieldN r 17 1, left := fieldN r 18 1,
                           owned := BitVec.ofNat 32 (fieldN r 20 4), looks := [] })
  let tile (i : Nat) : Nat × Tile :=
    let a := b + 0xE4400 + 16 * i
    let lo := s.peekN a 8
    let hi := s.peekN (a + 8) 8
    let old := (s.core c).tiles.get Reset.tile (k.tileBase + i)
    (k.tileBase + i, { old with shape := { base := bits lo 24 0, rows := bits lo 42 32, cols := bits lo 53 43, esz := bits lo 56 54, layout := bits lo 59 57, pitch := bits hi 47 32 },
                                conf := bits lo 42 32 ≠ 0, state := bits lo 61 60, gen := bits hi 15 0, readers := bits hi 23 16, swfill := bitOf hi 24 })
  let s := s.modCore c (fun y => { y with
    split := x.splits.foldl (fun (m : AMap Nat Split) p => m.put (sp p).1 (sp p).2) y.split,
    tiles := (List.range k.tiles).foldl (fun (m : AMap Nat Tile) i => if (tile i).2 = Reset.tile then m else m.put (tile i).1 (tile i).2) y.tiles,
    acc := (List.range (k.accRows * 64)).foldl (fun (m : AMap Nat W64) i =>
      let v := s.peekN (b + 0xE6000 + 8 * i) 8
      if v = 0 then m else m.put (k.accBase * 64 + i) (BitVec.ofNat 64 v)) y.acc,
    scratch := s.moveIn (b + 0x126000) y.scratch k.scrBase k.scrSize })
  let s := x.warps.foldl (fun s p => s.setWarp p.1 (s.restoreWarp wg entry shift p.2)) s
  let s := x.warps.foldl (fun s p =>
    let w := s.restoreWarp wg entry shift p.2
    s.writeBack (dieOf p.1) l.root w.stkptr (s.peek (w.block + 0xC4000) w.stackUsed)) s
  -- Numbers go on above the highest that has come back (R9).
  let s := s.modDie (c / 48) (fun y => { y with nextSeq := (x.warps.map (fun p => (s.restoreWarp wg entry shift p.2).lseq + 1)).foldl max y.nextSeq })
  (s.modLaunch key (fun l => { l with away := l.away.filter (fun y => y ≠ x) })).checkGroup wg

/-- The saved or re-primed workgroup an entry of the leave ring names. -/
def State.findAway (s : State) (die wglin lidx : Nat) (p : Away → Bool) : Option (Nat × Launch × Away) :=
  s.launches.findSome? (fun q =>
    if q.1 % 1024 = lidx then (q.2.away.find? (fun x => x.group.lin = wglin && x.group.core / 48 = die && p x)).map (fun x => (q.1, q.2, x)) else none)

/-- CTXREST_SAVED (R394): a saved workgroup returns to its core and slots; until they can take it they are reserved for it. -/
def execCtxrestSaved (die block wglin lidx : Nat) (s : State) : Out :=
  .next (match s.findAway die wglin lidx (fun x => x.saved && (x.warps.head?).any (fun p => p.2.block = block)) with
    | none => s
    | some (key, l, x) =>
      if s.takesBack key l x then s.restoreGroup key l x
      else s.modLaunch key (fun l => { l with away := l.away.map (fun y => if y = x then { y with wanted := true } else y) }))

/-- Choices of slots, which nothing determines (R15). -/
def State.anyPick (s : State) (n : Nat) : List Nat := (List.range n).map (fun i => (s.freeVal (i + 1)).toNat)

/-- Dispatches one re-primed workgroup afresh, at the level it had, in any quadrant and slots; a relaunched warp starts as it did at first. DESIGN
CHOICE (log 21), unsafe: R394 speaks of workgroups of the grid. -/
def State.reprime (s : State) (key : Nat) (l : Launch) (x : Away) : Option State :=
  let d := x.group.core / 48
  let q0 := (s.freeVal 0).toNat % 4
  let left (s : State) : State := (s.modLaunch key (fun l => { l with away := l.away.filter (fun y => y ≠ x) })).tickFree
  match x.group.seed with
  | some y => (s.startSeed d key l y q0 ((s.anyPick 1).headD 0)).map left
  | none =>
    let a := l.ask key (s.plans l x.group.level x.group.lin)
    (s.corePick d a q0).map (fun p =>
      let k := s.newGroup p.1 a x.group.lin (l.coords x.group.lin) x.group.level
      left (s.place k a p.2 (s.anyPick l.warps) (BitVec.ofNat 64 l.entry)).2)

/-- Dispatches the re-primed members of a neighbourhood afresh in one step, once all of them are asked for, each in any quadrant and slots. -/
def State.reprimeNb (s : State) (key : Nat) (l : Launch) (x : Away) : Option State :=
  let all := l.away.filter (fun y => !y.saved && y.group.nbH ≠ 0 && y.group.nbK = x.group.nbK)
  let askOf (m : Nat) : Ask :=
    match all.find? (fun y => y.group.nbM = m) with
    | some y => l.ask key (s.plans l y.group.level y.group.lin)
    | none => l.ask key []
  if !all.all (fun y => y.wanted) then none
  else
    match s.rectangle (x.group.core / 48) l ((List.range l.nbN).map askOf) with
    | none => none
    | some cores =>
      let q0 := (s.freeVal 0).toNat
      let pick := s.anyPick (l.nbN * l.warps)
      let s := (s.seqStart (x.group.core / 48) ((all.map (fun y => (askOf y.group.nbM).count)).foldl (· + ·) 0)).tickFree
      let s := all.foldl (fun s y =>
        let c := cores.getD y.group.nbM 0
        let a := askOf y.group.nbM
        let q := q0 / 4 ^ y.group.nbM % 4
        let g : Group := { s.newGroup c a y.group.lin (l.coords y.group.lin) y.group.level with
          nbK := y.group.nbK, nbM := y.group.nbM, nbW := l.nbw, nbH := l.nbh, nbCores := cores }
        (s.place g a ((s.admits c a q).getD q) (pick.drop (y.group.nbM * l.warps)) (BitVec.ofNat 64 l.entry)).2) s
      some (s.modLaunch key (fun l => { l with away := l.away.filter (fun y => !all.contains y) }))

/-- Brings back what Norem has asked for and the die could not take at once (R394). -/
def State.bringBack (s : State) (key : Nat) : State :=
  match s.launch? key with
  | none => s
  | some l =>
    (l.away.filter (fun x => x.wanted)).foldl (fun s x =>
      match s.launch? key with
      | none => s
      | some l =>
        if !l.away.contains x then s
        else if x.saved then (if s.takesBack key l x then s.restoreGroup key l x else s)
        else (if x.group.nbH = 0 then s.reprime key l x else s.reprimeNb key l x).getD s) s

/-- CTXREST_REPRIME (R394): a re-primed workgroup is dispatched afresh on the die, once a core admits it. -/
def execCtxrestReprime (die wglin lidx : Nat) (s : State) : Out :=
  .next (match s.findAway die wglin lidx (fun x => !x.saved) with
    | none => s
    | some (key, _, x) =>
      let y : Away := { x with wanted := true }
      let s1 := s.modLaunch key (fun l => { l with away := l.away.map (fun z => if z = x then y else z) })
      match s1.launch? key with
      | none => s1
      | some l => (if y.group.nbH = 0 then s1.reprime key l y else s1.reprimeNb key l y).getD s1)

/-! ## WARPCTL (R385) -/

/-- Writes WARPCTL: ACT reads 00, and MISS tells whether the action named a Faulted warp. -/
def State.warpctl (s : State) (d lseq core slot : Nat) (miss : Bool) : State :=
  s.setDieReg d .warpctl (BitVec.ofNat 64 (lseq % 2 ^ 32 + core % 64 * 2 ^ 32 + slot % 128 * 2 ^ 38 + (if miss then 2 ^ 47 else 0)))

/-- The Faulted warp a write names. -/
def State.faultedAt (s : State) (d lseq core slot : Nat) : Option (Nat × Warp) :=
  if 48 ≤ core || 128 ≤ slot then none
  else
    let g := (d * 48 + core) * 128 + slot
    ((s.warp? g).filter (fun w => w.faulted && w.lseq = lseq)).map (fun w => (g, w))

/-- WARPCTL_RESUME (R385). A Faulted warp that a restore has left parked replays once its registers are back, and is not resumed twice (R385). -/
def execWarpctlResume (die lseq core slot : Nat) (s : State) : Out :=
  .next (if 4 ≤ die then s
    else match s.faultedAt die lseq core slot with
      | some (g, w) => (if w.parked then s else s.resumeWarp g w).warpctl die lseq core slot false
      | none => s.warpctl die lseq core slot true)

/-- WARPCTL_ABORT (R385): the warp halts without a second record. -/
def execWarpctlAbort (die lseq core slot : Nat) (s : State) : Out :=
  .next (if 4 ≤ die then s
    else match s.faultedAt die lseq core slot with
      | some (g, _) => (s.haltWarp g stHALTED).warpctl die lseq core slot false
      | none => s.warpctl die lseq core slot true)

/-! ## Walks and invalidation (R399, R400) -/

/-- PAGE_WALK_COMPLETE (R399): a walk that succeeds fills the die's TLB and walk cache. One that fails leaves no trace: each request
finds the row of R78 for itself. -/
def execPageWalkComplete (die root va : Nat) (s : State) : Out := .next (if va < 2 ^ 57 && die < 4 then (s.dieLeaf die root va).1 else s)

/-- TLBINV_ALL (R400). -/
def execTlbinvAll (die root : Nat) (s : State) : Out :=
  .next (if 4 ≤ die then s
    else (s.setDieReg die .tlbinv (BitVec.ofNat 64 (root % 2 ^ 32 + 2 ^ 32 + 2 ^ 33))).invalidate (root % 2 ^ 32) (fun _ => true) true)

/-- TLBINV_RANGE (R400): the pages TLBRANGE names. -/
def execTlbinvRange (die root : Nat) (s : State) : Out :=
  .next (if 4 ≤ die then s
    else
      let r := s.dieReg die .tlbrange
      let lo := fld r 40 0
      (s.setDieReg die .tlbinv (BitVec.ofNat 64 (root % 2 ^ 32 + 2 ^ 33))).invalidate (root % 2 ^ 32)
        (fun p => lo ≤ p && p < lo + fld r 63 41) false)

/-- An access that holds a translation of a root made at issue: a drain to memory that is still queued (R292). -/
def State.rootBusy (s : State) (root : Nat) : Bool :=
  s.warps.any (fun p => s.rootOf p.1 = root && p.2.mops.any (fun o => !o.done && !o.pages.isEmpty))

/-- TLB_INVALIDATE_COMPLETE (R400): GO reads 0 once every access that used a cleared translation has been performed. -/
def execTlbInvalidateComplete (die : Nat) (s : State) : Out :=
  .next (let r := s.dieReg die .tlbinv
    if 4 ≤ die || !r.getLsbD 33 || s.rootBusy (fld r 31 0) then s else s.setDieReg die .tlbinv (setFld r 33 33 0))

end Sys2Proof.Machine
end

