-- ==== Sys2Proof/Machine/Debug.lean ====
section
/-! DEFINITION. The debugger (R402 to R407): halt, resume, step and step-all, and access to the state of a stopped or Faulted warp. -/

namespace Sys2Proof.Machine

/-! ## Commands (R402, R403) -/

/-- The global slot index that a die's DBGSEL names; `none` where the core does not exist. -/
def State.dbgSlot (s : State) (d : Nat) : Option Nat :=
  let r := s.dieReg d .dbgsel
  if 48 ≤ fld r 5 0 then none else some ((d * 48 + fld r 5 0) * 128 + fld r 12 6)

/-- The SUBID that DBGSEL names. -/
def State.dbgSub (s : State) (d : Nat) : Nat := fld (s.dieReg d .dbgsel) 15 13

/-- The warp a command acts on; `none` is MISS (R402). -/
def State.dbgWarp (s : State) (d : Nat) : Option (Nat × Warp) :=
  match s.dbgSlot d with
  | none => none
  | some g =>
    match s.warp? g, s.launchOf g with
    | some w, some (_, l) => if w.lseq = fld (s.dieReg d .dbgsel) 47 16 && s.attached l then some (g, w) else none
    | _, _ => none

/-- A warp that a debugger has stopped, and none of whose units is in a stroke (R403). -/
def Warp.isStopped (w : Warp) : Bool := w.halted && !w.units.any (fun u => u.st = .issuing)

/-- Ends a command: DBGCTL tells how, and GO reads 0. -/
def State.dbgEnd (s : State) (d status steps : Nat) : State :=
  let stopped := (s.dbgWarp d).any (fun p => p.2.isStopped)
  let cmd := fld (s.dieReg d .dbgctl) 2 0
  (s.setDieReg d .dbgctl (BitVec.ofNat 64 (cmd + status * 2 ^ 4 + (if stopped then 2 ^ 8 else 0) + s.dbgSub d * 2 ^ 9 + steps * 2 ^ 12))).modDie d
    (fun x => { x with dbg := none })

/-- Starts command `cmd`: GO reads 1 until it ends. -/
def State.dbgStart (s : State) (d cmd : Nat) : State := s.setDieReg d .dbgctl (setFld (setFld (s.dieReg d .dbgctl) 2 0 cmd) 3 3 1)

/-- No command is in progress on a die of the package. -/
def State.dbgIdle (s : State) (d : Nat) : Bool := d < 4 && (s.die d).dbg.isNone

/-! ## The split-table order (R404) -/

/-- The live units under a position of the split tree: the unit that holds `k` beneath entry `e`, or the children of one that waits. -/
def splitOrder (s : State) (g : Nat) : Nat → Option Nat → Nat → List Nat
  | 0, _, _ => []
  | n + 1, e, k =>
    match (s.splits g).find? (fun p => p.2.parentSub = k && p.2.parentEntry = e) with
    | some p => splitOrder s g n (some p.1) p.2.taken ++ splitOrder s g n (some p.1) p.2.other
    | none =>
      match s.unit? g k with
      | some u => if u.entry = e && u.st ≠ .fusing then [k] else []
      | none => []

/-- The live units of a warp in order, from its root unit, whose SUBID is 0. -/
def State.liveOrder (s : State) (g : Nat) : List Nat := splitOrder s g 9 none 0

/-! ## Steps (R405, R406) -/

/-- Sets the command in progress. -/
def State.setDbg (s : State) (d : Nat) (r : DbgRun) : State := s.modDie d (fun x => { x with dbg := some r })

/-- A unit's split entry, and the SUBID of that entry's parent. -/
def State.entryOf (s : State) (g : Nat) (u : WUnit) : Option (Nat × Nat) :=
  u.entry.bind (fun e => ((s.core (coreOf g)).split.find? e).map (fun x => (e, x.parentSub)))

/-- Ends a stepped unit's wait where it can end; `none` while it still holds. -/
def State.stepWake (s : State) (g : Nat) (w : Warp) (u : WUnit) : Option State :=
  match u.st with
  | .blocked (.alloc _ ord) => if s.grantable (quadOf g) (w.lseq, ord) (u.request w) then some (s.grantRegs g (some u.sub)) else none
  | .blocked x =>
    match s.waitEnd g w x with
    | .no => none
    | .yes | .acquire => some (s.wakeUnit g w u)
  | _ => some s

/-- Hands one instruction of a ready unit to its slot. A unit that its wait left at its reconvergence PC arrives instead. -/
def State.stepIssue (s : State) (d g k : Nat) (r : DbgRun) : State :=
  let s1 := settleUnit 18 s g k
  let ready := (s1.unit? g k).any (fun u => u.st = .ready)
  if ready then ((s1.setDbg d { r with issued := true, steps := r.steps + 1, status := 0 })).beginStroke g k
  else s1.setDbg d { r with issued := true, status := 8 }

/-- Begins the step of unit `k`, once its warp holds its registers and its quadrant's slot is free. -/
def State.stepBegin (s : State) (d k : Nat) (r : DbgRun) : State :=
  let g := r.slot
  match s.warp? g, s.unit? g k with
  | some w, some u =>
    if w.faulted then s.setDbg d { r with cur := none, todo := [] }
    else if u.st = .fusing then s.setDbg d { r with cur := none }
    else if w.parked || s.slotHeld (quadOf g) || (s.die d).stall.isSome then s
    else
      let r : DbgRun := { r with entry := s.entryOf g u }
      -- The overrun of R44 is checked before a step issues: WDOG on the unit stepped.
      if w.overdue then (s.setDbg d { r with issued := true, status := 5 }).wdogUnit g k
      else
        match s.stepWake g w u with
        | none => s.setDbg d { r with issued := true, status := 4, steps := r.steps + 1 }
        | some s1 => s1.stepIssue d g k r
  | _, _ => s.setDbg d { r with cur := none }

/-- The unit's entry has fused, so that its parent is live. -/
def State.fusedTo (s : State) (g : Nat) (e : Option (Nat × Nat)) : Option Nat :=
  e.bind (fun p => if ((s.core (coreOf g)).split.find? p.1).isNone && (s.unit? g p.2).any (fun u => u.st ≠ .fusing) then some p.2 else none)

/-- The stroke boundary after a step: results are written, the unit arrives, and the entry fuses. -/
def State.stepBoundary (s : State) (d g k : Nat) (r : DbgRun) (u : WUnit) : State :=
  let s1 := s.forceLooks g k
  let e := s1.entryOf g u
  let s2 := if u.st = .ready then settleUnit 18 s1 g k else s1
  let gone := e.any (fun p => ((s2.core (coreOf g)).split.find? p.1).isNone)
  let arrived := u.st = .fusing || (u.st = .ready && (gone || (s2.unit? g k).any (fun x => x.st = .fusing)))
  let s3 := match s2.fusedTo g e with
    | some p => s2.setDieReg d .dbgsel (setFld (s2.dieReg d .dbgsel) 15 13 p)
    | none => s2
  s3.setDbg d { r with cur := none, status := if arrived then 8 else r.status, todo := if (s2.warp? g).any (fun w => w.faulted) then [] else r.todo }

/-- Ends the step of unit `k`, once its instruction has issued and its results are known. -/
def State.stepEnd (s : State) (d k : Nat) (r : DbgRun) : State :=
  let g := r.slot
  match s.warp? g with
  | none => s.setDbg d { r with cur := none, todo := [], status := if r.status = 5 && !r.all then 5 else 6 }
  | some w =>
    if w.units.isEmpty then s.setDbg d { r with cur := none, todo := [], status := if r.status = 5 && !r.all then 5 else 6 }
    else
      match s.unit? g k with
      | none =>
        let s1 := match s.fusedTo g r.entry with
          | some p => s.setDieReg d .dbgsel (setFld (s.dieReg d .dbgsel) 15 13 p)
          | none => s
        s1.setDbg d { r with cur := none }
      | some u =>
        if u.st = .issuing || u.looks.any (fun x => !x.ready) then s
        else s.stepBoundary d g k r u

/-- Carries the debug command of a die one stage further. Nothing changes while it must wait. -/
def State.dbgAdvance (s : State) (d : Nat) : State :=
  match (s.die d).dbg with
  | none => s
  | some r =>
    match r.cur, r.todo with
    | some k, _ => if r.issued then s.stepEnd d k r else s.stepBegin d k r
    | none, k :: rest => s.setDbg d { r with cur := some k, todo := rest, issued := false, entry := none }
    | none, [] => if (s.warp? r.slot).any (fun w => w.units.any (fun u => u.st = .issuing)) then s else s.dbgEnd d r.status r.steps

/-- A run over units of a warp. -/
def dbgRun (all : Bool) (g : Nat) (todo : List Nat) : DbgRun :=
  { all := all, slot := g, todo := todo, cur := none, issued := false, entry := none, steps := 0, status := 0 }

/-- DEBUG_HALT (R403): each unit stops at its next stroke boundary. -/
def execDebugHalt (die : Nat) (s : State) : Out :=
  .next (if !s.dbgIdle die then s
    else
      let s := s.dbgStart die 1
      match s.dbgWarp die with
      | none => s.dbgEnd die 1 0
      | some (g, _) => ((s.modWarp g (fun w => { w with halted := true })).setDbg die (dbgRun false g [])).dbgAdvance die)

/-- DEBUG_RESUME (R403). -/
def execDebugResume (die : Nat) (s : State) : Out :=
  .next (if !s.dbgIdle die then s
    else
      let s := s.dbgStart die 4
      match s.dbgWarp die with
      | none => s.dbgEnd die 1 0
      | some (g, _) => (s.modWarp g (fun w => { w with halted := false })).dbgEnd die 0 0)

/-- DEBUG_STEP (R405): one instruction of the selected unit. -/
def execDebugStep (die : Nat) (s : State) : Out :=
  .next (if !s.dbgIdle die then s
    else
      let s := s.dbgStart die 2
      match s.dbgWarp die with
      | none => s.dbgEnd die 1 0
      | some (g, w) =>
        let k := s.dbgSub die
        if !w.isStopped || w.faulted then s.dbgEnd die 2 0
        else if !(s.unit? g k).any (fun u => u.st ≠ .fusing) then s.dbgEnd die 3 0
        else s.setDbg die (dbgRun false g [k]))

/-- DEBUG_STEP_ALL (R406): one instruction of each live unit, in split-table order. -/
def execDebugStepAll (die : Nat) (s : State) : Out :=
  .next (if !s.dbgIdle die then s
    else
      let s := s.dbgStart die 3
      match s.dbgWarp die with
      | none => s.dbgEnd die 1 0
      | some (g, w) => if !w.isStopped || w.faulted then s.dbgEnd die 2 0 else s.setDbg die (dbgRun true g (s.liveOrder g)))

/-! ## Access to state (R407) -/

/-- The warp that DBGACC reads and writes: one that is stopped or Faulted. -/
def State.accWarp (s : State) (d : Nat) : Option (Nat × Warp) := (s.dbgWarp d).filter (fun p => p.2.isStopped || p.2.faulted)

/-- A vector name as the debugger reads it; a spilled one from its slot. -/
def State.accVec (s : State) (w : Warp) (n : Nat) : Lanes :=
  match w.names.find? n with
  | some e =>
    match e.st with
    | .spilled k _ => bytesLanes (s.peek (w.slotAddr k) 256)
    | _ => e.val
  | none => zeroLanes

/-- The value of a register of a file, or the status that refuses the read. -/
def State.accRead (s : State) (g : Nat) (w : Warp) (sub file idx lane : Nat) : Except Nat W64 :=
  match file with
  | 0 => .ok ((s.accVec w idx).at lane)
  | 1 => if idx < 128 then .ok (w.sreg idx) else .error 2
  | 2 =>
    match s.group? w.wg with
    | some k => if idx < 16 then .ok (k.wregs.getD idx 0) else .error 2
    | none => .error 2
  | 3 => if idx < 8 then .ok (if inMask (w.pred idx) lane then 1 else 0) else .error 2
  | 4 =>
    match Special.ofCode idx, unitOf w.units sub with
    | some r, some u => .ok (s.special g w u r ((lowLane u.exec).getD 0))
    | _, _ => .error 2
  | 5 =>
    if idx < 8 then .ok (BitVec.ofNat 64 (leNat (((unitRecord w ((s.splits g).map (fun p => p.2.parentSub)) sub).drop (8 * idx)).take 8))) else .error 2
  | _ => .error 2

/-- DEBUG_ACCESS_READ (R407). -/
def execDebugAccessRead (die : Nat) (val : W64) (s : State) : Out :=
  let idle (st : Nat) : W64 := setFld (setFld (setFld (val &&& 0xFFFFF) 19 19 0) 20 20 0) 24 21 st
  .next (if 4 ≤ die then s
    else match s.accWarp die with
      | none => s.setDieReg die .dbgacc (idle 1)
      | some (g, w) =>
        match s.accRead g w (s.dbgSub die) (fld val 2 0) (fld val 13 3) (fld val 18 14) with
        | .ok v => (s.setDieReg die .dbgdata v).setDieReg die .dbgacc (idle 0)
        | .error e => s.setDieReg die .dbgacc (idle e))

/-- Writes one lane of a vector name; an unmapped one takes a register, or fails where there is none. -/
def State.accVecPut (s : State) (g : Nat) (w : Warp) (n lane : Nat) (v : W64) : Except Nat State :=
  match w.names.find? n with
  | some e =>
    match e.st with
    | .spilled k _ => .ok (s.poke (w.slotAddr k + 8 * lane) (leBytes 8 v.toNat))
    | _ => .ok (s.setWarp g (w.vset n (1#32 <<< lane) (constLanes v)))
  | none =>
    if w.regsMax < w.held + 1 then .error 4
    else if s.poolFree (quadOf g) = 0 then .error 3
    else .ok (s.setWarp g (w.vset n (1#32 <<< lane) (constLanes v)))

/-- Writes a special register, as SWR may (R54, R216); a stack pointer that SWR would refuse is refused. -/
def State.accSpecialPut (s : State) (g : Nat) (w : Warp) (sub : Nat) (r : Special) (v : W64) : Except Nat State :=
  if !r.writable then .error 2
  else
    match r with
    | .exec => if (unitOf w.units sub).isSome then .ok (s.modUnit g sub (fun u => { u with exec := v.setWidth 32 &&& u.owned })) else .error 2
    | .stkptr => if v.toNat % 32 ≠ 0 || v < w.stklim || w.stktop < v then .error 2 else .ok (s.setWarp g (w.setSpecial .stkptr v))
    | r => .ok (s.setWarp g (w.setSpecial r v))

/-- Writes a register of a file, or gives the status that refuses the write. -/
def State.accWrite (s : State) (g : Nat) (w : Warp) (sub file idx lane : Nat) (v : W64) : Except Nat State :=
  match file with
  | 0 => s.accVecPut g w idx lane v
  | 1 => if idx < 128 then .ok (s.setWarp g (w.setSreg idx v)) else .error 2
  | 2 => if idx < 16 then .ok (s.modGroup w.wg (fun k => { k with wregs := k.wregs.set idx v })) else .error 2
  | 3 =>
    let m : W32 := 1#32 <<< lane
    if idx < 8 then .ok (s.setWarp g { w with preds := w.preds.set idx (if v.getLsbD 0 then w.pred idx ||| m else w.pred idx &&& ~~~m) }) else .error 2
  | 4 =>
    match Special.ofCode idx with
    | some r => s.accSpecialPut g w sub r v
    | none => .error 2
  | _ => .error 2

/-- DEBUG_ACCESS_WRITE (R407). -/
def execDebugAccessWrite (die : Nat) (val : W64) (s : State) : Out :=
  let idle (st : Nat) : W64 := setFld (setFld (setFld (val &&& 0xFFFFF) 19 19 1) 20 20 0) 24 21 st
  .next (if 4 ≤ die then s
    else match s.accWarp die with
      | none => s.setDieReg die .dbgacc (idle 1)
      | some (g, w) =>
        match s.accWrite g w (s.dbgSub die) (fld val 2 0) (fld val 13 3) (fld val 18 14) (s.dieReg die .dbgdata) with
        | .ok s1 => s1.setDieReg die .dbgacc (idle 0)
        | .error e => s.setDieReg die .dbgacc (idle e))

end Sys2Proof.Machine
end

