-- ==== Sys2Proof/Machine/Clock.lean ====
section
/-! DEFINITION. The trace registers' events (R408) and the clocks (R415 to R417, R435). -/

namespace Sys2Proof.Machine

/-! ## Trace (R408) -/

/-- What the trace unit holds when it is enabled. -/
def Trace.start (val : W64) : Trace :=
  { latched := val, lastTime := 0, lastQuad := 0, lastSync := none, synced := [], dropped := 0, dropTime := 0 }

/-- TRACE_ENABLE (R408): EN written as 1 over 0 sets TRWP to 0 and latches the other fields. -/
def execTraceEnable (core : Nat) (val : W64) (s : State) : Out :=
  .next (if 192 ≤ core || !val.getLsbD 0 || (s.coreReg core .trctl).getLsbD 0 then s
    else
      let v := val &&& 0x3FFFFF
      ((s.setCoreReg core .trctl v).setCoreReg core .trwp 0).modCore core (fun c => { c with trace := Trace.start v }))

/-- TRACE_DISABLE (R408, R409): the stream stops after the packet being written. -/
def execTraceDisable (core : Nat) (s : State) : Out :=
  .next (if 192 ≤ core then s else s.setCoreReg core .trctl (setFld (s.coreReg core .trctl) 0 0 0))

/-! ## Frequency steps (R416) -/

/-- The frequency of a die. -/
def State.freq (s : State) (d : Nat) : Nat := (s.epoch d).2.2

/-- A frequency a die may run at. -/
def freqOk (f : Nat) : Bool := 600 ≤ f && f ≤ 1800 && f % 50 = 0

/-- A write of DFREQ.GO with TARGET: the die's clock stops, or the request is refused or changes nothing. -/
def State.freqStep (s : State) (d target : Nat) : State :=
  let r := s.dieReg d .dfreq
  let f := target % 4096
  if r.getLsbD 13 then s
  else if !freqOk f then s.setDieReg d .dfreq (setFld (setFld r 11 0 f) 14 14 1)
  else if f = s.freq d then s.setDieReg d .dfreq (setFld (setFld r 11 0 f) 14 14 0)
  else
    let t := s.rtime
    (s.setDieReg d .dfreq (setFld (setFld (setFld r 11 0 f) 13 13 1) 14 14 0)).modDie d (fun x => { x with stall := some (t, f) })

/-- FREQUENCY_STEP (R416). -/
def execFrequencyStep (die target : Nat) (s : State) : Out := .next (if die < 4 then s.freqStep die target else s)

/-- Records an epoch (R417): the RTIME and CLK at which it takes effect, and its frequency. -/
def State.newEpoch (s : State) (d rt ck f : Nat) : State :=
  let n := ((s.dieReg d .ceseq).toNat + 1) % 2 ^ 32
  let i := n % 4
  (((s.setDieReg d .ceseq (BitVec.ofNat 64 n)).setDieReg d (.ceprt i) (BitVec.ofNat 64 rt)).setDieReg d (.cepclk i) (BitVec.ofNat 64 ck)).setDieReg d
    (.cepinfo i) (BitVec.ofNat 64 (f + n * 2 ^ 12))

/-- FREQUENCY_RESTART (R416): 2,000 ns after the stop the die restarts at TARGET. -/
def execFrequencyRestart (die : Nat) (s : State) : Out :=
  .next (match (s.die die).stall with
    | some (t, f) =>
      if s.rtime < t + 2000 then s
      else
        let ck := s.clk die
        let s := (s.newEpoch die (t + 2000) ck f).modDie die (fun x => { x with stall := none })
        s.setDieReg die .dfreq (setFld (s.dieReg die .dfreq) 13 13 0)
    | none => s)

/-- POWER_LIMIT_STEP (R435): Norem lowers the die's clock by one step of 50 MHz. -/
def execPowerLimitStep (die : Nat) (s : State) : Out := .next (if die < 4 && 650 ≤ s.freq die then s.freqStep die (s.freq die - 50) else s)

end Sys2Proof.Machine
end

