-- ==== Sys2Proof/Machine/LaneOps.lean ====
section
/-! DEFINITION. Lane instructions (R239 to R246): they read other lanes of a register, active or not. -/

namespace Sys2Proof.Machine

/-- Source lane of SHFL (R241). -/
def shflLane (mode w l b : Nat) : Nat :=
  let base := l - l % w
  match mode with
  | 0 => base + b % w
  | 1 => if w ≤ b || l < base + b then l else l - b
  | 2 => if w ≤ b || base + w ≤ l + b then l else l + b
  | _ => base + (l % w) ^^^ (b % w)

/-- SHFL. -/
def shflJob (x : Op) : Job :=
  let mode := x.func.toNat % 4
  let w := 2 ^ (x.func.toNat / 4 % 8)
  jobOf x x.bytes (fun c =>
    let a := c.src x.lit x.a
    let b := c.src x.lit x.b
    .go (c.put x.d (Lanes.tab (fun l => a.at (shflLane mode w l ((b.at l).toNat % 2 ^ 32)))) 0))

/-- Lowest set bit of a nonzero 5-bit number. -/
def lowBit (m : Nat) : Nat := ((List.range 5).find? (fun i => m.testBit i)).getD 0

/-- SWAPP (R242). -/
def swappJob (x : Op) : Job :=
  let m := x.func.toNat % 32
  let neglo := x.mod.toNat.testBit 2
  let sign := (ffmt (x.mod.toNat % 4)).signBit
  jobOf x x.bytes (fun c =>
    let a := c.src x.lit x.a
    .go (c.put x.d (Lanes.tab (fun l =>
      let v := a.at (l ^^^ m)
      if neglo && !l.testBit (lowBit m) then v ^^^ BitVec.ofNat 64 sign else v)) 0))

/-- BCAST (R243). -/
def bcastJob (x : Op) : Job :=
  let first := x.func.toNat.testBit 0
  jobOf x x.bytes (fun c =>
    let a := c.src x.lit x.a
    let lane := if first then (lowLane c.act).getD 0 else (c.scalar x.lit x.b).toNat % 32
    .go (c.put x.d (constLanes (a.at lane)) 0))

/-- VOTE (R244). -/
def voteJob (x : Op) : Job :=
  let k := x.func.toNat % 8
  let neg := x.func.toNat.testBit 3
  let mode := x.func.toNat / 16 % 4
  jobOf x x.bytes (fun c =>
    let q : W32 := (if neg then ~~~(c.w.pred k) else c.w.pred k) &&& c.act
    let all (b : Bool) : W32 := if b then ~~~0 else 0
    .go (match mode with
      | 0 => c.put x.d (constLanes (q.setWidth 64)) 0
      | 1 => c.pushed (all (q ≠ 0)) 0
      | 2 => c.pushed (all (q = c.act)) 0
      | _ => c.pushed (all (q = 0 || q = c.act)) 0))

/-! ## Reductions (R245, R246) -/

/-- `combine` of R245: operation, type, mode and flush; the low bits of two slots. -/
def combine (op ty : Nat) (md : Rnd) (fz : Bool) (a b : Nat) : Nat × W32 :=
  if ty < 4 then
    match op with
    | 0 => fadd ty fz md a b
    | 1 => fminmax ty false (flushIn ty fz (a % 2 ^ (ffmt ty).width)) (flushIn ty fz (b % 2 ^ (ffmt ty).width))
    | _ => fminmax ty true (flushIn ty fz (a % 2 ^ (ffmt ty).width)) (flushIn ty fz (b % 2 ^ (ffmt ty).width))
  else
    let w := tyWidth ty
    let x := tyRead ty a
    let y := tyRead ty b
    let wrap (i : Int) : Nat := (i % (2 ^ w : Int)).toNat
    (match op with
      | 0 => wrap (x + y)
      | 1 => wrap (min x y)
      | 2 => wrap (max x y)
      | 3 => (a &&& b) % 2 ^ w
      | 4 => (a ||| b) % 2 ^ w
      | _ => (a ^^^ b) % 2 ^ w, 0)

/-- Width a type's value takes in a slot. -/
def redWidth (ty : Nat) : Nat := if ty < 4 then (ffmt ty).width else tyWidth ty

/-- A slot's value as a reduction reads it: a BF16 subnormal as zero where FPCR says so (R132). -/
def redRead (ty : Nat) (fz : Bool) (a : W64) : Nat := let x := a.toNat % 2 ^ redWidth ty; if ty < 4 then flushIn ty fz x else x

/-- One level of the tree: neighbours combine, an absent one passes the other on. -/
def treeLevel (f : Nat → Nat → Nat × W32) : List (Option Nat) → List (Option Nat) × W32
  | x :: y :: r =>
    let (t, fl) := treeLevel f r
    match x, y with
    | some a, some b => let p := f a b; (some p.1 :: t, fl ||| p.2)
    | some a, none => (some a :: t, fl)
    | none, some b => (some b :: t, fl)
    | none, none => (none :: t, fl)
  | [x] => ([x], 0)
  | [] => ([], 0)

/-- `n` levels of the tree. -/
def treeUp (f : Nat → Nat → Nat × W32) : Nat → List (Option Nat) → W32 → List (Option Nat) × W32
  | 0, xs, fl => (xs, fl)
  | n + 1, xs, fl => let (ys, g) := treeLevel f xs; treeUp f n ys (fl ||| g)

/-- REDL (R245). -/
def redlJob (x : Op) : Job :=
  let op := x.func.toNat % 8
  let ty := x.func.toNat / 8 % 16
  jobOf x x.bytes (fun c =>
    let a := c.src x.lit x.a
    let f := combine op ty (Rnd.select x.mod.toNat c.w.fpcr) (bffz c.w.fpcr)
    let leaves := laneIds.map (fun l => if inMask c.act l then some (redRead ty (bffz c.w.fpcr) (a.at l)) else none)
    let (top, fl) := treeUp f 5 leaves 0
    .go (c.put x.d (constLanes (BitVec.ofNat 64 ((top.getD 0 none).getD 0))) fl))

/-- Identity of an operation and type (R246). -/
def scanIdentity (op ty : Nat) : Nat :=
  let w := redWidth ty
  match op with
  | 1 => if ty < 4 then infPatOf ty false else (tyMax ty % (2 ^ w : Int)).toNat
  | 2 => if ty < 4 then infPatOf ty true else (tyMin ty % (2 ^ w : Int)).toNat
  | 3 => 2 ^ w - 1
  | _ => 0
where
  infPatOf (code : Nat) (neg : Bool) : Nat := (ffmt code).signed neg (ffmt code).infBits

/-- Prefixes in ascending lane order: each lane's value with the flags so far. -/
def scanLanes (f : Nat → Nat → Nat × W32) (excl : Bool) (ident : Nat) (a : Nat → Nat) : List Nat → Option Nat → W32 → List (Nat × Nat) × W32
  | [], _, fl => ([], fl)
  | l :: ls, acc, fl =>
    let (nxt, g) := match acc with
      | some v => f v (a l)
      | none => (a l, 0)
    let (t, fl') := scanLanes f excl ident a ls (some nxt) (fl ||| g)
    ((l, if excl then acc.getD ident else nxt) :: t, fl')

/-- SCANL (R246). -/
def scanlJob (x : Op) : Job :=
  let op := x.func.toNat % 8
  let ty := x.func.toNat / 8 % 16
  let excl := x.func.toNat.testBit 7
  jobOf x x.bytes (fun c =>
    let a := c.src x.lit x.a
    let f := combine op ty (Rnd.select x.mod.toNat c.w.fpcr) (bffz c.w.fpcr)
    let (r, fl) := scanLanes f excl (scanIdentity op ty) (fun l => redRead ty (bffz c.w.fpcr) (a.at l)) c.lanes none 0
    .go (c.put x.d (Lanes.tab (fun l => BitVec.ofNat 64 (((r.find? (fun p => p.1 = l)).map (·.2)).getD 0))) fl))

/-! ## The instructions -/

/-- SHFL (R241). -/
def execShfl (x : Op) (s : State) : Out := issue (shflJob x) s
/-- SWAPP (R242). -/
def execSwapp (x : Op) (s : State) : Out := issue (swappJob x) s
/-- BCAST (R243). -/
def execBcast (x : Op) (s : State) : Out := issue (bcastJob x) s
/-- VOTE (R244). -/
def execVote (x : Op) (s : State) : Out := issue (voteJob x) s
/-- REDL (R245). -/
def execRedl (x : Op) (s : State) : Out := issue (redlJob x) s
/-- SCANL (R246). -/
def execScanl (x : Op) (s : State) : Out := issue (scanlJob x) s

end Sys2Proof.Machine
end

