-- ==== Sys2Proof/Machine/Package.lean ====
section
/-! DEFINITION. The package: the ring counts Norem writes (R99, R390, R393), the inter-die directory (R423), UALink (R425 to R429), ready words
(R430), soft and fatal errors (R380, R433, R434), reset (R432) and writes to device registers (R7). -/

namespace Sys2Proof.Machine

/-! ## Ring counts -/

/-- Norem has served an interrupt of a die. -/
def State.noremServed (s : State) (d : Nat) (i : NoremInt) : State :=
  s.modDie d (fun x => { x with noremInts := x.noremInts.filter (fun y => y ≠ i) })

/-- WHATAIL_WRITE (R99): frames supplied go to the copies that wait for them. -/
def execWhatailWrite (die : Nat) (val : W32) (s : State) : Out :=
  .next (if die < 4 then (((s.setDieReg die .whatail (val.setWidth 64)).noremServed die .allocRing).noremServed die .rejected).feedCows die else s)

/-- WHFHEAD_WRITE (R99). -/
def execWhfheadWrite (die : Nat) (val : W32) (s : State) : Out :=
  .next (if die < 4 then (s.setDieReg die .whfhead (val.setWidth 64)).noremServed die .returnRing else s)

/-- CTXATAIL_WRITE (R390). -/
def execCtxatailWrite (die : Nat) (val : W32) (s : State) : Out := .next (if die < 4 then s.setDieReg die .ctxatail (val.setWidth 64) else s)

/-- CTXSHEAD_WRITE (R390, R393): the entries that waited enter the leave ring, as many as have room. -/
def execCtxsheadWrite (die : Nat) (val : W32) (s : State) : Out :=
  .next (if die < 4 then
      let s := (s.setDieReg die .ctxshead (val.setWidth 64)).noremServed die .leaveRing
      let es := (s.die die).leaving
      es.foldl (fun s e => s.postLeave die e) (s.modDie die (fun x => { x with leaving := [] }))
    else s)

/-! ## The inter-die directory (R423) -/

/-- A line of the package's memory, named by a die. -/
def dirOk (die addr : Nat) : Bool := die < 4 && addr < 2 ^ 48 && !inHole addr

/-- DIRECTORY_READ (R423). -/
def execDirectoryRead (die addr : Nat) (s : State) : Out := .next (if dirOk die addr then s.dirRead die addr else s)

/-- DIRECTORY_WRITE (R423). -/
def execDirectoryWrite (die addr : Nat) (s : State) : Out := .next (if dirOk die addr then s.dirWrite die addr else s)

/-- DIRECTORY_REDUCTION (R423): a reduction of R259, of a whole item. -/
def execDirectoryReduction (die addr op ty : Nat) (val : W64) (s : State) : Out :=
  .next (if dirOk die addr && op < 6 && ty < 12 && addr % (atomWidth ty / 8) = 0 then s.dirReduce die addr op ty val else s)

/-- DIRECTORY_EVICTION (R423). -/
def execDirectoryEviction (die addr : Nat) (s : State) : Out := .next (if dirOk die addr then s.dirEvict die addr else s)

/-! ## Inbound UALink requests (R425, R426) -/

/-- The address space of a source at a port: that of the first valid entry of the port's map that names it. -/
def State.linkRoot (s : State) (d port src : Nat) : Option Nat :=
  ((List.range 64).find? (fun k => (s.dieReg d (.ulmap port k)).getLsbD 0 && fld (s.dieReg d (.ulmap port k)) 10 1 = src)).map
    (fun k => fld (s.dieReg d (.ulmap port k)) 63 32)

/-- A port that is up. One that is down answers nothing: DESIGN CHOICE (log 10), unsafe. -/
def State.portUp (s : State) (d port : Nat) : Bool := d < 4 && port < 4 && (s.dieReg d .dready).getLsbD (13 + port)

/-- Answers an inbound request: data, or an error response. -/
def State.answer (s : State) (d port : Nat) (r : Option (List Byte)) : State := { s with replies := s.replies ++ [(d, port, r)] }

/-- The memory that the bytes from an address reach is usable: its stacks are ready (R431), and no die it lies on or is reached
through has failed (R380). -/
def State.linkReady (s : State) (d root : Nat) (va : W64) (n : Nat) : Bool :=
  (List.range (pageRun va n)).all (fun i =>
    match (s.xlatDie d root (va + BitVec.ofNat 64 (65536 * i)) .read true).2 with
    | .ok pa _ _ =>
      let h := s.homeDie pa
      let via := if d ^^^ h = 3 then [d, d ^^^ 1, h] else [d, h]
      s.memReady pa && via.all (fun x => !(s.die x).failed)
    | .fail _ _ => false)

/-- UALINK_READ (R426). -/
def execUalinkRead (die port src : Nat) (addr : W64) (len : Nat) (s : State) : Out :=
  .next (if !s.portUp die port then s
    else match s.linkRoot die port src with
      | none => s.answer die port none
      | some root =>
        if len = 0 || 256 < len || !s.linkReady die root addr len then s.answer die port none
        else match s.readVa die root addr true len with
          | (s, .ok bs) => s.answer die port (some bs)
          | (s, .error _) => s.answer die port none)

/-- The pages that the bytes from an address reach may be written, and none has an inconsistent version record. -/
def State.linkOpen (s : State) (d root : Nat) (va : W64) (n : Nat) : Bool :=
  (List.range (pageRun va n)).all (fun i =>
    match s.xlatDie d root (va + BitVec.ofNat 64 (65536 * i)) .write true with
    | (s, .ok _ _ leaf) => (s.cowTouch leaf).2 ≠ .bad
    | (_, .fail _ _) => false)

/-- UALINK_WRITE (R426). Where a page of it is being copied, its bytes there wait, whether or not the copy has a frame, and the answer with them (R98). -/
def execUalinkWrite (die port src : Nat) (addr : W64) (data : List Byte) (s : State) : Out :=
  .next (if !s.portUp die port then s
    else match s.linkRoot die port src with
      | none => s.answer die port none
      | some root =>
        if data.isEmpty || 256 < data.length || !s.linkReady die root addr data.length || !s.linkOpen die root addr data.length then s.answer die port none
        else
          let (id, s) := s.newHandle
          ((piecesOf addr data).foldl (fun s p => (s.writePiece (.link die port id) die root p.1 p.2).1) s).answerLink (.link die port id))

/-- UALINK_ATOMIC (R425, R258): the old value is returned. An atomic that meets a copy-on-write waits for it as a link write does (R98). Its integers
are unsigned. DESIGN CHOICE (log 10), unsafe. -/
def execUalinkAtomic (die port src : Nat) (addr : W64) (op : Nat) (wide : Bool) (opnd cmp : W64) (s : State) : Out :=
  let n := if wide then 8 else 4
  .next (if !s.portUp die port then s
    else match s.linkRoot die port src with
      | none => s.answer die port none
      | some root =>
        if 8 ≤ op || addr.toNat % n ≠ 0 || !s.linkReady die root addr n then s.answer die port none
        else match s.xlatDie die root addr .write true with
          | (s, .fail _ _) => s.answer die port none
          | (s, .ok pa pte leaf) =>
            let (id, s) := s.newHandle
            let x : LateWrite := { who := .link die port id, core := none, die := die, lane := 0, va := addr, off := pa % 65536,
                                   op := .atom op (if wide then 11 else 10) cmp opnd id 0 }
            match (s.touch leaf true).cowTouch leaf with
            | (s, .clear) => x.land s (pteScope pte) pa
            | (s, .wait) | (s, .noFrame) => s.queueLate leaf x
            | (s, .bad) => s.answer die port none)

/-! ## Fatal errors (R380, R433, R434) -/

/-- Records a fatal error in the syndrome registers of a die; the unit and place of the first one stay. -/
def State.syndrome (s : State) (d unit : Nat) (loc : W64) : State :=
  let r := s.dieReg d .dsynd
  if r.getLsbD 32 then s
  else (s.setDieReg d .dsynd (setFld (setFld r 31 24 unit) 32 32 1)).setDieReg d .dsyndaddr (loc &&& 0xFFFF_FFFF_FFFF)

/-- Every command of the collective engines ends with CONTEXT_LOST; what the failed die had in hand is dropped. -/
def State.loseEngines (s : State) (d : Nat) : State :=
  s.engines.foldl (fun s p =>
    let lost := s.loseColl p.2
    if p.2.die = d then lost.dropEng p.1 p.2
    else if (p.2.kind = 5 || p.2.kind = 6) && p.2.status.isNone then lost.endEng p.1 p.2 stCONTEXT_LOST 0 0
    else s) s

/-- Ends every launch with CONTEXT_LOST; the warps of a failed die are gone at once. -/
def State.loseLaunches (s : State) (d : Nat) : State :=
  let s := s.launches.foldl (fun s p => (s.modLaunch p.1 (fun l => l.fail stCONTEXT_LOST)).endLaunch p.1) s
  (s.warps.filter (fun p => dieOf p.1 = d)).foldl (fun s p => s.dropUnits p.1 (fun _ => true)) s

/-- A fatal error of a die (R380). -/
def State.fatalError (s : State) (d unit : Nat) (loc : W64) : State :=
  let first := !s.fatal
  let s := (s.syndrome d unit loc).modDie d (fun x => { x with failed := true, dbg := none, stall := none })
  let s := { s with fatal := true, teardowns := [], sends := s.sends.filter (fun (p : Nat × SendBlk) => p.2.die ≠ d && dieOfCore p.2.core ≠ d) }
  let s := (s.loseEngines d).loseLaunches d
  if first then
    (List.range 64).foldl (fun s i => if s.vifState i = vifActive then s.raiseUnless i (fld (s.pkgReg (.vifcfg i)) 47 32) else s) s
  else s

/-- Unit codes of R434. -/
def synUnit (u : Nat) : Bool := 1 ≤ u && u ≤ 13

/-- ECC_CORRECTED_ERROR (R433): counted, with no other effect. -/
def execEccCorrectedError (die unit : Nat) (s : State) : Out :=
  .next (if 4 ≤ die || !synUnit unit then s
    else
      let r := s.dieReg die .dsynd
      s.setDieReg die .dsynd (setFld (setFld r 15 0 (min (fld r 15 0 + 1) 65535)) 23 16 unit))

/-- ECC_UNCORRECTABLE_ERROR (R433). -/
def execEccUncorrectableError (die unit loc : Nat) (s : State) : Out :=
  .next (if 4 ≤ die || !synUnit unit then s else s.fatalError die unit (BitVec.ofNat 64 loc))

/-- EDGE_RETRY_EXHAUSTED (R433): a fatal error of both dies the edge joins. The spec gives such an error no place: a free
value, DESIGN CHOICE (log 10), safe. -/
def execEdgeRetryExhausted (die other : Nat) (s : State) : Out :=
  .next (if 4 ≤ die || 4 ≤ other || !(die ^^^ other = 1 || die ^^^ other = 2) then s
    else ((s.fatalError die 11 (s.freeVal 0)).fatalError other 11 (s.freeVal 1)).tickFree)

/-! ## Reset (R432, R434) -/

/-- What a package reset leaves: every register at its reset value, RTIME and CLK at 0, HBM zero; host memory stands. -/
def State.resetPackage (s : State) : State :=
  let keepSyn (x : Die) : AMap DieReg W64 := x.regs.filter (fun p => p.1 = .dsynd || p.1 = .dsyndaddr)
  let clean (x : Die) : Die := { Reset.die with regs := keepSyn x, map := x.map }
  { State.reset with mem := s.mem.filter (fun c => isSystem c.1), dies := s.dies.each clean, outbox := s.outbox, replies := s.replies,
                     handles := s.handles, agenda := s.agenda, free := s.free }

/-- PACKAGE_RESET (R432). -/
def execPackageReset (s : State) : Out := .next s.resetPackage

/-- PKGRST (R432). -/
def execPkgrst (s : State) : Out := .next s.resetPackage

/-- POWER_ON (R434): the syndrome registers take their reset values too. -/
def execPowerOn (s : State) : Out :=
  let r := s.resetPackage
  .next { r with dies := r.dies.each (fun (x : Die) => { x with regs := [] }) }

/-! ## Ready words (R430, R431) -/

/-- Kicks that came while the front end or Norem of a die was not ready are served. -/
def State.serveKicks (s : State) (d : Nat) : State :=
  if s.feReady d then
    ((s.die d).slots.filter (fun p => p.2.kicked)).foldl (fun s p =>
      s.modSlot d p.1 (fun x => { x with kicked := false, wr := BitVec.ofNat 32 (s.peekN (s.slotQcb d p.1 + qcbWR) 4) })) s
  else s

/-- FUNCTION_READY (R430). -/
def execFunctionReady (die bit : Nat) (s : State) : Out :=
  .next (if 4 ≤ die || 25 ≤ bit then s else (s.setDieReg die .dready (setFld (s.dieReg die .dready) bit bit 1)).serveKicks die)

/-! ## Messages and the loss of a link (R425, R427 to R431) -/

/-- A relayed command acts as if it had been written to this package's mailbox. -/
def State.relayed (s : State) (c : MgmtCmd) : State :=
  match c with
  | .queueRegister qid qcb => s.registerQueue qid qcb
  | .vifActivate vif => s.activate vif
  | .vifTear vif addr => s.tear vif (some addr)
  | .dieReset _ => { s with mailbox := .pkgOnly }
  | .pkgrst => s.resetPackage

/-- UALINK_VENDOR_MESSAGE (R425, R427 to R429). -/
def execUalinkVendorMessage (die port : Nat) (msg : VMsg) (s : State) : Out :=
  .next (if !s.portUp die port then s
    else match msg with
      | .allred tag pos data => if s.allreds.any (fun a => a.1 = tag && a.2.1 = pos) then s else { s with allreds := s.allreds ++ [(tag, pos, data)] }
      | .halo srcAcc srcDie dstDie tag off data =>
        { s with halos := s.halos ++ [{ srcAcc := srcAcc, srcDie := srcDie, dstAcc := s.accid, dstDie := dstDie, tag := tag, off := off, data := data }] }
      | .lost x => if s.lost.contains x then s else { s with lost := s.lost ++ [x] }
      | .relay cmd => s.relayed cmd)

/-- A collective's command has a participant beyond a port of its die. -/
def State.usesPort (s : State) (c : EngCmd) (d port : Nat) : Bool :=
  let accs : List Nat := match c.kind with
    | 5 => (peerList (recBits c.desc 159 128) (s.collData c)).map (fun (p : Peer) => p.acc)
    | 6 => (ringEntries (s.collData c)).map (fun (p : Nat × Nat) => p.1)
    | _ => []
  c.die = d && c.status.isNone && accs.any (fun a => a ≠ s.accid && collPort d a = port)

/-- UALINK_LINK_DOWN (R430, R431): the port's bit clears, and the collectives over it end with CONTEXT_LOST. -/
def execUalinkLinkDown (die port : Nat) (s : State) : Out :=
  .next (if !s.portUp die port then s
    else
      let s := s.setDieReg die .dready (setFld (s.dieReg die .dready) (13 + port) (13 + port) 0)
      s.engines.foldl (fun s p => if s.usesPort p.2 die port then (s.loseColl p.2).endEng p.1 p.2 stCONTEXT_LOST 0 0 else s) s)

/-! ## Writes to device registers (R7) -/

/-- Writable bits of the registers whose write only stores them. A bit whose write acts is not among them. -/
def regStoreMask : DieReg → W64
  | .whvrt | .wharing | .whfring | .ctxaring | .ctxsring => 0x0000_FFFF_FFFF_F01F
  | .ltab => 0x0000_FFFF_FFFF_F000
  | .preq => 0x3FFF_FFFF_FFFF_EFFF
  | .ctxrestLo => 0xFFFF_FFFF_FFFF_FFFF
  | .warpctl => 0x0000_1FFF_FFFF_FFFF
  | .dbgsel => 0x0000_FFFF_FFFF_FFFF
  | .dbgctl => 7
  | .dbgacc => 0xFFFFF
  | .dbgdata => 0xFFFF_FFFF_FFFF_FFFF
  | .dfreq => 0xFFF
  | .dsynd => 0xFFFF
  | .tlbinv => 0x1_FFFF_FFFF
  | .tlbrange => 0xFFFF_FFFF_FFFF_FFFF
  | .ulmap _ _ => 0xFFFF_FFFF_0001_FFFF
  | .vifshare _ => 0xFFFF_FFFF_FFFF_FFFF
  | _ => 0

/-- Bits cleared by writing them as 1. -/
def regClearMask : DieReg → W64
  | .mbox => 0x3_FFFF_FFFF
  | .dsynd => 0x1_0000_0000
  | _ => 0

/-- Bits whose write as 1 acts, as an event of its own. DESIGN CHOICE (log 16), safe. -/
def regActMask : DieReg → W64
  | .preq => 0x1000
  | .dbgctl => 8
  | .dbgacc => 0x10_0000
  | .dfreq => 0x1000
  | .tlbinv => 0x2_0000_0000
  | _ => 0

/-- The register exists. -/
def regKnown : DieReg → Bool
  | .slotq n => n < 32
  | .ceprt n | .cepclk n | .cepinfo n => n < 4
  | .ulmap p k => p < 4 && k < 64
  | .vifshare i => i < 64
  | _ => true

/-- Stores the writable fields of a value into a register. -/
def storeBits (old val store clear : W64) : W64 := (old &&& ~~~store &&& ~~~(val &&& clear)) ||| (val &&& store)

/-- A write to a slot register that neither loads, unloads nor rereads: HALT may be cleared, and the queue of an empty slot named. -/
def State.writeSlotq (s : State) (d n : Nat) (val : W64) : State :=
  let old := s.dieReg d (.slotq n)
  if val.getLsbD 12 ≠ old.getLsbD 12 || val.getLsbD 15 || (val.getLsbD 13 && !old.getLsbD 13) then s
  else s.setDieReg d (.slotq n) (storeBits old val (if old.getLsbD 12 then 0x2000 else 0x00FF_FFFF_FFFF_2FFF) 0)

/-- A write to a register of a die. A command that DBGCTL does not know ends at once with BADCMD (R402). -/
def State.writeDieReg (s : State) (d : Nat) (r : DieReg) (val : W64) : State :=
  if 4 ≤ d || !regKnown r then s
  else if r = .dbgctl && val.getLsbD 3 then
    if s.dbgIdle d && (fld val 2 0 = 0 || 5 ≤ fld val 2 0) then (s.dbgStart d (fld val 2 0)).dbgEnd d 7 0 else s
  else if val &&& (regActMask r) ≠ 0 || (r = .warpctl && (fld val 46 45 = 1 || fld val 46 45 = 2)) || (r = .dfreq && (s.dieReg d .dfreq).getLsbD 13) then s
  else match r with
    | .slotq n => s.writeSlotq d n val
    | r => s.setDieReg d r (storeBits (s.dieReg d r) val (regStoreMask r) (regClearMask r))

/-- A write to a trace register of a core; a change of EN is an event of its own. -/
def State.writeCoreReg (s : State) (c : Nat) (r : CoreReg) (val : W64) : State :=
  if 192 ≤ c then s
  else
    let old := s.coreReg c r
    match r with
    | .trctl => if val.getLsbD 0 = old.getLsbD 0 then s.setCoreReg c .trctl (storeBits old val 0x3FFFFE 0) else s
    | .trbase => s.setCoreReg c .trbase (val &&& 0xFFFF_FFFF_FF80)
    | .trwp => s
    | .trrp => s.setCoreReg c .trrp val

/-- A write to VIFCFG (R373): FVEC and LVEC are stored; TEAR begins a teardown while Active, with no completion address, and ACT makes a Free
interface Active. -/
def State.writeVifcfg (s : State) (i : Nat) (val : W64) : State :=
  let free := s.vifState i = vifFree
  let s := s.setPkgReg (.vifcfg i) (storeBits (s.pkgReg (.vifcfg i)) val 0x0000_FFFF_FFFF_0000 0)
  if val.getLsbD 3 && free then s.activate i else if val.getLsbD 2 && !free then s.tear i none else s

/-- A write to a register of the interposer. Claims of the lease are events of their own. -/
def State.writePkgReg (s : State) (r : PkgReg) (val : W64) : State :=
  match r with
  | .pkginfo => s.setPkgReg .pkginfo (val &&& 0x1FFF)
  | .vifcfg i => if 64 ≤ i then s else s.writeVifcfg i val
  | .vifimt i => if 64 ≤ i then s else s.setPkgReg (.vifimt i) (val &&& 0xFFFF_FFFF_FFFF_F000)
  | .vifcnt _ | .lease => s

/-- REGISTER_WRITE (R7). -/
def execRegisterWrite (reg : Reg) (val : W64) (s : State) : Out :=
  .next (match reg with
    | .die d r => s.writeDieReg d r val
    | .core c r => s.writeCoreReg c r val
    | .pkg r => s.writePkgReg r val)

end Sys2Proof.Machine
end

