-- ==== Sys2Proof/Machine/Transc.lean ====
section
/-! DEFINITION. The transcendental pipe (R144 to R146, R235). FSQRT and FRED are exact. Every other result is a value the manual leaves open within a
bound: the opaque `Config.approx`, taken where it lies within the bound of R145 of the exact value, and the value rounded to
nearest where it does not. The exact values are enclosed by whole-number arithmetic on 256 fractional bits. -/

namespace Sys2Proof.Machine

/-! ## Fixed-point series -/

/-- Fractional bits of the working precision. -/
def fxP : Nat := 256
def fxOne : Nat := 2 ^ fxP

/-- Product of two fixed-point numbers. -/
def fxMul (a b : Nat) : Nat := a * b / fxOne

/-- Sum of pw·t2^i / (2k + 2i + 1). -/
def atanhSum (t2 : Nat) : Nat → Nat → Nat → Nat
  | 0, _, _ => 0
  | n + 1, pw, k => pw / (2 * k + 1) + atanhSum t2 n (fxMul pw t2) (k + 1)

/-- atanh t for t at most 1/3. -/
def fxAtanh (t : Nat) : Nat := atanhSum (fxMul t t) 90 t 0

/-- ln 2 = 2 atanh(1/3). -/
def fxLn2 : Nat := 2 * fxAtanh (fxOne / 3)

/-- Sum of the terms of e^z from the one given. -/
def expSum (z : Nat) : Nat → Nat → Nat → Nat
  | 0, _, _ => 0
  | n + 1, t, k => t + expSum z n (fxMul t z / (k + 1)) (k + 1)

/-- e^z for z below 1. -/
def fxExp (z : Nat) : Nat := expSum z 70 fxOne 0

/-- Alternating sum of t, t·r2/((j+1)(j+2)), …. -/
def altSum (r2 : Nat) : Nat → Nat → Nat → Int
  | 0, _, _ => 0
  | n + 1, t, j => (t : Int) - altSum r2 n (fxMul t r2 / ((j + 1) * (j + 2))) (j + 2)

/-- sin r / r and cos r from r², for |r| below 1. -/
def fxSinc (r2 : Nat) : Nat := (altSum r2 40 fxOne 1).toNat
def fxCos (r2 : Nat) : Nat := (altSum r2 40 fxOne 0).toNat

/-- Sum of ±x^(-(2k+1)) / (2k+1) at `2^p`: arctan(1/x). -/
def atanSum (x : Nat) : Nat → Nat → Nat → Int
  | 0, _, _ => 0
  | n + 1, pw, k => ((pw / (2 * k + 1) : Nat) : Int) - atanSum x n (pw / (x * x)) (k + 1)

/-- Fractional bits π is kept to: enough to reduce every FP64 argument. -/
def piBits : Nat := 1400

/-- π × 2^piBits, by Machin's formula. -/
def piFix : Nat := (4 * (4 * atanSum 5 320 (2 ^ (piBits + 32) / 5) 0 - atanSum 239 100 (2 ^ (piBits + 32) / 239) 0)).toNat / 2 ^ 32

/-! ## Results within a bound -/

/-- A dyadic number times a power of two, as an integer at place 2^q; the place is at or below the number's. -/
def atPlace (m : Nat) (e q : Int) : Nat := m * 2 ^ (e - q).toNat

/-- Whether a finite pattern lies within `k` units in the last place of ±m × 2^e (R145). When the value is not exact its
relative error is below 2^-200. -/
def withinUlp (f : FFmt) (k : Nat) (c : Nat) (neg : Bool) (m : Nat) (e : Int) (exact : Bool) : Bool :=
  match f.decode c with
  | .fin n p g =>
    let u : Int := max ((Nat.log2 m : Int) + e) f.emin - f.fb
    let q := min (min g e) u - 200
    let y : Int := if neg then -(atPlace m e q : Int) else atPlace m e q
    let x : Int := if n then -(atPlace p g q : Int) else atPlace p g q
    let slack := if exact then 0 else (x - y).natAbs / 2 ^ 199 + (atPlace m e q) / 2 ^ 200
    (x - y).natAbs + slack ≤ k * atPlace 1 u q
  | _ => false

/-- The value the pipe returns for an exact value ±m × 2^e with m > 0, and its flags (R145, R146). `exact` says that the dyadic is
the mathematical value itself. -/
def pipeResult (fn code k : Nat) (a b : W64) (neg : Bool) (m : Nat) (e : Int) (exact : Bool) : Nat × W32 :=
  let f := ffmt code
  let r := f.round false .rne neg m e (!exact)
  if r.2 &&& flOF ≠ 0 then (f.signed neg f.infBits, flOF ||| flIX)
  else
    let c := (Config.approx fn code a b).toNat % 2 ^ f.width
    let out := if withinUlp f k c neg m e exact then c else r.1
    let same : Bool := exact && (match f.decode out with
      | .fin n p g => n = neg && (let q := min g e; atPlace p g q = atPlace m e q)
      | _ => false)
    (out, if same then 0 else flIX ||| flagIf (out % f.signBit < 2 ^ f.fb) flUF)

def zeroPat (code : Nat) (neg : Bool) : Nat := (ffmt code).signed neg 0
def infPat (code : Nat) (neg : Bool) : Nat := (ffmt code).signed neg (ffmt code).infBits
def nanPat (code : Nat) : Nat := (ffmt code).qnan
def onePat (code : Nat) (neg : Bool) : Nat := (roundVal code false .rne (.fin neg 1 0)).1

/-- Function numbers of `Config.approx`. -/
def fnRcp : Nat := 0
def fnRsq : Nat := 1
def fnDiv : Nat := 2
def fnExp2 : Nat := 3
def fnLog2 : Nat := 4
def fnSin : Nat := 5
def fnCos : Nat := 6

/-! ## The functions, on patterns -/

/-- The low bits of a slot, as an operand of a format. -/
def slotPat (code : Nat) (x : W64) : Nat := x.toNat % 2 ^ (ffmt code).width

/-- 1 / a. -/
def frcpPat (code : Nat) (x : W64) : Nat × W32 :=
  match (ffmt code).decode (slotPat code x) with
  | .nan s => (nanPat code, flagIf s flIO)
  | .inf n => (zeroPat code n, 0)
  | .fin n m e =>
    if m = 0 then (infPat code n, flDZ)
    else let (q, g, st) := divDy fxP 1 0 m e; pipeResult fnRcp code 1 (BitVec.ofNat 64 (slotPat code x)) 0 n q g (!st)

/-- 1 / √a. -/
def frsqPat (code : Nat) (x : W64) : Nat × W32 :=
  match (ffmt code).decode (slotPat code x) with
  | .nan s => (nanPat code, flagIf s flIO)
  | .inf n => if n then (nanPat code, flIO) else (zeroPat code false, 0)
  | .fin n m e =>
    if m = 0 then (infPat code n, flDZ)
    else if n then (nanPat code, flIO)
    else
      let (q, g, st) := divDy (4 * fxP) 1 0 m e
      let (r, h, st') := sqrtDy fxP q g
      pipeResult fnRsq code (if code = 0 then 2 else 1) (BitVec.ofNat 64 (slotPat code x)) 0 false r h (!st && !st')

/-- √a, correctly rounded. -/
def fsqrtPat (code : Nat) (md : Rnd) (x : W64) : Nat × W32 :=
  match (ffmt code).decode (slotPat code x) with
  | .nan s => (nanPat code, flagIf s flIO)
  | .inf n => if n then (nanPat code, flIO) else (infPat code false, 0)
  | .fin n m e =>
    if m = 0 then (zeroPat code n, 0)
    else if n then (nanPat code, flIO)
    else let (r, h, st) := sqrtDy 80 m e; (ffmt code).round false md false r h st

/-- a / b. -/
def fdivfPat (code : Nat) (x y : W64) : Nat × W32 :=
  match (ffmt code).decode (slotPat code x), (ffmt code).decode (slotPat code y) with
  | .nan s, .nan t => (nanPat code, flagIf (s || t) flIO)
  | .nan s, _ => (nanPat code, flagIf s flIO)
  | _, .nan t => (nanPat code, flagIf t flIO)
  | .inf _, .inf _ => (nanPat code, flIO)
  | .inf n, .fin k _ _ => (infPat code (n != k), 0)
  | .fin n _ _, .inf k => (zeroPat code (n != k), 0)
  | .fin n m e, .fin k p g =>
    if p = 0 then (if m = 0 then (nanPat code, flIO) else (infPat code (n != k), flDZ))
    else if m = 0 then (zeroPat code (n != k), 0)
    else
      let (q, h, st) := divDy fxP m e p g
      pipeResult fnDiv code 2 (BitVec.ofNat 64 (slotPat code x)) (BitVec.ofNat 64 (slotPat code y)) (n != k) q h (!st)

/-- 2^a. -/
def fexp2Pat (code : Nat) (x : W64) : Nat × W32 :=
  let k := if code = 0 then 2 else 1
  let a := BitVec.ofNat 64 (slotPat code x)
  match (ffmt code).decode (slotPat code x) with
  | .nan s => (nanPat code, flagIf s flIO)
  | .inf n => if n then (zeroPat code false, 0) else (infPat code false, 0)
  | .fin n m e =>
    if m = 0 then (onePat code false, 0)
    else if 12 ≤ (Nat.log2 m : Int) + e then
      if n then pipeResult fnExp2 code k a 0 false 1 (-4096) false else (infPat code false, flOF ||| flIX)
    else
      let v : Int := if n then -(m : Int) else m
      let fx : Int := if 0 ≤ e + fxP then v * 2 ^ (e + fxP).toNat else v / 2 ^ (-(e + fxP)).toNat
      let i : Int := fx / fxOne
      let f := (fx % fxOne).toNat
      let whole : Bool := 0 ≤ e || m % 2 ^ (-e).toNat = 0
      if whole then
        let r := (ffmt code).round false .rne false 1 i false
        if r.2 = 0 then r else pipeResult fnExp2 code k a 0 false 1 i true
      else pipeResult fnExp2 code k a 0 false (fxExp (fxMul f fxLn2)) (i - fxP) false

/-- log2 a. -/
def flog2Pat (code : Nat) (x : W64) : Nat × W32 :=
  match (ffmt code).decode (slotPat code x) with
  | .nan s => (nanPat code, flagIf s flIO)
  | .inf n => if n then (nanPat code, flIO) else (infPat code false, 0)
  | .fin n m e =>
    if m = 0 then (infPat code true, flDZ)
    else if n then (nanPat code, flIO)
    else
      let top := Nat.log2 m
      let k : Int := (top : Int) + e
      if m = 2 ^ top then ((roundVal code false .rne (.fin (k < 0) k.natAbs 0)).1, 0)
      else
        let w := m * 2 ^ (fxP - top)
        let t := (w - fxOne) * fxOne / (w + fxOne)
        let v : Int := k * fxOne + ((2 * fxAtanh t * fxOne / fxLn2 : Nat) : Int)
        pipeResult fnLog2 code (if code = 0 then 2 else 1) (BitVec.ofNat 64 (slotPat code x)) 0 (v < 0) v.natAbs (-(fxP : Int)) false

/-- FRED (R144): r and q mod 4. -/
def fredPat (code : Nat) (x : W64) : Nat × Nat × W32 :=
  match (ffmt code).decode (slotPat code x) with
  | .nan s => (nanPat code, 0, flagIf s flIO)
  | .inf _ => (nanPat code, 0, flIO)
  | .fin n m e =>
    if m = 0 then (zeroPat code n, 0, 0)
    else
      let fx : Nat := if 0 ≤ e + piBits then m * 2 ^ (e + piBits).toNat else m / 2 ^ (-(e + piBits)).toNat
      -- nearest whole number of quarter turns
      let q := (2 * fx + piFix / 2) / piFix
      if q = 0 then (slotPat code x, 0, 0)
      else
        let d : Int := (2 * fx : Nat) - (q * piFix : Nat)
        let neg : Bool := (d < 0) != n
        let r := (ffmt code).round false .rne neg d.natAbs (-(piBits : Int) - 1) true
        (r.1, (if n then (4 - q % 4) % 4 else q % 4), r.2)

/-- Whether |r| is at most π/4. -/
def inQuarter (m : Nat) (e : Int) : Bool :=
  (Nat.log2 m : Int) + e < 0 && (if 0 ≤ e + piBits then m * 2 ^ (e + piBits).toNat else 0) * 4 ≤ piFix

/-- sin(r + q·π/2), the sine of a reduced argument (R144, R146); FCOS is FSIN a quarter turn on. -/
def sinQuad (fn code : Nat) (x y : W64) (q : Nat) : Nat × W32 :=
  let k := if code = 0 then 2 else 1
  let a := BitVec.ofNat 64 (slotPat code x)
  let f := ffmt code
  match f.decode (slotPat code x) with
  | .nan s => (nanPat code, flagIf s flIO)
  | .inf _ => (nanPat code, flIO)
  | .fin n m e =>
    let flip : Bool := 2 ≤ q % 4
    if m = 0 then (if q % 2 = 0 then zeroPat code (n != flip) else onePat code flip, 0)
    else if inQuarter m e then
      let r2 : Nat := if 0 ≤ 2 * e + fxP then m * m * 2 ^ (2 * e + fxP).toNat else m * m / 2 ^ (-(2 * e + fxP)).toNat
      if q % 2 = 0 then pipeResult fn code k a y (n != flip) (m * min (fxSinc r2) (fxOne - 1)) (e - fxP) false
      else pipeResult fn code k a y flip (min (fxCos r2) (fxOne - 1)) (-(fxP : Int)) false
    else
      -- any finite value in [-1, 1]
      let c := (Config.approx fn code a y).toNat % 2 ^ f.width
      let out := if c % f.signBit ≤ onePat code false then c else onePat code flip
      (out, flIX ||| flagIf (out % f.signBit < 2 ^ f.fb) flUF)

/-! ## Jobs -/

/-- A long-latency lane-by-lane job of one or two operands. -/
def pipeJob (code : Nat) (x : Op) (f : W32 → W64 → W64 → Nat × W32) : Job :=
  { jobOf x x.bytes (fun c =>
      let a := c.fsrc code x.lit x.a
      let b := c.fsrc code x.lit x.b
      let r : List (Nat × W32) := laneIds.map (fun l => f c.w.fpcr (a.at l) (b.at l))
      .go (c.put x.d (r.map (fun p => BitVec.ofNat 64 p.1)) (orFlags c (fun l => (r.getD l (0, 0)).2)))) with long := true }

/-- FSIN and FCOS: B is an integer of which the low two bits count. -/
def trigJob (fn code : Nat) (turn : Nat) (x : Op) : Job :=
  { jobOf x x.bytes (fun c =>
      let a := c.fsrc code x.lit x.a
      let b := c.src x.lit x.b
      let r : List (Nat × W32) := laneIds.map (fun l =>
        let q := (b.at l).toNat % 4
        sinQuad fn code (a.at l) (BitVec.ofNat 64 q) (q + turn))
      .go (c.put x.d (r.map (fun p => BitVec.ofNat 64 p.1)) (orFlags c (fun l => (r.getD l (0, 0)).2)))) with long := true }

/-- FRED writes r and the quadrant in two consecutive destinations. -/
def fredJob (code : Nat) (x : Op) : Job :=
  { jobOf x x.bytes (fun c =>
      let a := c.fsrc code x.lit x.a
      let r : List (Nat × Nat × W32) := laneIds.map (fun l => fredPat code (a.at l))
      .go (c.putRun x.d [r.map (fun p => BitVec.ofNat 64 p.1), r.map (fun p => BitVec.ofNat 64 p.2.1)]
        (orFlags c (fun l => (r.getD l (0, 0, 0)).2.2)))) with long := true, dests := x.d.run 2 }

/-! ## The instructions -/

/-- FRCP (R235). -/
def execFrcp (f : Fmt2) (x : Op) (s : State) : Out := issue (pipeJob f.code x (fun _ a _ => frcpPat f.code a)) s
/-- FRSQ (R235). -/
def execFrsq (f : Fmt2) (x : Op) (s : State) : Out := issue (pipeJob f.code x (fun _ a _ => frsqPat f.code a)) s
/-- FSQRT (R235). -/
def execFsqrt (f : Fmt2) (x : Op) (s : State) : Out :=
  issue (pipeJob f.code x (fun fpcr a _ => fsqrtPat f.code (Rnd.select x.mod.toNat fpcr) a)) s
/-- FDIVF (R235). -/
def execFdivf (f : Fmt2) (x : Op) (s : State) : Out := issue (pipeJob f.code x (fun _ a b => fdivfPat f.code a b)) s
/-- FRED (R144). -/
def execFred (f : Fmt2) (x : Op) (s : State) : Out := issue (fredJob f.code x) s
/-- FSIN (R235). -/
def execFsin (f : Fmt2) (x : Op) (s : State) : Out := issue (trigJob fnSin f.code 0 x) s
/-- FCOS (R235). -/
def execFcos (f : Fmt2) (x : Op) (s : State) : Out := issue (trigJob fnCos f.code 1 x) s
/-- FEXP2 (R235). -/
def execFexp2 (f : Fmt2) (x : Op) (s : State) : Out := issue (pipeJob f.code x (fun _ a _ => fexp2Pat f.code a)) s
/-- FLOG2 (R235). -/
def execFlog2 (f : Fmt2) (x : Op) (s : State) : Out := issue (pipeJob f.code x (fun _ a _ => flog2Pat f.code a)) s

end Sys2Proof.Machine
end

