-- ==== Sys2Proof/Machine/Dispatch.lean ====
section
/-! DEFINITION. The dispatch of the machine: one arm per constructor of `Instr`, each one call of that step's meaning. -/

namespace Sys2Proof.Machine

/-- What each step of the machine does. -/
def exec (i : Instr) (s : State) : Host.Outcome State Fault Refusal :=
  match i with
  | .iaddV b => Sys2Proof.Machine.execIaddV b s
  | .iaddS b => Sys2Proof.Machine.execIaddS b s
  | .iadd x => Sys2Proof.Machine.execIadd x s
  | .isubV b => Sys2Proof.Machine.execIsubV b s
  | .isubS b => Sys2Proof.Machine.execIsubS b s
  | .isub x => Sys2Proof.Machine.execIsub x s
  | .imulV b => Sys2Proof.Machine.execImulV b s
  | .imulS b => Sys2Proof.Machine.execImulS b s
  | .imul x => Sys2Proof.Machine.execImul x s
  | .imulhV b => Sys2Proof.Machine.execImulhV b s
  | .imulhS b => Sys2Proof.Machine.execImulhS b s
  | .imulh x => Sys2Proof.Machine.execImulh x s
  | .imadV b => Sys2Proof.Machine.execImadV b s
  | .imadS b => Sys2Proof.Machine.execImadS b s
  | .imad x => Sys2Proof.Machine.execImad x s
  | .iminV b => Sys2Proof.Machine.execIminV b s
  | .iminS b => Sys2Proof.Machine.execIminS b s
  | .imin x => Sys2Proof.Machine.execImin x s
  | .imaxV b => Sys2Proof.Machine.execImaxV b s
  | .imaxS b => Sys2Proof.Machine.execImaxS b s
  | .imax x => Sys2Proof.Machine.execImax x s
  | .iabsV b => Sys2Proof.Machine.execIabsV b s
  | .iabsS b => Sys2Proof.Machine.execIabsS b s
  | .iabs x => Sys2Proof.Machine.execIabs x s
  | .andV b => Sys2Proof.Machine.execAndV b s
  | .andS b => Sys2Proof.Machine.execAndS b s
  | .and x => Sys2Proof.Machine.execAnd x s
  | .orV b => Sys2Proof.Machine.execOrV b s
  | .orS b => Sys2Proof.Machine.execOrS b s
  | .or x => Sys2Proof.Machine.execOr x s
  | .xorV b => Sys2Proof.Machine.execXorV b s
  | .xorS b => Sys2Proof.Machine.execXorS b s
  | .xor x => Sys2Proof.Machine.execXor x s
  | .notV b => Sys2Proof.Machine.execNotV b s
  | .notS b => Sys2Proof.Machine.execNotS b s
  | .not x => Sys2Proof.Machine.execNot x s
  | .shlV b => Sys2Proof.Machine.execShlV b s
  | .shlS b => Sys2Proof.Machine.execShlS b s
  | .shl x => Sys2Proof.Machine.execShl x s
  | .shrV b => Sys2Proof.Machine.execShrV b s
  | .shrS b => Sys2Proof.Machine.execShrS b s
  | .shr x => Sys2Proof.Machine.execShr x s
  | .sarV b => Sys2Proof.Machine.execSarV b s
  | .sarS b => Sys2Proof.Machine.execSarS b s
  | .sar x => Sys2Proof.Machine.execSar x s
  | .rotV b => Sys2Proof.Machine.execRotV b s
  | .rotS b => Sys2Proof.Machine.execRotS b s
  | .rot x => Sys2Proof.Machine.execRot x s
  | .popcV b => Sys2Proof.Machine.execPopcV b s
  | .popcS b => Sys2Proof.Machine.execPopcS b s
  | .popc x => Sys2Proof.Machine.execPopc x s
  | .clzV b => Sys2Proof.Machine.execClzV b s
  | .clzS b => Sys2Proof.Machine.execClzS b s
  | .clz x => Sys2Proof.Machine.execClz x s
  | .brevV b => Sys2Proof.Machine.execBrevV b s
  | .brevS b => Sys2Proof.Machine.execBrevS b s
  | .brev x => Sys2Proof.Machine.execBrev x s
  | .movV b => Sys2Proof.Machine.execMovV b s
  | .movS b => Sys2Proof.Machine.execMovS b s
  | .mov x => Sys2Proof.Machine.execMov x s
  | .moviV b => Sys2Proof.Machine.execMoviV b s
  | .moviS b => Sys2Proof.Machine.execMoviS b s
  | .movi x => Sys2Proof.Machine.execMovi x s
  | .leaV b => Sys2Proof.Machine.execLeaV b s
  | .leaS b => Sys2Proof.Machine.execLeaS b s
  | .lea x => Sys2Proof.Machine.execLea x s
  | .bfe x => Sys2Proof.Machine.execBfe x s
  | .bfi x => Sys2Proof.Machine.execBfi x s
  | .sel x => Sys2Proof.Machine.execSel x s
  | .icmpEqV b => Sys2Proof.Machine.execIcmpEqV b s
  | .icmpNeV b => Sys2Proof.Machine.execIcmpNeV b s
  | .icmpLtV b => Sys2Proof.Machine.execIcmpLtV b s
  | .icmpLeV b => Sys2Proof.Machine.execIcmpLeV b s
  | .icmpGtV b => Sys2Proof.Machine.execIcmpGtV b s
  | .icmpGeV b => Sys2Proof.Machine.execIcmpGeV b s
  | .icmp c x => Sys2Proof.Machine.execIcmp c x s
  | .faddF64V b => Sys2Proof.Machine.execFaddF64V b s
  | .fsubF64V b => Sys2Proof.Machine.execFsubF64V b s
  | .fmulF64V b => Sys2Proof.Machine.execFmulF64V b s
  | .ffmaF64V b => Sys2Proof.Machine.execFfmaF64V b s
  | .fminF64V b => Sys2Proof.Machine.execFminF64V b s
  | .fmaxF64V b => Sys2Proof.Machine.execFmaxF64V b s
  | .faddF32V b => Sys2Proof.Machine.execFaddF32V b s
  | .fsubF32V b => Sys2Proof.Machine.execFsubF32V b s
  | .fmulF32V b => Sys2Proof.Machine.execFmulF32V b s
  | .ffmaF32V b => Sys2Proof.Machine.execFfmaF32V b s
  | .fminF32V b => Sys2Proof.Machine.execFminF32V b s
  | .fmaxF32V b => Sys2Proof.Machine.execFmaxF32V b s
  | .faddF64S b => Sys2Proof.Machine.execFaddF64S b s
  | .fsubF64S b => Sys2Proof.Machine.execFsubF64S b s
  | .fmulF64S b => Sys2Proof.Machine.execFmulF64S b s
  | .ffmaF64S b => Sys2Proof.Machine.execFfmaF64S b s
  | .fminF64S b => Sys2Proof.Machine.execFminF64S b s
  | .fmaxF64S b => Sys2Proof.Machine.execFmaxF64S b s
  | .faddF32S b => Sys2Proof.Machine.execFaddF32S b s
  | .fsubF32S b => Sys2Proof.Machine.execFsubF32S b s
  | .fmulF32S b => Sys2Proof.Machine.execFmulF32S b s
  | .ffmaF32S b => Sys2Proof.Machine.execFfmaF32S b s
  | .fminF32S b => Sys2Proof.Machine.execFminF32S b s
  | .fmaxF32S b => Sys2Proof.Machine.execFmaxF32S b s
  | .fadd f x => Sys2Proof.Machine.execFadd f x s
  | .fsub f x => Sys2Proof.Machine.execFsub f x s
  | .fmul f x => Sys2Proof.Machine.execFmul f x s
  | .ffma f x => Sys2Proof.Machine.execFfma f x s
  | .fmin f x => Sys2Proof.Machine.execFmin f x s
  | .fmax f x => Sys2Proof.Machine.execFmax f x s
  | .fcmpEqV b => Sys2Proof.Machine.execFcmpEqV b s
  | .fcmpNeV b => Sys2Proof.Machine.execFcmpNeV b s
  | .fcmpLtV b => Sys2Proof.Machine.execFcmpLtV b s
  | .fcmpLeV b => Sys2Proof.Machine.execFcmpLeV b s
  | .fcmpGtV b => Sys2Proof.Machine.execFcmpGtV b s
  | .fcmpGeV b => Sys2Proof.Machine.execFcmpGeV b s
  | .fcmp c x => Sys2Proof.Machine.execFcmp c x s
  | .fclass f x => Sys2Proof.Machine.execFclass f x s
  | .frnd f x => Sys2Proof.Machine.execFrnd f x s
  | .frcp f x => Sys2Proof.Machine.execFrcp f x s
  | .frsq f x => Sys2Proof.Machine.execFrsq f x s
  | .fsqrt f x => Sys2Proof.Machine.execFsqrt f x s
  | .fdivf f x => Sys2Proof.Machine.execFdivf f x s
  | .fred f x => Sys2Proof.Machine.execFred f x s
  | .fsin f x => Sys2Proof.Machine.execFsin f x s
  | .fcos f x => Sys2Proof.Machine.execFcos f x s
  | .fexp2 f x => Sys2Proof.Machine.execFexp2 f x s
  | .flog2 f x => Sys2Proof.Machine.execFlog2 f x s
  | .cvt x => Sys2Proof.Machine.execCvt x s
  | .fmtcvt x => Sys2Proof.Machine.execFmtcvt x s
  | .pack x => Sys2Proof.Machine.execPack x s
  | .unpack x => Sys2Proof.Machine.execUnpack x s
  | .shfl x => Sys2Proof.Machine.execShfl x s
  | .swapp x => Sys2Proof.Machine.execSwapp x s
  | .bcast x => Sys2Proof.Machine.execBcast x s
  | .vote x => Sys2Proof.Machine.execVote x s
  | .redl x => Sys2Proof.Machine.execRedl x s
  | .scanl x => Sys2Proof.Machine.execScanl x s
  | .braBase b => Sys2Proof.Machine.execBraBase b s
  | .bra x => Sys2Proof.Machine.execBra x s
  | .braPkBase k b => Sys2Proof.Machine.execBraPkBase k b s
  | .braPk k x => Sys2Proof.Machine.execBraPk k x s
  | .brx x => Sys2Proof.Machine.execBrx x s
  | .callBase b => Sys2Proof.Machine.execCallBase b s
  | .call x => Sys2Proof.Machine.execCall x s
  | .callx x => Sys2Proof.Machine.execCallx x s
  | .ret x => Sys2Proof.Machine.execRet x s
  | .exit x => Sys2Proof.Machine.execExit x s
  | .nopBase b => Sys2Proof.Machine.execNopBase b s
  | .nop x => Sys2Proof.Machine.execNop x s
  | .yield x => Sys2Proof.Machine.execYield x s
  | .rgn x => Sys2Proof.Machine.execRgn x s
  | .fuse x => Sys2Proof.Machine.execFuse x s
  | .ppopBase b => Sys2Proof.Machine.execPpopBase b s
  | .ppop x => Sys2Proof.Machine.execPpop x s
  | .prot x => Sys2Proof.Machine.execProt x s
  | .plog x => Sys2Proof.Machine.execPlog x s
  | .ptox x => Sys2Proof.Machine.execPtox x s
  | .xtop x => Sys2Proof.Machine.execXtop x s
  | .xrdBase b => Sys2Proof.Machine.execXrdBase b s
  | .xrd x => Sys2Proof.Machine.execXrd x s
  | .xwrBase b => Sys2Proof.Machine.execXwrBase b s
  | .xwr x => Sys2Proof.Machine.execXwr x s
  | .bar x => Sys2Proof.Machine.execBar x s
  | .bara x => Sys2Proof.Machine.execBara x s
  | .barw x => Sys2Proof.Machine.execBarw x s
  | .gbar x => Sys2Proof.Machine.execGbar x s
  | .watch x => Sys2Proof.Machine.execWatch x s
  | .waitw x => Sys2Proof.Machine.execWaitw x s
  | .sleep x => Sys2Proof.Machine.execSleep x s
  | .swi x => Sys2Proof.Machine.execSwi x s
  | .trap x => Sys2Proof.Machine.execTrap x s
  | .tret x => Sys2Proof.Machine.execTret x s
  | .brk x => Sys2Proof.Machine.execBrk x s
  | .srd x => Sys2Proof.Machine.execSrd x s
  | .swr x => Sys2Proof.Machine.execSwr x s
  | .getwork x => Sys2Proof.Machine.execGetwork x s
  | .ld x => Sys2Proof.Machine.execLd x s
  | .st x => Sys2Proof.Machine.execSt x s
  | .ldv x => Sys2Proof.Machine.execLdv x s
  | .pref x => Sys2Proof.Machine.execPref x s
  | .ldc x => Sys2Proof.Machine.execLdc x s
  | .lds x => Sys2Proof.Machine.execLds x s
  | .sts x => Sys2Proof.Machine.execSts x s
  | .ldt x => Sys2Proof.Machine.execLdt x s
  | .stt x => Sys2Proof.Machine.execStt x s
  | .samp x => Sys2Proof.Machine.execSamp x s
  | .atom x => Sys2Proof.Machine.execAtom x s
  | .red x => Sys2Proof.Machine.execRed x s
  | .fence x => Sys2Proof.Machine.execFence x s
  | .pfence x => Sys2Proof.Machine.execPfence x s
  | .tcfg x => Sys2Proof.Machine.execTcfg x s
  | .tacq x => Sys2Proof.Machine.execTacq x s
  | .trel x => Sys2Proof.Machine.execTrel x s
  | .tstat x => Sys2Proof.Machine.execTstat x s
  | .send x => Sys2Proof.Machine.execSend x s
  | .pushf x => Sys2Proof.Machine.execPushf x s
  | .popf x => Sys2Proof.Machine.execPopf x s
  | .engcmdCopyin x => Sys2Proof.Machine.execEngcmdCopyin x s
  | .engcmdCopyout x => Sys2Proof.Machine.execEngcmdCopyout x s
  | .engcmdPublish x => Sys2Proof.Machine.execEngcmdPublish x s
  | .engcmdRetire x => Sys2Proof.Machine.execEngcmdRetire x s
  | .engcmdAsbuild x => Sys2Proof.Machine.execEngcmdAsbuild x s
  | .engcmdHalo x => Sys2Proof.Machine.execEngcmdHalo x s
  | .engcmdAllred x => Sys2Proof.Machine.execEngcmdAllred x s
  | .engcmdRecon x => Sys2Proof.Machine.execEngcmdRecon x s
  | .mma x => Sys2Proof.Machine.execMma x s
  | .mmas x => Sys2Proof.Machine.execMmas x s
  | .mmac x => Sys2Proof.Machine.execMmac x s
  | .accld x => Sys2Proof.Machine.execAccld x s
  | .accst x => Sys2Proof.Machine.execAccst x s
  | .accz x => Sys2Proof.Machine.execAccz x s
  | .mdrain x => Sys2Proof.Machine.execMdrain x s
  | .mbatch x => Sys2Proof.Machine.execMbatch x s
  | .mwait x => Sys2Proof.Machine.execMwait x s
  | .ofence x => Sys2Proof.Machine.execOfence x s
  | .mcfg x => Sys2Proof.Machine.execMcfg x s
  | .rq x => Sys2Proof.Machine.execRq x s
  | .rcast x => Sys2Proof.Machine.execRcast x s
  | .cont x => Sys2Proof.Machine.execCont x s
  | .rast x => Sys2Proof.Machine.execRast x s
  | .hgf x => Sys2Proof.Machine.execHgf x s
  | .hgs x => Sys2Proof.Machine.execHgs x s
  | .covq x => Sys2Proof.Machine.execCovq x s
  | .covp x => Sys2Proof.Machine.execCovp x s
  | .strokeBoundary core quad => Sys2Proof.Machine.execStrokeBoundary core quad s
  | .longLatencyResult g sub idx => Sys2Proof.Machine.execLongLatencyResult g sub idx s
  | .allocationGrant core quad => Sys2Proof.Machine.execAllocationGrant core quad s
  | .registerSpill core quad => Sys2Proof.Machine.execRegisterSpill core quad s
  | .stackLineFill g line => Sys2Proof.Machine.execStackLineFill g line s
  | .stackLineWriteback g line => Sys2Proof.Machine.execStackLineWriteback g line s
  | .workgroupDispatch die q0 pick => Sys2Proof.Machine.execWorkgroupDispatch die q0 pick s
  | .affinityTimeout launch => Sys2Proof.Machine.execAffinityTimeout launch s
  | .dispatchReservation launch => Sys2Proof.Machine.execDispatchReservation launch s
  | .strokeWatchdog g => Sys2Proof.Machine.execStrokeWatchdog g s
  | .watchdogGraceExpiry g => Sys2Proof.Machine.execWatchdogGraceExpiry g s
  | .watchFire die idx => Sys2Proof.Machine.execWatchFire die idx s
  | .sleepExpiry g sub => Sys2Proof.Machine.execSleepExpiry g sub s
  | .matrixOperationPerform g => Sys2Proof.Machine.execMatrixOperationPerform g s
  | .formatEmulationDone g => Sys2Proof.Machine.execFormatEmulationDone g s
  | .fmtcvtEmulationResume g sub => Sys2Proof.Machine.execFmtcvtEmulationResume g sub s
  | .engineCommandComplete id => Sys2Proof.Machine.execEngineCommandComplete id s
  | .copyoutReadsEnd id => Sys2Proof.Machine.execCopyoutReadsEnd id s
  | .publishPoint id => Sys2Proof.Machine.execPublishPoint id s
  | .retirePage id => Sys2Proof.Machine.execRetirePage id s
  | .frameReturn die => Sys2Proof.Machine.execFrameReturn die s
  | .copyOnWriteEnd idx => Sys2Proof.Machine.execCopyOnWriteEnd idx s
  | .allocationRingTimeout idx => Sys2Proof.Machine.execAllocationRingTimeout idx s
  | .sendDelivery idx => Sys2Proof.Machine.execSendDelivery idx s
  | .directoryRead die addr => Sys2Proof.Machine.execDirectoryRead die addr s
  | .directoryWrite die addr => Sys2Proof.Machine.execDirectoryWrite die addr s
  | .directoryReduction die addr op ty val => Sys2Proof.Machine.execDirectoryReduction die addr op ty val s
  | .directoryEviction die addr => Sys2Proof.Machine.execDirectoryEviction die addr s
  | .rayMigration idx die => Sys2Proof.Machine.execRayMigration idx die s
  | .rayTraversalEnd idx pick => Sys2Proof.Machine.execRayTraversalEnd idx pick s
  | .relaunchTimeout die launch rpc slot => Sys2Proof.Machine.execRelaunchTimeout die launch rpc slot s
  | .coverageUpdate4k launch => Sys2Proof.Machine.execCoverageUpdate4k launch s
  | .kick vif qid => Sys2Proof.Machine.execKick vif qid s
  | .queueRegister qid qcb => Sys2Proof.Machine.execQueueRegister qid qcb s
  | .recordFetch die slot => Sys2Proof.Machine.execRecordFetch die slot s
  | .dependenceFire die slot => Sys2Proof.Machine.execDependenceFire die slot s
  | .dependencePoll die slot => Sys2Proof.Machine.execDependencePoll die slot s
  | .launchComplete launch => Sys2Proof.Machine.execLaunchComplete launch s
  | .launchTimeout launch => Sys2Proof.Machine.execLaunchTimeout launch s
  | .shadowRetry die slot => Sys2Proof.Machine.execShadowRetry die slot s
  | .slotqValidLoad die slot qid qcb => Sys2Proof.Machine.execSlotqValidLoad die slot qid qcb s
  | .slotqUnload die slot => Sys2Proof.Machine.execSlotqUnload die slot s
  | .slotqHalt die slot => Sys2Proof.Machine.execSlotqHalt die slot s
  | .slotqReload die slot => Sys2Proof.Machine.execSlotqReload die slot s
  | .noremMappingTick => Sys2Proof.Machine.execNoremMappingTick s
  | .noremMappingPass => Sys2Proof.Machine.execNoremMappingPass s
  | .leaseClaim die => Sys2Proof.Machine.execLeaseClaim die s
  | .leaderRepair die => Sys2Proof.Machine.execLeaderRepair die s
  | .controlCoreWatchdog die => Sys2Proof.Machine.execControlCoreWatchdog die s
  | .interruptWatchArm vif entry cmp w64 pa ref mask => Sys2Proof.Machine.execInterruptWatchArm vif entry cmp w64 pa ref mask s
  | .interruptUnmaskDelivery vif entry => Sys2Proof.Machine.execInterruptUnmaskDelivery vif entry s
  | .vifActivate vif => Sys2Proof.Machine.execVifActivate vif s
  | .vifTear vif addr => Sys2Proof.Machine.execVifTear vif addr s
  | .teardownProgress vif => Sys2Proof.Machine.execTeardownProgress vif s
  | .dieResetRequest die => Sys2Proof.Machine.execDieResetRequest die s
  | .eccCorrectedError die unit => Sys2Proof.Machine.execEccCorrectedError die unit s
  | .eccUncorrectableError die unit loc => Sys2Proof.Machine.execEccUncorrectableError die unit loc s
  | .edgeRetryExhausted die other => Sys2Proof.Machine.execEdgeRetryExhausted die other s
  | .packageReset => Sys2Proof.Machine.execPackageReset s
  | .pkgrst => Sys2Proof.Machine.execPkgrst s
  | .functionReady die bit => Sys2Proof.Machine.execFunctionReady die bit s
  | .preqGo die val => Sys2Proof.Machine.execPreqGo die val s
  | .drainOverrun wg => Sys2Proof.Machine.execDrainOverrun wg s
  | .workgroupSave wg => Sys2Proof.Machine.execWorkgroupSave wg s
  | .reprimeFlushDone wg => Sys2Proof.Machine.execReprimeFlushDone wg s
  | .ctxrestSaved die block wglin lidx => Sys2Proof.Machine.execCtxrestSaved die block wglin lidx s
  | .ctxrestReprime die wglin lidx => Sys2Proof.Machine.execCtxrestReprime die wglin lidx s
  | .warpctlResume die lseq core slot => Sys2Proof.Machine.execWarpctlResume die lseq core slot s
  | .warpctlAbort die lseq core slot => Sys2Proof.Machine.execWarpctlAbort die lseq core slot s
  | .pageWalkComplete die root va => Sys2Proof.Machine.execPageWalkComplete die root va s
  | .tlbinvAll die root => Sys2Proof.Machine.execTlbinvAll die root s
  | .tlbinvRange die root => Sys2Proof.Machine.execTlbinvRange die root s
  | .tlbInvalidateComplete die => Sys2Proof.Machine.execTlbInvalidateComplete die s
  | .debugHalt die => Sys2Proof.Machine.execDebugHalt die s
  | .debugStep die => Sys2Proof.Machine.execDebugStep die s
  | .debugStepAll die => Sys2Proof.Machine.execDebugStepAll die s
  | .debugResume die => Sys2Proof.Machine.execDebugResume die s
  | .debugAccessRead die val => Sys2Proof.Machine.execDebugAccessRead die val s
  | .debugAccessWrite die val => Sys2Proof.Machine.execDebugAccessWrite die val s
  | .traceEnable core val => Sys2Proof.Machine.execTraceEnable core val s
  | .frequencyStep die target => Sys2Proof.Machine.execFrequencyStep die target s
  | .frequencyRestart die => Sys2Proof.Machine.execFrequencyRestart die s
  | .powerLimitStep die => Sys2Proof.Machine.execPowerLimitStep die s
  | .ualinkRead die port src addr len => Sys2Proof.Machine.execUalinkRead die port src addr len s
  | .ualinkWrite die port src addr data => Sys2Proof.Machine.execUalinkWrite die port src addr data s
  | .ualinkAtomic die port src addr op wide opnd cmp => Sys2Proof.Machine.execUalinkAtomic die port src addr op wide opnd cmp s
  | .ualinkVendorMessage die port msg => Sys2Proof.Machine.execUalinkVendorMessage die port msg s
  | .ualinkLinkDown die port => Sys2Proof.Machine.execUalinkLinkDown die port s
  | .registerWrite reg val => Sys2Proof.Machine.execRegisterWrite reg val s
  | .whatailWrite die val => Sys2Proof.Machine.execWhatailWrite die val s
  | .whfheadWrite die val => Sys2Proof.Machine.execWhfheadWrite die val s
  | .ctxatailWrite die val => Sys2Proof.Machine.execCtxatailWrite die val s
  | .ctxsheadWrite die val => Sys2Proof.Machine.execCtxsheadWrite die val s
  | .traceDisable core => Sys2Proof.Machine.execTraceDisable core s
  | .powerOn => Sys2Proof.Machine.execPowerOn s
  | .unassignedOpcode => Sys2Proof.Machine.execUnassignedOpcode s
  | .instructionFetchFault => Sys2Proof.Machine.execInstructionFetchFault s

end Sys2Proof.Machine
end

