-- ==== Sys2Proof/Machine/Next.lean ====
section
/-! DEFINITION. What the machine does next. The agenda of the state names it; where it is empty, the focus unit issues its next
instruction (R20, R148), else the first thing that can go on does, and a machine with nothing to do lets time pass. DESIGN CHOICE (log 1): unsafe for a claim about a whole
run without an agenda. -/

namespace Sys2Proof.Machine

/-- What happens next: a step of the table, or one that has already been taken. -/
inductive Act where
  | run (i : Instr) (s : State)
  | done (o : Out)

/-! ## The agenda -/

/-- A cache of a core drops a line (R79). -/
def State.evictLine (s : State) (core line : Nat) : State :=
  if 192 ≤ core then s
  else s.modCore core (fun c => { c with l1 := [0, 1, 2, 3].foldl (fun m i => m.del (line * 4 + i)) c.l1, cc := c.cc.del line, sc := c.sc.del line, ic := c.ic.del line })

/-- The TLBs of a die drop a page (R398). -/
def State.evictPage (s : State) (die page : Nat) : State :=
  let keep (e : TlbEnt) : Bool := e.page ≠ page
  if 4 ≤ die then s
  else
    let s := s.modDie die (fun x => { x with tlb := x.tlb.filter keep })
    let clean (p : Nat × Core) : Nat × Core := (p.1, if dieOfCore p.1 = die then { p.2 with tlb := p.2.tlb.filter keep } else p.2)
    { s with cores := s.cores.map clean }

/-- RTIME advances, to the next tick of 1 ms at most (R367); what is left of the time stays on the agenda. -/
def State.advance (s : State) (ns : Nat) : State :=
  let edge := (s.rtime / 1000000 + 1) * 1000000
  if s.rtime + ns ≤ edge then { s with rtime := s.rtime + ns } else { s with rtime := edge, agenda := .tick (s.rtime + ns - edge) :: s.agenda }

/-- Takes a turn of the agenda. An instruction of a warp is no event, and a unit that does not hold an issue slot cannot be the focus. -/
def State.takeTurn (s : State) (t : Turn) : Act :=
  match t with
  | .event i => if i.form = .event then .run i s else .done (.next s)
  | .focus g sub => .done (.next (if (s.unit? g sub).any (fun u => u.st = .issuing) then { s with focus := some (g, sub) } else s))
  | .transfer id k => .done (.next (s.engUnit id k))
  | .tick ns => .done (.next (s.advance ns))
  | .cut n => .done (.next { s with cut := some n })
  | .evict core line => .done (.next (s.evictLine core line))
  | .evictTlb die page => .done (.next (s.evictPage die page))

/-! ## The focus unit -/

/-- A unit at its own reconvergence PC, or at the RCPC of its innermost serial record, ends its stroke before the fetch (R20). -/
def State.atJoin (s : State) (g : Nat) (u : WUnit) : Bool :=
  match (s.joinOf g u).2 with
  | .none => false
  | .serial _ _ | .entry _ | .fault _ => true

/-- Fetches, decodes and issues the focus unit's instruction. -/
def State.issueNext (s : State) (g sub : Nat) (u : WUnit) : Act :=
  if s.atJoin g u then .done (.next ((s.endStroke g sub .none .ready).afterStroke g))
  else
    match s.fetch g u.pc with
    | (_, .error _) => .done (execInstructionFetchFault s)
    | (s', .ok ws) =>
      match decode ws with
      | .ok i _ => .run i s'
      | .illegal 0 => .done (execUnassignedOpcode s)
      | .illegal k => .done (.next (s'.illegal k))
      | .short => .done (.next s')

/-! ## What can go on by itself -/

/-- The first of several steps that changes anything. -/
def firstChange : List (State → Out) → State → Option State
  | [], _ => none
  | f :: fs, s =>
    match f s with
    | .next s' => if s' = s then firstChange fs s else some s'
    | .fault _ | .refused _ => firstChange fs s

/-- Quadrants that hold a warp. -/
def State.quads (s : State) : List Nat := (s.warps.map (fun p => quadOf p.1)).eraseDups

/-- Turns a list round by `n`. -/
def turned {α : Type} (n : Nat) (xs : List α) : List α := let k := if xs.isEmpty then 0 else n % xs.length; xs.drop k ++ xs.take k

def dieSlots : List (Nat × Nat) := [0, 1, 2, 3].flatMap (fun d => (List.range 32).map (fun k => (d, k)))

/-- Debug commands, clocks and the sending of interrupts that are due. -/
def State.dieSteps (s : State) : List (State → Out) :=
  s.dies.flatMap (fun p =>
    [fun s => .next (s.dbgAdvance p.1), execFrequencyRestart p.1, execFrameReturn p.1, execTlbInvalidateComplete p.1, execLeaderRepair p.1,
     fun s => if s.watchdogDue p.1 then execControlCoreWatchdog p.1 s else .next s]
      ++ p.2.watches.map (fun e => execWatchFire p.1 e.1))

/-- Copies, engine commands, blocks in flight, rays. -/
def State.workSteps (s : State) : List (State → Out) :=
  s.cows.flatMap (fun p => [execCopyOnWriteEnd p.1, execAllocationRingTimeout p.1])
    ++ s.engines.flatMap (fun p => [execPublishPoint p.1, execRetirePage p.1, execCopyoutReadsEnd p.1, execEngineCommandComplete p.1])
    ++ s.sends.map (fun p => execSendDelivery p.1)
    ++ s.rays.flatMap (fun p => [execRayTraversalEnd p.1 0, execRelaunchTimeout p.2.die p.2.launch p.2.rpc 0])

/-- Messages whose table entry has become unmasked. -/
def State.unmaskSteps (s : State) : List (State → Out) :=
  (List.range 64).flatMap (fun v =>
    if s.vifState v ≠ vifActive then []
    else (List.range (fld (s.pkgReg (.vifimt v)) 63 48)).map (fun e => execInterruptUnmaskDelivery v e))

/-- The front ends, dispatchers and teardowns. -/
def State.queueSteps (s : State) : List (State → Out) :=
  (dieSlots.filter (fun p => (s.slot p.1 p.2).st ≠ .unloaded)).flatMap (fun p =>
      [execShadowRetry p.1 p.2, execDependenceFire p.1 p.2, execDependencePoll p.1 p.2, execRecordFetch p.1 p.2])
    ++ s.launches.flatMap (fun p =>
      [execCoverageUpdate4k p.1, execLaunchTimeout p.1, execAffinityTimeout p.1, execDispatchReservation p.1, execLaunchComplete p.1,
       fun s => .next (s.bringBack p.1)])
    ++ (if s.launches.isEmpty then [] else [0, 1, 2, 3].map (fun d => execWorkgroupDispatch d 0 []))
    ++ s.groups.flatMap (fun p => [execDrainOverrun p.1, execReprimeFlushDone p.1, execWorkgroupSave p.1])
    ++ s.teardowns.map (fun t => execTeardownProgress t.vif) ++ s.unmaskSteps ++ [execNoremMappingPass]

/-- Watchdogs, emulated conversions, and grants of registers. -/
def State.warpSteps (s : State) : List (State → Out) :=
  s.warps.flatMap (fun p => [execStrokeWatchdog p.1, execWatchdogGraceExpiry p.1]
      ++ (p.2.units.filter (fun u => u.st = .blocked .emul)).map (fun u => execFmtcvtEmulationResume p.1 u.sub))
    ++ s.quads.map (fun q => execAllocationGrant (q / 4) (q % 4))

/-- The matrix operations of warps; of those only that wait for them where `waiting`. -/
def State.matrixSteps (s : State) (waiting : Bool) : List (State → Out) :=
  let waits (u : WUnit) : Bool := u.waitsLook || (match u.st with
    | .blocked (.mwait _) | .blocked .matrix => true
    | _ => false)
  (s.warps.filter (fun p => !p.2.mops.isEmpty && (!waiting || p.2.units.isEmpty || p.2.units.any waits))).flatMap (fun p =>
    [execMatrixOperationPerform p.1, execFormatEmulationDone p.1])

/-- Between two strokes a nanosecond passes, and the core's generic L1 drops its lines: it is not coherent and keeps a line no longer than it
likes (R79), and a unit that reads a word over and over sees it change in the end. -/
def State.betweenStrokes (s : State) (core : Nat) : State := { s with rtime := s.rtime + 1 }.modCore core (fun c => { c with l1 := [] })

/-- A stroke begins in some quadrant, each having its turn. -/
def State.strokeSteps (s : State) : List (State → Out) :=
  (turned s.rtime s.quads).map (fun q s =>
    match execStrokeBoundary (q / 4) (q % 4) s with
    | .next s' => .next (if s' = s then s else s'.betweenStrokes (q / 4))
    | o => o)

/-- Quadrants that are stuck for registers spill. -/
def State.spillSteps (s : State) : List (State → Out) := s.quads.map (fun q => execRegisterSpill (q / 4) (q % 4))

/-- One nanosecond passes. -/
def State.idle (s : State) : Out := .next { s with rtime := s.rtime + 1 }

/-- A die's clock is stopped and not yet due to restart. The accesses of other dies to it wait, so only time passes (R416). -/
def State.stalled (s : State) : Bool := s.dies.any (fun p => p.2.stall.any (fun x => s.rtime < x.1 + 2000))

/-- A unit that holds an issue slot and may issue. -/
def State.anyIssuer (s : State) : Option (Nat × Nat) :=
  s.warps.findSome? (fun p => (p.2.units.find? (fun u => u.st = .issuing && !u.waitsLook)).map (fun u => (p.1, u.sub)))

/-- What happens where no unit issues. -/
def State.background (s : State) : Out :=
  match firstChange (s.dieSteps ++ s.workSteps ++ s.queueSteps ++ s.warpSteps ++ s.matrixSteps true) s with
  | some s' => .next s'
  | none =>
    match firstChange (s.strokeSteps ++ s.spillSteps ++ s.matrixSteps false) s with
    | some s' => .next s'
    | none => s.idle

/-- What happens next where the agenda is empty. -/
def State.nextStep (s : State) : Act :=
  if s.stalled then .done s.idle
  else
    match s.issuer with
    | some (g, sub, u) => s.issueNext g sub u
    | none =>
      match s.anyIssuer with
      | some p => .done (.next { s with focus := some p })
      | none => .done s.background

/-- What happens next. Norem's tick comes as soon as RTIME has reached it (R367), and the results of matrix operations become undefined as soon as
an operand of theirs has been rewritten (R118). -/
def State.nextAct (s : State) : Act :=
  if s.tickDue then .run .noremMappingTick s
  else if s.staleOps then .done (.next s.settleStale)
  else match s.agenda with
  | t :: rest => { s with agenda := rest }.takeTurn t
  | [] => s.nextStep

/-! ## Placing an instruction for the next step -/

/-- A workgroup of one warp on core 0 of die 0. DESIGN CHOICE (log 7), safe: the probe stands for the load of a program. -/
def probeGroup : Group :=
  { launch := 0, lin := 0, x := 0, y := 0, z := 0, core := 0, warps := [some 0], count := 1, wregs := List.replicate 16 0,
    bars := List.replicate 16 Barrier.empty, garr := [], garrived := [], scrBase := 0, scrSize := 65536, tileBase := 0, tiles := 4,
    accBase := 0, accRows := 32, nbK := 0, nbM := 0, nbW := 0, nbH := 0, nbCores := [], level := 0, pre := .running, ending := false,
    relaunched := false, seed := none }

/-- Its launch, in the address space whose root is frame 1. -/
def probeLaunch : Launch :=
  { die := 0, lidx := 0, qid := 0, qcb := 0x60000, vif := 0, root := 1, prio := 0, slot := 0, record := List.replicate 32 0, nextWg := 1,
    live := 1, status := 0, affmiss := 0, covcnt := 0, cursor := false, started := some 0, placing := false, timeout := 0, fbase := 0,
    flog2 := 0, ivec := 0xFFFF, groups := [], gdone := [], gone := [], placed := [], cov := [], relaunch := [], sent := none, moved := false,
    refused := none, reserve := none, away := [], ending := false, silent := false, waiting := false }

/-- Its unit, in the middle of its issue slot at address 0, with every lane on. -/
def probeUnit : WUnit :=
  { sub := 0, pc := 0, exec := 0xFFFFFFFF, owned := 0xFFFFFFFF, st := .issuing, entry := none, serial := [], rpc := 0,
    ckpt := List.replicate 8 0, enters := true, entered := false, moved := false, wait := 0, count := 0, spc := 0, sexec := 0xFFFFFFFF, looks := [],
    wview := List.replicate 16 0, xsets := [], yielded := false, stopAt := false }

/-- Its warp. -/
def probeWarp : Warp :=
  { lseq := 0, wg := 0, wgw := 0, block := 0x200000, regsMin := 0, regsMax := 64, names := [], pending := [], newList := [], sregs := [],
    preds := List.replicate 8 0, fpcr := 0, fpsr := 0, wstat := 0, stkptr := 0, stktop := 0, stklim := 0, traph := 0,
    trappc := 0, handler := false, grace := false, limit := 0, strokes := 1, rcount := 0, gwcalls := 0, closes := 0, bfw := 0,
    bsep := false, mops := [], joint2 := 0, joint4 := 0, batchLo := 0, waited := 0, fence := 0, stack := [], units := [probeUnit], helpers := 0, probes := 0,
    parked := false, faulted := false, halted := false, relaunched := false }

/-- Page tables in frames 1 to 4 that map page 0, readable, writable, executable and of scope P, to frame 5, where the code stands. -/
def probeTables : List (Nat × Nat) := [(0x10000, 0x20001), (0x20000, 0x30001), (0x30000, 0x40001), (0x40000, 0x50217)]

/-- What stands for the load of a program: a resident warp about to issue, and its code. -/
def State.loadProbe (s : State) (code : List Byte) : State :=
  let s := { s with warps := [(0, probeWarp)], groups := [(0, probeGroup)], launches := [(0, probeLaunch)], focus := some (0, 0), agenda := [] }
  let mem := probeTables.foldl (fun (m : Store) p => Store.setBytes m p.1 (leBytes 8 p.2)) s.mem
  { s with mem := Store.setBytes mem 0x50000 code }

end Sys2Proof.Machine
end

