-- ==== Sys2Proof/Machine/Step.lean ====
section
/-! DEFINITION. One step of the machine: what comes next is done, and an instruction of the table through its arm of `exec`. -/

namespace Sys2Proof.Machine

/-- One step of the machine. -/
def step (s : State) : Host.Outcome State Fault Refusal :=
  match s.nextAct with
  | .run i s' => exec i s'
  | .done o => o

/-- The state with an instruction placed where the next step fetches: a warp about to issue, and the words at its PC. -/
def State.withFetchWord (s : State) (nbits w : Nat) : State := s.loadProbe (tableBytes nbits w)

end Sys2Proof.Machine
end

