-- ==== Sys2Proof/Safety.lean ====
section
/-! DEFINITION. What claims say about runs: the states that steps reach, the canonical form of memory, a unit about to issue, and what a step
leaves as it was. -/

namespace Sys2Proof.Machine

/-- A step answers a next state. -/
def Goes (s t : State) : Prop := step s = .next t

/-- The states that steps reach from `s`. -/
inductive Reaches (s : State) : State → Prop where
  | start : Reaches s s
  | next {t u : State} : Reaches s t → Goes t u → Reaches s u

/-- Memory, and the scratchpad of every core, are in canonical form (R75, R84). -/
def State.memOk (s : State) : Bool := Store.wf s.mem && s.cores.all (fun p => Store.wf p.2.scratch)

/-- A step that is safe: it ends in a next state. -/
def Safe (s : State) : Prop := ∃ t, Goes s t

/-! ## A unit about to issue -/

/-- Unit `u` of warp `w`, SUBID `sub` in slot `g`, holds the issue slot that acts next, and waits for no result (R20, R24). -/
structure AtIssue (s : State) (g sub : Nat) (w : Warp) (u : WUnit) : Prop where
  focus   : s.focus = some (g, sub)
  warp    : s.warp? g = some w
  unit    : unitOf w.units sub = some u
  issuing : u.st = .issuing
  clear   : ∀ x ∈ w.units, x.sub = sub → x.looks = []

/-- Nothing but the unit itself changes where its stroke ends: no debugger is at work on its die (R405), its core writes no trace (R408), its
workgroup is not ending (R45), and none of its warp's writes waits for a copy-on-write (R98). -/
structure Quiet (s : State) (g : Nat) (w : Warp) : Prop where
  debug : (s.die (dieOf g)).dbg = none
  trace : (s.coreReg (coreOf g) .trctl).getLsbD 0 = false
  group : ∀ k, s.group? w.wg = some k → k.ending = false
  late  : ∀ p ∈ s.cows, ∀ x ∈ p.2.late, ∀ sub pc, x.who ≠ .unit g sub pc

/-- No vector source of an instruction is unmapped, or unmapped reads do not trap (R63). -/
def ReadsOk (w : Warp) (ns : List Nat) : Prop := w.wstat &&& wsUnmapTrap = 0 ∨ ∀ n ∈ ns, w.mapped n = true

/-! ## Reading a state -/

/-- Lane `l` of vector register `n` of the warp in slot `g`; an unmapped name reads as zero (R63). -/
def State.lane (s : State) (g n l : Nat) : W64 :=
  match s.warp? g with
  | some w => (w.vreg n).at l
  | none => 0

/-- Scalar register `n` of the warp in slot `g`. -/
def State.scal (s : State) (g n : Nat) : W64 :=
  match s.warp? g with
  | some w => w.sreg n
  | none => 0

/-- Predicate depth `k` of the warp in slot `g`. -/
def State.depth (s : State) (g k : Nat) : W32 :=
  match s.warp? g with
  | some w => w.pred k
  | none => 0

/-! ## What is left as it was -/

/-- The package but for the warps and the model's own counters: memory, registers of the device, cores, workgroups, launches, everything in progress. -/
def SameRest (s t : State) : Prop :=
  t = { s with warps := t.warps, groups := t.groups, focus := t.focus, handles := t.handles, free := t.free }

/-- Every warp but the one in slot `g` is as it was. -/
def SameWarps (s t : State) (g : Nat) : Prop := ∀ g', g' ≠ g → t.warp? g' = s.warp? g'

/-- A warp but for its registers, its flags, its region and its units: the special registers STKPTR to TRAPPC and FPCR, the counters, its resources
and its queued matrix operations but for their marks. -/
def SameWarp (w w' : Warp) : Prop :=
  w' = { w with names := w'.names, pending := w'.pending, newList := w'.newList, sregs := w'.sregs, preds := w'.preds, fpsr := w'.fpsr,
                wstat := w'.wstat, rcount := w'.rcount, mops := w'.mops, units := w'.units }

/-! ## Regions and operands -/

/-- An instruction of unit `u` is a region entry; `e` says that it carries E = 1 or is a RGN (R60). -/
def entersAt (u : WUnit) (e : Bool) : Bool := (e || u.enters) && !u.entered

/-- The warp after the region entry. -/
def entryWarp (w : Warp) (sub : Nat) (e : Bool) : Warp :=
  if e then { w.commit with units := modUnitOf w.units sub (fun x => { x with rpc := x.pc, ckpt := w.preds, entered := true, moved := true }) } else w

/-- The unit after the region entry. -/
def entryUnit (w : Warp) (u : WUnit) (e : Bool) : WUnit := if e then { u with rpc := u.pc, ckpt := w.preds, entered := true, moved := true } else u

/-- The vector names an instruction writes are mapped, or can be taken: within the warp's maximum (R58), and the pool holds them beside every
older request (R57, R65). `w` is the warp after the region entry. -/
def Room (s : State) (g : Nat) (w : Warp) (act : W32) (ns : List Nat) : Prop :=
  act = 0 ∨ newNames w ns = []
    ∨ (w.held + (newNames w ns).length ≤ w.regsMax
        ∧ (s.setWarp g w).grantable (quadOf g) (w.lseq, s.handles) (newNames w ns).length = true)

/-- Lane `l` of an operand as raw bits (R160). -/
def opVal (w : Warp) (u : WUnit) (lit : Option W64) (l : Nat) : Operand → W64
  | .v n => (w.vreg n.toNat).at l
  | .s n => w.sreg n.toNat
  | .w n => u.wreg n.toNat
  | .imm n => n.signExtend 64
  | .lit => lit.getD 0
  | .x _ | .none => 0

/-- Lane `l` of an operand of a floating operation of format `code`: an inline immediate is the integer's value in that format (R160). -/
def opFval (code : Nat) (w : Warp) (u : WUnit) (lit : Option W64) (l : Nat) : Operand → W64
  | .imm n => BitVec.ofNat 64 (intPattern code n.toInt)
  | o => opVal w u lit l o

/-- The FPSR flags of the active lanes (R136). -/
def laneFlags (act : W32) (f : Nat → W32) : W32 := (lanesOf act).foldl (fun m l => m ||| f l) 0

/-! ## Results -/

/-- What an instruction gives: its active set, the vector names its last-use bits free, its destinations and sources among vector names, its
results by name, the FPSR flags it sets, the predicate depths and EXEC it leaves, the PC it goes on at, whether its stroke ends, and, for a
long-latency instruction, what is outstanding. -/
structure Res where
  act   : W32
  uses  : List Nat
  dests : List Nat
  reads : List Nat
  vec   : Nat → Option (Nat → W64)
  sca   : Nat → Option W64
  wgs   : Nat → Option W64
  flags : W32
  preds : Nat → W32
  exec  : W32
  pc    : W64
  ends  : Bool
  late  : Option (Look → Prop)

/-- An instruction of `len` bytes that has operands of one register each and gives no result yet. -/
def Res.plain (w : Warp) (u : WUnit) (x : Op) (len : Nat) : Res :=
  { act := guardMask w u.exec x.grd, uses := (x.hdr len 1 1 1).uses, dests := x.d.run 1, reads := x.a.run 1 ++ x.b.run 1 ++ x.c.run 1,
    vec := fun _ => none, sca := fun _ => none, wgs := fun _ => none, flags := 0, preds := w.pred, exec := u.exec,
    pc := u.pc + BitVec.ofNat 64 len, ends := x.s || decide (24 ≤ u.count + 1), late := none }

/-- An instruction whose A, B, C and D name runs of `na`, `nb`, `nc` and `nd` registers. -/
def Res.runs (w : Warp) (u : WUnit) (x : Op) (len na nb nc nd : Nat) : Res :=
  { Res.plain w u x len with uses := (x.hdr len na nb nc).uses, dests := x.d.run nd, reads := x.a.run na ++ x.b.run nb ++ x.c.run nc }

/-- The result `val` in a destination: in each active lane of a vector, or once in a scalar or workgroup scalar when a lane is active, from the
lowest such lane (R50, R218). -/
def Res.one (r : Res) (d : Operand) (val : Nat → W64) : Res :=
  let low := val ((lowLane r.act).getD 0)
  match d with
  | .v n => { r with vec := fun k => if k = n.toNat then some val else none }
  | .s n => { r with sca := fun k => if k = n.toNat ∧ r.act ≠ 0 then some low else none }
  | .w n => { r with wgs := fun k => if k = n.toNat ∧ r.act ≠ 0 then some low else none }
  | _ => r

/-- The results `vals` in consecutive destinations from `d` on (R162, R218). -/
def Res.run (r : Res) (d : Operand) (vals : List (Nat → W64)) : Res :=
  let low := (lowLane r.act).getD 0
  match d with
  | .v n => { r with vec := fun k => if n.toNat ≤ k then vals[k - n.toNat]? else none }
  | .s n => { r with sca := fun k => if n.toNat ≤ k ∧ r.act ≠ 0 then (vals[k - n.toNat]?).map (fun v => v low) else none }
  | .w n => { r with wgs := fun k => if n.toNat ≤ k ∧ r.act ≠ 0 then (vals[k - n.toNat]?).map (fun v => v low) else none }
  | _ => r

/-- What a long-latency instruction has outstanding (R24, R136): its lookahead count, its FPSR flags, and each result, ready to be written in the
lanes of `m`. -/
def Owes (k : Look) (la : Nat) (m fl : W32) (ds : List (Dest × (Nat → W64))) : Prop :=
  k.left = la ∧ k.lanes = m ∧ k.flags = fl ∧ k.ready = true ∧ k.wover = [] ∧ k.dests.map (·.1) = ds.map (·.1)
    ∧ ∀ d v, (d, v) ∈ k.dests → ∃ f, (d, f) ∈ ds ∧ ∀ l, l < 32 → inMask m l = true ∨ (l = 0 ∧ m = 0) → v.at l = f l

/-- The results of a long-latency instruction in consecutive destinations from `d` on, and the FPSR flags `fl` it sets with them; with no active lane
there is no result. -/
def Res.owed (r : Res) (la : Nat) (d : Operand) (vals : List (Nat → W64)) (fl : W32 := 0) : Res :=
  let low := (lowLane r.act).getD 0
  let one (mk : Nat → Dest) (n : Nat) : List (Dest × (Nat → W64)) := vals.zipIdx.map (fun p => (mk (n + p.2), fun _ => p.1 low))
  if r.act = 0 then { r with flags := fl }
  else
    match d with
    | .v n => { r with late := some (fun k => Owes k la r.act fl (vals.zipIdx.map (fun p => (Dest.v (n.toNat + p.2), p.1)))) }
    | .s n => { r with late := some (fun k => Owes k la 0 fl (one .s n.toNat)) }
    | .w n => { r with late := some (fun k => Owes k la 0 fl (one .w n.toNat)) }
    | _ => { r with flags := fl }

/-- A source pattern of a floating instruction: operand `o` in format `code`, with the modifiers of place `i` (R229). -/
def fpSrc (code : Nat) (w : Warp) (u : WUnit) (x : Op) (i : Nat) (o : Operand) (l : Nat) : Nat :=
  fmodPat code (bffz w.fpcr) x.func.toNat i (opFval code w u x.lit l o).toNat

/-- State `t` is state `s` after an instruction of unit `u` of warp `w` that gives `r`: its results are where they belong, and everything else is as
it was. `w'` and `u'` are the warp and the unit in `t`. -/
structure After (s t : State) (g sub : Nat) (w w' : Warp) (u u' : WUnit) (r : Res) : Prop where
  rest   : SameRest s t
  warps  : SameWarps s t g
  here   : t.warp? g = some w'
  unit   : unitOf w'.units sub = some u'
  warp   : SameWarp w w'
  others : ∀ k, k ≠ sub → unitOf w'.units k = unitOf w.units k
  vec    : ∀ n l, l < 32 → (w'.vreg n).at l = match r.vec n with
    | some v => if inMask r.act l then v l else (w.vreg n).at l
    | none => if n ∈ r.uses ∧ n ∉ r.dests ∧ s.divergent g = false then 0 else (w.vreg n).at l
  sca    : ∀ n, w'.sreg n = (r.sca n).getD (w.sreg n)
  wgs    : ∀ n, n < u.wview.length → u'.wreg n = (r.wgs n).getD (u.wreg n)
  group  : ∀ k, s.group? w.wg = some k → ∃ ws, t.group? w.wg = some { k with wregs := ws } ∧
    ∀ n, n < k.wregs.length → ws.getD n 0 = (r.wgs n).getD (k.wregs.getD n 0)
  groups : ∀ h, h ≠ w.wg ∨ s.group? h = none → t.group? h = s.group? h
  preds  : ∀ k, k < 8 → w'.pred k = r.preds k
  fpsr   : w'.fpsr = w.fpsr ||| r.flags
  wstat  : w'.wstat = if r.act ≠ 0 ∧ ∃ n ∈ r.reads, w.mapped n = false then w.wstat ||| wsRdunmap else w.wstat
  exec   : u'.exec = r.exec
  pc     : u'.pc = r.pc
  owned  : u'.owned = u.owned ∧ u'.entry = u.entry ∧ u'.serial = u.serial
  stroke : if r.ends then u'.st = .ready ∧ t.focus = none else u'.st = .issuing ∧ t.focus = s.focus
  looks  : match r.late with
    | none => u'.looks = []
    | some p => ∃ k, u'.looks = [k] ∧ p k

/-- The conditions on state and operands under which an instruction that only reads and writes registers completes: its unit is about to issue,
nothing outside the unit acts on its stroke, no source is unmapped where that traps, and the registers of its destinations `ns` can be had. `e` says
that it carries E = 1 or is a RGN. -/
structure CanIssue (s : State) (g sub : Nat) (w : Warp) (u : WUnit) (r : Res) (e : Bool) (ns : List Nat) : Prop where
  now   : AtIssue s g sub w u
  quiet : Quiet s g w
  reads : r.act = 0 ∨ ReadsOk w r.reads
  room  : Room s g (entryWarp w sub (entersAt u e)) r.act ns

end Sys2Proof.Machine
end

