-- ==== Sys2Proof/WellFormed.lean ====
section
/-! DEFINITION. When an instruction is well formed: the syntax-level content of the checks of R165, in terms of the encoding
rules of Decode. An event of the device is well formed always: it has no encoding. -/

namespace Sys2Proof

/-- A guard stands only where the rule allows one (R155). -/
def Op.guardWf (u : Rule) (x : Op) : Bool := u.grd || x.grd.isNone

/-- Unused operands are class 00, name 0, and carry no last-use bit (R159, R165). -/
def Op.unusedWf (u : Rule) (x : Op) : Bool :=
  let z (l : List Cls) (o : Operand) (ul : Bool) : Bool := !l.isEmpty || (o = .none && !ul)
  z u.d x.d false && z u.a x.a x.ula && z u.b x.b x.ulb && z u.c x.c x.ulc

/-- The literal is present exactly when something consumes it (R161). -/
def Op.litWf (u : Rule) (x : Op) : Bool :=
  let hit (l : List Cls) (o : Operand) : Bool := !l.isEmpty && o = .lit
  match u.lit with
  | .src => x.lit.isSome == (hit u.a x.a || hit u.b x.b || hit u.c x.c)
  | r => x.lit.isSome && litOk r x.lit

/-- The checks on an extended form. -/
def Op.wf (op : BitVec 10) (x : Op) : Bool :=
  let u := Rule.of op.toNat x.mod.toNat x.func.toNat x.a.classBits.toNat
  x.guardWf u && x.unusedWf u && x.litWf u && operandsOk op.toNat u x.d x.a x.b x.c x.ula x.ulb x.ulc
    && u.modOk && u.funcOk && (u.long || x.la = 0) && (!u.noFunc || x.func = 0) && (op ≠ 0x281 || !x.ula)

/-- The checks on a base word. -/
def Bw.wf (op : BitVec 7) (b : Bw) : Bool :=
  let u := BaseRule.of op.toNat b.mod.toNat
  !b.reserved u && !b.badLen u && !b.badUse u && u.modOk && b.rcvOk u

/-- The checks on a form. -/
def Form.wf : Form → Bool
  | .base op b => b.wf op
  | .ext op x => x.wf op
  | .event => true

/-- FUNC of an ENGCMD names the kind its constructor stands for (R270). -/
def Instr.kindWf : Instr → Bool
  | .engcmdCopyin x => x.func = 0
  | .engcmdCopyout x => x.func = 1
  | .engcmdPublish x => x.func = 2
  | .engcmdRetire x => x.func = 3
  | .engcmdAsbuild x => x.func = 4
  | .engcmdHalo x => x.func = 5
  | .engcmdAllred x => x.func = 6
  | .engcmdRecon x => x.func = 7
  | _ => true

/-- An instruction of the words is well formed. -/
def Instr.wf (i : Instr) : Bool := i.form.wf && i.kindWf

end Sys2Proof
end

