-- ==== Sys2Proof/Certificates/Slice0/Obligations.lean ====
section
/-! DEFINITION. The statements about the machine. First what they are written with: the forms of each instruction, and the results of integer
instructions in Lean's own bit-vector arithmetic, apart from the model's. -/

namespace Sys2Proof.Claims

open Sys2Proof.Machine

/-! ## Forms of an instruction -/

/-- An instruction's extended form, its base vector form and its base scalar form, each with the operands and the length it stands for (R150). -/
inductive Form3 (ext : Op → Instr) (vec sca : Bw → Instr) (v s : Nat) (acc : Bool) : Instr → Op → Nat → Prop where
  | ext (x : Op) : Form3 ext vec sca v s acc (ext x) x x.bytes
  | vec (b : Bw) : Form3 ext vec sca v s acc (vec b) (b.op v acc) b.bytes
  | sca (b : Bw) : Form3 ext vec sca v s acc (sca b) (b.op s acc) b.bytes

/-! ## Integer instructions (R220 to R222) -/

/-- The integer operations of R221 that take part in arithmetic. -/
inductive IntOp where
  | add | sub | mul | mulh | mad | min | max | abs
  deriving DecidableEq, Repr

/-- Their instructions: IADD, ISUB, IMUL, IMULH, IMAD, IMIN, IMAX and IABS, each with its _V and _S forms. -/
def IntOp.Is : IntOp → Instr → Op → Nat → Prop
  | .add => Form3 .iadd .iaddV .iaddS 0x00 0x20 false
  | .sub => Form3 .isub .isubV .isubS 0x01 0x21 false
  | .mul => Form3 .imul .imulV .imulS 0x02 0x22 false
  | .mulh => Form3 .imulh .imulhV .imulhS 0x03 0x23 false
  | .mad => Form3 .imad .imadV .imadS 0x04 0x24 true
  | .min => Form3 .imin .iminV .iminS 0x05 0x25 false
  | .max => Form3 .imax .imaxV .imaxS 0x06 0x26 false
  | .abs => Form3 .iabs .iabsV .iabsS 0x07 0x27 false

/-- The result modulo 2^w, at width `n`; `sg` for a signed type. -/
def IntOp.wrap {n : Nat} (o : IntOp) (sg : Bool) (a b c : BitVec n) : BitVec n :=
  match o with
  | .add => a + b
  | .sub => a - b
  | .mul => a * b
  | .mulh => if sg then ((a.signExtend (2 * n) * b.signExtend (2 * n)) >>> n).setWidth n else ((a.setWidth (2 * n) * b.setWidth (2 * n)) >>> n).setWidth n
  | .mad => a * b + c
  | .min => if (if sg then a.sle b else a.ule b) then a else b
  | .max => if (if sg then b.sle a else b.ule a) then a else b
  | .abs => if sg && a.msb then -a else a

/-- The exact result. -/
def IntOp.exact (o : IntOp) (a b c : Int) : Int :=
  match o with
  | .add => a + b
  | .sub => a - b
  | .mul => a * b
  | .mulh => a * b
  | .mad => a * b + c
  | .min => Min.min a b
  | .max => Max.max a b
  | .abs => |a|

/-- SAT is legal (R220). -/
def IntOp.sats : IntOp → Bool
  | .add | .sub | .mul | .mad | .abs => true
  | .mulh | .min | .max => false

/-- A type of MOD 1:0 is 64 bits wide; it is signed. -/
def wide (x : Op) : Bool := x.mod.getLsbD 1
def signedTy (x : Op) : Bool := !x.mod.getLsbD 0

/-- The value of a 64-bit slot under an integer type. -/
def tyVal (x : Op) (v : W64) : Int :=
  match wide x, signedTy x with
  | false, true => (v.setWidth 32).toInt
  | false, false => ((v.setWidth 32).toNat : Int)
  | true, true => v.toInt
  | true, false => (v.toNat : Int)

/-- A result at the width of the type, zero-extended. -/
def atWidth (x : Op) (f32 : BitVec 32) (f64 : BitVec 64) : W64 := if wide x then f64 else f32.setWidth 64

/-- Least and greatest value of the type. -/
def tyLeast (x : Op) : Int := if signedTy x then (if wide x then -(2 ^ 63) else -(2 ^ 31)) else 0
def tyGreatest (x : Op) : Int :=
  if signedTy x then (if wide x then 2 ^ 63 - 1 else 2 ^ 31 - 1) else (if wide x then 2 ^ 64 - 1 else 2 ^ 32 - 1)

/-- The bit operations of R221 and the shifts of R222. -/
inductive BitOp where
  | and | or | xor | not | shl | shr | sar | rot | popc | clz | brev
  deriving DecidableEq, Repr

/-- Their instructions: AND, OR, XOR, NOT, SHL, SHR, SAR, ROT, POPC, CLZ and BREV, each with its _V and _S forms. -/
def BitOp.Is : BitOp → Instr → Op → Nat → Prop
  | .and => Form3 .and .andV .andS 0x08 0x28 false
  | .or => Form3 .or .orV .orS 0x09 0x29 false
  | .xor => Form3 .xor .xorV .xorS 0x0A 0x2A false
  | .not => Form3 .not .notV .notS 0x0B 0x2B false
  | .shl => Form3 .shl .shlV .shlS 0x0C 0x2C false
  | .shr => Form3 .shr .shrV .shrS 0x0D 0x2D false
  | .sar => Form3 .sar .sarV .sarS 0x0E 0x2E false
  | .rot => Form3 .rot .rotV .rotS 0x0F 0x2F false
  | .popc => Form3 .popc .popcV .popcS 0x10 0x30 false
  | .clz => Form3 .clz .clzV .clzS 0x11 0x31 false
  | .brev => Form3 .brev .brevV .brevS 0x12 0x32 false

/-- The number of 1 bits. -/
def ones {n : Nat} (a : BitVec n) : Nat := (List.range n).countP (fun i => a.getLsbD i)

/-- The result at width `n`; `k` is the shift count. -/
def BitOp.on {n : Nat} (o : BitOp) (a b : BitVec n) (k : Nat) : BitVec n :=
  match o with
  | .and => a &&& b
  | .or => a ||| b
  | .xor => a ^^^ b
  | .not => ~~~a
  | .shl => a <<< k
  | .shr => a >>> k
  | .sar => a.sshiftRight k
  | .rot => a.rotateLeft k
  | .popc => BitVec.ofNat n (ones a)
  | .clz => a.clz
  | .brev => a.reverse

/-! ## Predicates -/

/-- The predicate depths after a push of `bit` in every lane of `exec`; a lane outside `act` pushes 0 (R52). -/
def pushed (exec act : W32) (old : Nat → W32) (bit : Nat → Bool) (k : Nat) : W32 :=
  ((if k = 0 then maskOf bit &&& act else old (k - 1)) &&& exec) ||| (old k &&& ~~~exec)

/-- The relation of an integer condition at width `n`. -/
def condOn {n : Nat} (k : Cond) (sg : Bool) (a b : BitVec n) : Bool :=
  match k with
  | .eq => a == b
  | .ne => a != b
  | .lt => if sg then a.slt b else a.ult b
  | .le => if sg then a.sle b else a.ule b
  | .gt => if sg then b.slt a else b.ult a
  | .ge => if sg then b.sle a else b.ule a

/-- The instructions of ICMP: the extended form and the base form of each condition. -/
inductive IsIcmp : Cond → Instr → Op → Nat → Prop where
  | ext (k : Cond) (x : Op) : IsIcmp k (.icmp k x) x x.bytes
  | eq (b : Bw) : IsIcmp .eq (.icmpEqV b) (b.op 0x58 false) b.bytes
  | ne (b : Bw) : IsIcmp .ne (.icmpNeV b) (b.op 0x59 false) b.bytes
  | lt (b : Bw) : IsIcmp .lt (.icmpLtV b) (b.op 0x5A false) b.bytes
  | le (b : Bw) : IsIcmp .le (.icmpLeV b) (b.op 0x5B false) b.bytes
  | gt (b : Bw) : IsIcmp .gt (.icmpGtV b) (b.op 0x5C false) b.bytes
  | ge (b : Bw) : IsIcmp .ge (.icmpGeV b) (b.op 0x5D false) b.bytes

/-! ## Moves, address, fields -/

/-- MOV and MOVI by type (R225): sign-extended, zero-extended, or whole. -/
def moved (x : Op) (v : W64) : W64 := if wide x then v else if signedTy x then (v.setWidth 32).signExtend 64 else (v.setWidth 32).setWidth 64

/-- LEA (R224). -/
def leaOf (x : Op) (a b : W64) : W64 := a + ((if x.mod.getLsbD 2 then (b.setWidth 32).signExtend 64 else b) <<< (x.mod.setWidth 2).toNat)

/-- Bit `i` of BFE's result at width `n` (R223): `pos` and `len` come from B and C. -/
def bfeBit {n : Nat} (sg : Bool) (a : BitVec n) (pos len i : Nat) : Bool :=
  if n ≤ pos ∨ len = 0 then false
  else if i < min len (n - pos) then a.getLsbD (pos + i)
  else sg && a.getLsbD (pos + min len (n - pos) - 1)

/-- Bit `i` of BFI's result at width `n` (R223). -/
def bfiBit {n : Nat} (a b : BitVec n) (pos len i : Nat) : Bool :=
  if n ≤ pos ∨ len = 0 then b.getLsbD i
  else if pos ≤ i ∧ i < pos + min len (n - pos) then a.getLsbD (i - pos)
  else b.getLsbD i

/-- A bit vector from its bits. -/
def ofBits (n : Nat) (f : Nat → Bool) : BitVec n := BitVec.ofNat n (((List.range n).map (fun i => if f i then 2 ^ i else 0)).sum)

end Sys2Proof.Claims

/-! ## Floating point (R129 to R137, R228 to R236) -/

namespace Sys2Proof.Claims

open Sys2Proof.Machine

/-- An instruction's extended form in each format, and its four base forms: F64 and F32, vector and scalar. `k` is its place in the opcode map of R167. -/
inductive FpForm (ext : Fmt → Op → Instr) (v64 s64 v32 s32 : Bw → Instr) (k : Nat) (acc : Bool) : Nat → Instr → Op → Nat → Prop where
  | ext (f : Fmt) (x : Op) : FpForm ext v64 s64 v32 s32 k acc f.code (ext f x) x x.bytes
  | v64 (b : Bw) : FpForm ext v64 s64 v32 s32 k acc 0 (v64 b) (b.op (0x40 + k) acc) b.bytes
  | v32 (b : Bw) : FpForm ext v64 s64 v32 s32 k acc 1 (v32 b) (b.op (0x46 + k) acc) b.bytes
  | s64 (b : Bw) : FpForm ext v64 s64 v32 s32 k acc 0 (s64 b) (b.op (0x4C + k) acc) b.bytes
  | s32 (b : Bw) : FpForm ext v64 s64 v32 s32 k acc 1 (s32 b) (b.op (0x52 + k) acc) b.bytes

inductive FpOp where
  | add | sub | mul | fma | min | max
  deriving DecidableEq, Repr

/-- FADD, FSUB, FMUL, FFMA, FMIN and FMAX, with their base forms; the first argument is the format code. -/
def FpOp.Is : FpOp → Nat → Instr → Op → Nat → Prop
  | .add => FpForm .fadd .faddF64V .faddF64S .faddF32V .faddF32S 0 false
  | .sub => FpForm .fsub .fsubF64V .fsubF64S .fsubF32V .fsubF32S 1 false
  | .mul => FpForm .fmul .fmulF64V .fmulF64S .fmulF32V .fmulF32S 2 false
  | .fma => FpForm .ffma .ffmaF64V .ffmaF64S .ffmaF32V .ffmaF32S 3 true
  | .min => FpForm .fmin .fminF64V .fminF64S .fminF32V .fminF32S 4 false
  | .max => FpForm .fmax .fmaxF64V .fmaxF64S .fmaxF32V .fmaxF32S 5 false

/-- The pattern and flags an operation gives on three patterns (R230, R231): the exact value rounded once, or the chosen operand. -/
def FpOp.gives (o : FpOp) (code : Nat) (md : Rnd) (fz : Bool) (a b c : Nat) : Nat × W32 :=
  match o with
  | .add => roundVal code fz md (sumVals md [fval code fz a, fval code fz b])
  | .sub => roundVal code fz md (sumVals md [fval code fz a, (fval code fz b).neg])
  | .mul => roundVal code fz md ((fval code fz a).mul (fval code fz b))
  | .fma => roundVal code fz md (sumVals md [(fval code fz a).mul (fval code fz b), fval code fz c])
  | .min => fminmax code false a b
  | .max => fminmax code true a b

/-- FCMP's instructions: the extended form and the base form of each condition that has one. -/
inductive IsFcmp : FCond → Instr → Op → Nat → Prop where
  | ext (k : FCond) (x : Op) : IsFcmp k (.fcmp k x) x x.bytes
  | eq (b : Bw) : IsFcmp .eq (.fcmpEqV b) (b.op 0x5E false) b.bytes
  | ne (b : Bw) : IsFcmp .ne (.fcmpNeV b) (b.op 0x5F false) b.bytes
  | lt (b : Bw) : IsFcmp .lt (.fcmpLtV b) (b.op 0x60 false) b.bytes
  | le (b : Bw) : IsFcmp .le (.fcmpLeV b) (b.op 0x61 false) b.bytes
  | gt (b : Bw) : IsFcmp .gt (.fcmpGtV b) (b.op 0x62 false) b.bytes
  | ge (b : Bw) : IsFcmp .ge (.fcmpGeV b) (b.op 0x63 false) b.bytes

/-- A finite value as a rational number. -/
def ratOf (neg : Bool) (m : Nat) (e : Int) : ℚ := (if neg then -1 else 1) * (m : ℚ) * (2 : ℚ) ^ e

/-- One value lies below another; a NaN is in no relation (R232). -/
def below : FVal → FVal → Prop
  | .inf true, .inf false => True
  | .inf true, .fin _ _ _ => True
  | .fin _ _ _, .inf false => True
  | .fin n m e, .fin k p f => ratOf n m e < ratOf k p f
  | _, _ => False

/-- Two values are equal; −0 equals +0, and a NaN equals nothing. -/
def sameVal : FVal → FVal → Prop
  | .inf n, .inf k => n = k
  | .fin n m e, .fin k p f => ratOf n m e = ratOf k p f
  | _, _ => False

/-- The table of R232. -/
def relates (k : FCond) (a b : FVal) : Prop :=
  match k with
  | .eq => sameVal a b
  | .ne => ¬ sameVal a b
  | .lt => below a b
  | .le => below a b ∨ sameVal a b
  | .gt => below b a
  | .ge => below b a ∨ sameVal a b
  | .ord => a.isNan = false ∧ b.isNan = false
  | .uno => a.isNan = true ∨ b.isNan = true

/-- The class bit of R233, from the value of a pattern of a format. -/
def classOf (f : FFmt) : FVal → Nat
  | .nan sig => if sig then 8 else 9
  | .inf neg => if neg then 0 else 7
  | .fin neg m _ => if m = 0 then (if neg then 3 else 4) else if m < 2 ^ f.fb then (if neg then 2 else 5) else if neg then 1 else 6

/-- An integer a rational rounds to under a mode (R133). -/
def intRound (md : Rnd) (q : ℚ) : ℤ :=
  match md with
  | .rtz => if 0 ≤ q then ⌊q⌋ else ⌈q⌉
  | .rup => ⌈q⌉
  | .rdn => ⌊q⌋
  | .rne => if q - ⌊q⌋ < 1 / 2 then ⌊q⌋ else if 1 / 2 < q - ⌊q⌋ then ⌊q⌋ + 1 else if ⌊q⌋ % 2 = 0 then ⌊q⌋ else ⌊q⌋ + 1

/-! ## The transcendental pipe (R235) -/

/-- FRCP, FRSQ, FSQRT, FDIVF, FSIN, FCOS, FEXP2 and FLOG2, and what each gives on its operands: format, rounding mode, A in the format, B raw. -/
inductive IsPipe : Instr → Op → (Nat → Rnd → W64 → W64 → W64 → Nat × W32) → Nat → Prop where
  | rcp (f : Fmt2) (x : Op) : IsPipe (.frcp f x) x (fun c _ a _ _ => frcpPat c a) f.code
  | rsq (f : Fmt2) (x : Op) : IsPipe (.frsq f x) x (fun c _ a _ _ => frsqPat c a) f.code
  | sqrt (f : Fmt2) (x : Op) : IsPipe (.fsqrt f x) x (fun c md a _ _ => fsqrtPat c md a) f.code
  | div (f : Fmt2) (x : Op) : IsPipe (.fdivf f x) x (fun c _ a b _ => fdivfPat c a b) f.code
  | sin (f : Fmt2) (x : Op) : IsPipe (.fsin f x) x (fun c _ a _ q => sinQuad fnSin c a (BitVec.ofNat 64 (q.toNat % 4)) (q.toNat % 4)) f.code
  | cos (f : Fmt2) (x : Op) : IsPipe (.fcos f x) x (fun c _ a _ q => sinQuad fnCos c a (BitVec.ofNat 64 (q.toNat % 4)) (q.toNat % 4 + 1)) f.code
  | exp2 (f : Fmt2) (x : Op) : IsPipe (.fexp2 f x) x (fun c _ a _ _ => fexp2Pat c a) f.code
  | log2 (f : Fmt2) (x : Op) : IsPipe (.flog2 f x) x (fun c _ a _ _ => flog2Pat c a) f.code

/-! ## Lane instructions (R241 to R246) -/

/-- Lane `l` of the `i`-th register of a run from an operand (R162, R218). -/
def nthVal (w : Warp) (u : WUnit) (l : Nat) (o : Operand) (i : Nat) : W64 :=
  match o with
  | .v n => (w.vreg (n.toNat + i)).at l
  | .s n => w.sreg (n.toNat + i)
  | .w n => u.wreg (n.toNat + i)
  | _ => 0

/-- Source lane of SHFL in mode 00 to 11, for lane `l`, segment width `W` and operand `b` (R241). -/
def shflFrom (mode W l b : Nat) : Nat :=
  let base := l - l % W
  if mode = 0 then base + b % W
  else if mode = 1 then (if W ≤ b ∨ l < b + base then l else l - b)
  else if mode = 2 then (if W ≤ b ∨ base + W ≤ l + b then l else l + b)
  else base + ((l % W) ^^^ (b % W))

/-- Node `i` of level `j` of REDL's tree, with the flags its additions set (R245). -/
def treeNode (f : Nat → Nat → Nat × W32) (leaf : Nat → Option Nat) : Nat → Nat → Option Nat × W32
  | 0, i => (leaf i, 0)
  | j + 1, i =>
    let x := treeNode f leaf j (2 * i)
    let y := treeNode f leaf j (2 * i + 1)
    match x.1, y.1 with
    | some a, some b => (some (f a b).1, x.2 ||| y.2 ||| (f a b).2)
    | some a, none => (some a, x.2 ||| y.2)
    | none, some b => (some b, x.2 ||| y.2)
    | none, none => (none, x.2 ||| y.2)

/-- SCANL's accumulator before lane `l`, over the active lanes in ascending order (R246). -/
def scanAcc (f : Nat → Nat → Nat × W32) (act : W32) (a : Nat → Nat) : Nat → Option Nat × W32
  | 0 => (none, 0)
  | l + 1 =>
    let p := scanAcc f act a l
    if inMask act l then
      match p.1 with
      | some v => (some (f v (a l)).1, p.2 ||| (f v (a l)).2)
      | none => (some (a l), p.2)
    else p

end Sys2Proof.Claims

/-! ## Effects beyond the unit -/

namespace Sys2Proof.Claims

open Sys2Proof.Machine

/-- The state with the region entry of the instruction about to issue, if it is one (R60). -/
def entered (s : State) (g sub : Nat) (w : Warp) (u : WUnit) (e : Bool) : State := s.setWarp g (entryWarp w sub (entersAt u e))

/-- What an instruction leaves: `next` is `post t`, where `t` is `s1` after the result `r`; `s1` is the state at issue with the effects outside the unit. -/
def Leaves (s1 next : State) (g sub : Nat) (r : Res) (post : State → State := id) : Prop :=
  ∃ w1 u1 t w' u', s1.warp? g = some w1 ∧ unitOf w1.units sub = some u1 ∧ After s1 t g sub w1 w' u1 u' r ∧ next = post t

/-- A result that ends the stroke and goes on at `pc`. -/
def goesTo (r : Res) (pc : W64) : Res := { r with pc := pc, ends := true }

/-- A unit's stroke has ended in a resource wait (R22). -/
def waits (g sub : Nat) (w : Wait) (s : State) : State := s.modUnit g sub (fun u => { u with st := .blocked w })

/-! ## Control (R188 to R204) -/

/-- An instruction's extended form and its base form of opcode `k`. -/
inductive Form2 (ext : Op → Instr) (base : Bw → Instr) (k : Nat) : Instr → Op → Nat → Prop where
  | ext (x : Op) : Form2 ext base k (ext x) x x.bytes
  | base (b : Bw) : Form2 ext base k (base b) (b.op k false) b.bytes

/-- TGT and RCV of a literal, as PCs (R163). -/
def tgtOf (x : Op) (u : WUnit) : W64 := u.pc + ((((x.lit.getD 0).setWidth 32).signExtend 64) <<< 2)
def joinOf (x : Op) (u : WUnit) : W64 := u.pc + ((((x.lit.getD 0).extractLsb' 32 32).signExtend 64) <<< 2)

/-- The instruction after one of `len` bytes. -/
def nextOf (u : WUnit) (len : Nat) : W64 := u.pc + BitVec.ofNat 64 len

/-- BRA without a condition, CALL, CALLX and RET: where each goes, whether it sets s127, and whether its target must be aligned (R192, R196). -/
inductive IsJump : Instr → Op → Nat → (Warp → WUnit → W64) → Bool → Bool → Prop where
  | bra {i x len} (h : Form2 .bra .braBase 0x70 i x len) : IsJump i x len (fun _ u => tgtOf x u) false false
  | call {i x len} (h : Form2 .call .callBase 0x79 i x len) : IsJump i x len (fun _ u => tgtOf x u) true false
  | callx (x : Op) : IsJump (.callx x) x x.bytes (fun w u => opVal w u x.lit 0 x.a) true true
  | ret (x : Op) : IsJump (.ret x) x x.bytes (fun w u => opVal w u x.lit 0 x.a) false true

/-- PPOP, PROT, PTOX, XTOP, XRD and XWR, PLOG, and what each does to the depths, EXEC and its scalar (R202 to R204). -/
inductive IsMask : Instr → Op → Nat → (Warp → WUnit → Res → Res) → Prop where
  | ppop {i x len} (h : Form2 .ppop .ppopBase 0x64 i x len) : IsMask i x len (fun w u r =>
      let n := (x.mod.setWidth 2).toNat + 1
      { r with preds := fun k => ((if k + n ≤ 7 then w.pred (k + n) else 0) &&& u.exec) ||| (w.pred k &&& ~~~u.exec) })
  | prot (x : Op) : IsMask (.prot x) x x.bytes (fun w u r =>
      let n := (x.func.setWidth 3).toNat
      { r with preds := fun k => (w.pred ((k + 8 - n) % 8) &&& u.exec) ||| (w.pred k &&& ~~~u.exec) })
  | plog (x : Op) : IsMask (.plog x) x x.bytes (fun w u r =>
      let a := (x.func.setWidth 3).toNat
      let b := (x.func.extractLsb' 3 3).toNat
      { r with preds := pushed u.exec r.act w.pred (fun l =>
          (x.func.extractLsb' 6 4).getLsbD (2 * (inMask (w.pred a) l).toNat + (inMask (w.pred b) l).toNat)) })
  | ptox (x : Op) : IsMask (.ptox x) x x.bytes (fun w u r =>
      let p := w.pred (x.func.setWidth 3).toNat
      let new := (if x.func.getLsbD 3 then ~~~p else p) &&& u.owned
      { r with exec := if x.func.getLsbD 4 then new &&& u.exec else new })
  | xtop (x : Op) : IsMask (.xtop x) x x.bytes (fun w u r =>
      { r with preds := fun k => ((if k = 0 then u.exec else w.pred (k - 1)) &&& u.owned) ||| (w.pred k &&& ~~~u.owned) })
  | xrd {i x len} (h : Form2 .xrd .xrdBase 0x65 i x len) (n : BitVec 7) (hd : x.d = .s n) : IsMask i x len (fun _ u r =>
      { r with sca := fun k => if k = n.toNat then some (u.exec.setWidth 64) else none })
  | xwr {i x len} (h : Form2 .xwr .xwrBase 0x66 i x len) : IsMask i x len (fun w u r =>
      { r with exec := (opVal w u x.lit 0 x.a).setWidth 32 &&& u.owned })

/-- The special registers whose value is part of the warp, the unit or the timer, in lane `l` (R54, R55). -/
def specialVal (s : State) (w : Warp) (u : WUnit) (l : Nat) : Special → Option W64
  | .laneid => some (BitVec.ofNat 64 (if inMask w.helpers l then l + 32 else l))
  | .rtime => some (BitVec.ofNat 64 s.rtime)
  | .fpcr => some (w.fpcr.setWidth 64)
  | .fpsr => some (w.fpsr.setWidth 64)
  | .stkptr => some w.stkptr
  | .stklim => some w.stklim
  | .wstat => some (w.wstat.setWidth 64)
  | .traph => some w.traph
  | .trappc => some w.trappc
  | .exec => some (u.exec.setWidth 64)
  | .warpid | .subid | .wgid | .nbid | .core | .die | .clk | .vpool | .vres => none

end Sys2Proof.Claims

/-! ## Synchronisation (R205 to R212) -/

namespace Sys2Proof.Claims

open Sys2Proof.Machine

/-- WATCH's and WAITW's test (R208): the masked value against the masked reference, or every bit of the mask. -/
def passes (n cmp : Nat) (x m ref : BitVec n) : Prop :=
  match cmp with
  | 0 => x &&& m = ref
  | 1 => x &&& m ≠ ref
  | 2 => ref.toInt ≤ (x &&& m).toInt
  | 3 => (x &&& m).toInt < ref.toInt
  | 4 => ref.toNat ≤ (x &&& m).toNat
  | 5 => (x &&& m).toNat < ref.toNat
  | _ => x &&& m = m

/-- An outstanding result of one scalar that is not known yet. -/
def owesScalar (la : Nat) (n : Nat) (v : W64) (k : Look) : Prop :=
  k.left = la ∧ k.ready = false ∧ k.wover = [] ∧ k.dests = [(.s n, [v])]

/-- The warp of index `i` has arrived at a barrier once each of its live units is recorded (R205). -/
def arrivedAt (s : State) (k : Group) (b : Barrier) (i : Nat) : Prop :=
  i ∈ b.arrived ∨ ∃ w, (i, w) ∈ s.liveWarps k ∧ (∃ v ∈ w.units, v.st ≠ .fusing) ∧ ∀ v ∈ w.units, v.st ≠ .fusing → (i, v.sub) ∈ b.units

end Sys2Proof.Claims

/-! ## Memory (R247 to R261, R268) -/

namespace Sys2Proof.Claims

open Sys2Proof.Machine

/-- What an instruction sees at issue. -/
def ctxAt (s : State) (g sub : Nat) (w : Warp) (u : WUnit) (x : Op) : Ctx :=
  { s := entered s g sub w u x.e, g := g, sub := sub, w := entryWarp w sub (entersAt u x.e), u := entryUnit w u (entersAt u x.e),
    act := guardMask w u.exec x.grd, len := x.bytes }

/-- The effective address of a lane: A plus B (R249). -/
def eaOf (w : Warp) (u : WUnit) (x : Op) (l : Nat) : W64 := opVal w u x.lit l x.a + opVal w u x.lit l x.b

/-- Value `k` of the data operand in a lane: an immediate is the same for every dword (R252). -/
def dataVal (w : Warp) (u : WUnit) (x : Op) (l k : Nat) : W64 :=
  match x.c with
  | .imm n => opVal w u x.lit l (.imm n)
  | .lit => opVal w u x.lit l .lit
  | o => nthVal w u l o k

/-- The active lanes that are not helpers (R47). -/
def realLanes (w : Warp) (u : WUnit) (x : Op) : List Nat := lanesOf (guardMask w u.exec x.grd &&& ~~~w.helpers)

/-- The lanes a load reads for: every active lane, or the lowest for a scalar destination (R249). -/
def loadLanes (w : Warp) (u : WUnit) (x : Op) : List Nat :=
  match x.d with
  | .v _ => lanesOf (guardMask w u.exec x.grd)
  | _ => (lanesOf (guardMask w u.exec x.grd)).take 1

/-- A load's result before its values: `n` destinations. -/
def Res.load (w : Warp) (u : WUnit) (x : Op) (n : Nat) : Res :=
  { Res.plain w u x x.bytes with dests := x.d.run n, reads := x.a.run 1 ++ x.b.run 1 }

/-- A store's: it reads a run of `n` data registers, and writes none. -/
def Res.store (w : Warp) (u : WUnit) (x : Op) (n : Nat) : Res :=
  { Res.plain w u x x.bytes with uses := (x.hdr x.bytes 1 1 n).uses, reads := x.a.run 1 ++ x.b.run 1 ++ x.c.run n }

/-- The acquire of an instruction (R109, R112). -/
def acqOf (s : State) (g : Nat) : State := s.acquire (coreOf g)

/-- Byte `a` lies among `n` bytes from `b`. -/
def within (a b n : Nat) : Prop := b ≤ a ∧ a < b + n

/-- Byte `a` is none that an instruction with items `as` of `n` bytes may write: no item's, no leaf entry's whose A and D it sets (R77), and no reduction's that is
still a partial (R117). -/
def untouched (s : State) (as : List Acc) (n a : Nat) : Prop :=
  (∀ b ∈ as, ¬ within a b.pa n ∧ ¬ within a b.addr 8) ∧ ∀ p ∈ s.partials, ¬ within a p.pa 8

/-- No leaf entry of the items `as` of `n` bytes lies where one of them writes, or where a reduction is still a partial. -/
def leavesApart (s : State) (as : List Acc) (n : Nat) : Prop :=
  ∀ a ∈ as, (∀ b ∈ as, a.addr + 8 ≤ b.pa ∨ b.pa + n ≤ a.addr) ∧ ∀ q ∈ s.partials, q.pa + 8 ≤ a.addr ∨ a.addr + 8 ≤ q.pa

/-- Lane `l` of a data operand of ATOM or RED: with a floating type an inline immediate is the integer's value in the format (R160). -/
def atomVal (w : Warp) (u : WUnit) (x : Op) (o : Operand) (l : Nat) : W64 :=
  if atomTy x < 4 then opFval (atomTy x) w u x.lit l o else opVal w u x.lit l o

/-- The result of an operation of ATOM and RED on two items of `n` bits (R258); `f` is the format of a floating type, `sg` a signed type. -/
def atomOn (n : Nat) (op : Nat) (f : Option Nat) (sg : Bool) (old c : BitVec n) : BitVec n :=
  match op, f with
  | 0, none => old + c
  | 0, some f => BitVec.ofNat n (roundVal f false .rne (sumVals .rne [(ffmt f).decode old.toNat, (ffmt f).decode c.toNat])).1
  | 1, none => if (if sg then c.slt old else c.ult old) then c else old
  | 1, some f => BitVec.ofNat n (fminmax f false old.toNat c.toNat).1
  | 2, none => if (if sg then old.slt c else old.ult c) then c else old
  | 2, some f => BitVec.ofNat n (fminmax f true old.toNat c.toNat).1
  | 3, _ => old &&& c
  | 4, _ => old ||| c
  | 5, _ => old ^^^ c
  | _, _ => c

end Sys2Proof.Claims

/-! ## Tiles, commands and the matrix engine (R87 to R90, R262 to R297) -/

namespace Sys2Proof.Claims

open Sys2Proof.Machine

/-- A resource wait before the instruction (R22): the stroke ends, and the unit blocks at it. -/
def heldBefore (s : State) (g sub : Nat) (w : Wait) : State :=
  { s.modUnit g sub (fun v => { v with st := .blocked w, count := 0, xsets := [] }) with focus := none }

/-- The core's entry that a tile operand names, by A[7:0], and its place in the core's table (R262). -/
def tileIx (k : Group) (w : Warp) (u : WUnit) (x : Op) : Nat := k.tileBase + (opVal w u x.lit 0 x.a).toNat % 256
def tileAt (s : State) (k : Group) (w : Warp) (u : WUnit) (x : Op) : Tile := s.tile k.core (tileIx k w u x)

/-- The shape that the words B and C of TCFG give (R263). -/
def shapeIn (b c : W64) : Shape :=
  { base := (b.extractLsb' 0 25).toNat, rows := (b.extractLsb' 32 11).toNat, cols := (b.extractLsb' 43 11).toNat,
    esz := (b.extractLsb' 54 3).toNat, layout := (b.extractLsb' 57 3).toNat, pitch := (c.extractLsb' 0 16).toNat }

/-- Bytes of `m` elements of a row or column (R88). -/
def spanOf (h : Shape) (m : Nat) : Nat := (m * (4 <<< h.esz) + 7) / 8

/-- The first byte of the element (i, j) in the window, by R88's three layouts: rows in order, columns in order, and rows whose dwords are exchanged by
the row's number. -/
def placeOf (h : Shape) (i j : Nat) : Nat :=
  let bits := 4 <<< h.esz
  if h.layout = 0 then h.base + i * (8 * h.pitch) + j * bits / 8
  else if h.layout = 1 then h.base + j * (8 * h.pitch) + i * bits / 8
  else h.base + i * (8 * h.pitch) + 8 * ((j * bits / 64) ^^^ (i % 8)) + j * bits / 8 % 8

/-- The element lies in a window of the given size. -/
def elemFits (window : Nat) (h : Shape) (i j : Nat) : Prop := placeOf h i j + max 1 ((4 <<< h.esz) / 8) ≤ window

/-- A shape that TCFG accepts in a window of the given size, once its reserved bits are zero (R88, R263). That the last element is (ROWS − 1, COLS − 1)
is DEDUCED (log 23). -/
def ShapeFits (window : Nat) (h : Shape) : Prop :=
  let row := (if h.layout = 1 then h.rows else h.cols) * (4 <<< h.esz)
  h.esz ≤ 4 ∧ h.layout ≤ 2 ∧ h.base % 8 = 0 ∧ 1 ≤ h.rows ∧ h.rows ≤ 1024 ∧ 1 ≤ h.cols ∧ h.cols ≤ 1024 ∧ row ≤ 64 * h.pitch
    ∧ (h.layout = 2 → 512 ≤ row ∧ row % 512 = 0) ∧ elemFits window h (h.rows - 1) (h.cols - 1)

/-- The first element a lane names: row and column (R265). -/
def rowOf (w : Warp) (u : WUnit) (x : Op) (l : Nat) : Nat := ((opVal w u x.lit l x.b).extractLsb' 0 32).toNat
def colOf (w : Warp) (u : WUnit) (x : Op) (l : Nat) : Nat := ((opVal w u x.lit l x.b).extractLsb' 32 32).toNat

/-- A lane's elements lie in the tile. -/
def inTile (h : Shape) (w : Warp) (u : WUnit) (x : Op) (n l : Nat) : Prop := rowOf w u x l < h.rows ∧ colOf w u x l + n ≤ h.cols

/-- Element `i`, of `e` bits, of a packed run of registers (R127). -/
def packedAt (v : Nat → W64) (e i : Nat) : Nat := ((v (i * e / 64)).toNat >>> (i * e % 64)) % 2 ^ e

/-- What the matrix engine has queued: the state `t` that follows `s1`, in which the warp holds one operation more, `o`; its own operands
`uses` are freed, though the engine holds them until it has read them (R118), and the unit goes on at the next instruction, a region entry. -/
structure Queued (s1 t : State) (g sub : Nat) (w w' : Warp) (u u' : WUnit) (x : Op) (uses reads : List Nat) (o : MOp) : Prop where
  rest  : SameRest s1 t
  warps : SameWarps s1 t g
  here  : t.warp? g = some w'
  unit  : unitOf w'.units sub = some u'
  mops  : w'.mops = w.mops ++ [o]
  joint : w'.joint2 = w.joint2 + (if o.joint = 2 then 1 else 0) ∧ w'.joint4 = w.joint4 + (if o.joint = 4 then 1 else 0)
  vec   : ∀ n l, l < 32 → (w'.vreg n).at l = if n ∈ uses ∧ s1.divergent g = false then 0 else (w.vreg n).at l
  sregs : w'.sregs = w.sregs ∧ w'.preds = w.preds ∧ w'.fpsr = w.fpsr ∧ w'.fpcr = w.fpcr ∧ w'.stkptr = w.stkptr ∧ w'.closes = w.closes
  wstat : (∀ n ∈ reads, w.mapped n = true) → w'.wstat = w.wstat
  other : ∀ k, k ≠ sub → unitOf w'.units k = unitOf w.units k
  pc    : u'.pc = nextOf u x.bytes ∧ u'.exec = u.exec ∧ u'.owned = u.owned ∧ u'.enters = true ∧ u'.wview = u.wview
  ends  : if x.s = true ∨ 24 ≤ u.count + 1 then u'.st = .ready else u'.st = .issuing
  fresh : o.done = false ∧ o.batch = none ∧ o.spoilt = 0 ∧ o.bSpoilt = false ∧ o.flags = 0 ∧ o.fence = w.fence
  place : o.rows = guardMask w u.exec x.grd &&& ~~~w.helpers ∧ o.row0 = (x.func.setWidth 4).toNat * 32 ∧ o.col0 = (x.func.extractLsb' 4 2).toNat * 16
          ∧ o.sel = (x.mod.setWidth 3).toNat ∧ o.fpcr = w.fpcr

/-- The names that an operation's last-use bits free: the engine's A and B, and C (R284). -/
def engUses (x : Op) (na nb : Nat) : List Nat :=
  (if x.ula then x.a.run na else []) ++ (if x.ulb then x.b.run nb else []) ++ (if x.ulc then x.c.run 1 else [])

end Sys2Proof.Claims

/-! ## Rays, raster and grids (R300 to R324) -/

namespace Sys2Proof.Claims

open Sys2Proof.Machine

/-- The ray of a lane from the eight registers of RQ (R301). -/
def rayOf (w : Warp) (u : WUnit) (x : Op) (l : Nat) : RayIn :=
  let f (i : Nat) : Nat := ((nthVal w u l x.a i).setWidth 32).toNat
  { org := [f 0, f 1, f 2], tmin := f 3, dir := [f 4, f 5, f 6], tmax := f 7, first := x.func.getLsbD 0, cullb := x.func.getLsbD 1 }

/-- An exact fraction as a rational. -/
def fracQ (f : Frac) : ℚ := f.n / f.d

/-- Component `k` of a vector. -/
def axisOf (v : Vec) (k : Nat) : Int := [v.1, v.2.1, v.2.2].getD k 0

/-- The FP32 pattern `p` is at most, or at least, the number `t`: infinities bound nothing on their side. -/
def patLe (p : Nat) (t : ℚ) : Prop := match fix32 p with
  | some m => (m : ℚ) / 2 ^ 149 ≤ t
  | none => 2 ^ 31 ≤ p % 2 ^ 32
def patGe (p : Nat) (t : ℚ) : Prop := match fix32 p with
  | some m => t ≤ (m : ℚ) / 2 ^ 149
  | none => p % 2 ^ 32 < 2 ^ 31

/-- A record of RCAST or CONT for each lane of a list, in a pool (R304). -/
def castRecords (key die : Nat) (hdr : Nat → List W32) (live : Nat → List W64) (ready : Bool) (ls : List Nat) (s : State) : State :=
  ls.foldl (fun s l =>
    let y : Ray := { launch := key, die := die, order := s.handles, hdr := hdr l, live := live l, ready := ready, hit := none, stamp := s.clk die }
    { s with handles := s.handles + 1, rays := s.rays.put s.handles y }) s

end Sys2Proof.Claims

/-! ## Events of the device -/

namespace Sys2Proof.Claims

open Sys2Proof.Machine

/-! ### The units of a quadrant (R17, R22 to R27, R44, R65 to R67, R72, R193) -/

/-- A ready unit of a quadrant, as the grant of R23 sees it. -/
def IsCand (s : State) (q : Nat) (c : Cand) : Prop :=
  ∃ w u, (c.g, w) ∈ s.warps ∧ quadOf c.g = q ∧ s.mayIssue w = true ∧ u ∈ w.units ∧ u.st = .ready ∧ u.stopAt = false ∧ u.waitsLook = false
    ∧ c.sub = u.sub ∧ c.id = w.warpId c.g ∧ c.wait = u.wait ∧ c.yielded = u.yielded
    ∧ c.prio = min 63 ((match s.launchOf c.g with
        | some (_, l) => l.prio
        | none => 0) + u.wait / 64)

/-- The order of R23, with the place R200 gives a unit that has yielded: the overdue by their waits, then those that have not yielded, by effective priority; ties by the greater
wait, the lower WARPID and the lower SUBID. -/
def outranks (a b : Cand) : Prop :=
  let first := b.wait < a.wait ∨ (a.wait = b.wait ∧ (a.id < b.id ∨ (a.id = b.id ∧ a.sub < b.sub)))
  if 512 ≤ a.wait then b.wait < 512 ∨ first
  else b.wait < 512 ∧ (if a.yielded = b.yielded then b.prio < a.prio ∨ (a.prio = b.prio ∧ first) else b.yielded = true)

/-- Every warp slot and every SUBID of a warp is listed once. -/
def Named (s : State) : Prop :=
  (∀ g w, (g, w) ∈ s.warps → s.warp? g = some w) ∧ ∀ g w u, (g, w) ∈ s.warps → u ∈ w.units → unitOf w.units u.sub = some u

/-- STROKE_BOUNDARY, R17, R22, R23, R193, R200: where the slot is free and the clock runs, waits that are over end and arrivals are made, and then the ready unit that outranks every other begins its
stroke with its wait at 0 and its warp's stroke counter one higher, while the wait of every other ready unit rises by one; a unit that has yielded is passed over
at this boundary alone. -/
def strokeGrant : Prop :=
  ∀ (s : State) (core quad : Nat), quad < 4 → s.slotHeld (core * 4 + quad) = false → (s.die (dieOfCore core)).stall = none →
  let q := core * 4 + quad
  let s1 := (s.wakeQuad q).settleQuad q
  ((∀ c, ¬ IsCand s1 q c) → exec (.strokeBoundary core quad) s = .next s1)
  ∧ ∀ c, IsCand s1 q c → (∀ d, IsCand s1 q d → d ≠ c → outranks c d) → Named s1 →
      ∃ t u w w', exec (.strokeBoundary core quad) s = .next t ∧ SameRest s1 t ∧ t.groups = s1.groups ∧ t.focus = some (c.g, c.sub)
        ∧ s1.unit? c.g c.sub = some u ∧ s1.warp? c.g = some w ∧ t.warp? c.g = some w' ∧ w'.strokes = (w.strokes + 1) % 2 ^ 48
        ∧ (∃ ws, t.unit? c.g c.sub = some { u with st := .issuing, wait := 0, count := 0, spc := u.pc, sexec := u.exec, xsets := [], wview := ws, yielded := false })
        ∧ ∀ d, IsCand s1 q d → d ≠ c → t.unit? d.g d.sub = (s1.unit? d.g d.sub).map (fun v => { v with wait := v.wait + 1, yielded := false })

/-- R22: what a blocked unit's wait has come to at a stroke boundary: a barrier whose phase is over ends it as an acquire, a sleep ends once CLK has come to its end, an MWAIT once its batch is
complete; the unit is then ready, its wait 0. -/
def waitsThatEnd : Prop :=
  ∀ (s : State) (g : Nat) (w : Warp) (u : WUnit) (x : Wait), s.warp? g = some w → unitOf w.units u.sub = some u → u.st = .blocked x →
  let woken := s.setWarp g { w with units := modUnitOf w.units u.sub (fun v => { v with st := .ready, wait := 0 }) }
  (∀ b phase k, x = .bar b phase → s.group? w.wg = some k → s.wakeUnit g w u = if phase < (k.bars.getD b Barrier.empty).phase then woken.acquire (coreOf g) else s)
  ∧ (∀ e n key l, x = .gbar e n → s.launchOf g = some (key, l) → s.wakeUnit g w u = if n < l.gdone.getD e 0 then woken.acquire (coreOf g) else s)
  ∧ (∀ t, x = .sleep t → t < 2 ^ 63 → s.clk (dieOf g) < 2 ^ 63 → s.wakeUnit g w u = if t ≤ s.clk (dieOf g) then woken else s)
  ∧ (∀ n, x = .mwait n → s.wakeUnit g w u = if n < w.batchLo then woken else s)
  ∧ (∀ ns o, x = .alloc ns o → s.wakeUnit g w u = s) ∧ (∀ d i n, x = .watch d i n → s.wakeUnit g w u = s)

/-- LONG_LATENCY_RESULT, R24, R136: an outstanding result that is ready is written in its lanes, where its name is mapped, its flags go into FPSR, and it is outstanding no more; nothing else
changes. -/
def resultArrives : Prop :=
  ∀ (s : State) (g sub idx : Nat) (w : Warp) (u : WUnit) (k : Look), s.warp? g = some w → unitOf w.units sub = some u → w.parked = false →
  u.looks[idx]? = some k → k.ready = true → (∀ v ∈ w.units, ∀ y ∈ v.looks, y.id = k.id → y.wover = []) →
  (∀ p ∈ (s.core (coreOf g)).split, ∀ y ∈ p.2.looks, y.id = k.id → y.wover = []) →
  (∀ n v, k.dests = [(.v n, v)] → ∃ t w', exec (.longLatencyResult g sub idx) s = .next t ∧ t = { s with warps := t.warps, cores := t.cores } ∧ t.warp? g = some w'
      ∧ (∀ m l, l < 32 → (w'.vreg m).at l = if m = n ∧ w.mapped n = true ∧ inMask k.lanes l = true then v.at l else (w.vreg m).at l)
      ∧ w'.sregs = w.sregs ∧ w'.fpsr = w.fpsr ||| k.flags ∧ unitOf w'.units sub = some { u with looks := u.looks.filter (fun y => y.id ≠ k.id) })
  ∧ (∀ n v, k.dests = [(.s n, v)] → ∃ t w', exec (.longLatencyResult g sub idx) s = .next t ∧ t = { s with warps := t.warps, cores := t.cores } ∧ t.warp? g = some w'
      ∧ (∀ m, w'.sreg m = if m = n then v.at 0 else w.sreg m) ∧ w'.names = w.names ∧ w'.fpsr = w.fpsr ||| k.flags
      ∧ unitOf w'.units sub = some { u with looks := u.looks.filter (fun y => y.id ≠ k.id) })

/-- ALLOCATION_GRANT, R58, R65, R67: of the requests of a quadrant that can be granted, the oldest is granted whole: a refused unit's destinations are mapped and put on the new list, unless the warp would
then hold more than its maximum, and it is ready to reissue; a parked warp has every spilled register back from its slot, in the state it was spilled from. -/
def requestGranted : Prop :=
  ∀ (s : State) (core quad g : Nat) (sub : Option Nat) (age : Nat × Nat) (n : Nat) (w : Warp), quad < 4 →
  let q := core * 4 + quad
  (g, sub, age, n) ∈ s.requests q → s.grantable q age n = true →
  (∀ r ∈ s.requests q, r ≠ (g, sub, age, n) → olderThan age r.2.2.1 = true ∨ (olderThan r.2.2.1 age = true ∧ s.grantable q r.2.2.1 r.2.2.2 = false)) →
  s.warp? g = some w →
  (∀ k u ns o, sub = some k → unitOf w.units k = some u → u.st = .blocked (.alloc ns o) →
    ∃ t w', exec (.allocationGrant core quad) s = .next t ∧ t = { s with warps := t.warps } ∧ t.warp? g = some w'
      ∧ unitOf w'.units k = some { u with st := .ready, wait := 0 }
      ∧ (w.regsMax < w.held + (newNames w ns).length → w'.names = w.names ∧ w'.newList = w.newList)
      ∧ (w.held + (newNames w ns).length ≤ w.regsMax → (∀ m ∈ ns, w'.mapped m = true)
        ∧ ∀ m ∈ ns, w.mapped m = false → m ∈ w'.newList ∧ w'.vreg m = zeroLanes) ∧ (∀ m, w.mapped m = true ∨ m ∉ ns → w'.names.find? m = w.names.find? m))
  ∧ (sub = none → w.faulted = false →
    ∃ t w', exec (.allocationGrant core quad) s = .next t ∧ t = { s with warps := t.warps } ∧ t.warp? g = some w' ∧ w'.parked = false
      ∧ (∀ m e, w.names.find? m = some e → w'.names.find? m = some (match e.st with
          | .spilled k d => { st := if d then .deferred else .mapped, val := bytesLanes (s.peek (w.slotAddr k) 256) }
          | _ => e))
      ∧ w'.pending = w.pending.map (fun p => match p.slot with
          | some k => { p with val := bytesLanes (s.peek (w.slotAddr k) 256), slot := none }
          | none => p))

/-- REGISTER_SPILL, R66: where no unit of the quadrant is Ready or Issuing, a unit waits for registers, and every warp waits in one of the ways of R66, the youngest warp above its reserve, other than the
oldest that waits for registers and other than a Faulted one, is spilled down to its reserve, names from the highest down, and parked. -/
def victimSpilled : Prop :=
  ∀ (s : State) (core quad g : Nat) (w : Warp), quad < 4 →
  let q := core * 4 + quad
  let s1 := s.wakeQuad q
  s1.requests q ≠ [] → s1.slotHeld q = false → (∀ p ∈ s1.quadWarps q, p.2.spillOk = true) →
  (g, w) ∈ s1.quadWarps q → s1.warp? g = some w → w.faulted = false → w.regsMin < w.held → (∃ r ∈ s1.requests q, r.1 ≠ g ∧ r.2.2.1.1 < w.lseq) →
  (∀ p ∈ s1.quadWarps q, p ≠ (g, w) → p.2.lseq < w.lseq ∨ p.2.faulted = true ∨ p.2.held ≤ p.2.regsMin) → Named s1 → (w.names.map (·.1)).Nodup →
  ∃ t w', exec (.registerSpill core quad) s = .next t ∧ t.warp? g = some w' ∧ w'.held = w.regsMin ∧ w'.parked = true ∧ w'.wstat = w.wstat ||| wsParked
    ∧ w'.units = w.units ∧ w'.sregs = w.sregs ∧ (∀ n, w'.mapped n = w.mapped n) ∧ (∀ g', g' ≠ g → t.warp? g' = s1.warp? g')
    ∧ (∀ n m e f, w.names.find? n = some e → w.names.find? m = some f → n < m → e.held = true → f.held = true →
        (∃ k d, (w'.names.find? n).map (·.st) = some (.spilled k d)) → ∃ k d, (w'.names.find? m).map (·.st) = some (.spilled k d))

/-- STACK_LINE_FILL, R72: a line of the window arrives through the L2: a dword that the warp holds keeps its value and its mark, and every other is memory's, unmarked. -/
def stackLineArrives : Prop :=
  ∀ (s s1 : State) (g line pa addr : Nat) (pte : W64) (w : Warp), s.warp? g = some w → w.inWindow line = true →
  s.xlatCore (coreOf g) (s.rootOf g) (BitVec.ofNat 64 (line * 32)) .read = (s1, .ok pa pte addr) → s1.memReady pa = true →
  let y := (s1.touch addr false).l2Line (dieOf g) (pteScope pte) pa
  ∃ t w' l, exec (.stackLineFill g line) s = .next t ∧ t.mem = y.1.mem ∧ t.warp? g = some w' ∧ w'.stack.find? line = some l
    ∧ (∀ i, i < 4 → l.words.getD i none = match (w.stack.get SLine.empty line).words.getD i none with
        | some x => some x
        | none => some (BitVec.ofNat 64 (leNat ((y.2.drop (pa % 128 + 8 * i)).take 8)), false))
    ∧ (∀ j, j ≠ line → w'.stack.find? j = w.stack.find? j) ∧ w'.units = w.units ∧ w'.names = w.names

/-- STACK_LINE_WRITEBACK, R72, R73: a line outside the window leaves the cache: a clean one changes no memory; a dirty one's marked dwords are written to its page. -/
def stackLineLeaves : Prop :=
  ∀ (s : State) (g line : Nat) (w : Warp) (l : SLine), s.memOk = true → s.warp? g = some w → w.inWindow line = false → w.stack.find? line = some l →
  (∀ u ∈ w.units, u.st ≠ .issuing) →
  (l.isDirty = false → exec (.stackLineWriteback g line) s = .next (s.setWarp g { w with stack := w.stack.del line }))
  ∧ (∀ s1 pa pte addr, l.isDirty = true → s.xlatCore (coreOf g) (s.rootOf g) (BitVec.ofNat 64 (line * 32)) .write = (s1, .ok pa pte addr) → s1.memReady pa = true →
      (pteVS (s1.leaf addr) && pteCW (s1.leaf addr)) = false → s1.partials = [] → pa % 32 = 0 →
      ∃ t w', exec (.stackLineWriteback g line) s = .next t ∧ t.warp? g = some w' ∧ w'.stack.find? line = none ∧ w'.units = w.units
        ∧ (∀ i v, i < 4 → l.words.getD i none = some (v, true) → Store.item t.mem (pa + 8 * i) 8 = v.toNat)
        ∧ ∀ b, ¬ within b pa 32 → ¬ within b addr 8 → Store.get t.mem b = Store.get s1.mem b)

/-- STROKE_WATCHDOG and WATCHDOG_GRACE_EXPIRY, R44, R193: a warp above its limit at a stroke boundary raises WDOG at the unit that would issue next, once units at a reconvergence PC have arrived; a warp
whose handler then runs has budget × 64 strokes more, and at least 64, and halts when they are over. -/
def watchdogs : Prop :=
  ∀ (s : State) (g sub key : Nat) (w v : Warp) (l : Launch), s.warp? g = some w → s.launchOf g = some (key, l) →
  w.limit ≠ 0 → w.limit < w.strokes → (∀ u ∈ w.units, u.st ≠ .issuing) → w.faulted = false → w.parked = false → w.halted = false →
  let s1 := s.settleWarp g
  s1.nextUnit g = some sub → s1.warp? g = some v → v.handler = w.handler →
  let t := s1.takeTrap g sub (TrapInfo.unit 10 0 0)
  (w.grace = false → (∀ w1, t.warp? g = some w1 → w1.handler = false) → exec (.strokeWatchdog g) s = .next t)
  ∧ (w.grace = false → w.handler = false → t.launchOf g = some (key, l) → ∀ w1, t.warp? g = some w1 → w1.handler = true →
      exec (.strokeWatchdog g) s = .next (t.setWarp g { w1 with grace := true, limit := l.watchdog * 1024 + max 64 (l.watchdog * 64) }))
  ∧ (w.grace = true → w.handler = true → exec (.watchdogGraceExpiry g) s = .next t)

/-- WATCH_FIRE, SLEEP_EXPIRY, FMTCVT_EMULATION_RESUME, R124, R209, R211, R364, R387: an entry that has fired is free again, and the unit it names resumes after an acquire of S scope; an interrupt entry
raises its vector instead. A sleep ends when CLK is at its end. A unit that waits for Norem's conversion resumes with the destination written. -/
def waitersResume : Prop :=
  ∀ (s : State),
  (∀ (d idx : Nat) (e : Watch), (s.die d).watches.find? idx = some e → e.fired = true →
    let s' := s.setDie d { s.die d with watches := (s.die d).watches.del idx }
    (e.kind = 2 → exec (.watchFire d idx) s = .next (s'.raise (e.waiter % 64) (e.waiter / 64 % 2 ^ 16)))
    ∧ (∀ (die core slot sub : Nat) (w : Warp) (u : WUnit), e.kind = 0 → die < 4 → core < 48 → slot < 128 → sub < 8 →
        e.waiter = die + core * 4 + slot * 2 ^ 8 + sub * 2 ^ 15 →
        let g := (die * 48 + core) * 128 + slot
        s.warp? g = some w → unitOf w.units sub = some u →
        ∃ (t : State) (w' : Warp), exec (.watchFire d idx) s = .next (t.acquire (die * 48 + core)) ∧ t = { s' with warps := t.warps } ∧ t.warp? g = some w'
          ∧ unitOf w'.units sub = some { u with st := .ready, wait := 0, looks := readyLooks s' w u.looks }
          ∧ (∀ k, k ≠ sub → unitOf w'.units k = unitOf w.units k) ∧ w' = { w with units := w'.units }))
  ∧ (∀ (g sub t : Nat) (w : Warp) (u : WUnit), s.warp? g = some w → unitOf w.units sub = some u → u.st = .blocked (.sleep t) → t ≤ s.clk (dieOf g) → s.clk (dieOf g) < t + 2 ^ 63 →
      exec (.sleepExpiry g sub) s = .next (s.setWarp g { w with units := modUnitOf w.units sub (fun v => { v with st := .ready, wait := 0 }) }))
  ∧ (∀ (g sub : Nat) (w : Warp) (u : WUnit), s.warp? g = some w → unitOf w.units sub = some u → u.st = .blocked .emul →
      exec (.fmtcvtEmulationResume g sub) s = .next (s.setWarp g { w with
        units := modUnitOf w.units sub (fun v => { v with st := .ready, wait := 0, looks := readyLooks s w v.looks }) }))

/-- An element of a narrow format as Norem converts it (R141): its value before the scale, in BF16 by RNE, where an overflow gives BF16's greatest, and the scale applied to that. -/
def bf16Of (word x : Nat) : FVal :=
  let w := FWord.ofBits word
  match ({ w with scale := 0 } : FWord).decode (x % 2 ^ w.box) with
  | .fin neg m e =>
    match (ffmt 3).decode (roundVal 3 false .rne (.fin neg m e)).1 with
    | .fin n m' e' => .fin n m' (e' + w.scale)
    | _ => .fin neg 255 (120 + w.scale)
  | v => v

/-- FORMAT_EMULATION_DONE, R141, R279: Norem completes an MMA of a narrow format outside the hardware subset: each cell of its rows becomes the old cell plus the products of its operands, each converted to
BF16, summed exactly and rounded once to FP32. Every other cell, and memory, keeps its value. -/
def emulatedMultiply : Prop :=
  ∀ (s : State) (g : Nat) (w : Warp) (o : MOp) (k : Group), s.warp? g = some w → w.units ≠ [] → w.nextOp = some o → s.group? w.wg = some k → o.kind = .mma → o.joint ≤ 1 → o.fmt = 4 →
  o.cont = 4 ∨ o.cont = 8 → o.emul = true → o.spoilt = 0 → o.bSpoilt = false → o.aSrc = .regs → o.bSrc = .regs → o.col0 ≤ 48 →
  let kk := 512 / o.cont
  let md := Rnd.select o.sel o.fpcr
  let a := fun i n => bf16Of ((o.aw.at i).toNat % 2 ^ 32) (packedAt (fun q => (o.aRegs.getD q []).at i) o.cont n)
  let b := fun n j => bf16Of o.bw (packedAt (fun q => (o.bRegs.getD q []).at (n / (kk / 2) * 16 + j)) o.cont (n % (kk / 2)))
  let new := fun i j =>
    (roundVal 1 false md (sumVals md (fval 1 false ((s.cell k (o.row0 + i) (o.col0 + j)).setWidth 32).toNat :: (List.range kk).map (fun n => (a i n).mul (b n j))))).1
  ∃ t, exec (.formatEmulationDone g) s = .next t ∧ t.mem = s.mem
    ∧ (∀ i j, i < 32 → j < 16 → inMask o.rows i = true → t.cell k (o.row0 + i) (o.col0 + j) = BitVec.ofNat 64 (new i j))
    ∧ (∀ row col, col < 64 → ¬ (∃ i j, i < 32 ∧ j < 16 ∧ inMask o.rows i = true ∧ row = o.row0 + i ∧ col = o.col0 + j) → t.cell k row col = s.cell k row col)

/-- UNASSIGNED_OPCODE and INSTRUCTION_FETCH_FAULT, R148, R165, R174: a word with an unassigned opcode at the PC of the unit that issues next takes the illegal-instruction trap; a word that cannot be
fetched takes the memory fault, with its address, in a region that begins there if its last instruction ended one (R191). -/
def issueTraps : Prop :=
  ∀ (s s1 : State) (g sub : Nat) (u : WUnit), s.issuer = some (g, sub, u) → s1.focus = some (g, sub) → s1.unit? g sub = some u →
  (∀ ws, s.fetch g u.pc = (s1, .ok ws) → decode ws = .illegal 0 → exec .unassignedOpcode s = .next (s1.takeTrap g sub (TrapInfo.unit 0 0 0)))
  ∧ (∀ f, s.fetch g u.pc = (s1, .error f) → exec .instructionFetchFault s =
      .next ((if (u.enters && !u.entered) = true then s1.commitUnit g sub else s1).takeTrap g sub (TrapInfo.unit f.cls f.sub f.addr)))

end Sys2Proof.Claims

/-! ### Memory, versions, engines, links and rays -/

namespace Sys2Proof.Claims

open Sys2Proof.Machine

/-- The directory's answer to a read, a store, an eviction (R423): state, owner, sharers. -/
def readBy (d : Nat) (e : DirEnt) : DirEnt :=
  match e.st with
  | .i | .u => { st := .e, owner := d, sharers := [d] }
  | .e => if e.owner = d then e else { st := .s, owner := e.owner, sharers := addDie e.sharers d }
  | .m => if e.owner = d then e else { st := .o, owner := e.owner, sharers := addDie e.sharers d }
  | .s | .o => { e with sharers := addDie e.sharers d }

def evictedBy (d : Nat) (e : DirEnt) : DirEnt :=
  let rest := e.sharers.filter (fun x => x ≠ d)
  match e.st with
  | .i | .u => e
  | .e | .s => { e with st := if rest = [] then .i else e.st, sharers := rest }
  | .m | .o => if e.owner = d then { st := if rest = [] then .i else .s, owner := rest.headD 0, sharers := rest } else { e with sharers := rest }

/-- DIRECTORY_READ, DIRECTORY_WRITE, DIRECTORY_REDUCTION and DIRECTORY_EVICTION, R423, R116, R117: the state each leaves. A line in U is merged by a read and by a store; a reduction leaves U with a partial of the
die, and, where the line is watched, is made at the home instead. No other line's entry changes. -/
def directoryStates : Prop :=
  ∀ (s : State) (d a : Nat), s.memOk = true → d < 4 → a < 2 ^ 48 → inHole a = false →
  let e := s.dirEnt a
  let others := fun t : State => ∀ b, lineOf b ≠ lineOf a → t.dirEnt b = s.dirEnt b
  (∃ t, exec (.directoryRead d a) s = .next t ∧ t.dirEnt a = readBy d e ∧ others t ∧ t.mem = (if e.st = .u then s.mergeLine (lineOf a) else s).mem
      ∧ t.partials = if e.st = .u then s.partials.filter (fun p => lineOf p.pa ≠ lineOf a) else s.partials)
  ∧ (∃ t, exec (.directoryWrite d a) s = .next t ∧ t.dirEnt a = { st := .m, owner := d, sharers := [d] } ∧ others t
      ∧ t.mem = (if e.st = .u then s.mergeLine (lineOf a) else s).mem)
  ∧ (∃ t, exec (.directoryEviction d a) s = .next t ∧ t.dirEnt a = evictedBy d e ∧ others t ∧ t = { s with dir := t.dir })
  ∧ (∀ op ty v, op < 6 → ty < 12 → a % (atomWidth ty / 8) = 0 →
      let n := atomWidth ty / 8
      (s.watchedLine (lineOf a) = false → (∀ p ∈ s.partials, p.pa ≠ a) → ∃ t, exec (.directoryReduction d a op ty v) s = .next t ∧ others t
        ∧ t.mem = s.mem ∧ (t.dirEnt a).st = .u ∧ t.partials = s.partials ++ [{ die := d, pa := a, op := op, ty := ty, val := v }])
      ∧ (s.watchedLine (lineOf a) = true → e.st ≠ .u → ∃ t, exec (.directoryReduction d a op ty v) s = .next t
        ∧ (t.dirEnt a).st = .m ∧ (t.dirEnt a).owner = s.homeDie a ∧ t.partials = s.partials
        ∧ Store.item t.mem a n = atomNew op ty (Store.item s.mem a n) v.toNat ∧ ∀ b, ¬ within b a n → Store.get t.mem b = Store.get s.mem b))

/-- TLBINV_ALL, TLBINV_RANGE and TLB_INVALIDATE_COMPLETE, R400: the matching entries of every TLB and walk cache of the package are gone, GO reads 1, and reads 0 once no access holds a translation of the root;
PAGE_WALK_COMPLETE, R74, R398, R399: a walk that ends in an entry that is not malformed is held by the die's TLB, a whole run of a large page as one entry. None changes memory. -/
def translations : Prop :=
  ∀ (s : State) (d root : Nat), d < 4 → root < 2 ^ 32 →
  let kept := fun (p : Nat → Prop) (a b : List TlbEnt) => ∀ e, e ∈ b ↔ (e ∈ a ∧ ¬ (e.root = root ∧ ∃ q, p q ∧ e.covers q = true))
  let swept := fun (p : Nat → Prop) (t : State) => t.mem = s.mem ∧ (∀ c, kept p (s.core c).tlb (t.core c).tlb) ∧ (∀ x, kept p (s.die x).tlb (t.die x).tlb)
    ∧ (∀ x e, e ∈ (t.die x).walks ↔ (e ∈ (s.die x).walks ∧ e.1.1 ≠ root))
  (∃ t, exec (.tlbinvAll d root) s = .next t ∧ swept (fun _ => True) t ∧ t.dieReg d .tlbinv = BitVec.ofNat 64 (root + 2 ^ 32 + 2 ^ 33))
  ∧ (∃ t, exec (.tlbinvRange d root) s = .next t ∧ t.dieReg d .tlbinv = BitVec.ofNat 64 (root + 2 ^ 33)
      ∧ swept (fun p => ((s.dieReg d .tlbrange).setWidth 41).toNat ≤ p ∧ p < ((s.dieReg d .tlbrange).setWidth 41).toNat + ((s.dieReg d .tlbrange) >>> 41).toNat) t)
  ∧ ((s.dieReg d .tlbinv).getLsbD 33 = true → s.rootBusy ((s.dieReg d .tlbinv).setWidth 32).toNat = false →
      ∃ t, exec (.tlbInvalidateComplete d) s = .next t ∧ t = s.setDieReg d .tlbinv (t.dieReg d .tlbinv)
        ∧ ∀ i, i < 64 → (t.dieReg d .tlbinv).getLsbD i = ((s.dieReg d .tlbinv).getLsbD i && decide (i ≠ 33)))
  ∧ (∀ va pte addr, va < 2 ^ 57 → tlbFind (s.die d).tlb root (va / 65536) = none → s.walk d root va = .leaf pte addr →
      (pteLG pte = true → s.wholeRun pte addr = true) → s.pteBad pte = false → pteHole pte = false →
      ∃ t, exec (.pageWalkComplete d root va) s = .next t ∧ t = { s with dies := t.dies }
        ∧ tlbFind (t.die d).tlb root (va / 65536) = some { root := root, page := va / 65536, large := pteLG pte, pte := pte, addr := addr })

/-- PUBLISH_POINT and RETIRE_PAGE, R96, R97, R273: a page whose record is consistent gets image n, which shares the current frame, its current version becomes n + 1, and its CW bit is set; a page that holds
version n gives up that image, with the frame where no other image and not the page itself uses it. The command counts the page. -/
def versionsOfPages : Prop :=
  ∀ (s s1 : State) (id pa addr : Nat) (pte : W64) (c : EngCmd), s.memOk = true → s.engines.find? id = some c → c.status = none → s.mayStart id c = true →
  let n := (descW c.desc 223 192).toNat
  c.pages < (descW c.desc 191 128).toNat / 65536 →
  s.xlatDie c.die c.area.root (descW c.desc 127 64 + BitVec.ofNat 64 (c.pages * 65536)) .read true = (s1, .ok pa pte addr) →
  (s1.dieReg (s1.homeDie pa) .dready).getLsbD 22 = true → s1.partials = [] →
  let e := s1.leaf addr
  let a := s1.vrec e
  let v := s1.readVrec a
  let held := v.slots.take v.nimg
  pteVS e = true → s1.cows.find? addr = none → v.ok addr = true → addr + 8 ≤ a ∨ a + 64 ≤ addr → inHole addr = false → inHole a = false →
  let counted := fun t : State => t.engines.find? id = some { c with started := true, pages := c.pages + 1 }
  let outside := fun t : State => ∀ b, ¬ within b a 64 → ¬ within b addr 8 → Store.get t.mem b = Store.get s1.mem b
  (c.kind = 2 → v.nimg < 3 → v.cur ≤ n → n ≠ 2 ^ 32 - 1 →
    ∃ t, exec (.publishPoint id) s = .next t ∧ counted t ∧ outside t ∧ t.leaf addr = setFld e 6 6 1
      ∧ t.readVrec a = { v with slots := v.slots.set v.nimg (n, pteFrame e), nimg := v.nimg + 1, cur := n + 1 })
  ∧ (c.kind = 2 → n < v.cur ∨ n = 2 ^ 32 - 1 → exec (.publishPoint id) s = .next (s1.setEng id { c with started := true, pages := c.pages + 1, bad := c.bad + 1 }))
  ∧ (c.kind = 3 → (∀ p ∈ held, p.1 ≠ n) → exec (.retirePage id) s = .next (s1.setEng id { c with started := true, pages := c.pages + 1 }))
  ∧ (c.kind = 3 → ∀ k f, held[k]? = some (n, f) → (∀ j, j < k → (held[j]?).map (·.1) ≠ some n) →
      let rest := held.eraseIdx k
      let frees := f ≠ pteFrame e ∧ ∀ p ∈ rest, p.2 ≠ f
      s1.returnRoom (s1.homeDie (pteFrame e * 65536)) = true ∨ ¬ frees →
      ∃ t v', exec (.retirePage id) s = .next t ∧ counted t ∧ outside t ∧ t.readVrec a = v' ∧ v'.nimg + 1 = v.nimg ∧ v'.slots.take v'.nimg = rest ∧ v'.cur = v.cur
        ∧ v'.rtd = true ∧ v'.retv = (if v.rtd then max v.retv n else n)
        ∧ ((∀ p ∈ rest, p.2 ≠ pteFrame e) → (t.leaf addr).getLsbD 6 = false)
        ∧ (frees → (t.die (s1.homeDie (pteFrame e * 65536))).frees = (s1.die (s1.homeDie (pteFrame e * 65536))).frees ++ [f])
        ∧ (¬ frees → (t.die (s1.homeDie (pteFrame e * 65536))).frees = (s1.die (s1.homeDie (pteFrame e * 65536))).frees))

/-- FRAME_RETURN, COPY_ON_WRITE_END, ALLOCATION_RING_TIMEOUT, WHATAIL_WRITE and WHFHEAD_WRITE, R97 to R99: a freed frame enters the return ring where it has room; a copy that has its frame ends with every
byte of the page in it, the leaf entry naming it with CW clear, and every TLB without the old entry; a copy that finds the ring empty for 1 ms fails the writes that wait for it: a command whose write it is ends
with NOFRAME. -/
def framesMove : Prop :=
  ∀ (s : State), s.memOk = true →
  (∀ d f fs, (s.die d).frees = f :: fs → f < 2 ^ 32 → ringHeld (s.dieReg d .whfhead) (s.dieReg d .whftail) < ringSize (s.dieReg d .whfring) →
    let place := ringBase (s.dieReg d .whfring) + (s.dieReg d .whftail).toNat % ringSize (s.dieReg d .whfring) * 4
    inHole place = false → ∃ t, exec (.frameReturn d) s = .next t ∧ (t.die d).frees = fs ∧ Store.item t.mem place 4 = f
      ∧ t.dieReg d .whftail = BitVec.ofNat 64 (((s.dieReg d .whftail).toNat + 1) % 2 ^ 32) ∧ ∀ b, ¬ within b place 4 → Store.get t.mem b = Store.get s.mem b)
  ∧ (∀ idx c f, s.cows.find? idx = some c → c.pte = idx → c.frame = some f → f < 2 ^ 32 → f ≠ c.old → c.late = [] → s.partials = [] →
      (idx + 8 ≤ f * 65536 ∨ (f + 1) * 65536 ≤ idx) → (c.vrec + 64 ≤ f * 65536 ∨ (f + 1) * 65536 ≤ c.vrec) → (idx + 8 ≤ c.vrec ∨ c.vrec + 64 ≤ idx) →
      (s.readVrec c.vrec).rsv = false → inHole idx = false → inHole c.vrec = false →
      ∃ t, exec (.copyOnWriteEnd idx) s = .next t ∧ t.cows.find? idx = none
        ∧ (∀ b, b < 65536 → Store.get t.mem (f * 65536 + b) = Store.get s.mem (c.old * 65536 + b))
        ∧ t.leaf idx = setFld (setFld (s.leaf idx) 47 16 f) 6 6 0 ∧ t.readVrec c.vrec = { s.readVrec c.vrec with cpy := false }
        ∧ (∀ k, ∀ e ∈ (t.core k).tlb, e.addr ≠ idx) ∧ (∀ d, ∀ e ∈ (t.die d).tlb, e.addr ≠ idx)
        ∧ ∀ b, ¬ within b (f * 65536) 65536 → ¬ within b idx 8 → ¬ within b c.vrec 64 → Store.get t.mem b = Store.get s.mem b)
  ∧ (∀ idx c t0, s.cows.find? idx = some c → c.frame = none → c.empty = some t0 → c.timedOut = false → t0 + 1000000 ≤ s.rtime →
      (c.late = [] → exec (.allocationRingTimeout idx) s = .next { s with cows := s.cows.put idx { c with timedOut := true } })
      ∧ ∀ x id e, c.late = [x] → x.who = .engine id → s.engines.find? id = some e → exec (.allocationRingTimeout idx) s =
          .next (({ s with cows := s.cows.put idx { c with timedOut := true, late := [] } } : State).endEng id e stNOFRAME 0 0))
  ∧ (∀ d v, d < 4 → s.cows = [] → ∃ t, exec (.whatailWrite d v) s = .next t ∧ t.dieReg d .whatail = v.setWidth 64 ∧ t.mem = s.mem
      ∧ (t.die d).noremInts = (s.die d).noremInts.filter (fun x => x ≠ .allocRing ∧ x ≠ .rejected))
  ∧ (∀ d v, d < 4 → ∃ t, exec (.whfheadWrite d v) s = .next t ∧ t = { s with dies := t.dies } ∧ (t.die d).noremInts = (s.die d).noremInts.filter (fun y => y ≠ .returnRing)
      ∧ t.dieReg d .whfhead = v.setWidth 64)

/-- ENGINE_COMMAND_COMPLETE, R271: a command whose effects have ended with a status, and none of whose writes waits for a copy, writes STATUS where it failed, adds one to COUNT, and is over. A transfer of a
COPYIN, R103, R272: it reads the next bytes of a row, one element of the transfer, and each element of the tile that they complete is the element of memory in that row; no other changes. COPYOUT_READS_END,
R90: COPYOUT has the tile's elements, and the tile is Ready with one reader less. -/
def enginesEnd : Prop :=
  ∀ (s : State) (id : Nat) (c : EngCmd), s.memOk = true → s.engines.find? id = some c →
  (∀ s1 code sub det pa pte addr, c.status = some (code, sub, det) → c.dead = false → s.engLate id = false → c.tile = none → s.group? c.wg = none →
    s.xlatDie c.die c.area.root c.ctr .write true = (s1, .ok pa pte addr) → (pteVS (s1.leaf addr) && pteCW (s1.leaf addr)) = false → s1.partials = [] →
    (addr + 8 ≤ pa ∨ pa + 16 ≤ addr) → code < 2 ^ 8 → sub < 2 ^ 8 → c.kind < 2 ^ 16 →
    ∃ t, exec (.engineCommandComplete id) s = .next t ∧ t.engines = s1.engines.del id ∧ Store.item t.mem pa 8 = (Store.item s1.mem pa 8 + 1) % 2 ^ 64
      ∧ Store.item t.mem (pa + 8) 8 = (if code = 0 then Store.item s1.mem (pa + 8) 8 else code + sub * 2 ^ 8 + c.kind * 2 ^ 16 + det % 2 ^ 32 * 2 ^ 32)
      ∧ ∀ b, ¬ within b pa 16 → ¬ within b addr 8 → Store.get t.mem b = Store.get s1.mem b)
  ∧ (∀ core i h k s1 r o b, c.status = none → c.kind = 0 → s.mayStart id c = true → c.plan = [] → c.todo = [] → c.after = none → c.tile = some (core, i, h) →
      s.group? c.wg = some k → k.nbH = 0 → 1 ≤ h.cols → h.esz ≤ 4 → h.layout = 0 → spanOf h h.cols ≤ 8 * h.pitch → c.data.length = r * spanOf h h.cols + o →
      r < h.rows → o < spanOf h h.cols →
      let va := copyRow c h r + BitVec.ofNat 64 o
      let m := min (8 - va.toNat % 8) (spanOf h h.cols - o)
      s.readVa c.die c.area.root va true m = (s1, .ok b) →
      let ends := fun j : Nat => o * 8 < (j + 1) * (4 <<< h.esz) ∧ (j + 1) * (4 <<< h.esz) ≤ (o + m) * 8
      let t := s.engUnit id 0
      t.engines.find? id = some { c with started := true, data := c.data ++ b }
        ∧ (∀ j, j < h.cols → ends j → t.tileGet k h r j = rowElem h ((c.data ++ b).drop (r * spanOf h h.cols)) j)
        ∧ ∀ r' j, r' < h.rows → j < h.cols → r' ≠ r ∨ ¬ ends j → t.tileGet k h r' j = s1.tileGet k h r' j)
  ∧ (∀ core i h k, c.status = none → c.kind = 1 → c.readDone = false → c.data = [] → s.mayStart id c = true → c.tile = some (core, i, h) → s.group? c.wg = some k →
      exec (.copyoutReadsEnd id) s = .next (({ s with engines := s.engines.put id { c with
          started := true, readDone := true, data := (List.range h.rows).flatMap (fun r => tileRow s k h r) } }).modTile core i (fun t => { t with state := 2, readers := t.readers - 1 })))

/-- SEND_DELIVERY, R269: a block lands once no earlier block of its unit for that core is under way: each of its lanes' dwords is at its place of the scratchpad, and nothing else of it changes; then the counter,
where it has one, rises by one, or by 2^32 where no scratchpad of the launch holds the block. -/
def blocksLand : Prop :=
  ∀ (s : State) (idx : Nat) (b : SendBlk), s.memOk = true → s.sends.find? idx = some b →
  (∀ p ∈ s.sends, p.1 < idx → ¬ (p.2.src = b.src ∧ p.2.srcSub = b.srcSub ∧ p.2.core = b.core)) →
  (s.sendGroup b ≠ none → b.ctr = none → ∃ t, exec (.sendDelivery idx) s = .next t ∧ t = { s with sends := s.sends.del idx, cores := t.cores }
    ∧ (∀ l, l < 32 → inMask b.lanes l = true → Store.item (t.core b.core).scratch (b.off + 8 * l) 8 = (b.data.at l).toNat)
    ∧ (∀ o, (∀ l, l < 32 → inMask b.lanes l = true → ¬ within o (b.off + 8 * l) 8) → Store.get (t.core b.core).scratch o = Store.get (s.core b.core).scratch o)
    ∧ ∀ k, k ≠ b.core → t.core k = s.core k)
  ∧ (s.sendGroup b = none → b.ctr = none → exec (.sendDelivery idx) s = .next { s with sends := s.sends.del idx })
  ∧ (∀ s1 pa pte addr va, b.ctr = some va → s.sendGroup b = none → ({ s with sends := s.sends.del idx } : State).xlatDie b.die b.root va .write true = (s1, .ok pa pte addr) →
      (pteVS (s1.leaf addr) && pteCW (s1.leaf addr)) = false → s1.partials = [] → addr + 8 ≤ pa ∨ pa + 8 ≤ addr →
      ∃ t, exec (.sendDelivery idx) s = .next t ∧ t.sends = s.sends.del idx ∧ t.cores = s1.cores ∧ Store.item t.mem pa 8 = (Store.item s1.mem pa 8 + 2 ^ 32) % 2 ^ 64)

/-- RAY_MIGRATION and RAY_TRAVERSAL_END, R308: a ray that needs a treelet of another die moves to that die's pool, where it has room; at the end of its traversal the hit is kept with it where it is, and it is
ready; where its scene, or a treelet that it reads, cannot be read the ray is dropped and its launch completes with MEMFAULT. COVERAGE_UPDATE_4K, R40: the controller steps once the launch has passed 4,096 workgroups. -/
def raysTravel : Prop :=
  ∀ (s : State) (idx : Nat),
  (∀ r l, s.rays.find? idx = some r → s.launch? r.launch = some l → r.ready = false →
    (∀ die s1 y, r.die ≠ die → die < 4 → s.poolHeld r.launch die < l.poolCap die → s.unitScene r.die l.root (l.sceneAt r.scene) = (s1, .ok y) →
      (∃ i, i < recBits y.1 63 48 ∧ fieldN y.2 (16 * i + 8) 1 % 4 = die) →
      exec (.rayMigration idx die) s = .next { s1 with handles := s1.handles + 1, rays := s1.rays.put idx { r with die := die, order := s1.handles } })
    ∧ (∀ pick s1 s2 s3 y bs, s.unitScene r.die l.root (l.sceneAt r.scene) = (s1, .ok y) →
        s1.readTreelets r.die l.root y.2 (treeletsRead s1 (recBits y.1 63 48) (recBits y.1 207 192)) = (s3, none) →
        s3.readVa r.die l.root (scenePrim y.1) false (sceneCount y.1 * primBytes (sceneFmt y.1)) = (s2, .ok bs) →
        let hit := traverse r.input (sceneFmt y.1) (primWords (primBytes (sceneFmt y.1) / 4) (sceneCount y.1) bs) pick s2.freeVal
        let kept := { s2.tickFree with handles := s2.handles + 1, rays := s2.rays.put idx { r with order := s2.handles, ready := true, hit := some (hitWords hit), stamp := s2.clk r.die } }
        (kept.readyRays r.die r.launch r.rpc).length < 32 → exec (.rayTraversalEnd idx pick) s = .next kept)
    ∧ (∀ pick s1 e, s.unitScene r.die l.root (l.sceneAt r.scene) = (s1, .error e) → ∃ t l', exec (.rayTraversalEnd idx pick) s = .next t ∧ t.rays.find? idx = none
        ∧ t.launch? r.launch = some l' ∧ l'.status = if l.status = 0 then 1 else l.status)
    ∧ (∀ pick s1 s2 y e, s.unitScene r.die l.root (l.sceneAt r.scene) = (s1, .ok y) →
        s1.readTreelets r.die l.root y.2 (treeletsRead s1 (recBits y.1 63 48) (recBits y.1 207 192)) = (s2, some e) → ∃ t l', exec (.rayTraversalEnd idx pick) s = .next t
        ∧ t.rays.find? idx = none ∧ t.launch? r.launch = some l' ∧ l'.status = if l.status = 0 then 1 else l.status))
  ∧ (∀ key l, s.launch? key = some l → l.coverage = true → covUpd4k l.cov = true → 4096 ≤ l.covcnt → l.covcnt < 2 ^ 32 →
      ∃ t, exec (.coverageUpdate4k key) s = .next t ∧ t = (s.covStep l.qcb l.cov).setLaunch key { l with covcnt := l.covcnt - 4096 })

end Sys2Proof.Claims

/-! ### The front end, Norem and the interfaces -/

namespace Sys2Proof.Claims

open Sys2Proof.Machine

/-- An 8-byte, 4-byte or 1-byte word of memory. -/
def word8 (s : State) (a : Nat) : Nat := Store.item s.mem a 8
def word4 (s : State) (a : Nat) : Nat := Store.item s.mem a 4
def word1 (s : State) (a : Nat) : Nat := Store.item s.mem a 1

/-- A field of a 64-bit register. -/
def bitsOf (r : W64) (h l : Nat) : Nat := r.toNat / 2 ^ l % 2 ^ (h + 1 - l)

/-- Every byte of memory outside `n` bytes from `a` is as it was. -/
def memOutside (s t : State) (a n : Nat) : Prop := ∀ b, ¬ within b a n → Store.get t.mem b = Store.get s.mem b

/-- A shadow read of the slot that holds the QCB at `a` has been taken as R351 says: accepted where SHSEQ is even, and else to be repeated. -/
def shadowTaken (s t : State) (d k a : Nat) : Prop :=
  if word4 s (a + 64) % 2 = 0 then (t.slot d k).shadow = some (s.peek (a + 68) 60) ∧ (t.slot d k).retry = false ∧ (t.slot d k).wr.toNat = word4 s (a + 128)
  else (t.slot d k).shadow = (s.slot d k).shadow ∧ (t.slot d k).retry = true

/-- SLOTQ_VALID_LOAD, SLOTQ_UNLOAD, SLOTQ_HALT, SLOTQ_RELOAD and SHADOW_RETRY, R351, R359, R365: a load into an empty slot names the queue and its QCB, makes the slot Idle, takes RD and reads the shadow; an unload of an idle slot
writes RD back and empties it; a halt sets HALT, and a slot in Fetch goes Idle, one in Dispatch too, its launch keeping its cursor. Of a QCB in the hole
of the physical map it says nothing that is read or written there: those reads are free values (log 9). -/
def slotRegisters : Prop :=
  ∀ (s : State) (d k : Nat), s.memOk = true → d < 4 → k < 32 →
  let reg := fun t : State => t.dieReg d (.slotq k)
  let a := bitsOf (reg s) 55 16 * 256
  (∀ qid q0, let qcb := q0 / 256 % 2 ^ 40 * 256
    (s.slot d k).st = .unloaded → ∃ t, exec (.slotqValidLoad d k qid q0) s = .next t ∧ t = { s with dies := t.dies }
      ∧ reg t = BitVec.ofNat 64 (qid % 4096 + 2 ^ 12 + 2 ^ 14 + qcb / 256 * 2 ^ 16) ∧ (t.slot d k).st = .idle
      ∧ (inHole qcb = false → (t.slot d k).rd.toNat = word4 s (qcb + 132)
        ∧ (if word4 s (qcb + 64) % 2 = 0 then (t.slot d k).shadow = some (s.peek (qcb + 68) 60) ∧ (t.slot d k).retry = false ∧ (t.slot d k).wr.toNat = word4 s (qcb + 128)
           else (t.slot d k).shadow = none ∧ (t.slot d k).retry = true)))
  ∧ ((s.slot d k).st = .idle → ∃ t, exec (.slotqUnload d k) s = .next t ∧ t.slot d k = Reset.slot ∧ (reg t).getLsbD 12 = false ∧ (reg t).getLsbD 14 = true
      ∧ (inHole a = false → word4 t (a + 132) = (s.slot d k).rd.toNat) ∧ memOutside s t (a + 132) 4)
  ∧ ((s.slot d k).st ≠ .unloaded → ∃ t, exec (.slotqReload d k) s = .next t ∧ t = { s with dies := t.dies } ∧ (inHole a = false → shadowTaken s t d k a) ∧ (t.slot d k).st = (s.slot d k).st)
  ∧ ((s.slot d k).st ≠ .unloaded → (s.slot d k).retry = true → ∃ t, exec (.shadowRetry d k) s = .next t ∧ t = { s with dies := t.dies } ∧ (inHole a = false → shadowTaken s t d k a))
  ∧ ((s.slot d k).st = .idle ∨ (s.slot d k).st = .fetch → ∃ t, exec (.slotqHalt d k) s = .next t ∧ t = { s with dies := t.dies } ∧ (t.slot d k).st = .idle
      ∧ (reg t).getLsbD 13 = true)
  ∧ (∀ key l, (s.slot d k).st = .dispatch key → s.launch? key = some l → ∃ t l', exec (.slotqHalt d k) s = .next t ∧ (t.slot d k).st = .idle ∧ (reg t).getLsbD 13 = true
      ∧ t.launch? key = some l' ∧ l' = { l with cursor := true, refused := none, reserve := none })

/-- KICK, R353, R212: a kick of a queue of its own interface makes its slot read WR, or, where it has none, sets PEND and interrupts the lease holder; any other kick counts as dropped. -/
def kicksServed : Prop :=
  ∀ (s : State) (vif qid : Nat), s.memOk = true → vif < 64 →
  (∀ q d k, s.ownQueue vif qid = some q → s.slotOf q.qid = some (d, k) → s.feReady d = true → ∃ t, exec (.kick vif qid) s = .next t ∧ t = { s with dies := t.dies }
      ∧ (inHole (q.qcb + 128) = false → (t.slot d k).wr.toNat = word4 s (q.qcb + 128)) ∧ (t.slot d k).st = (s.slot d k).st)
  ∧ (∀ q, s.ownQueue vif qid = some q → s.slotOf q.qid = none → (s.dirEnt (q.qcb + 144)).st ≠ .u → ∃ t, exec (.kick vif qid) s = .next t
      ∧ (inHole (q.qcb + 144) = false → word4 t (q.qcb + 144) = word4 s (q.qcb + 144) ||| 1) ∧ memOutside s t (q.qcb + 144) 4
      ∧ ((s.pkgReg .lease).getLsbD 2 = true → (t.dieReg (bitsOf (s.pkgReg .lease) 1 0) .mbox).getLsbD 32 = true))
  ∧ (s.ownQueue vif qid = none → ∃ t, exec (.kick vif qid) s = .next t ∧ t = { s with pkg := t.pkg }
      ∧ bitsOf (t.pkgReg (.vifcnt vif)) 31 0 = min (bitsOf (s.pkgReg (.vifcnt vif)) 31 0 + 1) (2 ^ 32 - 1) ∧ bitsOf (t.pkgReg (.vifcnt vif)) 63 32 = bitsOf (s.pkgReg (.vifcnt vif)) 63 32)

/-- The record of a slot's RD has been captured: RD is one higher, in the slot and in its QCB. -/
def fetched (s : State) (d k : Nat) : State :=
  (s.modSlot d k (fun x => { x with rd := x.rd + 1, st := .fetch })).pokeN (s.slotQcb d k + 132) 4 (((s.slot d k).rd.toNat + 1) % 2 ^ 32)

/-- RECORD_FETCH, R352, R356, R359, R391: an idle slot with an accepted shadow and RD ≠ WR reads record RD of its ring; a launch that passes R356 and depends on nothing enters Dispatch with the first of its workgroups next. -/
def recordsFetched : Prop :=
  ∀ (s s1 s2 : State) (d k i : Nat) (sh b : List Byte) (l2 : Launch),
  let x := s.slot d k
  let qid := bitsOf (s.dieReg d (.slotq k)) 11 0
  let key := launchKey d i
  let l := newLaunch d k qid (s.slotQcb d k) sh (dwords b 32) i
  x.st = .idle → x.shadow = some sh → x.retry = false → x.kicked = false → s.slotHalted d k = false → s.feReady d = true → s.fatal = false → (s.die d).stall = none →
  s.cursorOf qid = none → x.rd ≠ x.wr → s.freeLidx d = some i → b.length = 256 →
  (fetched s d k).readVa d (shadowBits sh 239 208) (BitVec.ofNat 64 (shadowBits sh 127 64 + x.rd.toNat % 2 ^ shadowBits sh 132 128 * 256)) false 256 = (s1, .ok b) →
  (l.recordOk = false → exec (.recordFetch d k) s = .next ((s1.setLaunch key l).badRecord d k key))
  ∧ (l.recordOk = true → l.kind = 1 → (s1.setLaunch key l).checkLaunch d l = (s2, none) → exec (.recordFetch d k) s = .next (s2.badRecord d k key))
  ∧ (l.recordOk = true → l.kind = 1 → (s1.setLaunch key l).checkLaunch d l = (s2, some l2) → l.depAddr = 0 → s2.slotHalted d k = false →
      ∃ t l3, exec (.recordFetch d k) s = .next t ∧ (t.slot d k).st = .dispatch key ∧ (t.slot d k).rd = x.rd + 1 ∧ t.launch? key = some l3
        ∧ l3.record = dwords b 32 ∧ l3.nextWg = 0 ∧ l3.live = 0 ∧ l3.status = 0 ∧ l3.placing = true ∧ l3.waiting = false)

/-- DEPENDENCE_FIRE and DEPENDENCE_POLL, R359, R362: a launch whose word has passed enters Dispatch, and its watch entry is free again; its word is acquired (R124), so that no older line
stays in a cache. -/
def dependencesPass : Prop :=
  ∀ (s : State) (d k key : Nat) (l : Launch), (s.slot d k).st = .depend key → s.launch? key = some l → l.kind = 1 → s.slotHalted d k = false →
  (∀ wd wi e, s.dependWatch d k = some (wd, wi, e) → e.fired = true → ∃ t l', exec (.dependenceFire d k) s = .next t ∧ (t.slot d k).st = .dispatch key
      ∧ (t.die wd).watches.find? wi = none ∧ t.launch? key = some l' ∧ l' = { l with waiting := false, cursor := false } ∧ t.warps = s.warps
      ∧ (∀ c, (t.core c).l1 = []) ∧ ∀ x, (t.die x).sCopies = [])
  ∧ (s.dependWatch d k = none →
      (∀ s1, s.depTest d l = .pass s1 → s1.slotHalted d k = false → ∃ t l', exec (.dependencePoll d k) s = .next t ∧ (t.slot d k).st = .dispatch key ∧ t.launch? key = some l' ∧ l'.waiting = false
        ∧ (∀ c, (t.core c).l1 = []) ∧ ∀ x, (t.die x).sCopies = [])
      ∧ (∀ s1 pa, s.depTest d l = .no s1 pa → exec (.dependencePoll d k) s = .next s1)
      ∧ (∀ s1, s.depTest d l = .bad s1 → exec (.dependencePoll d k) s = .next (s1.badRecord d k key)))

/-- LAUNCH_COMPLETE and LAUNCH_TIMEOUT, R361, R363: a launch that is over writes its completion record, COUNT last, and STATUS where it failed; its queue's DONE rises by one and its entry is free. A launch over its time fails
with TIMEOUT, and its workgroups end. -/
def launchesEnd : Prop :=
  ∀ (s : State) (key : Nat) (l : Launch), s.memOk = true → s.launch? key = some l →
  (∀ s1 pa scope, s.launchOver key l = true → l.silent = false → l.chain = false → l.irq = false → l.doneRec ≠ 0 → l.doneRec % 32 = 0 → s.fatal = false → s.slotOf l.qid = none →
    s.feOpen l.die l.root (BitVec.ofNat 64 l.doneRec) = (.ok s1, pa, scope) → s1.partials = [] → s1.memOk = true →
    (pa + 32 ≤ l.qcb + 136 ∨ l.qcb + 140 ≤ pa) → (pa + 32 ≤ s.ltabAddr key + 280 ∨ s.ltabAddr key + 281 ≤ pa) → (l.qcb + 140 ≤ s.ltabAddr key + 280 ∨ s.ltabAddr key + 281 ≤ l.qcb + 136) →
    (s1.dirEnt (l.qcb + 136)).st ≠ .u → l.affmiss < 2 ^ 64 → inHole (l.qcb + 136) = false →
    ∃ t, exec (.launchComplete key) s = .next t ∧ t.launch? key = none ∧ word8 t pa = (word8 s1 pa + 1) % 2 ^ 64
      ∧ word8 t (pa + 8) = (if l.status = 0 then word8 s1 (pa + 8) else l.status.toNat) ∧ word8 t (pa + 16) = l.affmiss ∧ word8 t (pa + 24) = 0
      ∧ word4 t (l.qcb + 136) = (word4 s1 (l.qcb + 136) + 1) % 2 ^ 32)
  ∧ (s.launchOver key l = true → l.silent = false → l.chain = false → l.irq = false → l.doneRec = 0 → s.slotOf l.qid = none → (s.dirEnt (l.qcb + 136)).st ≠ .u → inHole (l.qcb + 136) = false →
    (l.qcb + 140 ≤ s.ltabAddr key + 280 ∨ s.ltabAddr key + 281 ≤ l.qcb + 136) →
    ∃ t, exec (.launchComplete key) s = .next t ∧ t.launch? key = none ∧ word4 t (l.qcb + 136) = (word4 s (l.qcb + 136) + 1) % 2 ^ 32)
  ∧ (∀ t0, l.started = some t0 → l.timeout ≠ 0 → l.ending = false → t0 + l.timeout * 2 ^ 20 ≤ s.rtime → (∀ p ∈ s.groups, p.2.launch ≠ key) →
    ∃ t l', exec (.launchTimeout key) s = .next t ∧ t.launch? key = some l' ∧ l'.status = (if l.status = 0 then 10 else l.status) ∧ l'.ending = true ∧ l'.placing = false
      ∧ (∀ p ∈ t.rays, p.2.launch ≠ key))

/-- WORKGROUP_DISPATCH, R15, R360: the dispatcher of a die places the next workgroup of the launch it serves on the core that R15 picks: its warps with a lane start in the quadrants that follow the first, with the
registers and counters of R48, and the launch has one workgroup more that lives. -/
def workgroupsPlaced : Prop :=
  ∀ (s : State) (d pr turn q0 key c q : Nat) (pick : List Nat) (l : Launch), d < 4 → (s.dieReg d .dready).getLsbD 23 = true → s.fatal = false →
  s.served d = [(key, pr, turn)] → s.launch? key = some l → l.die = d →
  l.affinity = false → l.nbN = 0 → l.coverage = false → l.iterate = false → l.groups = [] → l.pooled = false → l.placed = [] → l.sent = none →
  let ps := s.plans l 0 l.nextWg
  let a := l.ask key ps
  a.count ≠ 0 → s.corePick d a q0 = some (c, q) →
  ∃ t l' grp, exec (.workgroupDispatch d q0 pick) s = .next t ∧ t.group? s.handles = some grp ∧ grp.core = c ∧ grp.lin = l.nextWg ∧ grp.launch = key ∧ (grp.x, grp.y, grp.z) = l.coords l.nextWg
    ∧ grp.warps.length = ps.length ∧ t.launch? key = some l' ∧ l'.nextWg = l.nextWg + 1 ∧ l'.live = l.live + 1
    ∧ (∀ (i : Nat) (p : Plan), ps[i]? = some p → p.exec ≠ 0 → ∃ (g : Nat) (w : Warp), grp.warps[i]? = some (some g) ∧ s.warp? g = none ∧ coreOf g = c ∧ quadOf g % 4 = (q + i) % 4 ∧ t.warp? g = some w
        ∧ w.wg = s.handles ∧ w.wgw = i ∧ w.names = [] ∧ w.sreg 0 = BitVec.ofNat 64 l.args ∧ w.stkptr = w.stktop ∧ w.stktop = w.stklim + BitVec.ofNat 64 (l.stkSize * 4096)
        ∧ w.stklim = BitVec.ofNat 64 (l.stkArea + g * l.stkSize * 4096) ∧ w.sreg 126 = w.stktop ∧ w.helpers = p.helpers
        ∧ ∃ u, w.units = [u] ∧ u.pc = BitVec.ofNat 64 l.entry ∧ u.exec = p.exec ∧ u.owned = p.exec ∧ u.st = .ready ∧ u.sub = 0)
    ∧ (∀ (i : Nat) (p : Plan), ps[i]? = some p → p.exec = 0 → grp.warps[i]? = some none) ∧ (∀ g w, s.warp? g = some w → t.warp? g = some w)

/-- AFFINITY_TIMEOUT, DISPATCH_RESERVATION and RELAUNCH_TIMEOUT, R35, R309, R360: a loose workgroup refused for 4,096 cycles goes once to a neighbouring die that has room, and the workgroups of a gang may then go there; a launch refused for 2^20 cycles gets a core reserved; the
ready records of one key start a warp, whose lanes take their live dwords from v2 on. -/
def lateStarts : Prop :=
  ∀ (s : State) (key : Nat) (l : Launch), s.launch? key = some l →
  (∀ h t0 d, l.sent = some h → l.refused = some t0 → l.affinity = true → l.strict = false → l.placing = true → t0 + 4096 ≤ s.clk h → l.moved = false → l.gangDue = false →
    let room := fun x => (s.placeUnit key l.nextWg x 0 []).isSome
    (d ∈ edgeDies h ∧ room d = true ∧ ∀ x ∈ edgeDies h, x < d → room x = false) →
    ∃ t, exec (.affinityTimeout key) s = .next t ∧ t.launch? key = some { l with sent := some d, moved := true, refused := none } ∧ t = { s with launches := t.launches })
  ∧ (∀ h t0, l.sent = some h → l.refused = some t0 → l.affinity = true → l.strict = false → l.placing = true → t0 + 4096 ≤ s.clk h → l.moved = false → l.gangDue = true →
    exec (.affinityTimeout key) s = .next (s.setLaunch key { l with moved := true }))
  ∧ (∀ t0 c, l.refused = some t0 → l.placing = true → l.reserve = none → let d := l.sent.getD l.die
    t0 + 2 ^ 20 ≤ s.clk d → d * 48 ≤ c → c < d * 48 + 48 → s.couldAdmit c key l = true →
    (∀ x, d * 48 ≤ x → x < c → s.couldAdmit x key l = false) →
    ∃ t, exec (.dispatchReservation key) s = .next t ∧ t.launch? key = some { l with reserve := some c } ∧ t = { s with launches := t.launches })
  ∧ (∀ d rpc slot c q, (s.dieReg d .dready).getLsbD 22 = true →
    let rs := (s.readyRays d key rpc).take 32
    rs ≠ [] → 32 ≤ (s.readyRays d key rpc).length ∨ (∀ p ∈ s.readyRays d key rpc, p.2.stamp + 256 ≤ s.clk d) →
    let a : Ask := { key := key, l := l, plans := [{ exec := BitVec.ofNat 32 (2 ^ rs.length - 1), helpers := 0, probes := 0 }], scratch := 0, tiles := 0, acc := 0,
                     regs := (s.rayRegs (rs.map (·.2))).length }
    s.corePick d a (slot / 32) = some (c, q) →
    ∃ t g w u, exec (.relaunchTimeout d key rpc slot) s = .next t ∧ s.warp? g = none ∧ coreOf g = c ∧ t.warp? g = some w ∧ w.relaunched = true ∧ w.units = [u]
      ∧ u.exec = BitVec.ofNat 32 (2 ^ rs.length - 1) ∧ (∀ p, rs.head? = some p → u.pc = p.2.resume l)
      ∧ (∀ p ∈ t.rays, ∀ y ∈ rs, p.1 ≠ y.1)
      ∧ ∀ i m p, rs[i]? = some p → m < p.2.live.length → (w.vreg (m + 2)).at i = p.2.live.getD m 0)

/-- NOREM_MAPPING_TICK and NOREM_MAPPING_PASS, R367: with one queue, which waits with PEND and may be mapped, the leader's tick or a pass that its mailbox asks for maps it onto the lowest free slot that its interface's share gives, of the lowest die;
PEND and AGE are then 0. A tick also renews the lease (R368), and each millisecond of RTIME has one. -/
def queuesMapped : Prop :=
  ∀ (s : State) (lead d k : Nat) (q : Queue), s.memOk = true → s.leader = some lead → s.queues = [q] → s.pendingQueue q = true → d < 4 → k < 32 → q.qid < 4096 → q.qcb % 256 = 0 → q.qcb < 2 ^ 48 → inHole q.qcb = false → s.cut = none →
  (∀ p ∈ s.dies, ∀ x ∈ p.2.slots, x.2.st = .unloaded) →
  let gives := fun x y => (s.dieReg x (.vifshare (s.qcbVif q))).getLsbD y
  gives d k = true → (∀ y, y < k → gives d y = false) → (∀ x y, x < d → y < 32 → gives x y = false) →
  let mapped := fun t : State => t.slotOf q.qid = some (d, k) ∧ t.qcbPend q = false ∧ t.qcbAge q = 0 ∧ t.qcbMapped q = true ∧ word4 t q.qcb = (word4 s q.qcb + 2) % 2 ^ 32
    ∧ (t.slot d k).st = .idle ∧ (t.dieReg d (.slotq k)).getLsbD 12 = true
  (s.tickDue = true → ∃ t, exec .noremMappingTick s = .next t ∧ mapped t ∧ t.ticked = s.ticked + 1 ∧ bitsOf (t.pkgReg .lease) 63 8 = s.rtime % 2 ^ 56)
  ∧ (s.tickDue = false → exec .noremMappingTick s = .next s)
  ∧ ((s.dieReg lead .mbox).getLsbD 32 = true → ∃ t, exec .noremMappingPass s = .next t ∧ mapped t ∧ (t.dieReg lead .mbox).getLsbD 32 = false)

/-- LEASE_CLAIM, LEADER_REPAIR, CONTROL_CORE_WATCHDOG and QUEUE_REGISTER, R350, R368 to R370: a claim is applied where the lease is free, the claimer's or stale, and sets HOLDER, HELD and STAMP; else it changes nothing. A new leader finishes
an update that was cut short, from the shadow. The watchdog restarts a control core as a follower and tells it so. -/
def leasesHeld : Prop :=
  ∀ (s : State) (d : Nat), s.memOk = true → d < 4 →
  let lease := s.pkgReg .lease
  let ok := lease.getLsbD 2 = false ∨ bitsOf lease 1 0 = d ∨ 5000000 < (s.rtime + 2 ^ 56 - bitsOf lease 63 8) % 2 ^ 56
  (ok → ∃ t, exec (.leaseClaim d) s = .next t ∧ t.pkgReg .lease = BitVec.ofNat 64 (d + 4 + s.rtime % 2 ^ 56 * 2 ^ 8) ∧ (t.die d).role ≠ .follower
      ∧ (∀ x, x < 4 → x ≠ d → (t.die x).role = .follower ∨ ∃ h, (s.die x).role = .hung h ∧ (t.die x).role = .hung h) ∧ t = { s with pkg := t.pkg, dies := t.dies })
  ∧ (¬ ok → exec (.leaseClaim d) s = .next s)
  ∧ (∀ q, lease.getLsbD 2 = true → bitsOf lease 1 0 = d → (s.die d).role = .taking → (s.dieReg d .dready).getLsbD 24 = true → s.queues = [q] → q.qcb % 256 = 0 → inHole q.qcb = false → (∀ p ∈ s.dies, ∀ x ∈ p.2.slots, x.2.st = .unloaded) →
      word4 s q.qcb % 2 = 1 → ∃ t, exec (.leaderRepair d) s = .next t ∧ (t.die d).role = .leader ∧ word4 t q.qcb = (word4 s q.qcb + 1) % 2 ^ 32
        ∧ word4 t (q.qcb + 64) = (word4 s q.qcb + 1) % 2 ^ 32 ∧ t.qcbMapped q = false
        ∧ (∀ b, b < 60 → b < 36 ∨ 38 ≤ b → Store.get t.mem (q.qcb + 4 + b) = Store.get s.mem (q.qcb + 68 + b))
        ∧ (∀ b, b < 60 → Store.get t.mem (q.qcb + 68 + b) = Store.get t.mem (q.qcb + 4 + b)))
  ∧ (∃ t, exec (.controlCoreWatchdog d) s = .next t ∧ (t.die d).role = .follower ∧ (t.dieReg d .mbox).getLsbD 33 = true ∧ t = { s with dies := t.dies })
  ∧ (∀ qid qcb, qid < 4096 → qcb % 256 = 0 → isHbm qcb = true ∨ isSystem qcb = true → Store.item s.mem (qcb + 18) 2 / 16 = qid → s.queue? qid = none →
      exec (.queueRegister qid qcb) s = .next { s with queues := s.queues ++ [{ qid := qid, qcb := qcb }] })

/-- INTERRUPT_WATCH_ARM and INTERRUPT_UNMASK_DELIVERY, R364, R375: a word that passes raises the vector at once, and else the lowest free entry of the word's home die is armed for it; with none free
it arms nothing and answers 1. A vector raised while masked writes its message once when its mask is
cleared: DATA at ADDR, PEND clear. -/
def interruptsDelivered : Prop :=
  ∀ (s : State) (vif entry : Nat), s.memOk = true → vif < 64 → s.vifState vif = 1 → entry < 2 ^ 16 →
  (∀ cmp w64 pa ref mask, let n := if w64 then 8 else 4
    let m : W64 := BitVec.ofNat 64 (mask.toNat % 2 ^ (8 * n))
    cmp < 7 → pa % n = 0 → isHbm pa = true ∨ isSystem pa = true → (s.dirEnt pa).st ≠ .u →
    let passed := watchPass cmp (8 * n) (Store.item s.mem pa n) m.toNat (ref &&& m).toNat
    (passed = true → exec (.interruptWatchArm vif entry cmp w64 pa ref mask) s = .next { s.raise vif entry with mailbox := .watch 0 })
    ∧ (∀ i, passed = false → i < 4096 → (s.die (s.homeDie pa)).watches.find? i = none → (∀ j, j < i → (s.die (s.homeDie pa)).watches.find? j ≠ none) →
        exec (.interruptWatchArm vif entry cmp w64 pa ref mask) s = .next { s.modDie (s.homeDie pa) (fun x => { x with watches := x.watches.put i { cmp := cmp, w64 := w64, kind := 2, pa := pa, mask := m, ref := ref &&& m, waiter := vif + entry * 64, fired := false } }) with
          mailbox := .watch 0 })
    ∧ (passed = false → (∀ i, i < 4096 → (s.die (s.homeDie pa)).watches.find? i ≠ none) →
        exec (.interruptWatchArm vif entry cmp w64 pa ref mask) s = .next { s with mailbox := .watch 1 }))
  ∧ (let e := bitsOf (s.pkgReg (.vifimt vif)) 47 12 * 4096 + 16 * entry
    entry < bitsOf (s.pkgReg (.vifimt vif)) 63 48 → s.entryReadable e = true → word4 s (e + 12) = 2 → isSystem (word8 s e) = true → (s.dirEnt (word8 s e)).st ≠ .u →
    word8 s e + 4 ≤ e ∨ e + 16 ≤ word8 s e →
    ∃ t, exec (.interruptUnmaskDelivery vif entry) s = .next t ∧ word4 t (word8 s e) = word4 s (e + 8) ∧ word4 t (e + 12) = 0
      ∧ ∀ b, ¬ within b (word8 s e) 4 → ¬ within b (e + 12) 4 → Store.get t.mem b = Store.get s.mem b)

/-- VIF_ACTIVATE, VIF_TEAR, TEARDOWN_PROGRESS and DIE_RESET_REQUEST, R373, R377, R379: a free interface becomes Active with its counters at 0; an active one Tearing, a teardown begun; a teardown takes its steps in order, the first once no slot
holds a queue of the interface, the workgroups' end before the commands', and after the last writes 1 to its completion address and frees the interface. A die is not reset alone: the mailbox answers PKG_ONLY. -/
def interfacesChange : Prop :=
  ∀ (s : State) (vif : Nat), s.memOk = true → vif < 64 →
  let stateOf := fun t : State => bitsOf (t.pkgReg (.vifcfg vif)) 1 0
  (stateOf s = 0 → ∃ t, exec (.vifActivate vif) s = .next t ∧ t = { s with pkg := t.pkg } ∧ stateOf t = 1 ∧ t.pkgReg (.vifcnt vif) = 0)
  ∧ (stateOf s ≠ 0 → exec (.vifActivate vif) s = .next s)
  ∧ (∀ addr, stateOf s = 1 → ∃ t, exec (.vifTear vif addr) s = .next t ∧ stateOf t = 2 ∧ t.teardowns = s.teardowns ++ [{ vif := vif, step := 0, addr := some addr }])
  ∧ (∀ addr, stateOf s ≠ 1 → exec (.vifTear vif addr) s = .next s)
  ∧ (∀ td, s.teardowns = [td] → td.vif = vif →
      (td.step = 0 → s.slotsGone vif = true → ∃ t, exec (.teardownProgress vif) s = .next t ∧ t = { s with teardowns := [{ td with step := 1 }] })
      ∧ (td.step = 0 → ∃ t, exec (.teardownProgress vif) s = .next t ∧ t.teardowns = [{ td with step := if t.slotsGone vif then 1 else 0 }])
      ∧ (td.step = 1 → ∃ t, exec (.teardownProgress vif) s = .next t ∧ t.teardowns = [{ td with step := 2 }] ∧ ∀ key l, s.launch? key = some l → l.vif = vif → s.groups = [] →
          ∃ l', t.launch? key = some l' ∧ l'.silent = true ∧ l'.ending = true)
      ∧ (td.step = 2 → (∀ p ∈ s.warps, ∀ x, s.launchOf p.1 = some x → x.2.vif ≠ vif) → ∃ t, exec (.teardownProgress vif) s = .next t ∧ t.teardowns = [{ td with step := 3 }]
          ∧ ∀ p ∈ t.engines, p.2.area.vif ≠ vif)
      ∧ (td.step = 3 → ∃ t, exec (.teardownProgress vif) s = .next t ∧ t.teardowns = [{ td with step := 4 }] ∧ ∀ p ∈ t.dies, ∀ e ∈ p.2.watches, ¬ (e.2.kind = 2 ∧ e.2.waiter % 64 = vif))
      ∧ (∀ a, 4 ≤ td.step → td.addr = some a → (s.dirEnt a).st ≠ .u → inHole a = false →
          ∃ t, exec (.teardownProgress vif) s = .next t ∧ t.teardowns = [] ∧ stateOf t = 0 ∧ word8 t a = 1 ∧ memOutside s t a 8)
      ∧ (4 ≤ td.step → td.addr = none → ∃ t, exec (.teardownProgress vif) s = .next t ∧ t = { s with pkg := t.pkg, teardowns := [] } ∧ stateOf t = 0))
  ∧ ∀ d, exec (.dieResetRequest d) s = .next { s with mailbox := .pkgOnly }

end Sys2Proof.Claims

/-! ### Pre-emption, the debugger, the trace and the clocks -/

namespace Sys2Proof.Claims

open Sys2Proof.Machine

/-- `p` is the largest stroke counter among the warps of these workgroups (R392); 0 where there is none. -/
def IsTop (s : State) (ks : List Group) (p : Nat) : Prop :=
  (∀ k ∈ ks, ∀ g w, some g ∈ k.warps → s.warp? g = some w → w.strokes ≤ p) ∧ (p = 0 ∨ ∃ k ∈ ks, ∃ g w, some g ∈ k.warps ∧ s.warp? g = some w ∧ w.strokes = p)

/-- PREQ_GO and DRAIN_OVERRUN, R392, R393: each resident workgroup of the queue gets its mode, from the largest stroke counter of its warps or of its neighbourhood's, and GO reads 1 while one is there; a draining workgroup whose
counter has grown by more than 2 × B stops, and a neighbourhood drains on. -/
def preemptionStarts : Prop :=
  (∀ (s : State) (d : Nat) (val : W64), d < 4 → val.getLsbD 12 = true →
    let chosen := fun k : Group => k.core / 48 = d ∧ k.pre = .running ∧ k.ending = false ∧ ∃ l, s.launch? k.launch = some l ∧ l.qid = bitsOf val 11 0
    let e := bitsOf val 37 14 * 64
    let b := bitsOf val 61 38 * 64
    ∃ t, exec (.preqGo d val) s = .next t ∧ t = { s with dies := t.dies, groups := t.groups }
      ∧ bitsOf (t.dieReg d .preq) 11 0 = bitsOf val 11 0 ∧ bitsOf (t.dieReg d .preq) 61 13 = bitsOf val 61 13
      ∧ ((t.dieReg d .preq).getLsbD 12 = true ↔ ∃ x ∈ t.groups, x.2.core / 48 = d ∧ x.2.pre ≠ .running ∧ ∃ l, s.launch? x.2.launch = some l ∧ l.qid = bitsOf val 11 0)
      ∧ (∀ wg k, s.group? wg = some k → ¬ chosen k → t.group? wg = some k)
      ∧ ∀ wg k ks p, s.group? wg = some k → chosen k → IsTop s ks p →
          (if k.nbH = 0 then ks = [k]
           else ∀ x : Group, x ∈ ks ↔ (∃ i, (i, x) ∈ s.groups) ∧ x.launch = k.launch ∧ x.nbH ≠ 0 ∧ x.nbK = k.nbK ∧ x.relaunched = false) →
          t.group? wg = some { k with pre := if val.getLsbD 13 = true ∧ 4 * p < e then .flushing else if e - p ≤ b ∨ k.nbH ≠ 0 then .draining p b else .stopping })
  ∧ ∀ (s : State) (wg : Nat) (k : Group) (p b top : Nat), s.group? wg = some k → k.pre = .draining p b → IsTop s [k] top →
      exec (.drainOverrun wg) s = .next (if k.nbH = 0 ∧ p + 2 * b < top then s.setGroup wg { k with pre := .stopping } else s)

/-- Every warp of a workgroup is at a stroke boundary, and no engine command works on its tiles (R393). -/
def AtRest (s : State) (wg : Nat) (k : Group) : Prop :=
  (∀ g w, some g ∈ k.warps → s.warp? g = some w → ∀ u ∈ w.units, u.st ≠ .issuing) ∧ ∀ e ∈ s.engines, e.2.wg = wg → e.2.tile = none

/-- A leave-ring entry at ring count `n` (R390). -/
def leftAt (t : State) (d n block wglin lidx kind : Nat) : Prop :=
  let r := t.dieReg d .ctxsring
  let a := bitsOf r 47 12 * 4096 + n % 2 ^ bitsOf r 4 0 * 16
  word8 t a = block % 2 ^ 64 ∧ word4 t (a + 8) = wglin % 2 ^ 32 ∧ Store.item t.mem (a + 12) 2 = lidx ∧ word1 t (a + 14) = kind

/-- The leave ring of a die has room for `n` more entries, its bounds are legal, and no entry of it lies in the hole. -/
def LeaveRoom (s : State) (d n : Nat) : Prop :=
  (s.die d).leaving = [] ∧ (∀ i, i < 2 ^ bitsOf (s.dieReg d .ctxsring) 4 0 → inHole (bitsOf (s.dieReg d .ctxsring) 47 12 * 4096 + i * 16) = false) ∧ (s.dieReg d .ctxstail).toNat < 2 ^ 32 ∧ (s.dieReg d .ctxshead).toNat ≤ (s.dieReg d .ctxstail).toNat
    ∧ (s.dieReg d .ctxstail).toNat + n < 2 ^ 32 ∧ (s.dieReg d .ctxstail).toNat + n - (s.dieReg d .ctxshead).toNat ≤ 2 ^ bitsOf (s.dieReg d .ctxsring) 4 0

/-- REPRIME_FLUSH_DONE and WORKGROUP_SAVE, R393, R395 to R397: a flushed workgroup at rest leaves with a leave-ring entry of KIND 2, and stays counted in LIVE; a stopping one, its results and matrix operations over, leaves with an
image, whose unit records, scalars and predicates hold each warp's, its FPSR with the flags of the open batch (R297), and an entry of KIND 1. Where a used stack does not fit its image, the workgroup drains on instead. -/
def workgroupsLeave : Prop :=
  ∀ (s : State) (wg d : Nat) (k : Group) (l : Launch), s.memOk = true → s.group? wg = some k → d = k.core / 48 → d < 4 → AtRest s wg k → s.launch? k.launch = some l → LeaveRoom s d 33 → k.warps.length ≤ 32 →
  let n := (s.dieReg d .ctxstail).toNat
  let gone := fun t : State => t.group? wg = none ∧ (∀ g, some g ∈ k.warps → t.warp? g = none) ∧ (∀ g, some g ∉ k.warps → t.warp? g = s.warp? g)
    ∧ ∃ l' x, t.launch? k.launch = some l' ∧ l' = { l with away := l.away ++ [x] } ∧ x.group.lin = k.lin ∧ x.group.core = k.core
  (k.pre = .flushing → ∃ t, exec (.reprimeFlushDone wg) s = .next t ∧ gone t ∧ ∃ i, (t.dieReg d .ctxstail).toNat = n + i + 1 ∧ i ≤ 32 ∧ leftAt t d (n + i) 0 k.lin (k.launch % 1024) 2)
  ∧ (k.pre = .stopping → k.ending = false → (∀ g, some g ∈ k.warps → ∃ w, s.warp? g = some w) → (k.warps.filterMap id).Nodup → (∃ g, some g ∈ k.warps) →
      (∀ g w, some g ∈ k.warps → s.warp? g = some w → w.stack = [] ∧ w.regsMax + w.nsaved ≤ 3072 ∧ (s.splits g).length ≤ 8 ∧ (∀ p ∈ s.splits g, p.2.looks = []) ∧ (w.block + 2 ^ 21 ≤ 2 ^ 40 ∨ 2 ^ 47 ≤ w.block) ∧ w.preds.length = 8 ∧ w.sregs.all (fun p => p.1 < 128) = true ∧ (∀ o ∈ w.mops, o.done = true)
        ∧ (∀ u ∈ w.units, u.looks = [] ∧ u.st ≠ .blocked .emul ∧ unitOf w.units u.sub = some u ∧ u.sub < 8)
        ∧ (∀ g' w', some g' ∈ k.warps → g' ≠ g → s.warp? g' = some w' → w.block + 2 ^ 21 ≤ w'.block ∨ w'.block + 2 ^ 21 ≤ w.block)
        ∧ (let a := bitsOf (s.dieReg d .ctxsring) 47 12 * 4096
           w.block + 2 ^ 21 ≤ a ∨ a + 2 ^ bitsOf (s.dieReg d .ctxsring) 4 0 * 16 ≤ w.block)) → k.scrSize ≤ 786432 → k.accRows ≤ 512 → k.tiles ≤ 256 →
      let ended := fun w : Warp => (w.mops.filter (fun o => o.batch.isNone)).foldl (fun m o => m ||| o.flags) w.fpsr
      let s1 := (k.warps.filterMap id).foldl State.writeResults s
      let fits := ∀ g w, some g ∈ k.warps → s.warp? g = some w → w.stackUsed ≤ 131072 ∧ ((s1.writeImage k).usedStack g w).isSome = true
      (¬ fits → ∃ t p b, exec (.workgroupSave wg) s = .next t ∧ t.group? wg = some { k with pre := .draining p b } ∧ IsTop s [k] p ∧ b = bitsOf (s.dieReg d .preq) 61 38 * 64)
      ∧ (fits → ∃ t g0 w0, exec (.workgroupSave wg) s = .next t ∧ gone t ∧ k.warps.find? (fun x => x.isSome) = some (some g0) ∧ s.warp? g0 = some w0 ∧ (t.dieReg d .ctxstail).toNat = n + 1
          ∧ leftAt t d n w0.block k.lin (k.launch % 1024) 1
          ∧ ∀ g w, some g ∈ k.warps → s.warp? g = some w →
              word4 t w.block = w.lseq % 2 ^ 32 ∧ word8 t (w.block + 8) = w.strokes % 2 ^ 64 ∧ word4 t (w.block + 32) = w.fpcr.toNat ∧ word4 t (w.block + 36) = (ended w).toNat
              ∧ word8 t (w.block + 48) = w.stkptr.toNat ∧ word8 t (w.block + 56) = w.traph.toNat ∧ word8 t (w.block + 64) = w.trappc.toNat
              ∧ (∀ i, i < 128 → word8 t (w.block + 0x400 + 8 * i) = (w.sreg i).toNat)
              ∧ (∀ p lane, p < 8 → lane < 32 → (word1 t (w.block + 0x800 + lane) / 2 ^ p % 2 = 1 ↔ inMask (w.pred p) lane = true))
              ∧ ∀ u ∈ w.units, let a := w.block + 0x100 + 64 * u.sub
                  word8 t a = u.savedPc.toNat ∧ word8 t (a + 8) = u.rpc.toNat ∧ word4 t (a + 16) = u.exec.toNat ∧ word4 t (a + 20) = u.owned.toNat ∧ word1 t (a + 24) = u.sub))

/-- CTXREST_SAVED and CTXREST_REPRIME, R394, R43, R67: a saved workgroup returns to its core and the slots it left, its warps parked and as the image in their blocks gives them; a re-primed one is dispatched afresh on its die, its stroke
counters at 0, in the quadrant that a free value says, and a relaunched warp as it first started (log 21). Until the core can take it, it stays away, asked for. -/
def workgroupsReturn : Prop :=
  ∀ (s : State) (d wglin lidx key : Nat) (l : Launch) (x : Away), d < 4 → s.launch? key = some l →
  (∀ block p0, s.findAway d wglin lidx (fun y => y.saved && (y.warps.head?).any (fun p => p.2.block = block)) = some (key, l, x) → x.warps.head? = some p0 → p0.2.block = block → (x.warps.map (·.1)).Nodup → (∀ p ∈ x.warps, p.2.block + 2 ^ 21 ≤ 2 ^ 40 ∨ 2 ^ 47 ≤ p.2.block) →
    (s.takesBack key l x = false → ∃ t l', exec (.ctxrestSaved d block wglin lidx) s = .next t ∧ t = { s with launches := t.launches } ∧ t.launch? key = some l'
      ∧ l' = { l with away := l.away.map (fun y => if y = x then { y with wanted := true } else y) })
    ∧ (s.takesBack key l x = true → ∃ t l' k, exec (.ctxrestSaved d block wglin lidx) s = .next t ∧ t.launch? key = some l' ∧ l'.away = l.away.filter (fun y => y ≠ x) ∧ l'.live = l.live
        ∧ t.group? s.handles = some k ∧ k.core = x.group.core ∧ k.lin = x.group.lin ∧ k.pre = .running ∧ k.warps = x.group.warps
        ∧ (∀ i, i < 16 → k.wregs.getD i 0 = BitVec.ofNat 64 (word8 s (block + 0xE4000 + 256 + 8 * i)))
        ∧ (∀ g w, (g, w) ∉ x.warps → (∀ w', (g, w') ∉ x.warps) → t.warp? g = s.warp? g)
        ∧ ∀ g w, (g, w) ∈ x.warps → ∃ w', t.warp? g = some w' ∧ w'.parked = true ∧ w'.wg = s.handles ∧ w'.lseq = word4 s w.block ∧ w'.strokes = word8 s (w.block + 8) ∧ w'.fpcr.toNat = word4 s (w.block + 32) % 8
            ∧ w'.stkptr.toNat = word8 s (w.block + 48) ∧ (∀ i, i < 128 → (w'.sreg i).toNat = word8 s (w.block + 0x400 + 8 * i))
            ∧ (∀ p lane, p < 8 → lane < 32 → (inMask (w'.pred p) lane = true ↔ word1 s (w.block + 0x800 + lane) / 2 ^ p % 2 = 1))
            ∧ ∀ u, unitOf w.units u.sub = some u → ∃ u', unitOf w'.units u.sub = some u' ∧ u'.pc.toNat = word8 s (w.block + 0x100 + 64 * u.sub) ∧ u'.exec.toNat = word4 s (w.block + 0x100 + 64 * u.sub + 16) ∧ u'.wait = 0))
  ∧ (s.findAway d wglin lidx (fun y => !y.saved) = some (key, l, x) → x.group.nbH = 0 → x.group.seed = none →
      let q0 := (s.freeVal 0).toNat % 4
      let ps := s.plans l x.group.level x.group.lin
      let y : Away := { x with wanted := true }
      let asked := l.away.map (fun z => if z = x then y else z)
      (s.corePick (x.group.core / 48) (l.ask key ps) q0 = none → ∃ t, exec (.ctxrestReprime d wglin lidx) s = .next t ∧ t = { s with launches := t.launches } ∧ t.launch? key = some { l with away := asked })
      ∧ (∀ c q, s.corePick (x.group.core / 48) (l.ask key ps) q0 = some (c, q) → ∃ t l' k, exec (.ctxrestReprime d wglin lidx) s = .next t ∧ t.launch? key = some l' ∧ l'.away = asked.filter (fun z => z ≠ y) ∧ l'.live = l.live
          ∧ t.group? s.handles = some k ∧ k.core = c ∧ k.lin = x.group.lin ∧ k.level = x.group.level
          ∧ (∀ (i : Nat) (p : Plan), ps[i]? = some p → p.exec ≠ 0 → ∃ g w u, k.warps[i]? = some (some g) ∧ s.warp? g = none ∧ t.warp? g = some w ∧ w.strokes = 0 ∧ w.wgw = i ∧ w.units = [u] ∧ u.pc = BitVec.ofNat 64 l.entry ∧ u.exec = p.exec)
          ∧ ∀ g w, s.warp? g = some w → t.warp? g = some w))
  ∧ (∀ z, s.findAway d wglin lidx (fun y => !y.saved) = some (key, l, x) → x.group.nbH = 0 → x.group.seed = some z → z.exec ≠ 0 →
      let y : Away := { x with wanted := true }
      let asked := l.away.map (fun v => if v = x then y else v)
      let a : Ask := { key := key, l := l, plans := [{ exec := z.exec, helpers := 0, probes := 0 }], scratch := 0, tiles := 0, acc := 0, regs := z.regs.length }
      ∀ c q, s.corePick (x.group.core / 48) a ((s.freeVal 0).toNat % 4) = some (c, q) →
        ∃ t l' g w u, exec (.ctxrestReprime d wglin lidx) s = .next t ∧ t.launch? key = some l' ∧ l'.away = asked.filter (fun v => v ≠ y) ∧ l'.live = l.live ∧ s.warp? g = none ∧ coreOf g = c
          ∧ t.warp? g = some w ∧ w.relaunched = true ∧ w.strokes = 0 ∧ w.units = [u] ∧ u.pc = z.pc ∧ u.exec = z.exec)

/-- CTXATAIL_WRITE and CTXSHEAD_WRITE, R390, R393: Norem's counts of the supply ring and of the leave ring; entries that waited for room enter the ring in order. -/
def blockRings : Prop :=
  ∀ (s : State) (d : Nat) (val : W32), s.memOk = true → d < 4 →
  (∃ t, exec (.ctxatailWrite d val) s = .next t ∧ t = { s with dies := t.dies } ∧ (t.dieReg d .ctxatail).toNat = val.toNat ∧ ∀ r, r ≠ .ctxatail → t.dieReg d r = s.dieReg d r)
  ∧ ((s.die d).leaving = [] → ∃ t, exec (.ctxsheadWrite d val) s = .next t ∧ t = { s with dies := t.dies } ∧ (t.dieReg d .ctxshead).toNat = val.toNat ∧ (∀ r, r ≠ .ctxshead → t.dieReg d r = s.dieReg d r)
      ∧ NoremInt.leaveRing ∉ (t.die d).noremInts)
  ∧ (∀ block wglin lidx kind, (s.die d).leaving = [leaveEntry block wglin lidx kind] → wglin < 2 ^ 32 → lidx < 1024 → kind < 4 →
      val.toNat ≤ (s.dieReg d .ctxstail).toNat → (s.dieReg d .ctxstail).toNat + 1 < 2 ^ 32 → (s.dieReg d .ctxstail).toNat < val.toNat + 2 ^ bitsOf (s.dieReg d .ctxsring) 4 0 →
      inHole (bitsOf (s.dieReg d .ctxsring) 47 12 * 4096 + (s.dieReg d .ctxstail).toNat % 2 ^ bitsOf (s.dieReg d .ctxsring) 4 0 * 16) = false →
      ∃ t, exec (.ctxsheadWrite d val) s = .next t ∧ (t.die d).leaving = [] ∧ (t.dieReg d .ctxshead).toNat = val.toNat ∧ (t.dieReg d .ctxstail).toNat = (s.dieReg d .ctxstail).toNat + 1
        ∧ leftAt t d (s.dieReg d .ctxstail).toNat block wglin lidx kind)

/-- WARPCTL as an action leaves it: its target, ACT 00, and MISS (R385). -/
def warpctlReads (t : State) (d lseq core slot : Nat) (miss : Bool) : Prop :=
  let r := t.dieReg d .warpctl
  bitsOf r 31 0 = lseq ∧ bitsOf r 37 32 = core ∧ bitsOf r 44 38 = slot ∧ bitsOf r 46 45 = 0 ∧ r.getLsbD 47 = miss ∧ bitsOf r 63 48 = 0

/-- WARPCTL_RESUME and WARPCTL_ABORT, R385, R386: a Faulted warp named by its die, core, slot and launch sequence replays the regions of its Faulted units and is Faulted no more, the waits of its ready units at 0; one that a restore has left parked does so
once its registers are back; an abort ends its units and gives its launch the status HALTED. An action that names no Faulted warp does nothing, and MISS reads 1. -/
def faultedWarpsEnd : Prop :=
  ∀ (s : State) (d lseq core slot : Nat), d < 4 → lseq < 2 ^ 32 → core < 48 → slot < 128 →
  let g := (d * 48 + core) * 128 + slot
  ((∀ w, s.warp? g = some w → w.faulted = true → w.lseq ≠ lseq) →
    (∃ t, exec (.warpctlResume d lseq core slot) s = .next t ∧ t = { s with dies := t.dies } ∧ warpctlReads t d lseq core slot true)
    ∧ ∃ t, exec (.warpctlAbort d lseq core slot) s = .next t ∧ t = { s with dies := t.dies } ∧ warpctlReads t d lseq core slot true)
  ∧ (∀ w, s.warp? g = some w → w.faulted = true → w.lseq = lseq → (∀ u ∈ w.units, unitOf w.units u.sub = some u) →
    (w.parked = true → ∃ t, exec (.warpctlResume d lseq core slot) s = .next t ∧ t = { s with dies := t.dies } ∧ warpctlReads t d lseq core slot false)
    ∧ (∀ v, w.parked = false → w.units.filter (fun u => u.st = .faulted) = [v] →
      ∃ t w' v', exec (.warpctlResume d lseq core slot) s = .next t ∧ t = { s with dies := t.dies, warps := t.warps } ∧ warpctlReads t d lseq core slot false ∧ t.warp? g = some w' ∧ w'.faulted = false
        ∧ (∀ g', g' ≠ g → t.warp? g' = s.warp? g') ∧ unitOf w'.units v.sub = some v' ∧ v'.pc = v.rpc ∧ v'.st = .ready ∧ v'.exec = v.exec
        ∧ w'.sregs = w.sregs ∧ ∀ u ∈ w.units, u.sub ≠ v.sub → unitOf w'.units u.sub = some (if u.st = .ready then { u with wait := 0 } else u))
    ∧ (∀ k l, s.group? w.wg = some k → s.launch? k.launch = some l → l.status = 0 →
        ∃ t l', exec (.warpctlAbort d lseq core slot) s = .next t ∧ warpctlReads t d lseq core slot false ∧ (∀ w', t.warp? g = some w' → w'.units = []) ∧ (t.launch? k.launch = some l' → l'.status = 9)))

/-- The warp a debug command acts on (R402); DBG is read in the shadow (R351). -/
def Selected (s : State) (d g : Nat) (w : Warp) : Prop :=
  let r := s.dieReg d .dbgsel
  bitsOf r 5 0 < 48 ∧ g = (d * 48 + bitsOf r 5 0) * 128 + bitsOf r 12 6 ∧ s.warp? g = some w ∧ w.lseq = bitsOf r 47 16 ∧ ∃ key l, s.launchOf g = some (key, l) ∧ s.peekN (l.qcb + 82) 1 / 8 % 2 = 1

/-- DBGCTL after a command (R402). -/
def dbgReads (s t : State) (d cmd go status : Nat) (stopped : Bool) : Prop :=
  let r := t.dieReg d .dbgctl
  bitsOf r 2 0 = cmd ∧ bitsOf r 3 3 = go ∧ (go = 0 → bitsOf r 7 4 = status ∧ r.getLsbD 8 = stopped ∧ bitsOf r 11 9 = bitsOf (s.dieReg d .dbgsel) 15 13 ∧ bitsOf r 15 12 = 0 ∧ bitsOf r 63 16 = 0)

/-- DEBUG_HALT, DEBUG_RESUME, DEBUG_STEP, DEBUG_STEP_ALL, R402, R403, R405, R406: a command that selects no warp of a debugged queue ends with MISS; a halt stops the warp, at once where no unit is in a stroke; a resume lets it run; a step
needs a stopped warp that is not Faulted, and a live unit; then it runs, GO reading 1. -/
def debugCommands : Prop :=
  ∀ (s : State) (d : Nat), d < 4 → (s.die d).dbg = none →
  ((∀ g w, ¬ Selected s d g w) → ∀ i cmd, (i, cmd) ∈ [(Instr.debugHalt d, 1), (.debugStep d, 2), (.debugStepAll d, 3), (.debugResume d, 4)] →
    ∃ t, exec i s = .next t ∧ t = { s with dies := t.dies } ∧ dbgReads s t d cmd 0 1 false)
  ∧ ∀ g w, Selected s d g w →
    (∃ t, exec (.debugResume d) s = .next t ∧ t = { s with dies := t.dies, warps := t.warps } ∧ t.warp? g = some { w with halted := false } ∧ SameWarps s t g ∧ dbgReads s t d 4 0 0 false)
    ∧ (∃ t, exec (.debugHalt d) s = .next t ∧ t = { s with dies := t.dies, warps := t.warps } ∧ t.warp? g = some { w with halted := true } ∧ SameWarps s t g
        ∧ ((∀ u ∈ w.units, u.st ≠ .issuing) → dbgReads s t d 1 0 0 true) ∧ ((∃ u ∈ w.units, u.st = .issuing) → dbgReads s t d 1 1 0 false))
    ∧ (let stopped := w.halted = true ∧ ∀ u ∈ w.units, u.st ≠ .issuing
       let k := bitsOf (s.dieReg d .dbgsel) 15 13
       (¬ (stopped ∧ w.faulted = false) → ∀ i cmd, (i, cmd) ∈ [(Instr.debugStep d, 2), (.debugStepAll d, 3)] →
          ∃ t, exec i s = .next t ∧ t = { s with dies := t.dies } ∧ (stopped → dbgReads s t d cmd 0 2 true) ∧ (¬ stopped → dbgReads s t d cmd 0 2 false))
       ∧ (stopped → w.faulted = false →
          ((∀ u, unitOf w.units k = some u → u.st = .fusing) → ∃ t, exec (.debugStep d) s = .next t ∧ t = { s with dies := t.dies } ∧ dbgReads s t d 2 0 3 true)
          ∧ (∀ u, unitOf w.units k = some u → u.st ≠ .fusing → ∃ t r, exec (.debugStep d) s = .next t ∧ t = { s with dies := t.dies } ∧ dbgReads s t d 2 1 0 true ∧ (t.die d).dbg = some r ∧ r.slot = g ∧ r.todo = [k] ∧ r.all = false)
          ∧ (∃ t r, exec (.debugStepAll d) s = .next t ∧ t = { s with dies := t.dies } ∧ dbgReads s t d 3 1 0 true ∧ (t.die d).dbg = some r ∧ r.slot = g ∧ r.all = true
              ∧ (∀ u, w.units = [u] → u.sub = 0 → u.entry = none → u.st ≠ .fusing → s.splits g = [] → r.todo = [0]))))

/-- DBGACC after an access (R407): FILE, INDEX, LANE as written, WR, GO 0, STATUS. -/
def accReads (t : State) (d : Nat) (val : W64) (wr status : Nat) : Prop :=
  let r := t.dieReg d .dbgacc
  bitsOf r 18 0 = bitsOf val 18 0 ∧ bitsOf r 19 19 = wr ∧ bitsOf r 20 20 = 0 ∧ bitsOf r 24 21 = status ∧ bitsOf r 63 25 = 0

/-- DEBUG_ACCESS_READ and DEBUG_ACCESS_WRITE, R407: the registers of a stopped or Faulted warp, by file, index and lane. An unmapped vector name reads 0, a spilled one from its slot; a write to an unmapped one takes a register or fails. -/
def debugAccess : Prop :=
  ∀ (s : State) (d : Nat) (val : W64), s.memOk = true → d < 4 →
  let file := bitsOf val 2 0
  let i := bitsOf val 13 3
  let lane := bitsOf val 18 14
  let data := s.dieReg d .dbgdata
  let usable := fun w : Warp => (w.halted = true ∧ ∀ u ∈ w.units, u.st ≠ .issuing) ∨ w.faulted = true
  ((∀ g w, Selected s d g w → ¬ usable w) →
    (∃ t, exec (.debugAccessRead d val) s = .next t ∧ t = { s with dies := t.dies } ∧ accReads t d val 0 1 ∧ t.dieReg d .dbgdata = data)
    ∧ ∃ t, exec (.debugAccessWrite d val) s = .next t ∧ t = { s with dies := t.dies } ∧ accReads t d val 1 1)
  ∧ ∀ g w, Selected s d g w → usable w → w.preds.length = 8 →
    let reads := fun v : W64 => ∃ t, exec (.debugAccessRead d val) s = .next t ∧ t = { s with dies := t.dies } ∧ accReads t d val 0 0 ∧ t.dieReg d .dbgdata = v
    let refusesRead := ∃ t, exec (.debugAccessRead d val) s = .next t ∧ t = { s with dies := t.dies } ∧ accReads t d val 0 2 ∧ t.dieReg d .dbgdata = data
    let refusesWrite := fun n : Nat => ∃ t, exec (.debugAccessWrite d val) s = .next t ∧ t = { s with dies := t.dies } ∧ accReads t d val 1 n
    (file = 0 → (w.names.find? i = none → reads 0) ∧ (∀ e, w.names.find? i = some e → e.held = true → reads (e.val.at lane))
      ∧ (∀ e k dirty, w.names.find? i = some e → e.st = .spilled k dirty → inHole (w.slotAddr k) = false → reads (BitVec.ofNat 64 (word8 s (w.slotAddr k + 8 * lane)))))
    ∧ (file = 1 → (i < 128 → reads (w.sreg i)) ∧ (128 ≤ i → refusesRead ∧ refusesWrite 2))
    ∧ (file = 2 → ∀ k, s.group? w.wg = some k → (i < 16 → reads (k.wregs.getD i 0)) ∧ (16 ≤ i → refusesRead ∧ refusesWrite 2))
    ∧ (file = 3 → (i < 8 → reads (if inMask (w.pred i) lane then 1 else 0)) ∧ (8 ≤ i → refusesRead ∧ refusesWrite 2))
    ∧ (file = 4 → (∀ q u l v, Special.ofCode i = some q → unitOf w.units (bitsOf (s.dieReg d .dbgsel) 15 13) = some u → lowLane u.exec = some l → specialVal s w u l q = some v → reads v) ∧ (Special.ofCode i = none → refusesRead ∧ refusesWrite 2))
    ∧ (file = 5 → (8 ≤ i → refusesRead) ∧ refusesWrite 2
        ∧ ∀ u, unitOf w.units (bitsOf (s.dieReg d .dbgsel) 15 13) = some u → (i = 0 → reads u.savedPc) ∧ (i = 1 → reads u.rpc) ∧ (i = 2 → reads (BitVec.ofNat 64 (u.exec.toNat + u.owned.toNat * 2 ^ 32))))
    ∧ (6 ≤ file → refusesRead ∧ refusesWrite 2)
    ∧ (file = 0 → ∀ e, w.names.find? i = some e → e.held = true → ∃ t w', exec (.debugAccessWrite d val) s = .next t ∧ t = { s with dies := t.dies, warps := t.warps } ∧ accReads t d val 1 0 ∧ t.warp? g = some w' ∧ SameWarps s t g
        ∧ (w'.vreg i).at lane = data ∧ (∀ n l, l < 32 → n ≠ i ∨ l ≠ lane → (w'.vreg n).at l = (w.vreg n).at l) ∧ w'.units = w.units ∧ w'.sregs = w.sregs)
    ∧ (file = 0 → w.names.find? i = none → (w.regsMax < w.held + 1 → refusesWrite 4) ∧ (w.held + 1 ≤ w.regsMax → s.poolFree (quadOf g) = 0 → refusesWrite 3)
        ∧ (w.held + 1 ≤ w.regsMax → s.poolFree (quadOf g) ≠ 0 → ∃ t w', exec (.debugAccessWrite d val) s = .next t ∧ t = { s with dies := t.dies, warps := t.warps } ∧ accReads t d val 1 0 ∧ t.warp? g = some w'
            ∧ w'.mapped i = true ∧ (w'.vreg i).at lane = data ∧ w'.held = w.held + 1))
    ∧ (file = 1 → i < 128 → ∃ t, exec (.debugAccessWrite d val) s = .next t ∧ t = { s with dies := t.dies, warps := t.warps } ∧ accReads t d val 1 0 ∧ t.warp? g = some (w.setSreg i data) ∧ SameWarps s t g)
    ∧ (file = 2 → ∀ k, s.group? w.wg = some k → i < 16 → ∃ t, exec (.debugAccessWrite d val) s = .next t ∧ t = { s with dies := t.dies, groups := t.groups } ∧ accReads t d val 1 0 ∧ t.group? w.wg = some { k with wregs := k.wregs.set i data })
    ∧ (file = 3 → i < 8 → ∃ t w', exec (.debugAccessWrite d val) s = .next t ∧ t = { s with dies := t.dies, warps := t.warps } ∧ accReads t d val 1 0 ∧ t.warp? g = some w'
        ∧ w' = { w with preds := w'.preds } ∧ ∀ n l, n < 8 → l < 32 → inMask (w'.pred n) l = if n = i ∧ l = lane then data.getLsbD 0 else inMask (w.pred n) l)

/-- TRACE_ENABLE and TRACE_DISABLE, R408: EN written as 1 over 0 sets TRWP to 0 and latches the fields; over 1 it does nothing; written as 0 it ends the trace, and the other fields stay. -/
def traceSwitched : Prop :=
  ∀ (s : State) (c : Nat) (val : W64), c < 192 →
  (val.getLsbD 0 = true → (s.coreReg c .trctl).getLsbD 0 = false →
    ∃ t, exec (.traceEnable c val) s = .next t ∧ t = { s with cores := t.cores } ∧ bitsOf (t.coreReg c .trctl) 21 0 = bitsOf val 21 0 ∧ (t.coreReg c .trctl).getLsbD 22 = false ∧ t.coreReg c .trwp = 0
      ∧ t.coreReg c .trbase = s.coreReg c .trbase ∧ t.coreReg c .trrp = s.coreReg c .trrp ∧ bitsOf (t.core c).trace.latched 21 1 = bitsOf val 21 1 ∧ ∀ c', c' ≠ c → t.core c' = s.core c')
  ∧ (val.getLsbD 0 = true → (s.coreReg c .trctl).getLsbD 0 = true → exec (.traceEnable c val) s = .next s)
  ∧ ∃ t, exec (.traceDisable c) s = .next t ∧ t = { s with cores := t.cores } ∧ (t.coreReg c .trctl).getLsbD 0 = false ∧ (∀ i, 0 < i → (t.coreReg c .trctl).getLsbD i = (s.coreReg c .trctl).getLsbD i)
      ∧ t.coreReg c .trwp = s.coreReg c .trwp ∧ ∀ c', c' ≠ c → t.core c' = s.core c'

/-- A frequency a die can run at, in MHz (R416). -/
def Legal (f : Nat) : Prop := 600 ≤ f ∧ f ≤ 1800 ∧ f % 50 = 0

/-- The frequency of a die's latest epoch (R417). -/
def freqOf (s : State) (d : Nat) : Nat := bitsOf (s.dieReg d (.cepinfo ((s.dieReg d .ceseq).toNat % 4))) 11 0

/-- FREQUENCY_STEP, FREQUENCY_RESTART, POWER_LIMIT_STEP, R416, R417, R435: a request stops the die's clock where its target is legal and new; a target that is not legal sets BAD, the frequency it has changes nothing, and while BUSY a
request is ignored. After 2,000 ns the die restarts with a new epoch at t + 2,000, at the CLK it stopped with. The step of the power limit is one of 50 MHz down, while that leaves at least 600. -/
def clocksChange : Prop :=
  ∀ (s : State) (d : Nat), d < 4 →
  let r := s.dieReg d .dfreq
  let reads := fun (t : State) (f busy bad : Nat) => bitsOf (t.dieReg d .dfreq) 11 0 = f ∧ bitsOf (t.dieReg d .dfreq) 13 13 = busy ∧ bitsOf (t.dieReg d .dfreq) 14 14 = bad
  let step := fun (i : Instr) (f : Nat) =>
    (r.getLsbD 13 = true → exec i s = .next s)
    ∧ (r.getLsbD 13 = false → ∃ t, exec i s = .next t ∧ t = { s with dies := t.dies } ∧ (∀ q, q ≠ .dfreq → t.dieReg d q = s.dieReg d q)
        ∧ (¬ Legal f → reads t f 0 1 ∧ (t.die d).stall = (s.die d).stall) ∧ (Legal f → f = freqOf s d → reads t f 0 0 ∧ (t.die d).stall = (s.die d).stall)
        ∧ (Legal f → f ≠ freqOf s d → reads t f 1 0 ∧ (t.die d).stall = some (s.rtime, f)))
  (∀ f, f < 4096 → step (.frequencyStep d f) f)
  ∧ (650 ≤ freqOf s d → step (.powerLimitStep d) (freqOf s d - 50)) ∧ (freqOf s d < 650 → exec (.powerLimitStep d) s = .next s)
  ∧ (∀ t0 f, (s.die d).stall = some (t0, f) → f < 4096 →
      (s.rtime < t0 + 2000 → exec (.frequencyRestart d) s = .next s)
      ∧ (t0 + 2000 ≤ s.rtime → t0 + 2000 < 2 ^ 64 → ∃ t, exec (.frequencyRestart d) s = .next t ∧ t = { s with dies := t.dies } ∧ (t.die d).stall = none ∧ bitsOf (t.dieReg d .dfreq) 13 13 = 0
          ∧ let n := ((s.dieReg d .ceseq).toNat + 1) % 2 ^ 32
            (t.dieReg d .ceseq).toNat = n ∧ (t.dieReg d (.ceprt (n % 4))).toNat = t0 + 2000 ∧ (t.dieReg d (.cepclk (n % 4))).toNat = s.clk d
            ∧ bitsOf (t.dieReg d (.cepinfo (n % 4))) 11 0 = f ∧ bitsOf (t.dieReg d (.cepinfo (n % 4))) 43 12 = n))

end Sys2Proof.Claims

/-! ### The package: errors, resets, ready words, links and registers -/

namespace Sys2Proof.Claims

open Sys2Proof.Machine

/-- ECC_CORRECTED_ERROR, R433, R434: the error is counted, saturating, with its unit, and has no other effect. -/
def errorsCorrected : Prop :=
  ∀ (s : State) (d unit : Nat), d < 4 → 1 ≤ unit → unit ≤ 13 →
  ∃ t, exec (.eccCorrectedError d unit) s = .next t ∧ t = { s with dies := t.dies } ∧ (∀ q, q ≠ .dsynd → t.dieReg d q = s.dieReg d q) ∧ (∀ d', d' ≠ d → t.die d' = s.die d')
    ∧ bitsOf (t.dieReg d .dsynd) 15 0 = min (bitsOf (s.dieReg d .dsynd) 15 0 + 1) 65535 ∧ bitsOf (t.dieReg d .dsynd) 23 16 = unit ∧ bitsOf (t.dieReg d .dsynd) 63 24 = bitsOf (s.dieReg d .dsynd) 63 24

/-- What a fatal error of die `d` leaves in its syndrome registers (R434): the unit and the place of the first one. -/
def syndromeOf (s t : State) (d unit : Nat) (loc : W64) : Prop :=
  let r := t.dieReg d .dsynd
  r.getLsbD 32 = true ∧ bitsOf r 23 0 = bitsOf (s.dieReg d .dsynd) 23 0
    ∧ (if (s.dieReg d .dsynd).getLsbD 32 = true then bitsOf r 31 24 = bitsOf (s.dieReg d .dsynd) 31 24 ∧ t.dieReg d .dsyndaddr = s.dieReg d .dsyndaddr
       else bitsOf r 31 24 = unit ∧ t.dieReg d .dsyndaddr = loc &&& 0xFFFF_FFFF_FFFF)

/-- What a fatal error leaves (R380): the die has failed, no unit of a warp of it is left, and every launch ends with CONTEXT_LOST where it had no status. -/
def contextsEnd (s t : State) (d : Nat) : Prop :=
  t.fatal = true ∧ (t.die d).failed = true ∧ t.teardowns = [] ∧ (∀ g w, dieOf g = d → t.warp? g = some w → w.units = [])
    ∧ ∀ key l, s.launch? key = some l → ∃ l', t.launch? key = some l' ∧ l'.ending = true ∧ (l.status = 0 → l'.status = 6)

/-- ECC_UNCORRECTABLE_ERROR and EDGE_RETRY_EXHAUSTED, R380, R433, R434: a fatal error of the die, or of both dies that the edge joins. Where an edge's error lies is not given: the model takes a free value (log 10). -/
def fatalErrors : Prop :=
  (∀ (s : State) (d unit loc : Nat), d < 4 → 1 ≤ unit → unit ≤ 13 → ∃ t, exec (.eccUncorrectableError d unit loc) s = .next t ∧ contextsEnd s t d ∧ syndromeOf s t d unit (BitVec.ofNat 64 loc))
  ∧ ∀ (s : State) (a b : Nat), (a, b) ∈ [(0, 1), (1, 0), (2, 3), (3, 2), (0, 2), (2, 0), (1, 3), (3, 1)] →
      ∃ t la lb, exec (.edgeRetryExhausted a b) s = .next t ∧ contextsEnd s t a ∧ contextsEnd s t b ∧ syndromeOf s t a 11 la ∧ syndromeOf s t b 11 lb

/-- PACKAGE_RESET, PKGRST and POWER_ON, R430, R432, R434: every register has its reset value, but the syndrome registers, which only a power-on resets; RTIME is 0, epoch 0 stands, no work is left, the contents of HBM are gone
and host memory stands. -/
def packageResets : Prop :=
  ∀ (s : State), s.memOk = true →
  let afresh := fun t : State => (∀ d q, q ≠ .dsynd → q ≠ .dsyndaddr → t.dieReg d q = Reset.dieReg q) ∧ (∀ c q, t.coreReg c q = 0) ∧ (∀ q, t.pkgReg q = Reset.pkgReg q) ∧ t.rtime = 0
    ∧ (∀ d, t.clk d = 0) ∧ (∀ d, t.freq d = 1400) ∧ t.fatal = false ∧ t.mailbox = .none ∧ t.warps = [] ∧ t.groups = [] ∧ t.launches = [] ∧ t.queues = [] ∧ t.engines = []
    ∧ ∀ a, Store.get t.mem a = if isSystem a then Store.get s.mem a else 0
  (∃ t, exec .packageReset s = .next t ∧ afresh t ∧ ∀ d, t.dieReg d .dsynd = s.dieReg d .dsynd ∧ t.dieReg d .dsyndaddr = s.dieReg d .dsyndaddr)
  ∧ (∃ t, exec .pkgrst s = .next t ∧ afresh t ∧ ∀ d, t.dieReg d .dsynd = s.dieReg d .dsynd ∧ t.dieReg d .dsyndaddr = s.dieReg d .dsyndaddr)
  ∧ ∃ t, exec .powerOn s = .next t ∧ afresh t ∧ ∀ d, t.dieReg d .dsynd = 0 ∧ t.dieReg d .dsyndaddr = 0

/-- FUNCTION_READY, R430, R431: the bit is set, and the others stay; a kick that waited is served once the die's front end and Norem are both ready. -/
def functionsReady : Prop :=
  ∀ (s : State) (d bit : Nat), d < 4 → bit < 25 →
  ∃ t, exec (.functionReady d bit) s = .next t ∧ t = { s with dies := t.dies } ∧ (∀ q, q ≠ .dready → t.dieReg d q = s.dieReg d q)
    ∧ (∀ i, (t.dieReg d .dready).getLsbD i = (decide (i = bit) || (s.dieReg d .dready).getLsbD i)) ∧ (∀ d', d' ≠ d → t.die d' = s.die d')
    ∧ ∀ k, (s.slot d k).kicked = true →
        if (t.dieReg d .dready).getLsbD 23 = true ∧ (t.dieReg d .dready).getLsbD 24 = true then (t.slot d k).kicked = false
          ∧ (inHole (bitsOf (s.dieReg d (.slotq k)) 55 16 * 256 + 128) = false → (t.slot d k).wr.toNat = word4 s (bitsOf (s.dieReg d (.slotq k)) 55 16 * 256 + 128))
        else t.slot d k = s.slot d k

/-- A port's map gives the address space `root` to the source `src` (R426). -/
def MapsTo (s : State) (d p src root : Nat) : Prop :=
  let hit := fun k => (s.dieReg d (.ulmap p k)).getLsbD 0 = true ∧ bitsOf (s.dieReg d (.ulmap p k)) 10 1 = src
  ∃ k, k < 64 ∧ hit k ∧ root = bitsOf (s.dieReg d (.ulmap p k)) 63 32 ∧ ∀ j, j < k → ¬ hit j

/-- The response to a request, the state otherwise as it was. -/
def answered (s : State) (d p : Nat) (r : Option (List Byte)) : State := { s with replies := s.replies ++ [(d, p, r)] }

/-- UALINK_READ, UALINK_WRITE and UALINK_ATOMIC, R110, R258, R425, R426: a request is translated in the address space of its source's entry, and answered with the bytes, with a plain response, or with the old value of an atomic; one that
names no entry, or fails a check, gets an error response. A port that is down answers nothing: that is the model's choice (log 10). The integer types of an atomic are taken as unsigned: that, too. -/
def linkRequests : Prop :=
  ∀ (s : State) (d p src : Nat) (addr : W64), s.memOk = true → d < 4 → p < 4 →
  let up := (s.dieReg d .dready).getLsbD (13 + p) = true
  let req := fun i : Instr => (∃ n, i = .ualinkRead d p src addr n) ∨ (∃ bs, i = .ualinkWrite d p src addr bs) ∨ ∃ op w x y, i = .ualinkAtomic d p src addr op w x y
  (∀ i, req i → ¬ up → exec i s = .next s)
  ∧ (∀ i, req i → up → (∀ root, ¬ MapsTo s d p src root) → exec i s = .next (answered s d p none))
  ∧ ∀ root, up → MapsTo s d p src root →
    (∀ n, n = 0 ∨ 256 < n → exec (.ualinkRead d p src addr n) s = .next (answered s d p none))
    ∧ (∀ bs, bs = [] ∨ 256 < bs.length → exec (.ualinkWrite d p src addr bs) s = .next (answered s d p none))
    ∧ (∀ op w x y, 8 ≤ op ∨ addr.toNat % (if w then 8 else 4) ≠ 0 → exec (.ualinkAtomic d p src addr op w x y) s = .next (answered s d p none))
    ∧ (∀ n s1 c k, 0 < n → n ≤ 256 → s.xlatDie d root addr .read true = (s1, .fail c k) → exec (.ualinkRead d p src addr n) s = .next (answered s d p none))
    ∧ (∀ n pa pte leaf, 0 < n → n ≤ 256 → addr.toNat % 65536 + n ≤ 65536 → s.linkReady d root addr n = true → (∀ i, i < n → s.xlatDie d root (addr + BitVec.ofNat 64 i) .read true = (s, .ok (pa + i) pte leaf)) →
        (∀ i, i < n → pteScope pte = 1 → (s.dirEnt (pa + i)).st ≠ .u) → s.touch leaf false = s →
        ∃ bs, exec (.ualinkRead d p src addr n) s = .next (answered s d p (some bs)) ∧ bs.length = n ∧ ∀ i, i < n → bs[i]? = some (Store.get s.mem (pa + i)))
    ∧ (∀ pa pte leaf, s.xlatDie d root addr .write true = (s, .ok pa pte leaf) → (pteVS (s.leaf leaf) && pteCW (s.leaf leaf)) = false → s.cows.find? leaf = none → (pteScope pte = 1 → (s.dirEnt pa).st ≠ .u) →
        (∀ bs, 0 < bs.length → addr.toNat % 8 + bs.length ≤ 8 → s.linkReady d root addr bs.length = true → (∀ b, ¬ (within b leaf 8 ∧ within b pa bs.length)) →
          (∀ q ∈ s.cows, ∀ y ∈ q.2.late, y.who ≠ .link d p s.handles) →
          ∃ t, exec (.ualinkWrite d p src addr bs) s = .next t ∧ t.replies = s.replies ++ [(d, p, some [])] ∧ (∀ i, i < bs.length → some (Store.get t.mem (pa + i)) = bs[i]?)
            ∧ (∀ b, ¬ within b pa bs.length → ¬ within b leaf 8 → Store.get t.mem b = Store.get s.mem b) ∧ t = { s with mem := t.mem, dies := t.dies, dir := t.dir, replies := t.replies, handles := t.handles })
        ∧ ∀ op (w : Bool) (x y : W64), let n := if w then 8 else 4
            op < 8 → addr.toNat % n = 0 → s.linkReady d root addr n = true → s.touch leaf true = s →
            let old := Store.item s.mem pa n
            let fails := op = 7 ∧ old ≠ y.toNat % 2 ^ (8 * n)
            let new := if w then (atomOn 64 op none false (BitVec.ofNat 64 old) x).toNat else (atomOn 32 op none false (BitVec.ofNat 32 old) (x.setWidth 32)).toNat
            ∃ t, exec (.ualinkAtomic d p src addr op w x y) s = .next t ∧ t.replies = s.replies ++ [(d, p, some (leBytes n old))] ∧ Store.item t.mem pa n = (if fails then old else new)
              ∧ memOutside s t pa n)

/-- UALINK_VENDOR_MESSAGE and UALINK_LINK_DOWN, R275, R427 to R431: a contribution, a HALO send or a loss is kept for the command it belongs to; a relayed command acts as one written here. A link that goes down clears the port's ready
bit, and the collectives beyond it end. -/
def linkMessages : Prop :=
  ∀ (s : State) (d p : Nat), d < 4 → p < 4 →
  let up := (s.dieReg d .dready).getLsbD (13 + p) = true
  (¬ up → (∀ m, exec (.ualinkVendorMessage d p m) s = .next s) ∧ exec (.ualinkLinkDown d p) s = .next s)
  ∧ (up →
    (∀ tag pos data, (∀ a ∈ s.allreds, ¬ (a.1 = tag ∧ a.2.1 = pos)) → exec (.ualinkVendorMessage d p (.allred tag pos data)) s = .next { s with allreds := s.allreds ++ [(tag, pos, data)] })
    ∧ (∀ a b c tag off data, ∃ t m, exec (.ualinkVendorMessage d p (.halo a b c tag off data)) s = .next t ∧ t = { s with halos := s.halos ++ [m] } ∧ m.srcAcc = a ∧ m.srcDie = b ∧ m.dstDie = c ∧ m.tag = tag ∧ m.off = off ∧ m.data = data
        ∧ m.dstAcc = bitsOf (s.pkgReg .pkginfo) 12 3)
    ∧ (∀ x, x ∉ s.lost → exec (.ualinkVendorMessage d p (.lost x)) s = .next { s with lost := s.lost ++ [x] })
    ∧ (∀ qid qcb, exec (.ualinkVendorMessage d p (.relay (.queueRegister qid qcb))) s = exec (.queueRegister qid qcb) s) ∧ (∀ v, exec (.ualinkVendorMessage d p (.relay (.vifActivate v))) s = exec (.vifActivate v) s)
    ∧ (∀ v a, exec (.ualinkVendorMessage d p (.relay (.vifTear v a))) s = exec (.vifTear v a) s) ∧ (∀ x, exec (.ualinkVendorMessage d p (.relay (.dieReset x))) s = exec (.dieResetRequest x) s)
    ∧ exec (.ualinkVendorMessage d p (.relay .pkgrst)) s = exec .pkgrst s
    ∧ ∃ t, exec (.ualinkLinkDown d p) s = .next t ∧ (∀ i, (t.dieReg d .dready).getLsbD i = (decide (i ≠ 13 + p) && (s.dieReg d .dready).getLsbD i))
        ∧ (s.engines = [] → t = { s with dies := t.dies }))

/-- The registers whose fields a write only stores, with those fields. -/
def storedRegs : List (DieReg × W64) :=
  [(.whvrt, 0xFFFF_FFFF_F01F), (.wharing, 0xFFFF_FFFF_F01F), (.whfring, 0xFFFF_FFFF_F01F), (.ctxaring, 0xFFFF_FFFF_F01F), (.ctxsring, 0xFFFF_FFFF_F01F), (.ltab, 0xFFFF_FFFF_F000), (.dbgsel, 0xFFFF_FFFF_FFFF),
   (.dbgdata, 0xFFFF_FFFF_FFFF_FFFF), (.tlbrange, 0xFFFF_FFFF_FFFF_FFFF)]

/-- The registers that read only. -/
def readOnlyRegs : List DieReg := [.whahead, .whftail, .whrej, .ctxahead, .ctxstail, .ceseq, .dready, .dsyndaddr]

/-- REGISTER_WRITE, R7, R99, R390, R402, R408, R426, R427, R434: a write stores the writable fields of a register; its reserved fields read as they did, and every other register keeps its value. A write that
would act is an event of its own, and does nothing here: that is the model's choice (log 16). One of VIFCFG acts: ACT makes a Free interface Active, TEAR begins the teardown of an Active one (R373). -/
def registersWritten : Prop :=
  ∀ (s : State) (d : Nat) (val : W64), d < 4 →
  let stores := fun (r : DieReg) (m : W64) =>
    ∃ t, exec (.registerWrite (.die d r) val) s = .next t ∧ t = { s with dies := t.dies } ∧ t.dieReg d r = (s.dieReg d r &&& ~~~m) ||| (val &&& m) ∧ (∀ q, q ≠ r → t.dieReg d q = s.dieReg d q)
      ∧ ∀ d', d' ≠ d → t.die d' = s.die d'
  (∀ x ∈ storedRegs, stores x.1 x.2)
  ∧ (∀ p k, p < 4 → k < 64 → stores (.ulmap p k) 0xFFFF_FFFF_0001_FFFF) ∧ (∀ i, i < 64 → stores (.vifshare i) 0xFFFF_FFFF_FFFF_FFFF)
  ∧ (val.getLsbD 12 = false → stores .preq 0x3FFF_FFFF_FFFF_EFFF) ∧ (val.getLsbD 12 = false → (s.dieReg d .dfreq).getLsbD 13 = false → stores .dfreq 0xFFF)
  ∧ (bitsOf val 46 45 = 0 ∨ bitsOf val 46 45 = 3 → stores .warpctl 0x1FFF_FFFF_FFFF) ∧ (val.getLsbD 33 = false → stores .tlbinv 0x1_FFFF_FFFF) ∧ (val.getLsbD 20 = false → stores .dbgacc 0xFFFFF)
  ∧ (val.getLsbD 32 = false → stores .dsynd 0xFFFF) ∧ (∀ r ∈ readOnlyRegs, stores r 0)
  ∧ (val.getLsbD 32 = true → ∃ t, exec (.registerWrite (.die d .dsynd) val) s = .next t ∧ (t.dieReg d .dsynd).getLsbD 32 = false)
  ∧ (val.getLsbD 3 = true → (s.die d).dbg = none → bitsOf val 2 0 = 0 ∨ 5 ≤ bitsOf val 2 0 → ∃ t, exec (.registerWrite (.die d .dbgctl) val) s = .next t ∧ t = { s with dies := t.dies } ∧ bitsOf (t.dieReg d .dbgctl) 7 4 = 7
      ∧ bitsOf (t.dieReg d .dbgctl) 2 0 = bitsOf val 2 0 ∧ bitsOf (t.dieReg d .dbgctl) 3 3 = 0)
  ∧ (∀ c, c < 192 → ∃ t, exec (.registerWrite (.core c .trbase) val) s = .next t ∧ t = { s with cores := t.cores } ∧ t.coreReg c .trbase = val &&& 0xFFFF_FFFF_FF80)
  ∧ (∀ c, c < 192 → ∃ t, exec (.registerWrite (.core c .trrp) val) s = .next t ∧ t = { s with cores := t.cores } ∧ t.coreReg c .trrp = val ∧ t.coreReg c .trwp = s.coreReg c .trwp)
  ∧ (∃ t, exec (.registerWrite (.pkg .pkginfo) val) s = .next t ∧ t = { s with pkg := t.pkg } ∧ t.pkgReg .pkginfo = val &&& 0x1FFF)
  ∧ (∀ i, i < 64 → val &&& 0xC = 0 → ∃ t, exec (.registerWrite (.pkg (.vifcfg i)) val) s = .next t ∧ t = { s with pkg := t.pkg } ∧ bitsOf (t.pkgReg (.vifcfg i)) 47 16 = bitsOf val 47 16 ∧ bitsOf (t.pkgReg (.vifcfg i)) 1 0 = bitsOf (s.pkgReg (.vifcfg i)) 1 0)
  ∧ (∀ i, i < 64 → val.getLsbD 3 = true → bitsOf (s.pkgReg (.vifcfg i)) 1 0 = 0 → ∃ t, exec (.registerWrite (.pkg (.vifcfg i)) val) s = .next t ∧ t = { s with pkg := t.pkg } ∧ bitsOf (t.pkgReg (.vifcfg i)) 47 16 = bitsOf val 47 16
      ∧ bitsOf (t.pkgReg (.vifcfg i)) 1 0 = 1 ∧ t.pkgReg (.vifcnt i) = 0)
  ∧ (∀ i, i < 64 → val.getLsbD 2 = true → bitsOf (s.pkgReg (.vifcfg i)) 1 0 = 1 → ∃ t, exec (.registerWrite (.pkg (.vifcfg i)) val) s = .next t ∧ bitsOf (t.pkgReg (.vifcfg i)) 47 16 = bitsOf val 47 16
      ∧ bitsOf (t.pkgReg (.vifcfg i)) 1 0 = 2 ∧ t.teardowns = s.teardowns ++ [{ vif := i, step := 0, addr := none }])
  ∧ ∀ i, i < 64 → ∃ t, exec (.registerWrite (.pkg (.vifimt i)) val) s = .next t ∧ t = { s with pkg := t.pkg } ∧ t.pkgReg (.vifimt i) = val &&& 0xFFFF_FFFF_FFFF_F000

end Sys2Proof.Claims

section Statements

open Sys2Proof Sys2Proof.Machine Sys2Proof.Claims

/-- R220, R221: IADD, ISUB, IMUL, IMULH, IMAD, IMIN, IMAX and IABS without SAT, in their extended, base vector and base scalar forms, write the result
modulo 2^w, zero-extended, in each active lane of a vector destination, or once in a scalar or workgroup destination when a lane is active; they set no flag,
and change nothing else but the PC and the registers their last-use bits free. -/
def Sys2Proof.Claims.integerArithmeticWraps : Prop :=
  ∀ (o : IntOp) (i : Instr) (x : Op) (len : Nat), o.Is i x len → x.mod.getLsbD 2 = false →
  ∀ (s : State) (g sub : Nat) (w : Warp) (u : WUnit), CanIssue s g sub w u (Res.plain w u x len) x.e (x.d.run 1) →
  ∃ t w' u', exec i s = .next t ∧ After s t g sub w w' u u' ((Res.plain w u x len).one x.d (fun l =>
    let a := opVal w u x.lit l x.a
    let b := opVal w u x.lit l x.b
    let c := opVal w u x.lit l x.c
    atWidth x (o.wrap (signedTy x) (a.setWidth 32) (b.setWidth 32) (c.setWidth 32)) (o.wrap (signedTy x) a b c)))

/-- R220, R221, R128: with SAT, IADD, ISUB, IMUL, IMAD and IABS write the exact result clamped to the type's range, and set FPSR.SAT when an active lane's
result was clamped. -/
def Sys2Proof.Claims.integerArithmeticSaturates : Prop :=
  ∀ (o : IntOp) (i : Instr) (x : Op) (len : Nat), o.Is i x len → o.sats = true → x.mod.getLsbD 2 = true →
  ∀ (s : State) (g sub : Nat) (w : Warp) (u : WUnit), CanIssue s g sub w u (Res.plain w u x len) x.e (x.d.run 1) →
  ∃ t w' u', exec i s = .next t ∧
    let r := fun l => o.exact (tyVal x (opVal w u x.lit l x.a)) (tyVal x (opVal w u x.lit l x.b)) (tyVal x (opVal w u x.lit l x.c))
    let q := fun l => max (tyLeast x) (min (tyGreatest x) (r l))
    After s t g sub w w' u u' { (Res.plain w u x len).one x.d (fun l => atWidth x (BitVec.ofInt 32 (q l)) (BitVec.ofInt 64 (q l))) with
      flags := laneFlags (guardMask w u.exec x.grd) (fun l => if q l ≠ r l then flSAT else 0) }

/-- R221, R222: AND, OR, XOR, NOT, SHL, SHR, SAR, ROT, POPC, CLZ and BREV, in their three forms, write the operation on the w-bit patterns, zero-extended.
The shift count is B[7:0]. -/
def Obligations.BitOperations : Prop :=
  ∀ (o : BitOp) (i : Instr) (x : Op) (len : Nat), o.Is i x len →
  ∀ (s : State) (g sub : Nat) (w : Warp) (u : WUnit), CanIssue s g sub w u (Res.plain w u x len) x.e (x.d.run 1) →
  ∃ t w' u', exec i s = .next t ∧ After s t g sub w w' u u' ((Res.plain w u x len).one x.d (fun l =>
    let a := opVal w u x.lit l x.a
    let b := opVal w u x.lit l x.b
    atWidth x (o.on (a.setWidth 32) (b.setWidth 32) (b.setWidth 8).toNat) (o.on a b (b.setWidth 8).toNat)))

/-- R225, R224: MOV and MOVI write their operand extended by type, and LEA its address sum, in their three forms. -/
def Sys2Proof.Claims.movesAndAddresses : Prop :=
  ∀ (i : Instr) (x : Op) (len : Nat) (val : W64 → W64 → W64),
  (Form3 .mov .movV .movS 0x13 0x33 false i x len ∧ val = (fun a _ => moved x a)) ∨ (Form3 .movi .moviV .moviS 0x14 0x34 false i x len ∧ val = (fun _ b => moved x b))
    ∨ (Form3 .lea .leaV .leaS 0x15 0x35 false i x len ∧ val = leaOf x) →
  ∀ (s : State) (g sub : Nat) (w : Warp) (u : WUnit), CanIssue s g sub w u (Res.plain w u x len) x.e (x.d.run 1) →
  ∃ t w' u', exec i s = .next t ∧
    After s t g sub w w' u u' ((Res.plain w u x len).one x.d (fun l => val (opVal w u x.lit l x.a) (opVal w u x.lit l x.b)))

/-- R223, R226: BFE extracts a field, BFI inserts one, and SEL chooses between two sources by a predicate, in each active lane. -/
def Sys2Proof.Claims.fieldsAndSelection : Prop :=
  ∀ (i : Instr) (x : Op) (val : Warp → Nat → W64 → W64 → W64 → W64),
  (i = .bfe x ∧ val = (fun _ _ a b c => atWidth x (ofBits 32 (bfeBit (signedTy x) (a.setWidth 32) (b.setWidth 8).toNat (c.setWidth 8).toNat))
      (ofBits 64 (bfeBit (signedTy x) a (b.setWidth 8).toNat (c.setWidth 8).toNat))))
    ∨ (i = .bfi x ∧ val = (fun _ _ a b c => atWidth x (ofBits 32 (bfiBit (a.setWidth 32) (b.setWidth 32) (c.setWidth 8).toNat (c.extractLsb' 8 8).toNat))
      (ofBits 64 (bfiBit a b (c.setWidth 8).toNat (c.extractLsb' 8 8).toNat))))
    ∨ (i = .sel x ∧ val = (fun w l a b _ => if (inMask (w.pred (x.func.setWidth 3).toNat) l ^^ x.func.getLsbD 3) then a else b)) →
  ∀ (s : State) (g sub : Nat) (w : Warp) (u : WUnit), CanIssue s g sub w u (Res.plain w u x x.bytes) x.e (x.d.run 1) →
  ∃ t w' u', exec i s = .next t ∧ After s t g sub w w' u u' ((Res.plain w u x x.bytes).one x.d (fun l =>
    val w l (opVal w u x.lit l x.a) (opVal w u x.lit l x.b) (opVal w u x.lit l x.c)))

/-- R227, R52: ICMP, in its extended form and the base form of each condition, pushes the relation of a to b into each lane of EXEC: every depth moves
up by one, a lane the guard excludes pushes 0, lanes outside EXEC keep their predicates, and no register changes. -/
def Obligations.IntegerCompares : Prop :=
  ∀ (k : Cond) (i : Instr) (x : Op) (len : Nat), IsIcmp k i x len →
  ∀ (s : State) (g sub : Nat) (w : Warp) (u : WUnit), CanIssue s g sub w u (Res.plain w u x len) x.e [] →
  ∃ t w' u', exec i s = .next t ∧ After s t g sub w w' u u' { Res.plain w u x len with
    preds := pushed u.exec (guardMask w u.exec x.grd) w.pred (fun l =>
      let a := opVal w u x.lit l x.a
      let b := opVal w u x.lit l x.b
      if wide x then condOn k (signedTy x) a b else condOn k (signedTy x) (a.setWidth 32) (b.setWidth 32)) }

/-- R228 to R231: FADD, FSUB, FMUL, FFMA, FMIN and FMAX, in every format and form, write in each active lane the exact value of their modified operands
rounded once, or the operand chosen, and set the flags of the active lanes; the base forms round by FPCR.RM. -/
def Obligations.FloatArithmetic : Prop :=
  ∀ (o : FpOp) (code : Nat) (i : Instr) (x : Op) (len : Nat), o.Is code i x len →
  ∀ (s : State) (g sub : Nat) (w : Warp) (u : WUnit), CanIssue s g sub w u (Res.plain w u x len) x.e (x.d.run 1) →
  ∃ t w' u', exec i s = .next t ∧
    let r := fun l => o.gives code (Rnd.select x.mod.toNat w.fpcr) (bffz w.fpcr) (fpSrc code w u x 0 x.a l) (fpSrc code w u x 1 x.b l) (fpSrc code w u x 2 x.c l)
    After s t g sub w w' u u' { (Res.plain w u x len).one x.d (fun l => BitVec.ofNat 64 (r l).1) with
      flags := laneFlags (guardMask w u.exec x.grd) (fun l => (r l).2) }

/-- R232, R52: FCMP, in its extended form and the base form of each condition, pushes the relation of the modified operands into each lane of EXEC, and
sets IO for a signalling NaN, and for a quiet NaN under lt, le, gt and ge. -/
def Obligations.FloatCompares : Prop :=
  ∀ (k : FCond) (i : Instr) (x : Op) (len : Nat), IsFcmp k i x len →
  ∀ (s : State) (g sub : Nat) (w : Warp) (u : WUnit), CanIssue s g sub w u (Res.plain w u x len) x.e [] →
  let code := (x.mod.setWidth 2).toNat
  let a := fun l => (ffmt code).decode (fpSrc code w u x 0 x.a l)
  let b := fun l => (ffmt code).decode (fpSrc code w u x 1 x.b l)
  ∃ t w' u' bit, exec i s = .next t ∧ (∀ l, l < 32 → (bit l = true ↔ relates k (a l) (b l))) ∧
    After s t g sub w w' u u' { Res.plain w u x len with
      preds := pushed u.exec (guardMask w u.exec x.grd) w.pred bit
      flags := laneFlags (guardMask w u.exec x.grd) (fun l =>
        if a l = .nan true ∨ b l = .nan true ∨ (((a l).isNan ∨ (b l).isNan) ∧ k ∈ [.lt, .le, .gt, .ge]) then flIO else 0) }

/-- R233, R234, R236: FCLASS writes the one bit of its operand's class, FRND its operand rounded to an integral value, and CVT its operand converted from
its source type to its destination type, in each active lane. -/
def Obligations.ClassRoundConvert : Prop :=
  ∀ (i : Instr) (x : Op) (val : Warp → WUnit → Nat → Nat × W32),
  (∃ f, i = .fclass f x ∧ val = (fun w u l =>
      (2 ^ classOf (ffmt f.code) ((ffmt f.code).decode ((opVal w u x.lit l x.a).toNat % 2 ^ (ffmt f.code).width)), 0)))
    ∨ (∃ f, i = .frnd f x ∧ val = (fun w u l => frndPat f.code (Rnd.select x.mod.toNat w.fpcr) (fpSrc f.code w u x 0 x.a l)))
    ∨ (i = .cvt x ∧ val = (fun w u l =>
        let src := (x.func.setWidth 4).toNat
        let v := if src < 4 then opFval src w u x.lit l x.a else opVal w u x.lit l x.a
        cvtPat src (x.func.extractLsb' 4 4).toNat (x.mod.getLsbD 3) (bffz w.fpcr) (Rnd.select x.mod.toNat w.fpcr) v.toNat)) →
  ∀ (s : State) (g sub : Nat) (w : Warp) (u : WUnit), CanIssue s g sub w u (Res.plain w u x x.bytes) x.e (x.d.run 1) →
  ∃ t w' u', exec i s = .next t ∧
    After s t g sub w w' u u' { (Res.plain w u x x.bytes).one x.d (fun l => BitVec.ofNat 64 (val w u l).1) with
      flags := laneFlags (guardMask w u.exec x.grd) (fun l => (val w u l).2) }

/-- R130: the sums and products that the floating operations round are exact: over finite values, `sumVals` and `FVal.mul` give the sum and the product
as rational numbers. -/
def Sys2Proof.Claims.sumsAndProductsExact : Prop :=
  ∀ (md : Rnd) (n k j : Bool) (m p r : Nat) (e f h : Int),
  (∃ n' m' e', sumVals md [.fin n m e, .fin k p f] = .fin n' m' e' ∧ ratOf n' m' e' = ratOf n m e + ratOf k p f)
    ∧ (∃ n' m' e', (FVal.fin n m e).mul (.fin k p f) = .fin n' m' e' ∧ ratOf n' m' e' = ratOf n m e * ratOf k p f)
    ∧ (∃ n' m' e', sumVals md [(FVal.fin n m e).mul (.fin k p f), .fin j r h] = .fin n' m' e' ∧ ratOf n' m' e' = ratOf n m e * ratOf k p f + ratOf j r h)

/-- R130, R131: a value that the format holds rounds to itself in every mode and sets no flag; a NaN rounds to the canonical quiet NaN, and IO is set when it
signals. Every pattern of FP64, FP32, FP16 and BF16. -/
def Sys2Proof.Claims.representableRoundsToItself : Prop :=
  ∀ (code x : Nat) (md : Rnd), code < 4 → x < 2 ^ (ffmt code).width →
  match (ffmt code).decode x with
  | .nan sig => roundVal code false md (.nan sig) = ((ffmt code).qnan, if sig then flIO else 0)
  | v => roundVal code false md v = (x, 0)

/-- R130, R133: the rounding is the IEEE one. Where the result of rounding a finite nonzero value is finite and no overflow is flagged, no value of the format
lies strictly between the exact value and the result; RTZ does not grow the magnitude, RUP does not go below the exact value, RDN not above it, and under
RNE no value of the format is nearer. -/
def Sys2Proof.Claims.roundingIsIeee : Prop :=
  ∀ (code : Nat) (md : Rnd) (neg : Bool) (m : Nat) (e : Int), code < 4 → 0 < m →
  let r := roundVal code false md (.fin neg m e)
  r.2 &&& flOF = 0 →
  ∃ n' m' e', (ffmt code).decode r.1 = .fin n' m' e' ∧ n' = neg ∧
    let x := ratOf neg m e
    let y := ratOf n' m' e'
    (∀ z k p f, z < 2 ^ (ffmt code).width → (ffmt code).decode z = .fin k p f → ¬ (x < ratOf k p f ∧ ratOf k p f < y) ∧ ¬ (y < ratOf k p f ∧ ratOf k p f < x))
    ∧ (md = .rtz → |y| ≤ |x|) ∧ (md = .rup → x ≤ y) ∧ (md = .rdn → y ≤ x)
    ∧ (md = .rne → ∀ z k p f, z < 2 ^ (ffmt code).width → (ffmt code).decode z = .fin k p f → |y - x| ≤ |ratOf k p f - x|)

/-- R234: FRND gives an integral value: over a finite operand of the format, the integer its value rounds to under the mode, with the operand's sign; zeros and
infinities are unchanged, a NaN gives the canonical NaN; only IO can be set, and only for a signalling NaN. -/
def Sys2Proof.Claims.frndIsIntegral : Prop :=
  ∀ (code a : Nat) (md : Rnd), code < 4 → a < 2 ^ (ffmt code).width →
  match (ffmt code).decode a with
  | .nan sig => frndPat code md a = ((ffmt code).qnan, if sig then flIO else 0)
  | .inf _ => frndPat code md a = (a, 0)
  | .fin n m e => (frndPat code md a).2 = 0 ∧
      ∃ m' e', (ffmt code).decode (frndPat code md a).1 = .fin n m' e' ∧ ratOf n m' e' = intRound md (ratOf n m e)

/-- R235, R24, R145: FRCP, FRSQ, FSQRT, FDIVF, FSIN, FCOS, FEXP2 and FLOG2 are long-latency: they leave their destination outstanding, with the value the pipe
gives in each active lane and LA as its lookahead, and its flags, which they set when it is written (R136). What the pipe gives is fixed by the operands' bits; within the bound of R145 it is a
value the manual leaves open (the model's free value, log 8). -/
def Sys2Proof.Claims.transcendentalPipe : Prop :=
  ∀ (i : Instr) (x : Op) (pipe : Nat → Rnd → W64 → W64 → W64 → Nat × W32) (code : Nat), IsPipe i x pipe code →
  ∀ (s : State) (g sub : Nat) (w : Warp) (u : WUnit), CanIssue s g sub w u (Res.plain w u x x.bytes) x.e (x.d.run 1) →
  ∃ t w' u', exec i s = .next t ∧
    let r := fun l => pipe code (Rnd.select x.mod.toNat w.fpcr) (opFval code w u x.lit l x.a) (opFval code w u x.lit l x.b) (opVal w u x.lit l x.b)
    After s t g sub w w' u u' ((Res.plain w u x x.bytes).owed x.la.toNat x.d [fun l => BitVec.ofNat 64 (r l).1] (laneFlags (guardMask w u.exec x.grd) (fun l => (r l).2)))

/-- R144, R235: FRED is long-latency and leaves two consecutive destinations outstanding, with its flags: the reduced argument and the quadrant. -/
def Sys2Proof.Claims.fredWritesTwo : Prop :=
  ∀ (f : Fmt2) (x : Op) (s : State) (g sub : Nat) (w : Warp) (u : WUnit),
  CanIssue s g sub w u (Res.runs w u x x.bytes 1 1 1 2) x.e (x.d.run 2) →
  ∃ t w' u', exec (.fred f x) s = .next t ∧
    let r := fun l => fredPat f.code (opFval f.code w u x.lit l x.a)
    After s t g sub w w' u u' ((Res.runs w u x x.bytes 1 1 1 2).owed x.la.toNat x.d [fun l => BitVec.ofNat 64 (r l).1, fun l => BitVec.ofNat 64 (r l).2.1]
      (laneFlags (guardMask w u.exec x.grd) (fun l => (r l).2.2)))

/-- R146: the special cases of the approximate instructions, on the patterns of FP64 and FP32: zeros, infinities, NaNs, negative operands, whole and
exact powers, and the sine and cosine of zero, with their results and flags. -/
def Obligations.TranscendentalSpecialCases : Prop :=
  ∀ (code : Nat), code < 2 →
  let f := ffmt code
  let slot := fun (p : Nat) => BitVec.ofNat 64 p
  (∀ n, frcpPat code (slot (f.signed n 0)) = (f.signed n f.infBits, flDZ) ∧ frcpPat code (slot (f.signed n f.infBits)) = (f.signed n 0, 0)
      ∧ frsqPat code (slot (f.signed n 0)) = (f.signed n f.infBits, flDZ) ∧ fsqrtPat code .rne (slot (f.signed n 0)) = (f.signed n 0, 0)
      ∧ flog2Pat code (slot (f.signed n 0)) = (f.signed true f.infBits, flDZ) ∧ fexp2Pat code (slot (f.signed n 0)) = (f.bias * 2 ^ f.fb, 0))
  ∧ frsqPat code (slot f.infBits) = (0, 0) ∧ fsqrtPat code .rne (slot f.infBits) = (f.infBits, 0) ∧ flog2Pat code (slot f.infBits) = (f.infBits, 0)
  ∧ fexp2Pat code (slot f.infBits) = (f.infBits, 0) ∧ fexp2Pat code (slot (f.signed true f.infBits)) = (0, 0)
  ∧ (∀ n : Int, f.emin ≤ n → n ≤ f.emax →
      fexp2Pat code (slot (intPattern code n)) = ((n + f.bias).toNat * 2 ^ f.fb, 0) ∧ flog2Pat code (slot ((n + f.bias).toNat * 2 ^ f.fb)) = (intPattern code n, 0))
  ∧ (∀ a m e, f.decode (slotPat code a) = .fin true m e → 0 < m →
      frsqPat code a = (f.qnan, flIO) ∧ (∀ md, fsqrtPat code md a = (f.qnan, flIO)) ∧ flog2Pat code a = (f.qnan, flIO))
  ∧ (∀ a sig, f.decode (slotPat code a) = .nan sig → ∀ fn q b md,
      (frcpPat code a = (f.qnan, if sig then flIO else 0)) ∧ (frsqPat code a = (f.qnan, if sig then flIO else 0))
      ∧ (fsqrtPat code md a = (f.qnan, if sig then flIO else 0)) ∧ (flog2Pat code a = (f.qnan, if sig then flIO else 0))
      ∧ (fexp2Pat code a = (f.qnan, if sig then flIO else 0)) ∧ (sinQuad fn code a b q = (f.qnan, if sig then flIO else 0))
      ∧ (fdivfPat code a b).1 = f.qnan ∧ (fdivfPat code b a).1 = f.qnan)
  ∧ (∀ a n k m e, f.decode (slotPat code a) = .fin n m e →
      (0 < m → fdivfPat code a (slot (f.signed k 0)) = (f.signed (n != k) f.infBits, flDZ))
      ∧ fdivfPat code a (slot (f.signed k f.infBits)) = (f.signed (n != k) 0, 0))
  ∧ (∀ n k, fdivfPat code (slot (f.signed n 0)) (slot (f.signed k 0)) = (f.qnan, flIO)
      ∧ fdivfPat code (slot (f.signed n f.infBits)) (slot (f.signed k f.infBits)) = (f.qnan, flIO))
  ∧ (∀ n b,
      let one := f.bias * 2 ^ f.fb
      sinQuad fnSin code (slot (f.signed n 0)) b 0 = (f.signed n 0, 0) ∧ sinQuad fnSin code (slot (f.signed n 0)) b 1 = (one, 0)
      ∧ sinQuad fnSin code (slot (f.signed n 0)) b 2 = (f.signed (!n) 0, 0) ∧ sinQuad fnSin code (slot (f.signed n 0)) b 3 = (f.signed true one, 0)
      ∧ sinQuad fnCos code (slot (f.signed n 0)) b (0 + 1) = (one, 0) ∧ sinQuad fnCos code (slot (f.signed n 0)) b (1 + 1) = (f.signed (!n) 0, 0)
      ∧ sinQuad fnCos code (slot (f.signed n 0)) b (2 + 1) = (f.signed true one, 0) ∧ sinQuad fnCos code (slot (f.signed n 0)) b (3 + 1) = (f.signed n 0, 0)
      ∧ ∀ fn q, sinQuad fn code (slot (f.signed n f.infBits)) b q = (f.qnan, flIO))

/-- R237: FMTCVT converts each active lane between its wide format and the narrow element its own format word describes, where every word it checks is valid
and every active lane's word is one the hardware computes. -/
def Sys2Proof.Claims.narrowConversion : Prop :=
  ∀ (x : Op) (s : State) (g sub : Nat) (w : Warp) (u : WUnit), CanIssue s g sub w u (Res.plain w u x x.bytes) x.e (x.d.run 1) →
  let code := (x.func.setWidth 2).toNat
  let dir := x.func.getLsbD 2
  let act := guardMask w u.exec x.grd
  let word := fun l => FWord.ofBits ((opVal w u x.lit l x.b).toNat % 2 ^ 32)
  (∀ l, l < 32 → inMask act l = true ∨ (act = 0 ∧ l = 0) → (word l).valid = true) → (∀ l, l < 32 → inMask act l = true → (word l).native = true) →
  ∃ t w' u', exec (.fmtcvt x) s = .next t ∧
    let r := fun l => fmtcvtPat code dir (bffz w.fpcr) (Rnd.select x.mod.toNat w.fpcr) (word l) (s.freeVal l)
      (if dir then opVal w u x.lit l x.a else opFval code w u x.lit l x.a).toNat
    After s t g sub w w' u u' { (Res.plain w u x x.bytes).one x.d (fun l => BitVec.ofNat 64 (r l).1) with flags := laneFlags act (fun l => (r l).2) }

/-- R140: a code of a narrow element that the hardware computes, decoded and encoded again, is the code itself in every mode, and no flag is set; but the
NaN codes, and −0 under policy 01, which does not exist. -/
def Sys2Proof.Claims.narrowRoundTrip : Prop :=
  ∀ (fw : FWord) (c : Nat) (md : Rnd), fw.valid = true → fw.native = true → c < 2 ^ fw.n → (fw.decode c).isNan = false →
  fw.encode md (fw.decode c) = (some c, 0)

/-- R238: PACK joins the low e bits of n registers into packed form, and UNPACK takes them apart, zero- or sign-extended, in each active lane; every source is
read before any destination is written. -/
def Obligations.PackAndUnpack : Prop :=
  ∀ (x : Op) (s : State) (g sub : Nat) (w : Warp) (u : WUnit),
  let e := 4 <<< (x.func.setWidth 2).toNat
  let n := (x.func.extractLsb' 2 8).toNat + 1
  let p := (n * e + 63) / 64
  let src := fun i l => nthVal w u l x.a i
  (CanIssue s g sub w u (Res.runs w u x x.bytes n 0 0 p) x.e (x.d.run p) →
    ∃ t w' u', exec (.pack x) s = .next t ∧
      After s t g sub w w' u u' ((Res.runs w u x x.bytes n 0 0 p).run x.d ((List.range p).map (fun j l => ofBits 64 (fun b =>
        decide (j * (64 / e) + b / e < n) && (src (j * (64 / e) + b / e) l).getLsbD (b % e))))))
  ∧ (CanIssue s g sub w u (Res.runs w u x x.bytes p 0 0 n) x.e (x.d.run n) →
    ∃ t w' u', exec (.unpack x) s = .next t ∧
      After s t g sub w w' u u' ((Res.runs w u x x.bytes p 0 0 n).run x.d ((List.range n).map (fun i l => ofBits 64 (fun b =>
        if b < e then (src (i * e / 64) l).getLsbD (i * e % 64 + b) else x.mod.getLsbD 0 && (src (i * e / 64) l).getLsbD (i * e % 64 + e - 1))))))

/-- R241 to R243: SHFL, SWAPP and BCAST write a value of another lane, active or not, in each active lane. -/
def Sys2Proof.Claims.laneMoves : Prop :=
  ∀ (i : Instr) (x : Op) (val : Warp → WUnit → W32 → Nat → W64),
  (i = .shfl x ∧ (x.func.extractLsb' 2 3).toNat ≤ 5 ∧ val = (fun w u _ l => opVal w u x.lit
      (shflFrom (x.func.setWidth 2).toNat (1 <<< (x.func.extractLsb' 2 3).toNat) l ((opVal w u x.lit l x.b).setWidth 32).toNat) x.a))
    ∨ (i = .swapp x ∧ (x.func.setWidth 5).toNat ≠ 0 ∧ val = (fun w u _ l =>
        let m := (x.func.setWidth 5).toNat
        let v := opVal w u x.lit (l ^^^ m) x.a
        let sign : W64 := if x.mod.setWidth 2 = 0 then 1 <<< 63 else if x.mod.setWidth 2 = 1 then 1 <<< 31 else 1 <<< 15
        if x.mod.getLsbD 2 ∧ ∃ h, h < 5 ∧ m.testBit h = true ∧ (∀ k, k < h → m.testBit k = false) ∧ l.testBit h = false then v ^^^ sign else v))
    ∨ (i = .bcast x ∧ val = (fun w u act _ => opVal w u x.lit
        (if x.func.getLsbD 0 then (lowLane act).getD 0 else ((opVal w u x.lit 0 x.b).setWidth 5).toNat) x.a)) →
  ∀ (s : State) (g sub : Nat) (w : Warp) (u : WUnit), CanIssue s g sub w u (Res.plain w u x x.bytes) x.e (x.d.run 1) →
  ∃ t w' u', exec i s = .next t ∧ After s t g sub w w' u u' ((Res.plain w u x x.bytes).one x.d (val w u (guardMask w u.exec x.grd)))

/-- R244: VOTE.ballot writes the mask of active lanes whose predicate, inverted where NEG is set, is 1; any, all and uni push one bit into every active lane of
EXEC. -/
def Sys2Proof.Claims.votes : Prop :=
  ∀ (x : Op) (s : State) (g sub : Nat) (w : Warp) (u : WUnit), CanIssue s g sub w u (Res.plain w u x x.bytes) x.e (x.d.run 1) →
  let act := guardMask w u.exec x.grd
  let q := fun l => inMask (w.pred (x.func.setWidth 3).toNat) l ^^ x.func.getLsbD 3
  let mode := (x.func.extractLsb' 4 2).toNat
  ∃ t w' u', exec (.vote x) s = .next t ∧
    (mode = 0 → After s t g sub w w' u u' ((Res.plain w u x x.bytes).one x.d (fun _ => (maskOf (fun l => inMask act l && q l)).setWidth 64)))
    ∧ (mode ≠ 0 → ∃ b : Bool,
        (b = true ↔ (mode = 1 ∧ ∃ l, l < 32 ∧ inMask act l = true ∧ q l = true) ∨ (mode = 2 ∧ ∀ l, l < 32 → inMask act l = true → q l = true)
          ∨ (mode = 3 ∧ ∀ l k, l < 32 → k < 32 → inMask act l = true → inMask act k = true → q l = q k))
        ∧ After s t g sub w w' u u' { Res.plain w u x x.bytes with preds := pushed u.exec act w.pred (fun _ => b) })

/-- R245, R246: REDL writes the value at the root of the fixed pairwise tree over the active lanes, and SCANL each active lane's prefix in ascending lane order,
inclusive or exclusive; both set the flags of their combines. -/
def Obligations.ReductionsAndScans : Prop :=
  ∀ (x : Op) (s : State) (g sub : Nat) (w : Warp) (u : WUnit), CanIssue s g sub w u (Res.plain w u x x.bytes) x.e (x.d.run 1) →
  let op := (x.func.setWidth 3).toNat
  let ty := (x.func.extractLsb' 3 4).toNat
  let act := guardMask w u.exec x.grd
  let f := combine op ty (Rnd.select x.mod.toNat w.fpcr) (bffz w.fpcr)
  let a := fun l => let b := (opVal w u x.lit l x.a).toNat % 2 ^ redWidth ty
    if ty < 4 then flushIn ty (bffz w.fpcr) b else b
  let top := treeNode f (fun l => if inMask act l then some (a l) else none) 5 0
  (∃ t w' u', exec (.redl x) s = .next t ∧
    After s t g sub w w' u u' { (Res.plain w u x x.bytes).one x.d (fun _ => BitVec.ofNat 64 (top.1.getD 0)) with flags := top.2 })
  ∧ ((∃ n, x.d = .v n) → ∃ t w' u', exec (.scanl x) s = .next t ∧
    After s t g sub w w' u u' { (Res.plain w u x x.bytes).one x.d (fun l => BitVec.ofNat 64
        (if x.func.getLsbD 7 then (scanAcc f act a l).1.getD (scanIdentity op ty) else (scanAcc f act a (l + 1)).1.getD 0)) with
      flags := (scanAcc f act a 32).2 })

/-- R192, R196: BRA without a condition, CALL, CALLX and RET, in each form, set PC to their target and end the stroke; CALL and CALLX set s127 to the address
of the next instruction. CALLX and RET take ALIGN where the target is no multiple of 4, with s127 unchanged. -/
def Sys2Proof.Claims.jumpsAndCalls : Prop :=
  ∀ (i : Instr) (x : Op) (len : Nat) (dest : Warp → WUnit → W64) (link aligned : Bool), IsJump i x len dest link aligned →
  ∀ (s : State) (g sub : Nat) (w : Warp) (u : WUnit), CanIssue s g sub w u (Res.plain w u x len) x.e [] →
  (aligned = true → (dest w u).toNat % 4 = 0) →
  (∃ t, exec i s = .next t ∧ Leaves s t g sub { goesTo (Res.plain w u x len) (dest w u) with sca := fun k => if link = true ∧ k = 127 then some (nextOf u len) else none })

/-- R192: a conditional BRA, base or extended, on which every active lane agrees goes to its target, or to the next instruction when no lane is taken, and divides
nothing. -/
def Sys2Proof.Claims.uniformBranches : Prop :=
  ∀ (k : BitVec 3) (i : Instr) (x : Op) (len : Nat), Form2 (.braPk k) (.braPkBase k) 0x71 i x len →
  ∀ (s : State) (g sub : Nat) (w : Warp) (u : WUnit), CanIssue s g sub w u (Res.plain w u x len) x.e [] →
  let p := w.pred k.toNat
  let taken := (if x.mod.getLsbD 0 then ~~~p else p) &&& u.exec
  (taken = 0 → (∃ t, exec i s = .next t ∧ Leaves s t g sub (goesTo (Res.plain w u x len) (nextOf u len))))
  ∧ (taken ≠ 0 → taken = u.exec → (∃ t, exec i s = .next t ∧ Leaves s t g sub (goesTo (Res.plain w u x len) (tgtOf x u))))

/-- R192, R195, R16, R18: a conditional BRA whose lanes disagree, and a BRX whose lanes have two targets or more, divide the unit: by a split where the instruction
does not ask for a serial branch, a split-table entry is free and a SUBID is free, else by a serial branch, whose record's line is opened first. A
uniform BRX goes to the one target, and with EXEC zero to the next instruction. -/
def Sys2Proof.Claims.branchesDivide : Prop :=
  ∀ (i : Instr) (x : Op) (len : Nat) (s s1 : State) (g sub : Nat) (w : Warp) (u : WUnit) (taken : W32) (target other : W64),
  CanIssue s g sub w u (Res.plain w u x len) x.e [] →
  (∃ k, Form2 (.braPk k) (.braPkBase k) 0x71 i x len ∧ s1 = entered s g sub w u x.e ∧ target = tgtOf x u ∧ other = nextOf u len
      ∧ taken = (if x.mod.getLsbD 0 then ~~~(w.pred k.toNat) else w.pred k.toNat) &&& u.exec ∧ taken ≠ 0 ∧ taken ≠ u.exec)
    ∨ (i = .brx x ∧ len = x.bytes ∧ other = u.pc ∧ ∃ ts,
      brxTargets g u.pc (tgtOf x u) (nextOf u len) x.func.toNat (fun l => ((opVal w u x.lit l x.a).setWidth 32).toNat) (lanesOf u.exec) (entered s g sub w u x.e)
          = (s1, .ok ts)
        ∧ target = (ts.headD (0, nextOf u len)).2 ∧ taken = maskOf (fun l => ts.any (fun p => p.1 = l && p.2 = target))) →
  (taken = u.exec → (∃ t, exec i s = .next t ∧ Leaves s1 t g sub (goesTo (Res.plain w u x len) target)))
  ∧ (taken ≠ u.exec → x.mod.getLsbD 1 = false → ∀ e k, s.freeSplit (coreOf g) = some e → s.freeSub g = some k →
      (∃ t, exec i s = .next t ∧ Leaves s1 t g sub (goesTo (Res.plain w u x len) other) (fun t => t.splitUnit g sub e k taken target other (joinOf x u))))
  ∧ (taken ≠ u.exec → x.mod.getLsbD 1 = true ∨ s.freeSplit (coreOf g) = none ∨ s.freeSub g = none → w.stklim.toNat + 32 ≤ w.stkptr.toNat →
      ∀ s2, s1.stackOpen g (w.stkptr.toNat - 32) = (s2, true) →
      (∃ t, exec i s = .next t ∧ Leaves s2 t g sub (goesTo (Res.plain w u x len) other) (fun t => t.serialPush g sub taken target other (joinOf x u))))

/-- R16: a split takes entry `e` for the parent: its PC and EXEC at the branch, its owned lanes outside EXEC and its SUBID; the taken child keeps the SUBID, at the target, and
the other child has SUBID `k`, at the fall-through; each owns the lanes it runs. -/
def Sys2Proof.Claims.splitMakesTwoUnits : Prop :=
  ∀ (s : State) (g sub e k : Nat) (w : Warp) (u : WUnit) (taken : W32) (target other join : W64),
  g < 192 * 128 → s.warp? g = some w → unitOf w.units sub = some u → s.freeSplit (coreOf g) = some e → s.freeSub g = some k →
  ∃ w' a b x, (s.splitUnit g sub e k taken target other join).warp? g = some w' ∧ unitOf w'.units sub = some a ∧ unitOf w'.units k = some b
    ∧ a.pc = target ∧ a.exec = taken ∧ a.owned = taken ∧ a.entry = some e ∧ a.serial = [] ∧ a.st = u.st ∧ a.looks = u.looks
    ∧ b.pc = other ∧ b.exec = u.exec &&& ~~~taken ∧ b.owned = u.exec &&& ~~~taken ∧ b.entry = some e ∧ b.serial = [] ∧ b.st = u.st ∧ b.looks = u.looks
    ∧ (∀ n, n ≠ sub → n ≠ k → unitOf w'.units n = unitOf w.units n)
    ∧ ((s.splitUnit g sub e k taken target other join).core (coreOf g)).split.find? e = some x
    ∧ x.parentEntry = u.entry ∧ x.parentSub = sub ∧ x.rpc = join ∧ x.exec = u.exec ∧ x.arrived = 0 ∧ x.left = 2 ∧ x.owned = u.owned &&& ~~~u.exec
    ∧ (s.splitUnit g sub e k taken target other join).mem = s.mem

/-- R18, R19: a serial branch pushes a record of four dwords below STKPTR, holding the other lanes' PC, the reconvergence PC and the masks, with PHASE 0, sets WSTAT.SERIAL and
runs the taken lanes at the target. -/
def Sys2Proof.Claims.serialBranchPushes : Prop :=
  ∀ (s : State) (g sub : Nat) (w : Warp) (u : WUnit) (taken : W32) (target other join : W64),
  s.warp? g = some w → unitOf w.units sub = some u → w.stkptr.toNat % 32 = 0 →
  32 ≤ w.stkptr.toNat → (w.stack.get SLine.empty (stackLine (w.stkptr.toNat - 32))).words.length = 4 →
  let t := s.serialPush g sub taken target other join
  let a := w.stkptr.toNat - 32
  ∃ w' u', t.warp? g = some w' ∧ unitOf w'.units sub = some u' ∧ w'.stkptr.toNat = a ∧ w'.wstat = w.wstat ||| wsSerial
    ∧ u' = { u with pc := target, exec := taken, serial := BitVec.ofNat 64 a :: u.serial }
    ∧ (t.stackGet g a).2 = some other ∧ (t.stackGet g (a + 8)).2 = some join
    ∧ (t.stackGet g (a + 16)).2 = some (((u.exec &&& ~~~taken).setWidth 64) ||| (u.exec.setWidth 64 <<< 32)) ∧ (t.stackGet g (a + 24)).2 = some 0

/-- R200: NOP, base and extended, and RGN change nothing but the PC; RGN is a region entry, and so commits. YIELD ends the stroke and marks the unit. -/
def Sys2Proof.Claims.nopRgnYield : Prop :=
  ∀ (x : Op) (s : State) (g sub : Nat) (w : Warp) (u : WUnit),
  (∀ i len, Form2 .nop .nopBase 0x3F i x len → CanIssue s g sub w u (Res.plain w u x len) x.e [] → (∃ t, exec i s = .next t ∧ Leaves s t g sub (Res.plain w u x len)))
  ∧ (CanIssue s g sub w u (Res.plain w u x x.bytes) true [] → (∃ t, exec (.rgn x) s = .next t ∧ Leaves s t g sub (Res.plain w u x x.bytes))
      ∧ ∀ t, exec (.rgn x) s = .next t → ∃ w' u', t.warp? g = some w' ∧ unitOf w'.units sub = some u' ∧
          (u.entered = false → u'.rpc = u.pc ∧ u'.ckpt = w.preds))
  ∧ (CanIssue s g sub w u (Res.plain w u x x.bytes) x.e [] →
      (∃ t, exec (.yield x) s = .next t ∧ Leaves s t g sub (goesTo (Res.plain w u x x.bytes) (nextOf u x.bytes)) (fun t => t.modUnit g sub (fun v => { v with yielded := true }))))

/-- R198: EXIT ends the lanes of the active set, and EXIT.all every lane the unit owns: it ends the stroke at the next instruction, and the lanes leave. -/
def Sys2Proof.Claims.exitEndsLanes : Prop :=
  ∀ (x : Op) (s : State) (g sub : Nat) (w : Warp) (u : WUnit), CanIssue s g sub w u (Res.plain w u x x.bytes) x.e [] →
  let gone := if x.mod.getLsbD 0 then u.owned else guardMask w u.exec x.grd
  (∃ t, exec (.exit x) s = .next t ∧ Leaves s t g sub (goesTo (Res.plain w u x x.bytes) (nextOf u x.bytes)) (fun t => t.endLanes g sub gone))
  ∧ (u.owned &&& ~~~gone ≠ 0 → w.helpers = 0 → (∃ t, exec (.exit x) s = .next t ∧ Leaves s t g sub (goesTo (Res.plain w u x x.bytes) (nextOf u x.bytes)) (fun t => t.modUnit g sub (fun v => { v with owned := u.owned &&& ~~~gone, exec := u.exec &&& ~~~gone }))))

/-- R201: FUSE ends the stroke, and the unit reaches its innermost divergence: the phase switch or the restore of its innermost serial record, else arrival at its
split entry; with neither it does nothing else. -/
def Sys2Proof.Claims.fuseReaches : Prop :=
  ∀ (x : Op) (s : State) (g sub : Nat) (w : Warp) (u : WUnit), CanIssue s g sub w u (Res.plain w u x x.bytes) x.e [] →
  let r := goesTo (Res.plain w u x x.bytes) (nextOf u x.bytes)
  (u.serial = [] → u.entry = none → (∃ t, exec (.fuse x) s = .next t ∧ Leaves s t g sub r))
  ∧ (u.serial = [] → ∀ e, u.entry = some e → (∃ t, exec (.fuse x) s = .next t ∧ Leaves s t g sub r (fun t => t.arrive g sub e)))
  ∧ (∀ a rest, u.serial = a :: rest → ∀ s1 c, (entered s g sub w u x.e).serialRec g a.toNat = (s1, some c) →
      (c.phase.getLsbD 0 = false → (∃ t, exec (.fuse x) s = .next t ∧ Leaves s1 t g sub r (fun t =>
        (t.modWarp g (fun v => v.stackPut (a.toNat + 24) ((c.phase &&& ~~~0xFF) ||| 1))).modUnit g sub (fun v => { v with pc := c.ntpc, exec := c.masks.setWidth 32 &&& v.owned }))))
      ∧ (c.phase.getLsbD 0 = true → (∃ t, exec (.fuse x) s = .next t ∧ Leaves s1 t g sub r (fun t =>
        ((t.modUnit g sub (fun v => { v with pc := c.rcpc, exec := c.masks.extractLsb' 32 32 &&& v.owned, serial := rest })).modWarp g
          (fun v => { v with stkptr := a + 32 })).undiverge g))))

/-- R202 to R204, R52, R53: PPOP, PROT, PLOG, PTOX, XTOP, XRD and XWR, in each form, rewrite the predicate depths, EXEC or a scalar, whatever EXEC holds, and change nothing
else. -/
def Obligations.PredicatesAndExec : Prop :=
  ∀ (i : Instr) (x : Op) (len : Nat) (f : Warp → WUnit → Res → Res), IsMask i x len f →
  ∀ (s : State) (g sub : Nat) (w : Warp) (u : WUnit), CanIssue s g sub w u (Res.plain w u x len) x.e [] →
  (∃ t, exec i s = .next t ∧ Leaves s t g sub (f w u (Res.plain w u x len)))

/-- R215, R54: SRD writes a special register's value, zero-extended, in the active lanes of a vector, or in a scalar whatever EXEC holds. The registers of the warp and the unit hold
what State holds. -/
def Sys2Proof.Claims.readsSpecialRegisters : Prop :=
  ∀ (x : Op) (q : Special), x.a = .x q →
  ∀ (s : State) (g sub : Nat) (w : Warp) (u : WUnit), CanIssue s g sub w u (Res.plain w u x x.bytes) x.e (x.d.run 1) →
  ∃ val : Nat → W64, (∀ l v, l < 32 → specialVal s w u l q = some v → val l = v)
    ∧ ((∃ n, x.d = .v n) → (∃ t, exec (.srd x) s = .next t ∧ Leaves s t g sub ((Res.plain w u x x.bytes).one x.d val)))
    ∧ (∀ n, x.d = .s n → (∃ t, exec (.srd x) s = .next t ∧ Leaves s t g sub { Res.plain w u x x.bytes with
        sca := fun k => if k = n.toNat then some (val ((lowLane (guardMask w u.exec x.grd)).getD 0)) else none }))

/-- R216, R53, R54, R70, R71: SWR writes a register that software may write: FPCR's three bits, TRAPH and TRAPPC with bits 1:0 clear, STKPTR inside its limits and aligned, EXEC's
owned bits; in FPSR and WSTAT the bits written as 1 are cleared. It changes nothing else. -/
def Sys2Proof.Claims.writesSpecialRegisters : Prop :=
  ∀ (x : Op) (q : Special), x.d = .x q →
  ∀ (s : State) (g sub : Nat) (w : Warp) (u : WUnit), CanIssue s g sub w u (Res.plain w u x x.bytes) x.e [] →
  let v := opVal w u x.lit 0 x.a
  let r := Res.plain w u x x.bytes
  let s' := entered s g sub w u x.e
  (q = .exec → (∃ t, exec (.swr x) s = .next t ∧ Leaves s t g sub { r with exec := v.setWidth 32 &&& u.owned }))
  ∧ (q = .fpcr → (∃ t, exec (.swr x) s = .next t ∧ Leaves (s'.modWarp g (fun w => { w with fpcr := v.setWidth 32 &&& 7 })) t g sub r))
  ∧ (q = .fpsr → (∃ t, exec (.swr x) s = .next t ∧ Leaves (s'.modWarp g (fun w => { w with fpsr := w.fpsr &&& ~~~(v.setWidth 32) })) t g sub r))
  ∧ (q = .traph → (∃ t, exec (.swr x) s = .next t ∧ Leaves (s'.modWarp g (fun w => { w with traph := v &&& ~~~3 })) t g sub r))
  ∧ (q = .trappc → (∃ t, exec (.swr x) s = .next t ∧ Leaves (s'.modWarp g (fun w => { w with trappc := v &&& ~~~3 })) t g sub r))
  ∧ (q = .wstat → (∃ t, exec (.swr x) s = .next t ∧ Leaves (s'.modWarp g (fun w => { w with wstat := w.wstat &&& ~~~(v.setWidth 32 &&& 7) })) t g sub r))
  ∧ (q = .stkptr → v.toNat % 32 = 0 → w.stklim.toNat ≤ v.toNat → v.toNat ≤ w.stktop.toNat →
      (∃ t, exec (.swr x) s = .next t ∧ Leaves (s'.modWarp g (fun w => { w with stkptr := v })) t g sub r))
  ∧ (q = .stkptr → v.toNat % 32 ≠ 0 → exec (.swr x) s = .next (s'.takeTrap g sub (TrapInfo.unit 4 0 0)))
  ∧ (q = .stkptr → v.toNat % 32 = 0 → v.toNat < w.stklim.toNat ∨ w.stktop.toNat < v.toNat → exec (.swr x) s = .next (s'.takeTrap g sub (TrapInfo.unit 5 0 0)))

/-- R213, R214: TRAP raises the software trap with its code, whatever EXEC holds where it has no guard; with a guard and no active lane it changes nothing. TRET goes to TRAPPC and
ends handler mode. BRK changes nothing where no debugger watches the queue, and else halts the warp at the next instruction. -/
def Obligations.TrapTretBrk : Prop :=
  ∀ (x : Op) (s : State) (g sub : Nat) (w : Warp) (u : WUnit), CanIssue s g sub w u (Res.plain w u x x.bytes) x.e [] →
  let r := Res.plain w u x x.bytes
  let s' := entered s g sub w u x.e
  let off := x.grd ≠ none ∧ guardMask w u.exec x.grd = 0
  (off → (∃ t, exec (.trap x) s = .next t ∧ Leaves s t g sub r) ∧ (∃ t, exec (.brk x) s = .next t ∧ Leaves s t g sub r))
  ∧ (¬ off → exec (.trap x) s = .next (s'.takeTrap g sub { TrapInfo.unit 11 0 0 with code := x.func.toNat }))
  ∧ (w.trappc.toNat % 4 = 0 → (∃ t, exec (.tret x) s = .next t ∧ Leaves s t g sub (goesTo r w.trappc) (fun t =>
      if w.handler then t.modWarp g (fun v => { v with handler := false, units := v.units.map (fun y => { y with stopAt := false }) }) else t)))
  ∧ (w.trappc.toNat % 4 ≠ 0 → exec (.tret x) s = .next (s'.takeTrap g sub (TrapInfo.unit 4 0 0)))
  ∧ (¬ off → (∀ k l, s.launchOf g = some (k, l) → s.attached l = false) → (∃ t, exec (.brk x) s = .next t ∧ Leaves s t g sub r))
  ∧ (¬ off → ∀ k l, s.launchOf g = some (k, l) → s.attached l = true →
      (∃ t, exec (.brk x) s = .next t ∧ Leaves s t g sub (goesTo r (nextOf u x.bytes)) (fun t => t.modWarp g (fun v => { v with halted := true }))))

/-- R217: GETWORK is long-latency: with an active lane it counts the call and leaves the next segment of the workgroup's share outstanding in two scalars, TILE with FIRST, LAST and
FIX, and KBEG with KEND, or DONE; with none it changes nothing. -/
def Obligations.GetworkReturnsSegment : Prop :=
  ∀ (x : Op) (n : BitVec 7) (s : State) (g sub : Nat) (w : Warp) (u : WUnit), x.d = .s n →
  CanIssue s g sub w u (Res.plain w u x x.bytes) x.e [] →
  let r := Res.plain w u x x.bytes
  let seg : Option Segment := match s.launchOf g, s.group? w.wg with
    | some (_, l), some k => if l.iterate then l.segment k.lin w.gwcalls else none
    | _, _ => none
  let first : W64 := match seg with
    | none => 1 <<< 35
    | some q => BitVec.ofNat 64 (q.tile % 2 ^ 32) ||| (if q.first then 1 <<< 32 else 0) ||| (if q.last then 1 <<< 33 else 0) ||| (if q.fix then 1 <<< 34 else 0)
  let second : W64 := match seg with
    | none => 0
    | some q => BitVec.ofNat 64 (q.kBeg + q.kEnd * 2 ^ 32)
  (r.act = 0 → (∃ t, exec (.getwork x) s = .next t ∧ Leaves s t g sub r))
  ∧ (r.act ≠ 0 → (∃ t, exec (.getwork x) s = .next t ∧ Leaves ((entered s g sub w u x.e).modWarp g (fun v => { v with gwcalls := v.gwcalls + 1 })) t g sub (r.owed x.la.toNat x.d [fun _ => first, fun _ => second])))

/-- R57, R59 to R62: the register lists of a warp. A write with a lane maps an unmapped name to a register whose other lanes are zero, and puts it on the new list; a mapped name is
written in place. Last use moves a name to the pending list, or defers it in a divergent warp, whose deferred names go to the list when it is divergent no more. A
commit empties both lists and counts, and marks the registers the matrix engine still holds as last used before it. A replay maps a pending name that is not new
to its register again, and unmaps every new name; a register last used before the region comes back only where its name is unmapped (DEDUCED, log 23). -/
def Sys2Proof.Claims.registerLists : Prop :=
  ∀ (w : Warp) (n : Nat) (m : W32) (v : Lanes),
  (m ≠ 0 → w.mapped n = false → (w.vset n m v).mapped n = true ∧ (w.vset n m v).newList = w.newList ++ [n] ∧ (w.vset n m v).pending = w.pending
      ∧ ∀ l, l < 32 → ((w.vset n m v).vreg n).at l = if inMask m l then v.at l else 0)
  ∧ (m ≠ 0 → w.mapped n = true → (w.vset n m v).newList = w.newList ∧ (w.vset n m v).names.find? n = some { st := .mapped, val := (w.vset n m v).vreg n }
      ∧ ∀ l, l < 32 → ((w.vset n m v).vreg n).at l = if inMask m l then v.at l else (w.vreg n).at l)
  ∧ w.vset n 0 v = w
  ∧ (∀ k, k ≠ n → (w.vset n m v).vreg k = w.vreg k ∧ (w.vset n m v).mapped k = w.mapped k)
  ∧ (∀ e, w.names.find? n = some e →
      ((w.lastUse false n).mapped n = false ∧ (w.lastUse false n).pending = w.pending ++ [{ name := n, val := e.val, slot := none, prior := false }])
      ∧ (w.lastUse true n).names.find? n = some { e with st := .deferred } ∧ (w.lastUse true n).pending = w.pending
      ∧ (e.st = .deferred → w.settleDeferred.mapped n = false ∧ { name := n, val := e.val, slot := none, prior := false } ∈ w.settleDeferred.pending))
  ∧ (w.mapped n = false → w.lastUse false n = w ∧ w.lastUse true n = w)
  ∧ (w.commit.pending = [] ∧ w.commit.newList = [] ∧ w.commit.names = w.names ∧ w.commit.rcount = w.rcount + 1 ∧ ∀ o ∈ w.commit.mops, ∀ p ∈ o.held, p.prior = true)
  ∧ (n ∈ w.newList → (∀ div, (w.rewind div).mapped n = false))
  ∧ (n ∉ w.newList → ∀ p, w.pending.filter (fun q => q.name = n) = [p] → p.prior = false ∨ w.mapped n = false → ∀ div,
      (w.rewind div).names.find? n = some { st := if div then .deferred else .mapped, val := p.val })

/-- R57, R58, R63, R22: before an integer instruction of R221 changes anything, it takes REGFAULT 2 where it reads an unmapped name and the launch traps on that, REGFAULT 1 where
its allocation would raise the held count above the maximum, and waits, with nothing allocated, where the pool cannot supply its destinations beside every older
request. -/
def Sys2Proof.Claims.allocationChecks : Prop :=
  ∀ (o : IntOp) (i : Instr) (x : Op) (len : Nat), o.Is i x len →
  ∀ (s : State) (g sub : Nat) (w : Warp) (u : WUnit), AtIssue s g sub w u → Quiet s g w →
  let r := Res.plain w u x len
  let s' := entered s g sub w u x.e
  let w1 := entryWarp w sub (entersAt u x.e)
  let new := newNames w (x.d.run 1)
  r.act ≠ 0 →
  (w.wstat &&& wsUnmapTrap ≠ 0 → (∃ n ∈ r.reads, w.mapped n = false) → exec i s = .next (s'.takeTrap g sub (TrapInfo.unit 8 2 0)))
  ∧ (ReadsOk w r.reads → new ≠ [] → w.regsMax < w1.held + new.length → exec i s = .next (s'.takeTrap g sub (TrapInfo.unit 8 1 0)))
  ∧ (ReadsOk w r.reads → new ≠ [] → w1.held + new.length ≤ w.regsMax → s'.grantable (quadOf g) (w.lseq, s.handles) new.length = false →
      exec i s = .next { s'.modUnit g sub (fun v => { v with st := .blocked (.alloc (x.d.run 1) s.handles), count := 0, xsets := [] }) with
        focus := none, handles := s.handles + 1 })

/-- R382, R385: a fault that replay resolves makes the warp Faulted: the unit stops where it stands, and registers, predicates, masks and PC keep their values. -/
def Sys2Proof.Claims.replayedFaultStops : Prop :=
  ∀ (s : State) (g sub : Nat) (w : Warp) (u : WUnit) (t : TrapInfo), s.warp? g = some w → unitOf w.units sub = some u → u.looks = [] → Quiet s g w →
  t.replay = true →
  ∃ w' u', (s.takeTrap g sub t).warp? g = some w' ∧ unitOf w'.units sub = some u' ∧ u' = { u with st := .faulted, count := 0, xsets := [] }
    ∧ w' = { w with faulted := true, units := w'.units } ∧ (∀ k, k ≠ sub → unitOf w'.units k = unitOf w.units k)

/-- R388, R382: where the warp has a handler, the class allows one and none is running, a trap enters it: the frame of 1,024 bytes is written below STKPTR through the stack cache,
TRAPPC is the fault PC, or the next instruction's after a TRAP, every lane the unit owns runs at TRAPH, and the siblings stop at their next boundary; registers, scalars
and predicates keep their values. -/
def Obligations.HandlerEntry : Prop :=
  ∀ (s s1 : State) (g sub : Nat) (w : Warp) (u : WUnit) (t : TrapInfo), s.warp? g = some w → unitOf w.units sub = some u → u.looks = [] → Quiet s g w →
  w.traph ≠ 0 → t.handled = true → w.handler = false → (t.cls = 10 → w.grace = false) →
  let f := w.stkptr.toNat - 1024
  w.stkptr.toNat % 32 = 0 → w.stklim.toNat + 1024 ≤ w.stkptr.toNat →
  (∀ k, k < 32 → (w.stack.get SLine.empty (stackLine (f + 32 * k))).words.length = 4) →
  (s.endStroke g sub (.trap t.cls) .ready).stackReach g (lineHeads ((handlerFrame u t f).map (·.1))) = (s1, none) →
  ∃ w' u', (s.takeTrap g sub t).warp? g = some w' ∧ unitOf w'.units sub = some u'
    ∧ u'.pc = w.traph ∧ u'.exec = u.owned ∧ u'.owned = u.owned ∧ u'.st = .ready ∧ u'.rpc = w.traph ∧ u'.ckpt = w.preds
    ∧ w'.trappc = (if t.cls = 11 then u.pc + 12 else u.pc) ∧ w'.handler = true ∧ w'.stkptr = BitVec.ofNat 64 f
    ∧ (∀ k, k ≠ sub → unitOf w'.units k = (unitOf w.units k).map (fun v => { v with stopAt := true }))
    ∧ (∀ n, w'.vreg n = w.vreg n) ∧ (∀ n, w'.sreg n = w.sreg n) ∧ w'.preds = w.preds ∧ w'.pending = [] ∧ w'.newList = []
    ∧ (s.takeTrap g sub t).mem = s1.mem
    ∧ (∀ l, l < 32 → ∀ (k : Nat) (v : W64), (k = 0 ∧ v = BitVec.ofNat 64 (t.cls + t.sub * 2 ^ 8 + t.code * 2 ^ 16)) ∨ (k = 1 ∧ v = u.pc)
        ∨ (k = 2 ∧ v = BitVec.ofNat 64 (u.exec.toNat + sub * 2 ^ 32)) ∨ (k = 3 ∧ v = ((t.failed.find? (fun p => p.1 = l)).map (·.2)).getD 0) →
        (w'.stack.get SLine.empty (stackLine (f + 256 * k + 8 * l))).words.getD ((f + 256 * k + 8 * l) % 32 / 8) none = some (v, true))

/-- R382, R45: where no handler runs, and replay does not resolve the trap, the warp halts: it ends, and its launch fails with status WDOG for class 10 and HALTED for every other
class, unless it had failed already. -/
def Sys2Proof.Claims.haltingTrapEndsWarp : Prop :=
  ∀ (s : State) (g sub : Nat) (w : Warp) (u : WUnit) (t : TrapInfo) (k : Group) (l : Launch), s.warp? g = some w → unitOf w.units sub = some u → u.looks = [] →
  Quiet s g w → w.mops = [] → s.group? w.wg = some k → s.launch? k.launch = some l → t.replay = false →
  (w.traph = 0 ∨ t.handled = false ∨ w.handler = true ∨ (t.cls = 10 ∧ w.grace = true)) →
  (s.takeTrap g sub t).warp? g = none
  ∧ ∃ l', (s.takeTrap g sub t).launch? k.launch = some l' ∧ l'.status = if l.status = 0 then (if t.cls = 10 then 8 else 9) else l.status

/-- R383: the 128 bytes of a fault record: each field at its place, and zero where the rule gives none. -/
def Sys2Proof.Claims.faultRecordLayout : Prop :=
  ∀ (s : State) (g : Nat) (w : Warp) (u : WUnit) (l : Launch) (t : TrapInfo) (flags : Nat),
  let b := faultBytes s g w u l t flags
  let field := fun (at' n : Nat) => leNat ((b.drop at').take n)
  b.length = 128 ∧ field 0 1 = t.cls % 2 ^ 8 ∧ field 1 1 = t.sub % 2 ^ 8 ∧ field 2 1 = flags % 2 ^ 8 ∧ field 3 1 = t.lane % 2 ^ 8 ∧ field 4 4 = t.code % 2 ^ 32
    ∧ field 8 8 = u.pc.toNat ∧ field 16 8 = u.rpc.toNat ∧ field 24 4 = w.rcount.toNat ∧ field 28 4 = w.lseq % 2 ^ 32 ∧ field 32 8 = t.addr.toNat
    ∧ field 40 4 = t.version % 2 ^ 32 ∧ field 44 4 = u.exec.toNat ∧ field 48 8 = s.wgidOf w % 2 ^ 64
    ∧ field 56 2 = (dieOf g + coreOf g % 48 * 4 + g % 128 * 256) % 2 ^ 16 ∧ field 58 1 = u.sub % 2 ^ 8 ∧ field 59 1 = 0 ∧ field 60 4 = l.qid % 2 ^ 32
    ∧ field 64 8 = s.rtime % 2 ^ 64 ∧ field 72 8 = w.strokes % 2 ^ 64 ∧ (b.drop 80) = List.replicate 48 0

/-- R386: a resumed unit starts its region again: PC is the region's entry, the depths of the lanes it owns are those at the entry and the other lanes keep theirs, the rename table
is that of the entry, and EXEC, the owned set, the serial records, scalars and STKPTR stay. -/
def Sys2Proof.Claims.replayStartsRegion : Prop :=
  ∀ (s : State) (g sub : Nat) (w : Warp) (u : WUnit), s.warp? g = some w → unitOf w.units sub = some u →
  ∃ w' u', (s.replayUnit g sub).warp? g = some w' ∧ unitOf w'.units sub = some u'
    ∧ u'.pc = u.rpc ∧ u'.st = .ready ∧ u'.exec = u.exec ∧ u'.owned = u.owned ∧ u'.serial = u.serial ∧ u'.entry = u.entry
    ∧ (∀ k, k < 8 → w'.pred k = (u.ckpt.getD k 0 &&& u.owned) ||| (w.pred k &&& ~~~u.owned))
    ∧ w'.names = (w.rewind (s.divergent g)).names ∧ w'.pending = [] ∧ w'.newList = []
    ∧ w'.sregs = w.sregs ∧ w'.stkptr = w.stkptr ∧ w'.fpsr = w.fpsr ∧ w'.rcount = w.rcount ∧ w'.strokes = w.strokes
    ∧ s.replayUnit g sub = { s with warps := (s.replayUnit g sub).warps }

/-- R205: a warp arrives at a barrier once each of its live units is recorded, and the barrier completes once every warp that has not exited has arrived: its phase
advances and its sets empty. -/
def Sys2Proof.Claims.barrierCompletes : Prop :=
  ∀ (s : State) (k : Group) (b : Barrier),
  ((∃ i, arrivedAt s k b i) → (∀ p ∈ s.liveWarps k, arrivedAt s k b p.1) →
    (stepBarrier s k b).phase = b.phase + 1 ∧ (stepBarrier s k b).units = [] ∧ (stepBarrier s k b).arrived = [])
  ∧ (¬ ((∃ i, arrivedAt s k b i) ∧ ∀ p ∈ s.liveWarps k, arrivedAt s k b p.1) →
    (stepBarrier s k b).phase = b.phase ∧ (stepBarrier s k b).units = b.units ∧ ∀ i, i ∈ (stepBarrier s k b).arrived ↔ arrivedAt s k b i)

/-- R205, R22, R113: BAR and BARA record the unit where its warp has not arrived, and bring the barrier up to date; where that completes the phase a BAR goes on, as an acquire of the
core, and else its unit waits; a BARA goes on. Where the warp has arrived the unit waits before the instruction. BARW goes on, as an acquire, where a BARA of the warp has completed, waits where
its warp has arrived by BARA, and else acts as BAR. -/
def Sys2Proof.Claims.barriers : Prop :=
  ∀ (x : Op) (s : State) (g sub : Nat) (w : Warp) (u : WUnit), CanIssue s g sub w u (Res.plain w u x x.bytes) x.e [] →
  let r := Res.plain w u x x.bytes
  let s' := entered s g sub w u x.e
  let b := (opVal w u x.lit 0 x.a).toNat % 16
  let y := s.barrier w.wg b
  let waitsAt (i : Instr) (s1 : State) (p : Nat) : Prop :=
    (p < (s1.barrier w.wg b).phase → (∃ t, exec i s = .next t ∧ Leaves (s1.acquire (coreOf g)) t g sub r))
    ∧ (¬ p < (s1.barrier w.wg b).phase → (∃ t, exec i s = .next t ∧ Leaves s1 t g sub (goesTo r (nextOf u x.bytes)) (waits g sub (.bar b p))))
  let held (i : Instr) : Prop := exec i s = .next { s'.modUnit g sub (fun v => { v with st := .blocked (.bar b y.phase), count := 0, xsets := [] }) with focus := none }
  let asBar (i : Instr) (s1 : State) : Prop := waitsAt i ((s1.modBar w.wg b (fun z => z.record w.wgw sub)).checkBars w.wg) y.phase
  let used (p : Nat) : State := s'.modBar w.wg b (fun z => z.useBara w.wgw sub p w.liveSubs)
  (w.wgw ∉ y.arrived → asBar (.bar x) s')
  ∧ (w.wgw ∈ y.arrived → held (.bar x) ∧ held (.bara x))
  ∧ (w.wgw ∉ y.arrived → (∃ t, exec (.bara x) s = .next t ∧ Leaves ((s'.modBar w.wg b (fun z => (z.record w.wgw sub).noteBara w.wgw)).checkBars w.wg) t g sub r))
  ∧ (∀ p, y.oldBara w.wgw sub = some p → (∃ t, exec (.barw x) s = .next t ∧ Leaves ((used p).acquire (coreOf g)) t g sub r))
  ∧ (y.oldBara w.wgw sub = none → y.hasBara w.wgw = true → w.wgw ∈ y.arrived → waitsAt (.barw x) (used y.phase) y.phase)
  ∧ (y.oldBara w.wgw sub = none → y.hasBara w.wgw = true → w.wgw ∉ y.arrived → asBar (.barw x) (used y.phase))
  ∧ (y.oldBara w.wgw sub = none → y.hasBara w.wgw = false → w.wgw ∉ y.arrived → asBar (.barw x) s')
  ∧ (y.oldBara w.wgw sub = none → y.hasBara w.wgw = false → w.wgw ∈ y.arrived → held (.barw x))

/-- R206, R33: GBAR takes RECBAD 4 where its entry does not list the workgroup or the warp was relaunched; else it records the unit at the entry, and goes on, as an acquire, where the
entry is complete with it, or waits. -/
def Sys2Proof.Claims.groupBarrier : Prop :=
  ∀ (x : Op) (s : State) (g sub : Nat) (w : Warp) (u : WUnit) (key : Nat) (l : Launch) (k : Group), CanIssue s g sub w u (Res.plain w u x x.bytes) x.e [] →
  s.launchOf g = some (key, l) → s.group? w.wg = some k →
  let r := Res.plain w u x x.bytes
  let s' := entered s g sub w u x.e
  let e := (opVal w u x.lit 0 x.a).toNat % 256
  let s1 := (s'.modGroup w.wg (fun k => if k.garr.contains (e, w.wgw, sub) then k else { k with garr := k.garr ++ [(e, w.wgw, sub)] })).checkEntry key e
  let done := ((s1.launch? key).map (fun l => l.gdone.getD e 0)).getD 0
  (k.relaunched = true ∨ k.lin ∉ l.groups.getD e [] → exec (.gbar x) s = .next (s'.takeTrap g sub (TrapInfo.unit 7 4 0)))
  ∧ (k.relaunched = false → k.lin ∈ l.groups.getD e [] →
      (l.gdone.getD e 0 < done → (∃ t, exec (.gbar x) s = .next t ∧ Leaves (s1.acquire (coreOf g)) t g sub r))
      ∧ (done ≤ l.gdone.getD e 0 → (∃ t, exec (.gbar x) s = .next t ∧ Leaves s1 t g sub (goesTo r (nextOf u x.bytes)) (waits g sub (.gbar e (l.gdone.getD e 0))))))

/-- R208, R210: WATCH and WAITW read the aligned word at their address once, at its home, and leave 0 outstanding, as an acquire, where the masked value passes; where it does not, WAITW
leaves 2, and WATCH waits with an armed entry, or leaves 1 where the table is full. With no active lane both change nothing, and a misaligned address is ALIGN. -/
def Sys2Proof.Claims.watchAndWaitw : Prop :=
  ∀ (x : Op) (n : BitVec 7) (s : State) (g sub : Nat) (w : Warp) (u : WUnit), x.d = .s n → CanIssue s g sub w u (Res.plain w u x x.bytes) x.e [] →
  let r := Res.plain w u x x.bytes
  let s' := entered s g sub w u x.e
  let wide := x.func.getLsbD 3
  let size := if wide then 8 else 4
  let va := opVal w u x.lit 0 x.a
  let gives (v : W64) : Res := r.owed x.la.toNat x.d [fun _ => v]
  (r.act = 0 → (∃ t, exec (.watch x) s = .next t ∧ Leaves s t g sub r) ∧ (∃ t, exec (.waitw x) s = .next t ∧ Leaves s t g sub r))
  ∧ (r.act ≠ 0 → va.toNat % size ≠ 0 → exec (.watch x) s = .next (s'.takeTrap g sub (TrapInfo.unit 4 0 va)) ∧ exec (.waitw x) s = .next (s'.takeTrap g sub (TrapInfo.unit 4 0 va)))
  ∧ (r.act ≠ 0 → va.toNat % size = 0 → ∀ s1 pa pte addr s2 v, s'.xlatCore (coreOf g) (s'.rootOf g) va .read = (s1, .ok pa pte addr) → s1.memReady pa = true →
      (s1.touch addr false).homeRead (dieOf g) (pteScope pte) pa size = (s2, v) →
      let m := opVal w u x.lit 0 x.c
      let ref := opVal w u x.lit 0 x.b
      let ok : Prop := if wide then passes 64 (x.func.setWidth 3).toNat (BitVec.ofNat 64 v) m (ref &&& m)
        else passes 32 (x.func.setWidth 3).toNat (BitVec.ofNat 32 v) (m.setWidth 32) ((ref &&& m).setWidth 32)
      let e : Watch := { cmp := (x.func.setWidth 3).toNat, w64 := wide, kind := 0, pa := pa, mask := if wide then m else (m.setWidth 32).setWidth 64,
                         ref := ref &&& (if wide then m else (m.setWidth 32).setWidth 64), waiter := waiterUnit g sub, fired := false }
      (ok → (∃ t, exec (.watch x) s = .next t ∧ Leaves (s2.acquire (coreOf g)) t g sub (gives 0)) ∧ (∃ t, exec (.waitw x) s = .next t ∧ Leaves (s2.acquire (coreOf g)) t g sub (gives 0)))
      ∧ (¬ ok → (∃ t, exec (.waitw x) s = .next t ∧ Leaves s2 t g sub (gives 2)))
      ∧ (¬ ok → s2.armWatch e = none → (∃ t, exec (.watch x) s = .next t ∧ Leaves s2 t g sub (gives 1)))
      ∧ (¬ ok → ∀ d i s3, s2.armWatch e = some (d, i, s3) → (∃ t, exec (.watch x) s = .next t ∧ Leaves s3 t g sub { goesTo r (nextOf u x.bytes) with late := some (owesScalar x.la.toNat n.toNat 0) } (waits g sub (.watch d i x.bytes)))))

/-- R211: SLEEP waits until the local CLK has counted on by its operand; SLEEP 0 acts as YIELD. -/
def Sys2Proof.Claims.sleepWaits : Prop :=
  ∀ (x : Op) (s : State) (g sub : Nat) (w : Warp) (u : WUnit), CanIssue s g sub w u (Res.plain w u x x.bytes) x.e [] →
  let r := goesTo (Res.plain w u x x.bytes) (nextOf u x.bytes)
  let n := ((opVal w u x.lit 0 x.a).setWidth 32).toNat
  (n = 0 → (∃ t, exec (.sleep x) s = .next t ∧ Leaves s t g sub r (fun t => t.modUnit g sub (fun v => { v with yielded := true }))))
  ∧ (n ≠ 0 → (∃ t, exec (.sleep x) s = .next t ∧ Leaves s t g sub r (waits g sub (.sleep ((s.clk (dieOf g) + n) % 2 ^ 64)))))

/-- R212, R353, R354: SWI with a real lane active ORs its value into the mailbox of the local control core, or into the wake word of a queue of its own interface and kicks it; one that names
no such queue, or sets other bits with the mailbox, is dropped and counted in VIFCNT. It changes no register. -/
def Sys2Proof.Claims.softwareInterrupt : Prop :=
  ∀ (x : Op) (s : State) (g sub : Nat) (w : Warp) (u : WUnit) (key : Nat) (l : Launch), CanIssue s g sub w u (Res.plain w u x x.bytes) x.e [] →
  s.launchOf g = some (key, l) →
  let r := Res.plain w u x x.bytes
  let s' := entered s g sub w u x.e
  let a := opVal w u x.lit 0 x.a
  let v := (opVal w u x.lit 0 x.b).setWidth 32
  let dropped := s'.setPkgReg (.vifcnt l.vif) (((s'.pkgReg (.vifcnt l.vif)) &&& ~~~0xFFFFFFFF) |||
    BitVec.ofNat 64 (min (((s'.pkgReg (.vifcnt l.vif)).setWidth 32).toNat + 1) (2 ^ 32 - 1)))
  (r.act &&& ~~~w.helpers = 0 → (∃ t, exec (.swi x) s = .next t ∧ Leaves s t g sub r))
  ∧ (r.act &&& ~~~w.helpers ≠ 0 →
      (a.getLsbD 63 = true → a.setWidth 12 = 0 → (∃ t, exec (.swi x) s = .next t ∧ Leaves (s'.setDieReg (dieOf g) .mbox (s'.dieReg (dieOf g) .mbox ||| v.setWidth 64)) t g sub r))
      ∧ (a.getLsbD 63 = true → a.setWidth 12 ≠ 0 → (∃ t, exec (.swi x) s = .next t ∧ Leaves dropped t g sub r))
      ∧ (a.getLsbD 63 = false → s.ownQueue l.vif (a.setWidth 12).toNat = none → (∃ t, exec (.swi x) s = .next t ∧ Leaves dropped t g sub r))
      ∧ (a.getLsbD 63 = false → ∀ q, s.ownQueue l.vif (a.setWidth 12).toNat = some q → (∃ t, exec (.swi x) s = .next t ∧ Leaves ((s'.orWord (q.qcb + qcbWAKE) v.toNat).kickQueue q) t g sub r)))

/-- R247, R249 to R251, R254: LD and LDC check the effective address of each accessing lane, and where a lane fails take the trap; where all pass they read each lane's items
through their path, after the L1 is invalidated for an acquire, and leave the extended values outstanding. -/
def Sys2Proof.Claims.loads : Prop :=
  ∀ (i : Instr) (x : Op) (p : Path), (i = .ld x ∧ p = .generic) ∨ (i = .ldc x ∧ p = .constant) →
  ∀ (s : State) (g sub : Nat) (w : Warp) (u : WUnit), CanIssue s g sub w u (Res.load w u x (memCount x)) x.e (x.d.run (memCount x)) →
  let c := (ctxAt s g sub w u x).checkMem (loadLanes w u x) (eaOf w u x) (memItem x) (memCount x) (memItem x) .read
  (∀ t, c = .trap t → exec i s = .next ((entered s g sub w u x.e).takeTrap g sub t))
  ∧ (∀ s1 as, c = .ok s1 as →
      let y := readItems (coreOf g) p (memItem x) (memExtend x) as (if x.mod.extractLsb' 4 2 = 1 then acqOf s1 g else s1)
      (∃ t, exec i s = .next t ∧ Leaves y.1 t g sub ((Res.load w u x (memCount x)).owed x.la.toNat x.d ((List.range (memCount x)).map (fun k l => laneVal y.2 k l)))))

/-- R253, R100: LDV checks the version it names on each page, takes VERFAULT for the lanes that fail, and else reads the frames of that version, with the extended values
outstanding. -/
def Sys2Proof.Claims.versionedLoads : Prop :=
  ∀ (x : Op) (s : State) (g sub : Nat) (w : Warp) (u : WUnit), CanIssue s g sub w u (Res.load w u x (memCount x)) x.e (x.d.run (memCount x)) →
  let c := (ctxAt s g sub w u x).checkMem (loadLanes w u x) (eaOf w u x) (memItem x) (memCount x) (memItem x) .read
  let ver := ((opVal w u x.lit 0 x.c).setWidth 32).toNat
  (∀ t, c = .trap t → exec (.ldv x) s = .next ((entered s g sub w u x.e).takeTrap g sub t))
  ∧ (∀ s1 as ok fs, c = .ok s1 as → checkVersions s1 ver as = (ok, fs) →
      let real := fs.filter (fun f => !inMask w.helpers f.1)
      (real ≠ [] → exec (.ldv x) s = .next ((entered s g sub w u x.e).takeTrap g sub (failTrap (eaOf w u x) ver real.eraseDups)))
      ∧ (real = [] →
        let as := ok.filter (fun a => !fs.any (fun f => f.1 = a.lane))
        let y := readVersions (coreOf g) ver (memItem x) (memExtend x) as (if x.mod.extractLsb' 4 2 = 1 then acqOf s1 g else s1)
        (∃ t, exec (.ldv x) s = .next t ∧ Leaves y.1 t g sub ((Res.load w u x (memCount x)).owed x.la.toNat x.d ((List.range (memCount x)).map (fun k l => laneVal y.2 k l))))))

/-- R79, R82, R251: a load's item is read from the core's copy of its sector or line where the path holds one, else from memory at its physical address, after a line in state U is merged; its bytes
are little-endian, extended by the type, and reading changes no byte of memory but the accessed bits and merged reductions. An image's item is read in memory whatever the core
holds (R125). -/
def Sys2Proof.Claims.loadedValue : Prop :=
  ∀ (core size : Nat) (p : Path) (ext : Nat → W64) (a : Acc) (s : State), s.memOk = true → inHole a.pa = false → a.pa % p.fill + size ≤ p.fill →
  let y := readItems core p size ext [a] s
  let s1 := s.touch a.addr false
  (∀ l, ((s1.core core).cache p).find? (a.pa / p.fill) = some l → y.2 = [(a.lane, a.k, ext (leNat ((l.drop (a.pa % p.fill)).take size)))] ∧ y.1 = s1)
  ∧ (∀ ver, s1.isImage a.addr ver = true →
      let z := readVersions core ver size ext [a] s
      z.2 = [(a.lane, a.k, ext (Store.item z.1.mem a.pa size))] ∧ ∀ b, untouched s [a] 0 b → Store.get z.1.mem b = Store.get s.mem b)
  ∧ (((s1.core core).cache p).find? (a.pa / p.fill) = none → pteScope a.pte ≠ 2 →
      y.2 = [(a.lane, a.k, ext (Store.item y.1.mem a.pa size))] ∧ (pteScope a.pte ≠ 1 ∨ (s1.dirEnt a.pa).st ≠ .u → y.1.mem = s1.mem))
  ∧ ∀ b, untouched s [a] 0 b → Store.get y.1.mem b = Store.get s.mem b

/-- R247, R249, R250, R252, R94, R98, R104: ST checks each real lane, takes MEMFAULT for the lanes whose page cannot be copied, and else goes on at once, whatever its pages wait for. Where no page is
under copy-on-write it writes each item's low bytes of its data at its physical address: a byte that is no item's, no leaf entry's and no waiting reduction's keeps its value, and an item
that no other item or entry shares holds its data. An item on a page that is being copied waits there behind the earlier ones, with the data it had at issue. -/
def Obligations.Stores : Prop :=
  ∀ (x : Op) (s : State) (g sub : Nat) (w : Warp) (u : WUnit), s.memOk = true → CanIssue s g sub w u (Res.store w u x (memCount x)) x.e [] →
  let n := memItem x
  let c := (ctxAt s g sub w u x).checkMem (realLanes w u x) (eaOf w u x) n (memCount x) n .write
  (∀ t, c = .trap t → exec (.st x) s = .next ((entered s g sub w u x.e).takeTrap g sub t))
  ∧ (∀ s1 as, c = .ok s1 as →
      (cowFails s1 as ≠ [] → exec (.st x) s = .next ((entered s g sub w u x.e).takeTrap g sub (failTrap (eaOf w u x) 0 (cowFails s1 as))))
      ∧ (cowFails s1 as = [] → ∃ s3, (∃ t, exec (.st x) s = .next t ∧ Leaves s3 t g sub (Res.store w u x (memCount x))))
      ∧ (∀ a c, as = [a] → pteVS (s1.leaf a.addr) = true → pteCW (s1.leaf a.addr) = true → s1.cows.find? a.addr = some c → (c.timedOut && c.frame.isNone) = false →
          ∃ s3 late, (∃ t, exec (.st x) s = .next t ∧ Leaves s3 t g sub (Res.store w u x (memCount x))) ∧ s3.cows.find? a.addr = some { c with late := c.late ++ [late] } ∧ late.off = a.pa % 65536
            ∧ late.op = .bytes (leBytes n (dataVal w u x a.lane a.k).toNat) ∧ ∀ b, ¬ within b a.addr 8 → Store.get s3.mem b = Store.get s.mem b)
      ∧ ((∀ a ∈ as, (pteVS (s1.leaf a.addr) && pteCW (s1.leaf a.addr)) = false) → leavesApart s as n →
        ∃ s3, (∃ t, exec (.st x) s = .next t ∧ Leaves s3 t g sub (Res.store w u x (memCount x)))
          ∧ (∀ a, untouched s as n a → Store.get s3.mem a = Store.get s.mem a)
          ∧ ∀ b ∈ as, (∀ a ∈ as, a.pa = b.pa → a = b) → (∀ a ∈ as, a.pa ≠ b.pa → a.pa + n ≤ b.pa ∨ b.pa + n ≤ a.pa) →
              (∀ q ∈ s.partials, q.pa + 8 ≤ b.pa ∨ b.pa + n ≤ q.pa) →
              ∀ j, j < n → Store.get s3.mem (b.pa + j) = (dataVal w u x b.lane b.k).extractLsb' (8 * j) 8))

/-- R256, R84, R250: LDS and STS check each lane's window offset; LDS leaves the extended items outstanding, STS writes them. Memory does not change, nor, by STS, a byte of any scratchpad outside
the items. -/
def Obligations.Scratchpad : Prop :=
  ∀ (x : Op) (s : State) (g sub : Nat) (w : Warp) (u : WUnit) (k : Group), s.memOk = true → s.group? w.wg = some k →
  let n := memItem x
  let total := n * memCount x
  (CanIssue s g sub w u (Res.load w u x (memCount x)) x.e (x.d.run (memCount x)) →
    let c := scrCheck (ctxAt s g sub w u x) k (loadLanes w u x) (eaOf w u x) n total
    (∀ t, c = .error t → exec (.lds x) s = .next ((entered s g sub w u x.e).takeTrap g sub t))
    ∧ (∀ ls, c = .ok ls → (∃ t, exec (.lds x) s = .next t ∧ Leaves s t g sub ((Res.load w u x (memCount x)).owed x.la.toNat x.d ((List.range (memCount x)).map (fun i l =>
        if l ∈ ls then memExtend x (s.scrGet k ((eaOf w u x l).toNat + n * i) n) else 0))))))
  ∧ (CanIssue s g sub w u (Res.store w u x (memCount x)) x.e [] →
    let c := scrCheck (ctxAt s g sub w u x) k (realLanes w u x) (eaOf w u x) n total
    (∀ t, c = .error t → exec (.sts x) s = .next ((entered s g sub w u x.e).takeTrap g sub t))
    ∧ (∀ ls, c = .ok ls → ∃ s3, (∃ t, exec (.sts x) s = .next t ∧ Leaves s3 t g sub (Res.store w u x (memCount x))) ∧ s3.mem = s.mem
        ∧ (∀ core o, (∀ l ∈ ls, ∀ j, j < total → k.place ((eaOf w u x l).toNat + j) ≠ (core, o)) → Store.get (s3.core core).scratch o = Store.get (s.core core).scratch o)
        ∧ (k.nbH = 0 → ∀ l ∈ ls, (∀ m ∈ ls, m ≠ l → (eaOf w u x m).toNat + total ≤ (eaOf w u x l).toNat ∨ (eaOf w u x l).toNat + total ≤ (eaOf w u x m).toNat) →
            ∀ i, i < memCount x → s3.scrGet k ((eaOf w u x l).toNat + n * i) n = (dataVal w u x l i).toNat % 2 ^ (8 * n))))

/-- R257, R258, R160, R104, R98: ATOM with one item reads it at its home, leaves the old value outstanding, zero-extended, and writes what the operation gives; a cas that finds another value writes
nothing. Memory keeps every byte but the item's, the leaf entry's and those of waiting reductions. On a page that is being copied the atomic waits there, and its result with it; one whose
page cannot be copied is MEMFAULT. -/
def Sys2Proof.Claims.atomics : Prop :=
  ∀ (x : Op) (s : State) (g sub : Nat) (w : Warp) (u : WUnit), s.memOk = true →
  let r := { Res.store w u x 1 with dests := x.d.run 1 }
  CanIssue s g sub w u r x.e (x.d.run 1) →
  let n := atomWidth (atomTy x) / 8
  let ea := fun l => if atomOp x = 7 then opVal w u x.lit l x.a else eaOf w u x l
  let c := (ctxAt s g sub w u x).checkMem ((loadLanes w u x).filter (fun l => !inMask w.helpers l)) ea n 1 n .write
  (∀ t, c = .trap t → exec (.atom x) s = .next ((entered s g sub w u x.e).takeTrap g sub t))
  ∧ (∀ s1, c = .ok s1 [] → ∃ s2, (∃ t, exec (.atom x) s = .next t ∧ Leaves s2 t g sub (r.owed x.la.toNat x.d [fun _ => 0])) ∧ s2.mem = s.mem)
  ∧ (∀ s1 a, c = .ok s1 [a] →
      let y := (s1.touch a.addr false).homeRead (dieOf g) (pteScope a.pte) a.pa n
      let new := atomNew (atomOp x) (atomTy x) y.2 (atomVal w u x x.c a.lane).toNat
      let keeps := atomOp x = 7 ∧ y.2 ≠ (atomVal w u x x.b a.lane).toNat % 2 ^ (8 * n)
      let res := r.owed x.la.toNat x.d [fun l => if l = a.lane then BitVec.ofNat 64 y.2 else 0]
      (keeps → ∃ s2, (∃ t, exec (.atom x) s = .next t ∧ Leaves s2 t g sub res) ∧ ∀ b, untouched s [a] n b ∨ within b a.pa n ∧ (∀ p ∈ s.partials, ¬ within b p.pa 8) ∧ ¬ within b a.addr 8 →
          Store.get s2.mem b = Store.get s.mem b)
      ∧ (¬ keeps → cowFails s1 [a] ≠ [] → exec (.atom x) s = .next ((entered s g sub w u x.e).takeTrap g sub (failTrap ea 0 (cowFails s1 [a]))))
      ∧ ((∃ m, x.d = .v m) ∨ (∃ m, x.d = .s m) ∨ (∃ m, x.d = .w m) → ¬ keeps → pteVS (s1.leaf a.addr) = true → pteCW (s1.leaf a.addr) = true → ∀ q, s1.cows.find? a.addr = some q → (q.timedOut && q.frame.isNone) = false →
          ∃ s2 late, (∃ t, exec (.atom x) s = .next t ∧ Leaves s2 t g sub { r with late := some (fun k => k.left = x.la.toNat ∧ k.ready = false) })
            ∧ s2.cows.find? a.addr = some { q with late := q.late ++ [late] } ∧ late.off = a.pa % 65536)
      ∧ (¬ keeps → (pteVS (s1.leaf a.addr) && pteCW (s1.leaf a.addr)) = false → ∃ s2, (∃ t, exec (.atom x) s = .next t ∧ Leaves s2 t g sub res)
          ∧ (∀ b, untouched s [a] n b → Store.get s2.mem b = Store.get s.mem b) ∧ (a.addr + 8 ≤ a.pa ∨ a.pa + n ≤ a.addr → Store.item s2.mem a.pa n = new)))

/-- R258, R231: what each operation gives on the old item and its operand: wrapping or rounded addition, minimum and maximum by the type's signedness, the bitwise operations, and exchange. -/
def Sys2Proof.Claims.atomicOperations : Prop :=
  ∀ (op ty : Nat) (old c : W64), op < 8 →
  (ty = 7 ∨ ty = 11 → atomNew op ty old.toNat c.toNat = (atomOn 64 op none (ty = 7) old c).toNat)
  ∧ (ty = 6 ∨ ty = 10 → atomNew op ty (old.setWidth 32).toNat c.toNat = (atomOn 32 op none (ty = 6) (old.setWidth 32) (c.setWidth 32)).toNat)
  ∧ (ty = 0 → op < 3 ∨ 6 ≤ op → atomNew op ty old.toNat c.toNat = (atomOn 64 op (some 0) true old c).toNat)
  ∧ (ty = 1 → op < 3 ∨ 6 ≤ op → atomNew op ty (old.setWidth 32).toNat (c.setWidth 32).toNat = (atomOn 32 op (some 1) true (old.setWidth 32) (c.setWidth 32)).toNat)

/-- R259: RED checks each real lane, writes no register, and reduces each item; where one item on a page that is not package-shared is reduced, it holds what the operation gives, and every byte
but the item's, the leaf entry's and those of waiting reductions keeps its value. On a package-shared page with no watch on the line, memory keeps the item, and the value is in the die's partial. On
a page that is being copied the reduction waits there, and the unit goes on; one whose page cannot be copied is MEMFAULT. -/
def Sys2Proof.Claims.reductions : Prop :=
  ∀ (x : Op) (s : State) (g sub : Nat) (w : Warp) (u : WUnit), s.memOk = true → CanIssue s g sub w u (Res.store w u x 1) x.e [] →
  let n := atomWidth (atomTy x) / 8
  let c := (ctxAt s g sub w u x).checkMem (realLanes w u x) (eaOf w u x) n 1 n .write
  (∀ t, c = .trap t → exec (.red x) s = .next ((entered s g sub w u x.e).takeTrap g sub t))
  ∧ (∀ s1, c = .ok s1 [] → ∃ s2, (∃ t, exec (.red x) s = .next t ∧ Leaves s2 t g sub (Res.store w u x 1)) ∧ s2.mem = s.mem)
  ∧ (∀ s1 as, c = .ok s1 as →
      (cowFails s1 as ≠ [] → exec (.red x) s = .next ((entered s g sub w u x.e).takeTrap g sub (failTrap (eaOf w u x) 0 (cowFails s1 as))))
      ∧ (cowFails s1 as = [] → ∃ s2, (∃ t, exec (.red x) s = .next t ∧ Leaves s2 t g sub (Res.store w u x 1))))
  ∧ (∀ s1 a q, c = .ok s1 [a] → pteVS (s1.leaf a.addr) = true → pteCW (s1.leaf a.addr) = true → s1.cows.find? a.addr = some q → (q.timedOut && q.frame.isNone) = false →
      ∃ s2 late, (∃ t, exec (.red x) s = .next t ∧ Leaves s2 t g sub (Res.store w u x 1)) ∧ s2.cows.find? a.addr = some { q with late := q.late ++ [late] } ∧ late.off = a.pa % 65536
        ∧ late.op = .red (atomOp x) (atomTy x) (atomVal w u x x.c a.lane))
  ∧ (∀ s1 a, c = .ok s1 [a] → (pteVS (s1.leaf a.addr) && pteCW (s1.leaf a.addr)) = false →
      let new := atomNew (atomOp x) (atomTy x) (Store.item (s1.touch a.addr true).mem a.pa n) (atomVal w u x x.c a.lane).toNat
      (pteScope a.pte ≠ 1 → ∃ s2, (∃ t, exec (.red x) s = .next t ∧ Leaves s2 t g sub (Res.store w u x 1)) ∧ Store.item s2.mem a.pa n = new
          ∧ ∀ b, untouched s [a] n b → Store.get s2.mem b = Store.get s.mem b)
      ∧ (pteScope a.pte = 1 → s.watchedLine (lineOf a.pa) = false → s.partials = [] →
          ∃ s2, (∃ t, exec (.red x) s = .next t ∧ Leaves s2 t g sub (Res.store w u x 1)) ∧ (s2.dirEnt a.pa).st = .u
            ∧ s2.partials = [{ die := dieOf g, pa := a.pa, op := atomOp x, ty := atomTy x, val := atomVal w u x x.c a.lane }]
            ∧ ∀ b, ¬ within b a.addr 8 → Store.get s2.mem b = Store.get s.mem b))

/-- R255, R260, R261, R83, R109: PREF writes no register and no memory, whatever its lanes' addresses are. FENCE with an acquire invalidates the core's generic L1, and the die's copies of S lines;
without one it changes nothing. PFENCE invalidates the caches of the paths it names. None depends on EXEC. -/
def Obligations.FencesAndPrefetch : Prop :=
  ∀ (x : Op) (s : State) (g sub : Nat) (w : Warp) (u : WUnit), CanIssue s g sub w u (Res.plain w u x x.bytes) x.e [] →
  let r := Res.plain w u x x.bytes
  let s' := entered s g sub w u x.e
  (∃ s1, (∃ t, exec (.pref x) s = .next t ∧ Leaves s1 t g sub r) ∧ s1.mem = s.mem ∧ s1.partials = s.partials)
  ∧ (x.mod.getLsbD 0 = true → (∃ t, exec (.fence x) s = .next t ∧ Leaves (s'.acquire (coreOf g)) t g sub r))
  ∧ (x.mod.getLsbD 0 = false → (∃ t, exec (.fence x) s = .next t ∧ Leaves s t g sub r))
  ∧ (∃ t, exec (.pfence x) s = .next t ∧ Leaves (s'.modCore (coreOf g) (fun k => { k with
      l1 := if x.func.getLsbD 0 then [] else k.l1, cc := if x.func.getLsbD 1 then [] else k.cc, sc := if x.func.getLsbD 2 then [] else k.sc })) t g sub r)

/-- R268, R70, R72: PUSHF writes the dwords of its real lanes below STKPTR through the stack cache and moves STKPTR down; POPF leaves the dwords at STKPTR outstanding and moves it up. Crossing
STKLIM or the top of the stack is STKOVF, and moves nothing; a line that cannot be had is MEMFAULT, but a helper lane's dword of one is zero (R47). -/
def Obligations.StackFrames : Prop :=
  ∀ (x : Op) (s : State) (g sub : Nat) (w : Warp) (u : WUnit),
  let n := (x.func.setWidth 4).toNat + 1
  let p := w.stkptr.toNat
  let s' := entered s g sub w u x.e
  let rp := { Res.plain w u x x.bytes with uses := (x.hdr x.bytes n 0 0).uses, reads := x.a.run n }
  let ro := { Res.plain w u x x.bytes with dests := x.d.run n, reads := [] }
  let ds := (List.range n).flatMap (fun k => (realLanes w u x).map (fun l => (p - 256 * n + 256 * k + 8 * l, nthVal w u l x.a k)))
  (CanIssue s g sub w u rp x.e [] →
    (p < 256 * n + w.stklim.toNat → exec (.pushf x) s = .next (s'.takeTrap g sub (TrapInfo.unit 5 0 0)))
    ∧ (256 * n + w.stklim.toNat ≤ p → ∀ s1 a, s'.stackReach g (lineHeads (ds.map (·.1))) = (s1, some a) → exec (.pushf x) s = .next (s'.takeTrap g sub (TrapInfo.stackFault a)))
    ∧ (256 * n + w.stklim.toNat ≤ p → ∀ s1, s'.stackReach g (lineHeads (ds.map (·.1))) = (s1, none) →
        (∃ t, exec (.pushf x) s = .next t ∧ Leaves (s1.modWarp g (fun v => { v.stackPuts ds with stkptr := BitVec.ofNat 64 (p - 256 * n) })) t g sub rp)))
  ∧ (CanIssue s g sub w u ro x.e (x.d.run n) →
    (w.stktop.toNat < p + 256 * n → exec (.popf x) s = .next (s'.takeTrap g sub (TrapInfo.unit 5 0 0)))
    ∧ (p + 256 * n ≤ w.stktop.toNat → ∀ s1 a,
        frameRead g p w.helpers ((List.range n).flatMap (fun k => (lanesOf (guardMask w u.exec x.grd)).map (fun l => (l, k)))) s' = (s1, .error a) →
        exec (.popf x) s = .next (s'.takeTrap g sub (TrapInfo.stackFault a)))
    ∧ (p + 256 * n ≤ w.stktop.toNat → ∀ s1 vs,
        frameRead g p w.helpers ((List.range n).flatMap (fun k => (lanesOf (guardMask w u.exec x.grd)).map (fun l => (l, k)))) s' = (s1, .ok vs) →
        (∃ t, exec (.popf x) s = .next t ∧ Leaves (s1.modWarp g (fun v => { v with stkptr := BitVec.ofNat 64 (p + 256 * n) })) t g sub (ro.owed x.la.toNat x.d ((List.range n).map (fun k l => laneVal vs k l))))))

/-- R90, R262 to R264: TACQ, TREL, TCFG and TSTAT take TILEBAD 0 for an index that is not one of the workgroup's tiles, or, but for TCFG, one that is not configured. Else TACQ
makes an Empty tile, or a Ready one without readers, Filling by software; TREL makes a tile that software fills Ready, and a Ready one without readers Empty; TCFG sets
the shape of an Empty or Ready tile and counts its GEN, or takes TILEBAD 1 on a shape that is not legal; in another state each waits. TSTAT writes the entry's two
dwords to two scalars, whatever lanes are active. -/
def Obligations.TileStates : Prop :=
  ∀ (x : Op) (s : State) (g sub : Nat) (w : Warp) (u : WUnit) (k : Group), CanIssue s g sub w u (Res.plain w u x x.bytes) x.e [] → s.group? w.wg = some k →
  let r := Res.plain w u x x.bytes
  let s' := entered s g sub w u x.e
  let i := tileIx k w u x
  let e := tileAt s k w u x
  let bad (n : Nat) : State := s'.takeTrap g sub (TrapInfo.unit 6 n 0)
  let mine := (opVal w u x.lit 0 x.a).toNat % 256 < k.tiles
  let b := opVal w u x.lit 0 x.b
  let c := opVal w u x.lit 0 x.c
  let legal := ShapeFits k.window (shapeIn b c) ∧ b.extractLsb' 25 7 = 0 ∧ b.extractLsb' 60 4 = 0 ∧ c.extractLsb' 16 48 = 0
  (¬ mine → exec (.tcfg x) s = .next (bad 0))
  ∧ (¬ (mine ∧ e.conf = true) → exec (.tacq x) s = .next (bad 0) ∧ exec (.trel x) s = .next (bad 0) ∧ exec (.tstat x) s = .next (bad 0))
  ∧ (mine → ¬ legal → exec (.tcfg x) s = .next (bad 1))
  ∧ (mine → legal → r.act ≠ 0 →
      (e.state = 0 ∨ e.state = 2 → (∃ t, exec (.tcfg x) s = .next t ∧ Leaves (s'.setTile k.core i { e with shape := shapeIn b c, conf := true, gen := (e.gen + 1) % 65536 }) t g sub r))
      ∧ (e.state ≠ 0 → e.state ≠ 2 → exec (.tcfg x) s = .next (heldBefore s' g sub (.tile i .cfg))))
  ∧ (mine → e.conf = true → r.act ≠ 0 →
      (e.state = 0 ∨ (e.state = 2 ∧ e.readers = 0) → (∃ t, exec (.tacq x) s = .next t ∧ Leaves (s'.setTile k.core i { e with state := 1, swfill := true }) t g sub r))
      ∧ (¬ (e.state = 0 ∨ (e.state = 2 ∧ e.readers = 0)) → exec (.tacq x) s = .next (heldBefore s' g sub (.tile i .acq)))
      ∧ (e.state = 1 → e.swfill = true → (∃ t, exec (.trel x) s = .next t ∧ Leaves (s'.setTile k.core i { e with state := 2 }) t g sub r))
      ∧ (e.state = 2 → e.readers = 0 → (∃ t, exec (.trel x) s = .next t ∧ Leaves (s'.setTile k.core i { e with state := 0 }) t g sub r))
      ∧ (¬ ((e.state = 1 ∧ e.swfill = true) ∨ (e.state = 2 ∧ e.readers = 0)) → exec (.trel x) s = .next (heldBefore s' g sub (.tile i .rel))))
  ∧ (mine → e.conf = true → ∀ n, x.d = .s n → (∃ t, exec (.tstat x) s = .next t ∧ Leaves s t g sub { r with
      sca := fun m => if m = n.toNat then some e.words.1 else if m = n.toNat + 1 then some e.words.2 else none }))
  ∧ (r.act = 0 → (mine → legal → (∃ t, exec (.tcfg x) s = .next t ∧ Leaves s t g sub r)) ∧ (mine → e.conf = true → (∃ t, exec (.tacq x) s = .next t ∧ Leaves s t g sub r) ∧ (∃ t, exec (.trel x) s = .next t ∧ Leaves s t g sub r)))

/-- R88: in a shape that TCFG accepts, no two elements of the window share a bit: an element reads back as it was last written, at its width, and a write leaves every other element as it was. -/
def Sys2Proof.Claims.tileElementsReadBack : Prop :=
  ∀ (s : State) (k : Group) (h : Shape) (i j i' j' v : Nat), s.memOk = true → k.nbH = 0 → ShapeFits k.window h → i < h.rows → j < h.cols → i' < h.rows → j' < h.cols →
  elemFits k.window h i j → elemFits k.window h i' j' →
  (s.tilePut k h i j v).tileGet k h i' j' = if i' = i ∧ j' = j then v % 2 ^ (4 <<< h.esz) else s.tileGet k h i' j'

/-- R265, R90: LDT and STT move 1, 2, 4 or 8 elements of a row for each lane, 256 bits at most (TILEBAD 4), to or from a tile that is Ready, or, for STT, that software fills; in another state the
unit waits, and a real lane whose elements lie outside takes TILEBAD 3; a run of registers past v2047 is ILLEGAL 3 (R162). LDT leaves one element, zero- or sign-extended, or the packed
run outstanding, and changes no memory or scratchpad; STT writes each lane's elements, and changes no memory. The address in a TILEBAD record is a free value (log 14). -/
def Sys2Proof.Claims.tileElements : Prop :=
  ∀ (x : Op) (s : State) (g sub : Nat) (w : Warp) (u : WUnit) (k : Group), s.memOk = true → s.group? w.wg = some k →
  let s' := entered s g sub w u x.e
  let e := tileAt s k w u x
  let h := e.shape
  let bits := 4 <<< h.esz
  let n := 2 ^ (x.mod.setWidth 2).toNat
  let regs := if n = 1 then 1 else (n * bits + 63) / 64
  let ld := { Res.plain w u x x.bytes with dests := x.d.run regs, reads := x.b.run 1 }
  let st := { Res.plain w u x x.bytes with
    uses := (x.hdr x.bytes 1 1 0).uses ++ (if x.ulc then x.c.run regs else []), reads := x.b.run 1 ++ x.c.run regs }
  let elem := fun l m => s.tileGet k h (rowOf w u x l) (colOf w u x l + m)
  let far := fun l => ¬ inTile h w u x n l ∧ inMask w.helpers l = false
  let misses := fun (ls : List Nat) => open Classical in failTrap s.freeVal 0 ((ls.filter (fun l => decide (far l))).map (fun l => (l, 6, 3)))
  (opVal w u x.lit 0 x.a).toNat % 256 < k.tiles → e.conf = true →
  (AtIssue s g sub w u → Quiet s g w → n * bits ≤ 256 →
    ((∃ m ∈ x.d.run regs, 2048 ≤ m) → exec (.ldt x) s = .next (s.takeTrap g sub (TrapInfo.unit 0 3 0)))
    ∧ ((∃ m ∈ x.c.run regs, 2048 ≤ m) → exec (.stt x) s = .next (s.takeTrap g sub (TrapInfo.unit 0 3 0))))
  ∧ (CanIssue s g sub w u ld x.e (x.d.run regs) → ld.act ≠ 0 → 256 < n * bits → exec (.ldt x) s = .next (s'.takeTrap g sub (TrapInfo.unit 6 4 0)))
  ∧ (CanIssue s g sub w u st x.e [] → 256 < n * bits → exec (.stt x) s = .next (s'.takeTrap g sub (TrapInfo.unit 6 4 0)))
  ∧ (CanIssue s g sub w u ld x.e (x.d.run regs) → ld.act ≠ 0 → (∀ m ∈ x.d.run regs, m < 2048) →
    (n * bits ≤ 256 → e.state = 2 → e.readers < 255 → (∃ l, l < 32 ∧ inMask ld.act l = true ∧ far l) → exec (.ldt x) s = .next (s'.takeTrap g sub (misses (lanesOf ld.act))))
    ∧ (n * bits ≤ 256 → ¬ (e.state = 2 ∧ e.readers < 255) → exec (.ldt x) s = .next (heldBefore s' g sub (.tile (tileIx k w u x) .read)))
    ∧ (n * bits ≤ 256 → e.state = 2 → e.readers < 255 → (∀ l, l < 32 → inMask ld.act l = true → ¬ far l) →
        (∃ t, exec (.ldt x) s = .next t ∧ Leaves s t g sub (ld.owed x.la.toNat x.d ((List.range regs).map (fun q l =>
          open Classical in
          if inTile h w u x n l then
            (if n = 1 then (if x.mod.getLsbD 3 ∧ (elem l 0).testBit (bits - 1) then BitVec.ofNat 64 (elem l 0 + (2 ^ 64 - 2 ^ bits)) else BitVec.ofNat 64 (elem l 0))
             else ofBits 64 (fun b => decide (q * (64 / bits) + b / bits < n) && (elem l (q * (64 / bits) + b / bits)).testBit (b % bits)))
          else 0))))))
  ∧ (CanIssue s g sub w u ld x.e (x.d.run regs) → ld.act = 0 → n * bits ≤ 256 → (∀ m ∈ x.d.run regs, m < 2048) → (∃ t, exec (.ldt x) s = .next t ∧ Leaves s t g sub ld))
  ∧ (CanIssue s g sub w u st x.e [] → n * bits ≤ 256 → (∀ m ∈ x.c.run regs, m < 2048) → (∀ l, l ∉ realLanes w u x) → (∃ t, exec (.stt x) s = .next t ∧ Leaves s t g sub st))
  ∧ (CanIssue s g sub w u st x.e [] → (∃ l, l ∈ realLanes w u x) → n * bits ≤ 256 → (∀ m ∈ x.c.run regs, m < 2048) →
    (¬ (e.state = 2 ∨ (e.state = 1 ∧ e.swfill = true)) → exec (.stt x) s = .next (heldBefore s' g sub (.tile (tileIx k w u x) .stt)))
    ∧ (e.state = 2 ∨ (e.state = 1 ∧ e.swfill = true) → (∃ l ∈ realLanes w u x, far l) → exec (.stt x) s = .next (s'.takeTrap g sub (misses (realLanes w u x))))
    ∧ (e.state = 2 ∨ (e.state = 1 ∧ e.swfill = true) → (∀ l ∈ realLanes w u x, inTile h w u x n l) → ∃ s3, (∃ t, exec (.stt x) s = .next t ∧ Leaves s3 t g sub st) ∧ s3.mem = s.mem
        ∧ (k.nbH = 0 → ShapeFits k.window h →
            (∀ l ∈ realLanes w u x, ∀ l' ∈ realLanes w u x, l ≠ l' → rowOf w u x l = rowOf w u x l' → colOf w u x l + n ≤ colOf w u x l' ∨ colOf w u x l' + n ≤ colOf w u x l) →
            ∀ l ∈ realLanes w u x, ∀ m, m < n → elemFits k.window h (rowOf w u x l) (colOf w u x l + m) →
              s3.tileGet k h (rowOf w u x l) (colOf w u x l + m) = packedAt (fun i => dataVal w u x l i) bits m)))

/-- R269, R164: SEND with a real lane queues one block for the core its route reaches, holding A in the lanes that are active, the low half of B as the offset and the counter C, and changes
no register; an illegal route is ILLEGAL 2, with no state changed before it (R165); with no real lane it does nothing. An odd offset or counter is ALIGN, an offset past the scratchpad
is MEMFAULT 8, and a counter that cannot be translated for a write takes the row of R78. -/
def Sys2Proof.Claims.sendQueuesBlock : Prop :=
  ∀ (x : Op) (s : State) (g sub : Nat) (w : Warp) (u : WUnit) (key : Nat) (l : Launch),
  let r := { Res.plain w u x x.bytes with reads := x.a.run 1 }
  CanIssue s g sub w u r x.e [] → s.launchOf g = some (key, l) →
  let s' := entered s g sub w u x.e
  let o : W64 := ((opVal w u x.lit 0 x.b).setWidth 32).setWidth 64
  let ctr := if x.c = .imm 0 then none else some (opVal w u x.lit 0 x.c)
  let first := (lowLane (r.act &&& ~~~w.helpers)).getD 0
  let fails (cls k : Nat) (a : W64) : Prop := exec (.send x) s = .next (s'.takeTrap g sub (TrapInfo.lanes cls k 0 [(first, a)]))
  let blk (c : Nat) (data : Lanes) : SendBlk := { launch := key, src := g, srcSub := sub, core := dieOf g * 48 + c, off := o.toNat, lanes := r.act, data := data, ctr := ctr, root := s.rootOf g, die := dieOf g }
  (route s (dieOf g) (coreOf g % 48) (x.lit.getD 0).toNat = none → exec (.send x) s = .next (s.takeTrap g sub (TrapInfo.unit 0 2 0)))
  ∧ (∀ c n, route s (dieOf g) (coreOf g % 48) (x.lit.getD 0).toNat = some c → x.a = .v n →
      (r.act &&& ~~~w.helpers = 0 → (∃ t, exec (.send x) s = .next t ∧ Leaves s t g sub r))
      ∧ (r.act &&& ~~~w.helpers ≠ 0 →
          (o.toNat % 8 ≠ 0 → fails 4 0 o)
          ∧ (∀ a, ctr = some a → o.toNat % 8 = 0 → a.toNat % 8 ≠ 0 → fails 4 0 a)
          ∧ (o.toNat % 8 = 0 → (∀ a, ctr = some a → a.toNat % 8 = 0) → 786432 < o.toNat + 256 → fails 1 8 o)
          ∧ (∀ a s1 cls j, ctr = some a → o.toNat % 8 = 0 → a.toNat % 8 = 0 → o.toNat + 256 ≤ 786432 →
              s'.xlatCore (coreOf g) (s.rootOf g) a .write = (s1, .fail cls j) → fails cls j a)
          ∧ (o.toNat % 8 = 0 → o.toNat + 256 ≤ 786432 → ∀ s1,
              (ctr = none ∧ s1 = s') ∨ (∃ a pa pte adr, ctr = some a ∧ a.toNat % 8 = 0 ∧ s'.xlatCore (coreOf g) (s.rootOf g) a .write = (s1, .ok pa pte adr) ∧ s1.memReady pa = true) →
              (∃ t, exec (.send x) s = .next t ∧ Leaves { s1 with handles := s1.handles + 1, sends := s1.sends.put s1.handles (blk c (w.vreg n.toNat)) } t g sub r))))

/-- R266, R267: SAMP reads its texture record, takes RECBAD where it is not legal, and the taps of each active lane; where all are readable it leaves 1 to 4 filtered components outstanding. -/
def Sys2Proof.Claims.sampleTexture : Prop :=
  ∀ (x : Op) (s : State) (g sub : Nat) (w : Warp) (u : WUnit),
  let n := (x.mod.setWidth 2).toNat + 1
  let r := { Res.plain w u x x.bytes with uses := (x.hdr x.bytes 1 3 1).uses, dests := x.d.run n, reads := [] }
  CanIssue s g sub w u r x.e (x.d.run n) → (∀ m ∈ x.b.run 3, w.mapped m = true) →
  let c := ctxAt s g sub w u x
  (∀ s1 k, c.texRec x = (s1, .error k) → exec (.samp x) s = .next ((entered s g sub w u x.e).takeTrap g sub (TrapInfo.unit 7 k (opVal w u x.lit 0 x.a))))
  ∧ (∀ s1 t, c.texRec x = (s1, .ok t) →
      let coord := fun l => (List.range 3).map (fun d => if 1 < t.ext.getD d 1 then (nthVal w u l x.b d).toNat else 0)
      let y := texLanes (coreOf g) (s.rootOf g) t (bffz w.fpcr) n coord (lanesOf r.act) s1
      ((∀ f ∈ y.2.2, inMask w.helpers f.1 = true) → (∃ t, exec (.samp x) s = .next t ∧ Leaves y.1 t g sub (r.owed x.la.toNat x.d ((List.range n).map (fun k l => laneVal y.2.1 k l)))))
      ∧ (∀ f rest, y.2.2.filter (fun f => !inMask w.helpers f.1) = f :: rest →
          exec (.samp x) s = .next ((entered s g sub w u x.e).takeTrap g sub (TrapInfo.lanes f.2.1 f.2.2.1 0 ((f :: rest).map (fun p => (p.1, p.2.2.2)))))))

/-- R270 to R276: each ENGCMD reads and checks its descriptor at issue (RECBAD, and TILEBAD for a copy's tile), changes no register and goes on at once, a region entry; with a real lane active it leaves
one command for its engine, not started yet, with its descriptor, coordinates and completion record, and a copy's tile is taken: Filling for COPYIN, Draining with one reader more for COPYOUT, or the
unit waits for it. -/
def Obligations.EngineCommands : Prop :=
  ∀ (kind : Nat) (i : Instr) (x : Op),
  (kind, i) ∈ [(0, Instr.engcmdCopyin x), (1, .engcmdCopyout x), (2, .engcmdPublish x), (3, .engcmdRetire x), (4, .engcmdAsbuild x), (5, .engcmdHalo x), (6, .engcmdAllred x), (7, .engcmdRecon x)] →
  ∀ (s : State) (g sub : Nat) (w : Warp) (u : WUnit) (key : Nat) (l : Launch),
  let r := { Res.plain w u x x.bytes with reads := x.b.run 1 }
  CanIssue s g sub w u r x.e [] → s.launchOf g = some (key, l) →
  let c := ctxAt s g sub w u x
  (∀ t, engCheck kind x c = some t → exec i s = .next ((entered s g sub w u x.e).takeTrap g sub t))
  ∧ (engCheck kind x c = none → ∀ s1 d rc, c.engRead kind x = (s1, .ok (d, rc)) →
      let xy := (c.engCoord x).getD 0
      let ready := match engReadyBit kind with
        | some b => (s1.dieReg (dieOf g) .dready).getLsbD b
        | none => true
      let cmd (tile : Option (Nat × Nat × Shape)) : EngCmd :=
        { kind := kind, src := g, srcSub := sub, started := false, die := dieOf g, launch := key, wg := w.wg, lseq := w.lseq, wgid := s1.wgidOf w, area := l.area,
          desc := d, x := xy.toNat % 2 ^ 32, y := xy.toNat / 2 ^ 32, ctr := opVal w u x.lit 0 x.c, fpc := u.pc, tile := tile, recon := rc, pages := 0, bad := 0,
          readDone := false, sent := false, data := [], buf := [], face := none, plan := [], todo := [], after := none,
          status := if ready then none else some (stNOT_READY, 0, 0), dead := false }
      (r.act &&& ~~~w.helpers = 0 → (∃ t, exec i s = .next t ∧ Leaves s1 t g sub r))
      ∧ (r.act &&& ~~~w.helpers ≠ 0 →
          (2 ≤ kind → (∃ t, exec i s = .next t ∧ Leaves { s1 with handles := s1.handles + 1, engines := s1.engines.put s1.handles (cmd none) } t g sub r))
          ∧ (kind < 2 → ∀ k j t, c.tileEntry (recBits d 199 192) false = some (k, j, t) →
              let use : TileUse := if kind = 0 then .fill else .copyout
              let free := if kind = 0 then t.state = 0 ∨ (t.state = 2 ∧ t.readers = 0) else t.state = 2 ∧ t.readers < 255
              let s2 := s1.setTile k.core j (if kind = 0 then { t with state := 1, swfill := false } else { t with state := 3, readers := t.readers + 1 })
              (t.shape.esz = 0 → xy.toNat % 2 = 1 → exec i s = .next ((entered s g sub w u x.e).takeTrap g sub (TrapInfo.unit 7 3 (opVal w u x.lit 0 x.a))))
              ∧ (¬ (t.shape.esz = 0 ∧ xy.toNat % 2 = 1) → ¬ free → exec i s = .next (heldBefore s1 g sub (.tile j use)))
              ∧ (¬ (t.shape.esz = 0 ∧ xy.toNat % 2 = 1) → free →
                  (∃ nxt, exec i s = .next nxt ∧ Leaves { s2 with handles := s2.handles + 1, engines := s2.engines.put s2.handles (cmd (some (k.core, j, t.shape))) } nxt g sub r)))))

/-- R277 to R289, R118: MMA, MMAS and MMAC whose checks pass queue one operation of the matrix engine, with the region's place, the lanes as rows, the mode, the A registers' values (or MMAC's
accumulator columns), the B registers' values or the tile's place, and the format words; a tile gains a reader. A word that is not legal is ILLEGAL 2, before any state changes (R165); the other
checks' failure traps; more than 32 queued operations, or a tile that is not ready, makes the unit wait; words that differ are FMTDIV. -/
def Obligations.MatrixMultiplyQueues : Prop :=
  ∀ (kind : MKind) (i : Instr) (x : Op), (kind = .mma ∧ i = .mma x) ∨ (kind = .mmas ∧ i = .mmas x) ∨ (kind = .mmac ∧ i = .mmac x) →
  ∀ (s : State) (g sub : Nat) (w : Warp) (u : WUnit),
  let c := ctxAt s g sub w u x
  let s' := entered s g sub w u x.e
  let fmt := (x.func.extractLsb' 6 3).toNat
  let na := if kind = .mmac then 0 else (if fmt < 2 then 4 else 8) + (if kind = .mmas then (if fmt = 4 then 2 else 1) else 0)
  let nb := (if fmt < 2 then 2 else 4) + (if kind = .mmas then 1 else 0)
  let reads := x.a.run na ++ x.b.run nb ++ x.c.run 1
  let r := { Res.plain w u x x.bytes with reads := [], dests := [] }
  CanIssue s g sub w u r x.e [] → ReadsOk w reads →
  let word := fun l => (opVal w u x.lit l x.c).setWidth 32
  let agree := fmt = 4 → ∀ l m, l < 32 → m < 32 → inMask r.act l = true → inMask r.act m = true → word l = word m
  let full := 32 ≤ (w.mops.filter (fun o => !o.done)).length
  let queued (s1 : State) (src : MSrc → Prop) : Prop := ∃ t w' u' o, exec i s = .next t ∧ Queued s1 t g sub w w' u u' x (engUses x na (if isVec x.b then nb else 0)) reads o
    ∧ o.kind = kind ∧ o.fmt = fmt ∧ o.joint = [1, 2, 4, 1].getD (x.mod.extractLsb' 3 2).toNat 1 ∧ (∀ l, l < 32 → (o.aw.at l).setWidth 32 = word l)
    ∧ (kind ≠ .mmac → o.aSrc = .regs ∧ ∀ n l, n < na → l < 32 → (o.aRegs.getD n []).at l = nthVal w u l x.a n)
    ∧ (kind = .mmac → o.aSrc = .acc (((opVal w u x.lit 0 x.a).extractLsb' 0 4).toNat * 32) ((opVal w u x.lit 0 x.a).extractLsb' 4 6).toNat)
    ∧ (isVec x.b = true → ∀ n l, n < nb → l < 32 → (o.bRegs.getD n []).at l = nthVal w u l x.b n) ∧ src o.bSrc
  let illegal := mulDecode kind x { c with s := s, w := w, u := u }
  (∀ t, illegal = some t → exec i s = .next (s.takeTrap g sub t))
  ∧ (illegal = none → ∀ t, mulCheck kind x c = some t → exec i s = .next (s'.takeTrap g sub t))
  ∧ (illegal = none → mulCheck kind x c = none →
      (¬ agree → exec i s = .next (s'.takeTrap g sub (TrapInfo.unit 9 0 0)))
      ∧ (agree → full → exec i s = .next (heldBefore s' g sub .matrix))
      ∧ (agree → ¬ full → isVec x.b = true → queued s' (fun b => b = .regs))
      ∧ (agree → ¬ full → isVec x.b = false → ∀ k j e, c.tileEntry ((opVal w u x.lit 0 x.b).setWidth 8).toNat false = some (k, j, e) →
          let at' : MSrc → Prop := fun b => b = .tile j e.shape ((opVal w u x.lit 0 x.b).extractLsb' 8 16).toNat ((opVal w u x.lit 0 x.b).extractLsb' 24 16).toNat
          (r.act &&& ~~~w.helpers = 0 → queued s' at')
          ∧ (r.act &&& ~~~w.helpers ≠ 0 → e.state = 2 → e.readers < 255 → queued (s'.setTile k.core j { e with readers := e.readers + 1 }) at')))

/-- R291: ACCLD and ACCZ queue an operation on the accumulator region they name, ACCLD with the values of its run; ACCST with a lane active queues one, and leaves its run outstanding, not known yet. A
region outside the workgroup's rows is TILEBAD 2, and a full queue makes the unit wait. -/
def Sys2Proof.Claims.accumulatorMovesQueue : Prop :=
  ∀ (x : Op) (s : State) (g sub : Nat) (w : Warp) (u : WUnit) (k : Group), s.group? w.wg = some k →
  let s' := entered s g sub w u x.e
  let fmt := (x.func.extractLsb' 6 3).toNat
  let n := if fmt = 0 then 16 else 8
  let inside := (x.func.setWidth 4).toNat * 32 < k.accRows
  let full := 32 ≤ (w.mops.filter (fun o => !o.done)).length
  let trap := s'.takeTrap g sub (TrapInfo.unit 6 2 0)
  let ld := { Res.plain w u x x.bytes with reads := x.a.run n, dests := [] }
  let zr := { Res.plain w u x x.bytes with reads := [], dests := [] }
  (CanIssue s g sub w u ld x.e [] →
    (¬ inside → exec (.accld x) s = .next trap) ∧ (inside → full → exec (.accld x) s = .next (heldBefore s' g sub .matrix))
    ∧ (inside → ¬ full → ∃ t w' u' o, exec (.accld x) s = .next t ∧ Queued s' t g sub w w' u u' x ((if x.ula then x.a.run n else []) ++ (if x.ulc then x.c.run 1 else [])) (x.a.run n) o
        ∧ o.kind = .accld ∧ o.fmt = fmt ∧ ∀ j l, j < n → l < 32 → (o.aRegs.getD j []).at l = nthVal w u l x.a j))
  ∧ (CanIssue s g sub w u zr x.e [] →
    (¬ inside → exec (.accz x) s = .next trap) ∧ (inside → full → exec (.accz x) s = .next (heldBefore s' g sub .matrix))
    ∧ (inside → ¬ full → ∃ t w' u' o, exec (.accz x) s = .next t ∧ Queued s' t g sub w w' u u' x (if x.ulc then x.c.run 1 else []) [] o ∧ o.kind = .accz))
  ∧ (CanIssue s g sub w u zr x.e (x.d.run n) → inside → zr.act ≠ 0 → ¬ full → ∀ d, x.d = .v d →
      ∃ t w' u' o p q, exec (.accst x) s = .next t ∧ t.warp? g = some w' ∧ unitOf w'.units sub = some u'
        ∧ w'.mops = p ++ [o] ∧ o.kind = .accst ∧ o.fmt = fmt ∧ o.rows = zr.act ∧ o.row0 = (x.func.setWidth 4).toNat * 32 ∧ o.col0 = (x.func.extractLsb' 4 2).toNat * 16
        ∧ u'.looks = [q] ∧ o.look = some q.id ∧ q.ready = false ∧ q.left = x.la.toNat ∧ q.lanes = zr.act ∧ q.dests.map (·.1) = (List.range n).map (fun j => Dest.v (d.toNat + j))
        ∧ u'.pc = nextOf u x.bytes ∧ t.mem = s.mem ∧ (∀ m l, l < 32 → (w'.vreg m).at l = if x.ulc = true ∧ m ∈ x.c.run 1 ∧ m ∉ x.d.run n ∧ s'.divergent g = false then 0 else (w.vreg m).at l))

/-- R292: MDRAIN whose checks pass queues a drain of its region, to a tile that it takes (Filling, or one reader more for an add), or to the memory rows its address operand names, whose pages it checks at issue as a
store does, MEMFAULT 5 for the lanes whose page cannot be copied among them (R94). -/
def Sys2Proof.Claims.drainQueues : Prop :=
  ∀ (x : Op) (s : State) (g sub : Nat) (w : Warp) (u : WUnit),
  let c := ctxAt s g sub w u x
  let s' := entered s g sub w u x.e
  let dt := (x.func.extractLsb' 6 3).toNat
  let mem := x.mod.getLsbD 4
  let add := x.mod.getLsbD 3
  let reads := (if mem then x.a.run 1 else []) ++ (if dt = 4 then x.c.run 1 else [])
  let r := { Res.plain w u x x.bytes with reads := reads, dests := [] }
  CanIssue s g sub w u r x.e [] →
  let word := fun l => (opVal w u x.lit l x.c).setWidth 32
  let agree := dt = 4 → ∀ l m, l < 32 → m < 32 → inMask r.act l = true → inMask r.act m = true → word l = word m
  let full := 32 ≤ (w.mops.filter (fun o => !o.done)).length
  let ew := matEw dt (c.container x)
  let row := fun l => if isVec x.a then opVal w u x.lit l x.a else opVal w u x.lit 0 x.a + BitVec.ofNat 64 l * opVal w u x.lit 0 x.b
  let queued (s1 : State) (dst : MSrc → Prop) : Prop := ∃ t w' u' o, exec (.mdrain x) s = .next t ∧ Queued s1 t g sub w w' u u' x (engUses x 1 0) reads o
    ∧ o.kind = .mdrain ∧ o.fmt = dt ∧ o.add = add ∧ o.atype = (x.func.extractLsb' 9 1).toNat ∧ (∀ l, l < 32 → (o.aw.at l).setWidth 32 = word l) ∧ dst o.drain
  let illegal := drainDecode x { c with s := s, w := w, u := u }
  (∀ t, illegal = some t → exec (.mdrain x) s = .next (s.takeTrap g sub t))
  ∧ (illegal = none → ∀ t, drainCheck x c = some t → exec (.mdrain x) s = .next (s'.takeTrap g sub t))
  ∧ (illegal = none → drainCheck x c = none →
      (¬ agree → exec (.mdrain x) s = .next (s'.takeTrap g sub (TrapInfo.unit 9 0 0)))
      ∧ (agree → mem = true →
          let k := c.checkMem (realLanes w u x) row (max 1 (ew / 8)) (if ew = 4 then 8 else 16) (max 1 (ew / 8)) .write
          (∀ t, k = .trap t → exec (.mdrain x) s = .next (s'.takeTrap g sub t))
          ∧ (∀ s1 as, k = .ok s1 as →
              let fs := ((as.filter (fun a => s1.cowBad a.addr)).map (fun a => (a.lane, 1, 5))).eraseDups
              (fs ≠ [] → exec (.mdrain x) s = .next (s'.takeTrap g sub (failTrap row 0 fs)))
              ∧ (fs = [] → full → exec (.mdrain x) s = .next (heldBefore s' g sub .matrix))
              ∧ (fs = [] → ¬ full → queued s1 (fun d => ∃ v, d = .mem v ∧ ∀ l, l < 32 → v.at l = row l))))
      ∧ (agree → mem = false → full → exec (.mdrain x) s = .next (heldBefore s' g sub .matrix))
      ∧ (agree → mem = false → ¬ full → ∀ k j e, c.tileEntry ((opVal w u x.lit 0 x.a).setWidth 8).toNat false = some (k, j, e) → r.act &&& ~~~w.helpers ≠ 0 →
          let dst : MSrc → Prop := fun d => d = .tile j e.shape ((opVal w u x.lit 0 x.a).extractLsb' 8 16).toNat ((opVal w u x.lit 0 x.a).extractLsb' 24 16).toNat
          (add = false → e.state = 0 ∨ (e.state = 2 ∧ e.readers = 0) → queued (s'.setTile k.core j { e with state := 1, swfill := false }) dst)
          ∧ (add = true → e.state = 2 → e.readers < 255 → queued (s'.setTile k.core j { e with readers := e.readers + 1 }) dst)))

/-- R143, R279, R285: when the engine performs an MMA of the FP32, FP16 or BF16 format whose operands stand in registers, each cell of its rows becomes the old cell plus the K products, exact and rounded once to
FP32; for FP64 the four products are summed in pairs, each sum rounded, and the cell added last. A row is a lane of A, and element (k, j) of B lies in lane 16 (k div K/2) + j. Every other cell, and
memory, keeps its value. -/
def Obligations.MatrixMultiplyPerforms : Prop :=
  ∀ (s : State) (g : Nat) (w : Warp) (o : MOp) (k : Group), s.warp? g = some w → w.units ≠ [] → w.nextOp = some o → s.group? w.wg = some k → o.kind = .mma → o.joint ≤ 1 → o.fmt < 4 →
  o.emul = false → o.spoilt = 0 → o.bSpoilt = false → o.aSrc = .regs → o.bSrc = .regs → o.col0 ≤ 48 →
  let kk := [4, 8, 32, 32].getD o.fmt 0
  let ew := [64, 32, 16, 16].getD o.fmt 0
  let md := Rnd.select o.sel o.fpcr
  let fz := bffz o.fpcr
  let a := fun i n => fval o.fmt fz (packedAt (fun q => (o.aRegs.getD q []).at i) ew n)
  let b := fun n j => fval o.fmt fz (packedAt (fun q => (o.bRegs.getD q []).at (n / (kk / 2) * 16 + j)) ew (n % (kk / 2)))
  let p := fun i j n => (a i n).mul (b n j)
  let rn := fun (f : Nat) (vs : List FVal) => (roundVal f false md (sumVals md vs)).1
  let new := fun i j =>
    let old := s.cell k (o.row0 + i) (o.col0 + j)
    if o.fmt = 0 then rn 0 [fval 0 false old.toNat, fval 0 false (rn 0 [fval 0 false (rn 0 [p i j 0, p i j 1]), fval 0 false (rn 0 [p i j 2, p i j 3])])]
    else rn 1 (fval 1 false (old.setWidth 32).toNat :: (List.range kk).map (p i j))
  ∃ t, exec (.matrixOperationPerform g) s = .next t ∧ t.mem = s.mem
    ∧ (∀ i j, i < 32 → j < 16 → inMask o.rows i = true → t.cell k (o.row0 + i) (o.col0 + j) = BitVec.ofNat 64 (new i j))
    ∧ (∀ row col, col < 64 → ¬ (∃ i j, i < 32 ∧ j < 16 ∧ inMask o.rows i = true ∧ row = o.row0 + i ∧ col = o.col0 + j) → t.cell k row col = s.cell k row col)

/-- R290, R294 to R296: MBATCH closes the warp's open batch, giving its number modulo 16, or waits while the batch of sixteen closes before is not complete; MWAIT goes on where the last batch of its number is
complete or there is none, and else waits after itself, and the operands of that batch need be kept no longer (R118); MCFG sets or clears the separate B format; OFENCE marks where the warp's later
operations read what every write before it left (R119). -/
def Obligations.BatchesAndFormat : Prop :=
  ∀ (x : Op) (s : State) (g sub : Nat) (w : Warp) (u : WUnit),
  let s' := entered s g sub w u x.e
  let r := Res.plain w u x x.bytes
  let mb := { r with uses := if x.ulc then x.c.run 1 else [], dests := [], reads := [] }
  let done := fun m => m < w.batchLo
  let last := fun n => w.closes - 1 - (w.closes - 1 - n) % 16
  let named := fun n => s'.modWarp g (fun v => Warp.dropWaited { v with waited := max v.waited (last n + 1) })
  (CanIssue s g sub w u mb x.e [] → ∀ n, x.d = .s n →
    (16 ≤ w.closes → ¬ done (w.closes - 16) → exec (.mbatch x) s = .next (heldBefore s' g sub (.mwait (w.closes - 16))))
    ∧ (¬ (16 ≤ w.closes ∧ ¬ done (w.closes - 16)) → ∃ s1 w1, s1.warp? g = some w1 ∧ w1.closes = w.closes + 1 ∧ w1.waited = max w.waited (w.closes - 15) ∧ s1.mem = s.mem
        ∧ (∀ m l, l < 32 → (w1.vreg m).at l = (w.vreg m).at l) ∧ w1.sregs = w.sregs
        ∧ (∃ t, exec (.mbatch x) s = .next t ∧ Leaves s1 t g sub { mb with preds := w1.pred, sca := fun m => if m = n.toNat then some (BitVec.ofNat 64 (w.closes % 16)) else none })))
  ∧ (CanIssue s g sub w u r x.e [] →
      let n := (opVal w u x.lit 0 x.a).toNat % 16
      (w.closes ≤ n → (∃ t, exec (.mwait x) s = .next t ∧ Leaves s t g sub r))
      ∧ (n < w.closes → done (last n) → (∃ t, exec (.mwait x) s = .next t ∧ Leaves (named n) t g sub r))
      ∧ (n < w.closes → ¬ done (last n) → (∃ t, exec (.mwait x) s = .next t ∧ Leaves (named n) t g sub (goesTo r (nextOf u x.bytes)) (waits g sub (.mwait (last n)))))
      ∧ (∃ t, exec (.ofence x) s = .next t ∧ Leaves (s'.modWarp g (fun v => { v with fence := s.handles })) t g sub r)
      ∧ (x.mod.getLsbD 0 = true → (∃ t, exec (.mcfg x) s = .next t ∧ Leaves (s'.modWarp g (fun v => { v with bsep := false })) t g sub r))
      ∧ (x.mod.getLsbD 0 = false →
          let f := (opVal w u x.lit 0 x.a).setWidth 32
          ((FWord.ofBits f.toNat).valid = true → (∃ t, exec (.mcfg x) s = .next t ∧ Leaves (s'.modWarp g (fun v => { v with bsep := true, bfw := f })) t g sub r))
          ∧ ((FWord.ofBits f.toNat).valid = false → exec (.mcfg x) s = .next (s.takeTrap g sub (TrapInfo.unit 0 2 0)))))

/-- R303: RQ with a lane active checks its scene record (RECBAD), reads what its rays need, and leaves each lane's hit outstanding, in two registers; a lane whose ray cannot hit, and a helper,
gets the miss. A read that fails traps the lanes that cast. With no lane active it does nothing. -/
def Sys2Proof.Claims.rayQuery : Prop :=
  ∀ (x : Op) (s : State) (g sub : Nat) (w : Warp) (u : WUnit),
  let r := { Res.plain w u x x.bytes with uses := (x.hdr x.bytes 8 1 1).uses, dests := x.d.run 2, reads := x.a.run 8 }
  CanIssue s g sub w u r x.e (x.d.run 2) →
  let c := ctxAt s g sub w u x
  let at' := opVal w u x.lit 0 x.b
  let casts := fun l => inMask (r.act &&& ~~~w.helpers) l && !(rayOf w u x l).dead
  let gives (s1 : State) (f : Nat → Option Hit) : Prop :=
    (∃ t, exec (.rq x) s = .next t ∧ Leaves s1 t g sub (r.owed x.la.toNat x.d [fun l => (hitWords (if casts l then f l else none)).1, fun l => (hitWords (if casts l then f l else none)).2]))
  (r.act = 0 → (∃ t, exec (.rq x) s = .next t ∧ Leaves s t g sub r))
  ∧ (r.act ≠ 0 → ∀ s1 k, c.scene at' = (s1, .error k) → exec (.rq x) s = .next ((entered s g sub w u x.e).takeTrap g sub (TrapInfo.unit 7 k at')))
  ∧ (r.act ≠ 0 → ∀ s1 rc, c.scene at' = (s1, .ok rc) →
      ((∀ l, l < 32 → casts l = false) → gives s1 (fun _ => none))
      ∧ ((∃ l, l < 32 ∧ casts l = true) → ∀ s2 cls j va, readScene (coreOf g) (s.rootOf g) rc s1 = (s2, .error (cls, j, va)) →
          exec (.rq x) s = .next ((entered s g sub w u x.e).takeTrap g sub (TrapInfo.lanes cls j 0 (((List.range 32).filter casts).map (fun l => (l, va))))))
      ∧ ((∃ l, l < 32 ∧ casts l = true) → ∀ s2 prims, readScene (coreOf g) (s.rootOf g) rc s1 = (s2, .ok prims) →
          gives s2 (fun l => traverse (rayOf w u x l) (sceneFmt rc) prims (s.freeVal l).toNat (fun i => s.freeVal (l + 32 * (i + 1))))))

/-- R301, R302: a ray hits a triangle exactly where the point at t lies in it: o + t d = a + u (b − a) + v (c − a) with u and v not negative and their sum at most 1, t from tmin to tmax, and not on a culled face; a
ray in the triangle's plane misses it. Without FIRST the hit reported is the least t, and of equals the primitive of lower index. -/
def Sys2Proof.Claims.rayHitsTriangle : Prop :=
  ∀ (r : RayIn) (o d a b c : Vec) (prim : List Nat) (i : Nat) (free free' : W64),
  vec3 r.org = some o → vec3 r.dir = some d → vec3 prim = some a → vec3 (prim.drop 3) = some b → vec3 (prim.drop 6) = some c →
  let e1 := Vec.sub b a
  let e2 := Vec.sub c a
  let det := Vec.dot e1 (Vec.cross d e2)
  (det = 0 → hitPrim r 0 prim i free free' = none)
  ∧ (∀ h, hitPrim r 0 prim i free free' = some h → h.idx = i ∧ (r.cullb = true → 0 ≤ Vec.dot (Vec.cross e1 e2) (Vec.sub o a)) ∧ ∃ t u v : ℚ, fracQ h.t = t ∧ 0 ≤ u ∧ 0 ≤ v ∧ u + v ≤ 1 ∧ patLe r.tmin t ∧ patGe r.tmax t
      ∧ ∀ k, k < 3 → (axisOf o k : ℚ) + t * axisOf d k = axisOf a k + u * axisOf e1 k + v * axisOf e2 k)
  ∧ (∀ t u v : ℚ, det ≠ 0 → 0 ≤ u → 0 ≤ v → u + v ≤ 1 → patLe r.tmin t → patGe r.tmax t → (r.cullb = true → 0 ≤ Vec.dot (Vec.cross e1 e2) (Vec.sub o a)) →
      (∀ k, k < 3 → (axisOf o k : ℚ) + t * axisOf d k = axisOf a k + u * axisOf e1 k + v * axisOf e2 k) → ∃ h, hitPrim r 0 prim i free free' = some h)
  ∧ (∀ (hs : List Hit) (h : Hit), nearest hs = some h → ∃ n : Nat, hs[n]? = some h ∧ ∀ m y, hs[m]? = some y → Frac.lt y.t h.t = false ∧ (m < n → Frac.lt h.t y.t = true))

/-- R304 to R306: RCAST and CONT whose checks pass end their active lanes, each real one with a record that holds its live registers: RCAST's, with its ray, in the pool of the die that owns the root
treelet; CONT's, with no ray and ready at once, in the pool of its own die. A full pool makes the unit wait. With no lane active they only end no lane. A resume PC too far from the
kernel entry is ILLEGAL 2, before any state changes (R165). -/
def Sys2Proof.Claims.relaunchRecords : Prop :=
  ∀ (x : Op) (s : State) (g sub : Nat) (w : Warp) (u : WUnit) (key : Nat) (l : Launch), s.launchOf g = some (key, l) →
  let m := (x.func.extractLsb' 2 4).toNat
  let s' := entered s g sub w u x.e
  let res := fun na => { Res.plain w u x x.bytes with uses := (x.hdr x.bytes na 1 m).uses, reads := x.a.run na ++ x.c.run m }
  let act := guardMask w u.exec x.grd
  let rpc := (tgtOf x u - BitVec.ofNat 64 l.entry).toInt / 4
  let hdr := fun (scene : Nat) => BitVec.ofInt 32 (rpc.emod (2 ^ 22)) ||| BitVec.ofNat 32 (m * 2 ^ 22 + scene * 2 ^ 26 + (if x.func.getLsbD 0 then 2 ^ 30 else 0) + (if x.func.getLsbD 1 then 2 ^ 31 else 0))
  let live := fun lane => (List.range m).map (fun n => nthVal w u lane x.c n)
  let room (s1 : State) (die : Nat) : Prop := s1.poolHeld key die + (realLanes w u x).length ≤ l.poolCap die
  let far := rpc < -(2 ^ 21) ∨ 2 ^ 21 ≤ rpc
  (AtIssue s g sub w u → Quiet s g w → far →
    exec (.rcast x) s = .next (s.takeTrap g sub (TrapInfo.unit 0 2 0)) ∧ exec (.cont x) s = .next (s.takeTrap g sub (TrapInfo.unit 0 2 0)))
  ∧ (CanIssue s g sub w u (res 7) x.e [] → ¬ far →
    let r := goesTo (res 7) (nextOf u x.bytes)
    (∀ t, castCheck x (rcastScene x) (ctxAt s g sub w u x) = some t → exec (.rcast x) s = .next (s'.takeTrap g sub t))
    ∧ (castCheck x (rcastScene x) (ctxAt s g sub w u x) = none →
        (act = 0 → (∃ t, exec (.rcast x) s = .next t ∧ Leaves s t g sub r (fun t => t.endLanes g sub 0)))
        ∧ (act ≠ 0 → ∀ s1 s2 rc own, (ctxAt s g sub w u x).scene (l.sceneAt ((opVal w u x.lit 0 x.b).setWidth 4).toNat) = (s1, .ok rc) → genBytes (coreOf g) l.root 16 (sceneRoot rc) s1 = (s2, .ok own) →
            let die := fieldN own 8 1 % 4
            let scene := ((opVal w u x.lit 0 x.b).setWidth 4).toNat
            (¬ room s2 die → exec (.rcast x) s = .next (heldBefore s2 g sub (.pool die)))
            ∧ (room s2 die → (∃ t, exec (.rcast x) s = .next t ∧ Leaves (castRecords key die (fun lane => hdr scene :: (List.range 7).map (fun n => (nthVal w u lane x.a n).setWidth 32)) live false (realLanes w u x) s2) t g sub r (fun t => t.endLanes g sub act))))))
  ∧ (CanIssue s g sub w u (res 0) x.e [] → ¬ far →
    let r := goesTo (res 0) (nextOf u x.bytes)
    (∀ t, castCheck x (fun _ => none) (ctxAt s g sub w u x) = some t → exec (.cont x) s = .next (s'.takeTrap g sub t))
    ∧ (castCheck x (fun _ => none) (ctxAt s g sub w u x) = none →
        (act = 0 → (∃ t, exec (.cont x) s = .next t ∧ Leaves s t g sub r (fun t => t.endLanes g sub 0)))
        ∧ (act ≠ 0 → ¬ room s' (dieOf g) → exec (.cont x) s = .next (heldBefore s' g sub (.pool (dieOf g))))
        ∧ (act ≠ 0 → room s' (dieOf g) → (∃ t, exec (.cont x) s = .next t ∧ Leaves (castRecords key (dieOf g) (fun _ => hdr 0 :: List.replicate 7 0) live true (realLanes w u x) s') t g sub r (fun t => (t.endLanes g sub act).relaunchFull (dieOf g) key (rpc.emod (2 ^ 22)).toNat)))))

/-- R311, R312: RAST checks its triangle record (RECBAD), and for each real lane active finds the triangle that wins its pixel's sample; a covered lane leaves its triangle, z and barycentrics outstanding; an active lane
that is not covered becomes a helper, with the values of the triangle of its quad's lowest covered lane, or, where its quad has none, leaves EXEC. Vertices that cannot be read trap its real
lanes. -/
def Sys2Proof.Claims.raster : Prop :=
  ∀ (x : Op) (s : State) (g sub : Nat) (w : Warp) (u : WUnit) (key : Nat) (l : Launch) (k : Group),
  let r := { Res.plain w u x x.bytes with dests := x.d.run 2, reads := [] }
  CanIssue s g sub w u r x.e (x.d.run 2) → s.launchOf g = some (key, l) → s.group? w.wg = some k →
  let c := ctxAt s g sub w u x
  let at' := opVal w u x.lit 0 x.b
  let real := r.act &&& ~~~w.helpers
  (∀ t, rastCheck x c = some t → exec (.rast x) s = .next ((entered s g sub w u x.e).takeTrap g sub t))
  ∧ (rastCheck x c = none → r.act = 0 → (∃ t, exec (.rast x) s = .next t ∧ Leaves s t g sub r))
  ∧ (rastCheck x c = none → real ≠ 0 → ∀ s1 rc s2 cls j va, c.triRec at' = (s1, .ok rc) →
      genBytes (coreOf g) l.root (36 * recBits rc 95 64) (descW rc 63 0) s1 = (s2, .error (cls, j, va)) →
      exec (.rast x) s = .next ((entered s g sub w u x.e).takeTrap g sub (TrapInfo.lanes cls j 0 ((lanesOf real).map (fun i => (i, va))))))
  ∧ (rastCheck x c = none → r.act ≠ 0 → ∀ s1 rc, c.triRec at' = (s1, .ok rc) → ∀ s2 b,
      (if real = 0 then (s1, .ok []) else genBytes (coreOf g) l.root (36 * recBits rc 95 64) (descW rc 63 0) s1) = (s2, .ok b) →
      let tris := primWords 9 (recBits rc 95 64) b
      let pt := fun i => sampleAt (l.point k.lin w.wgw i).1 (l.point k.lin w.wgw i).2.1
      let won := fun i => if inMask real i then rastLane tris (pt i) (fun t => s.freeVal (i + 32 * (t + 1))) else none
      ∃ (help drop : W32) (val : Nat → Option (Nat × Nat × Nat × Nat)),
        (∀ i, i < 32 → (won i).isSome = true → val i = won i ∧ inMask help i = false ∧ inMask drop i = false)
        ∧ (∀ i j, i < 32 → (won i).isSome = false → inMask r.act i = true → j < 4 → (won (i / 4 * 4 + j)).isSome = true → (∀ q, q < j → (won (i / 4 * 4 + q)).isSome = false) →
            inMask help i = true ∧ inMask drop i = false ∧ val i = (won (i / 4 * 4 + j)).map (fun t => rastHelper tris t.1 (pt i) (s.freeVal i) (s.freeVal (i + 2 ^ 40))))
        ∧ (∀ i, i < 32 → inMask r.act i = true → (∀ j, j < 4 → (won (i / 4 * 4 + j)).isSome = false) → inMask drop i = true ∧ inMask help i = false)
        ∧ (∀ i, i < 32 → inMask r.act i = false → inMask help i = false ∧ inMask drop i = false)
        ∧ (∃ t, exec (.rast x) s = .next t ∧ Leaves ((s2.modWarp g (fun v => { v with helpers := v.helpers ||| help })).modUnit g sub (fun v => { v with exec := v.exec &&& ~~~drop })) t g sub { r.owed x.la.toNat x.d [fun i => (rastWords (val i)).1, fun i => (rastWords (val i)).2] with exec := u.exec &&& ~~~drop }))

/-- R313 to R316: HGF and HGS check their grid record (RECBAD). HGF reads the corners of each active lane, and leaves a feature for each level and place outstanding. HGS, where its addresses are aligned and writable,
adds each real lane's weighted gradients and changes no register; where no page is under copy-on-write it changes no byte but the gradients' it adds to, the leaf entries and the
waiting reductions. It waits for no copy, and a page that cannot be copied is MEMFAULT (R98). -/
def Sys2Proof.Claims.gridFetchAndScatter : Prop :=
  ∀ (x : Op) (s : State) (g sub : Nat) (w : Warp) (u : WUnit), s.memOk = true →
  let c := ctxAt s g sub w u x
  let s' := entered s g sub w u x.e
  let at' := opVal w u x.lit 0 x.b
  (∀ n, let r := { Res.plain w u x x.bytes with uses := (x.hdr x.bytes 3 1 1).uses, dests := x.d.run n, reads := x.a.run 3 }
    CanIssue s g sub w u r x.e (x.d.run n) →
    (∀ s1 k, c.grid x x.d = (s1, .error k) → exec (.hgf x) s = .next (s'.takeTrap g sub (TrapInfo.unit 7 k at')))
    ∧ (∀ s1 rc, c.grid x x.d = (s1, .ok rc) → n = gridL rc * gridF rc → r.act = 0 → (∃ t, exec (.hgf x) s = .next t ∧ Leaves s1 t g sub r))
    ∧ (∀ s1 rc, c.grid x x.d = (s1, .ok rc) → n = gridL rc * gridF rc → r.act ≠ 0 →
        let y := featLanes (coreOf g) (s.rootOf g) rc (bffz w.fpcr) (fun l => (List.range 3).map (fun i => gridCoord (nthVal w u l x.a i).toNat)) (lanesOf r.act) s1
        (∀ f ∈ y.2.2, inMask w.helpers f.1 = true) →
          (∃ t, exec (.hgf x) s = .next t ∧ Leaves y.1 t g sub (r.owed x.la.toNat x.d ((List.range n).map (fun i l => BitVec.ofNat 64 (((y.2.1.find? (fun v => v.1 = l)).map (fun v => v.2.getD i 0)).getD 0)))))))
  ∧ (∀ rc s1, let n := gridL rc * gridF rc
      let r := { Res.plain w u x x.bytes with uses := (x.hdr x.bytes 3 1 n).uses, reads := x.a.run 3 ++ x.c.run n }
      c.grid x x.c = (s1, .ok rc) → CanIssue s g sub w u r x.e [] →
      let size := if x.func.getLsbD 0 then 8 else 4
      let item := fun l => c.gradLane x rc l
      (∀ l ∈ realLanes w u x, ∀ p ∈ item l, p.1.toNat % size = 0) → ∀ s2 as,
      xlatEach (coreOf g) (s.rootOf g) .write (fun l => (List.range (item l).length).zip ((item l).map (·.1))) (realLanes w u x) s1 = (s2, as, []) →
      (cowFails s2 as ≠ [] → exec (.hgs x) s = .next (s'.takeTrap g sub (failTrap (cowAddr s2 as) 0 (cowFails s2 as))))
      ∧ (cowFails s2 as = [] → ∃ s3, (∃ t, exec (.hgs x) s = .next t ∧ Leaves s3 t g sub r))
      ∧ ((∀ a ∈ as, (pteVS (s2.leaf a.addr) && pteCW (s2.leaf a.addr)) = false) → leavesApart s as size →
        ∃ s3, (∃ t, exec (.hgs x) s = .next t ∧ Leaves s3 t g sub r) ∧ ∀ a, untouched s as size a → Store.get s3.mem a = Store.get s.mem a))

/-- R321, R322: COVQ writes each active lane's level, probe and computed bits and pattern; a warp that does not run under coverage gets the computed bit alone. COVP copies A, and where it runs under coverage a real lane
that probes gets the value reconstructed at its point, and its error is reported to its queue. -/
def Sys2Proof.Claims.coverage : Prop :=
  ∀ (x : Op) (s : State) (g sub : Nat) (w : Warp) (u : WUnit),
  let r := Res.plain w u x x.bytes
  CanIssue s g sub w u r x.e (x.d.run 1) →
  let c := ctxAt s g sub w u x
  (c.covered = none → (∃ t, exec (.covq x) s = .next t ∧ Leaves s t g sub (r.one x.d (fun _ => 512)))
      ∧ (∃ t, exec (.covp x) s = .next t ∧ Leaves s t g sub (r.owed x.la.toNat x.d [fun l => opVal w u x.lit l x.a])))
  ∧ (∀ l k, c.covered = some (l, k) →
      let blue := s.blue (dieOf g) l.root l.cov
      let probes := covProbes l.cov blue k.level k.lin
      let pt := fun i => l.point k.lin w.wgw i
      (∃ t, exec (.covq x) s = .next t ∧ Leaves s t g sub (r.one x.d (fun i => BitVec.ofNat 64 (k.level + (if pt i ∈ probes then 256 else 0)
          + (if covComputed l.cov blue k.level (pt i).1 (pt i).2.1 then 512 else 0) + covPat l.cov * 4096))))
      ∧ ((x.func.setWidth 2).toNat ≠ covType l.cov → exec (.covp x) s = .next ((entered s g sub w u x.e).takeTrap g sub (TrapInfo.unit 7 3 (BitVec.ofNat 64 l.covrec))))
      ∧ ((x.func.setWidth 2).toNat = covType l.cov → (∀ i ∈ realLanes w u x, pt i ∉ probes) →
          (∃ t, exec (.covp x) s = .next t ∧ Leaves s t g sub (r.owed x.la.toNat x.d [fun i => opVal w u x.lit i x.a])))
      ∧ ((x.func.setWidth 2).toNat = covType l.cov →
          let levels : AMap Nat (Option Nat) := (((realLanes w u x).filter (fun i => probes.contains (pt i))).flatMap (fun i => covNear l.cov (pt i))).eraseDups.map (fun b => (b, s.blockLevel (dieOf g) l b))
          let rc := fun i => reconstruct (covKern l.cov (x.func.setWidth 2).toNat) (covSource l.cov blue (fun b => levels.get none b) (pt i).2.2) (pt i).1 (pt i).2.1
          let src := fun i => (rc i).2.map (fun t => covElem l.cov (covOut l.cov) (covPitch l.cov) (x.func.setWidth 2).toNat t.2.1 t.2.2 (pt i).2.2)
          ∀ i, realLanes w u x = [i] → pt i ∈ probes → (∀ va ∈ src i, va.toNat % covBytes (x.func.setWidth 2).toNat = 0) → ∀ s1 vs,
          covReads (coreOf g) l.root (covBytes (x.func.setWidth 2).toNat) (src i) (entered s g sub w u x.e) = (s1, .ok vs) →
          let v := reconValue (x.func.setWidth 2).toNat (bffz w.fpcr) (rc i).1 (((rc i).2.map (·.1)).zip vs)
          (∃ t, exec (.covp x) s = .next t ∧ Leaves (s1.covReport l.qcb (covError (x.func.setWidth 2).toNat (bffz w.fpcr) (covScale l.cov) (opVal w u x.lit i x.a).toNat v)) t g sub (r.owed x.la.toNat x.d [fun j => if j = i then BitVec.ofNat 64 v else opVal w u x.lit j x.a]))))


/-- Words that the spec writes out bit by bit (R153 to R165, and the listings of the HGS, stencil, hash-grid and calling-convention programs) decode to the instructions they stand for, and its variants with a bit that may not be set are
illegal with the subcode it gives. -/
def Obligations.WorkedWords : Prop :=
  decode [0xA4402500, 0x01402C00, 0x01803400] = .ok (.ffma .f64 { s := true, e := false, la := 0, grd := some { neg := false, dep := 2 }, ula := true, ulb := false, ulc := false, mod := 0, d := .v 10, a := .v 11, b := .v 12, c := .v 13, func := 0, lit := none }) 12
  ∧ decode [0xA440E500, 0x01402C00, 0x01803400] = .illegal 4 ∧ decode [0xA4400500, 0x01402C00, 0x01803400] = .illegal 1
  ∧ decode [0xA4402500, 0x01402C40, 0x01803400] = .illegal 3 ∧ decode [0xA4402500, 0x01402F00, 0x01803400] = .illegal 3
  ∧ decode [0x30830820] = .ok (.fmulF64V { s := true, d := 3, a := 2, b := 2, ua := false, ub := false, mod := 0, lit := none }) 4
  ∧ decode [0x45000003, 0, 0x40100000] = .ok (.moviV { s := false, d := 0, a := 0, b := 0, ua := false, ub := false, mod := 3, lit := some 0x4010000000000000 }) 12
  ∧ decode [0x95008100, 0x00200000, 0] = .ok (.frcp .f64 { s := false, e := true, la := 2, grd := none, ula := true, ulb := false, ulc := false, mod := 0, d := .v 1, a := .v 0, b := .none, c := .none, func := 0, lit := none }) 12
  ∧ decode [0x7C400001, 9, 0xC] = .ok (.braPkBase 0 { s := true, d := 0, a := 0, b := 0, ua := false, ub := false, mod := 1, lit := some 0x0000000C00000009 }) 12
  ∧ decode [0x8CA40100, 0x00004000, 1] = .ok (.pushf { s := false, e := false, la := 0, grd := none, ula := true, ulb := false, ulc := false, mod := 0, d := .none, a := .v 16, b := .none, c := .none, func := 1, lit := none }) 12
  ∧ decode [0x9AD00000, 0x0FC12D80, 0] = .ok (.srd { s := false, e := true, la := 0, grd := none, ula := false, ulb := false, ulc := false, mod := 0, d := .s 126, a := .x .stkptr, b := .none, c := .none, func := 0, lit := none }) 12
  ∧ decode [0xBC080003, 0x01402434, 0x00005800] = .ok (.ldv { s := true, e := true, la := 0, grd := none, ula := false, ulb := false, ulc := false, mod := 3, d := .v 10, a := .v 9, b := .imm 0, c := .s 22, func := 0, lit := none }) 12
  ∧ decode [0x8F240140, 0x00000410, 0x0140A401] = .ok (.hgs { s := false, e := false, la := 0, grd := none, ula := true, ulb := false, ulc := true, mod := 0, d := .none, a := .v 1, b := .s 10, c := .v 41, func := 1, lit := none }) 12

/-- R147, R148, R20: where the agenda is empty, no tick of Norem is due, no matrix result has become undefined and no clock is stopped, a step of a unit that may issue, and that stands at no place of arrival, runs the instruction that the words at its PC decode to; fetching them changes the caches, the
directory and the accessed bit of its page only, and moves no PC. -/
def Obligations.StepRunsTheDecodedInstruction : Prop :=
  ∀ (s s1 : State) (g sub n : Nat) (u : WUnit) (ws : List W32) (i : Instr), s.tickDue = false → s.staleOps = false → s.agenda = [] → s.stalled = false → s.issuer = some (g, sub, u) → s.atJoin g u = false →
  s.fetch g u.pc = (s1, .ok ws) → decode ws = .ok i n →
  step s = exec i s1 ∧ s1 = { s with mem := s1.mem, dies := s1.dies, cores := s1.cores, dir := s1.dir, partials := s1.partials }

/-- R147 to R165: every well-formed instruction of the words decodes, from the words it encodes to, to itself with every operand, whatever follows; and words that decode encode back to themselves, so that each legal word has one meaning. -/
def Obligations.DecodeAndEncodeAgree : Prop :=
  (∀ (i : Instr) (rest : List W32), i.wf = true → i.form ≠ .event → decode (encode i ++ rest) = .ok i (4 * (encode i).length))
  ∧ ∀ (ws : List W32) (i : Instr) (n : Nat), decode ws = .ok i n → i.wf = true ∧ i.form ≠ .event ∧ n = 4 * (encode i).length ∧ encode i = ws.take (encode i).length

/-- Every step keeps memory and every scratchpad in their canonical form, addresses strictly rising and no zero byte, from any state that has it: an instruction, an event or the passing of time. -/
def Obligations.MemoryStaysCanonical : Prop := ∀ (s t : State), s.memOk = true → step s = .next t → t.memOk = true

/-- R7, R365, R373, R390, R415, R417, R430, R432: the machine right after reset. Every register has the reset value its table gives; RTIME and CLK are 0 and epoch 0 is 1,400 MHz; nothing is resident, queued or in progress, no function is
ready, and memory is in its canonical form. That memory reads 0 is the model's choice (log 2), as are the registers without a reset value (log 3). -/
def Obligations.ResetState : Prop :=
  let s := State.reset
  s.memOk = true ∧ s.rtime = 0 ∧ s.warps = [] ∧ s.groups = [] ∧ s.launches = [] ∧ s.queues = [] ∧ s.engines = [] ∧ s.fatal = false ∧ (∀ a, Store.get s.mem a = 0)
  ∧ ∀ d, s.clk d = 0 ∧ s.freq d = 1400 ∧ (∀ n, s.dieReg d (.slotq n) = 0x4000) ∧ s.dieReg d .dfreq = 1400 ∧ s.dieReg d .dready = 0 ∧ (∀ n, s.dieReg d (.cepinfo n) = 1400)
    ∧ (∀ r ∈ [DieReg.whvrt, .wharing, .whahead, .whatail, .whfring, .whfhead, .whftail, .whrej, .ctxaring, .ctxahead, .ctxatail, .ctxsring, .ctxshead, .ctxstail, .ltab, .preq, .warpctl, .mbox, .dbgsel, .dbgctl, .dbgacc, .dbgdata, .ceseq,
        .dsynd, .dsyndaddr, .drstreq, .tlbinv, .tlbrange], s.dieReg d r = 0)
    ∧ (∀ p k, s.dieReg d (.ulmap p k) = 0) ∧ (∀ i, s.dieReg d (.vifshare i) = 0)
    ∧ (∀ c r, s.coreReg c r = 0) ∧ s.pkgReg .lease = 0 ∧ s.pkgReg .pkginfo = 0 ∧ ∀ i, s.pkgReg (.vifcfg i) = 0x0000FFFFFFFF0000 ∧ s.pkgReg (.vifimt i) = 0 ∧ s.pkgReg (.vifcnt i) = 0


/-- Integer arithmetic in both kinds, wrapping and saturating (R128, R220, R221). -/
def Obligations.IntegerArithmetic : Prop :=
  Sys2Proof.Claims.integerArithmeticWraps ∧ Sys2Proof.Claims.integerArithmeticSaturates

/-- Moves, addresses, bit fields and selection. -/
def Obligations.MovesAndFields : Prop :=
  Sys2Proof.Claims.movesAndAddresses ∧ Sys2Proof.Claims.fieldsAndSelection

/-- What rounding to a format gives, from the values alone. -/
def Obligations.FloatRounding : Prop :=
  Sys2Proof.Claims.roundingIsIeee ∧ Sys2Proof.Claims.sumsAndProductsExact ∧ Sys2Proof.Claims.representableRoundsToItself ∧ Sys2Proof.Claims.frndIsIntegral

/-- The instructions of the transcendental pipe. -/
def Obligations.TranscendentalResults : Prop :=
  Sys2Proof.Claims.transcendentalPipe ∧ Sys2Proof.Claims.fredWritesTwo

/-- Conversion of the narrow formats, one by one and there and back. -/
def Obligations.NarrowConversions : Prop :=
  Sys2Proof.Claims.narrowConversion ∧ Sys2Proof.Claims.narrowRoundTrip

/-- Lane moves and votes. -/
def Obligations.LaneExchange : Prop :=
  Sys2Proof.Claims.laneMoves ∧ Sys2Proof.Claims.votes

/-- Jumps, calls, returns and branches, uniform and divergent. -/
def Obligations.JumpsAndBranches : Prop :=
  Sys2Proof.Claims.jumpsAndCalls ∧ Sys2Proof.Claims.uniformBranches ∧ Sys2Proof.Claims.branchesDivide

/-- What a split and a serial branch do to a unit. -/
def Obligations.Divergence : Prop :=
  Sys2Proof.Claims.splitMakesTwoUnits ∧ Sys2Proof.Claims.serialBranchPushes

/-- NOP, RGN, YIELD and SLEEP. -/
def Obligations.NopRgnYieldSleep : Prop :=
  Sys2Proof.Claims.nopRgnYield ∧ Sys2Proof.Claims.sleepWaits

/-- EXIT and FUSE. -/
def Obligations.LanesEndAndFuse : Prop :=
  Sys2Proof.Claims.exitEndsLanes ∧ Sys2Proof.Claims.fuseReaches

/-- SRD and SWR of each special register. -/
def Obligations.SpecialRegisters : Prop :=
  Sys2Proof.Claims.readsSpecialRegisters ∧ Sys2Proof.Claims.writesSpecialRegisters

/-- Register lists, and the traps of an allocation. -/
def Obligations.RegisterAllocation : Prop :=
  Sys2Proof.Claims.registerLists ∧ Sys2Proof.Claims.allocationChecks

/-- A fault resolved by replay, and the replay. -/
def Obligations.ReplayedFaults : Prop :=
  Sys2Proof.Claims.replayedFaultStops ∧ Sys2Proof.Claims.replayStartsRegion

/-- A trap that halts its warp, and its fault record. -/
def Obligations.HaltingTraps : Prop :=
  Sys2Proof.Claims.haltingTrapEndsWarp ∧ Sys2Proof.Claims.faultRecordLayout

/-- BAR, BARA, BARW and GBAR, and the end of a phase. -/
def Obligations.BarriersComplete : Prop :=
  Sys2Proof.Claims.barrierCompletes ∧ Sys2Proof.Claims.barriers ∧ Sys2Proof.Claims.groupBarrier

/-- WATCH, WAITW and SWI. -/
def Obligations.WatchesAndInterrupts : Prop :=
  Sys2Proof.Claims.watchAndWaitw ∧ Sys2Proof.Claims.softwareInterrupt

/-- LD, LDC, LDV and the value a load gives. -/
def Obligations.MemoryLoads : Prop :=
  Sys2Proof.Claims.loads ∧ Sys2Proof.Claims.versionedLoads ∧ Sys2Proof.Claims.loadedValue

/-- ATOM, RED and the operations they make. -/
def Obligations.AtomicsAndReductions : Prop :=
  Sys2Proof.Claims.atomics ∧ Sys2Proof.Claims.reductions ∧ Sys2Proof.Claims.atomicOperations

/-- Tile elements: where they lie, what is read and what is written. -/
def Obligations.TileReadsAndWrites : Prop :=
  Sys2Proof.Claims.tileElements ∧ Sys2Proof.Claims.tileElementsReadBack

/-- SEND and SAMP. -/
def Obligations.SendAndSample : Prop :=
  Sys2Proof.Claims.sendQueuesBlock ∧ Sys2Proof.Claims.sampleTexture

/-- Accumulator moves and drains. -/
def Obligations.AccumulatorMovesAndDrains : Prop :=
  Sys2Proof.Claims.accumulatorMovesQueue ∧ Sys2Proof.Claims.drainQueues

/-- RQ, and the test of a ray against a triangle. -/
def Obligations.RayQueries : Prop :=
  Sys2Proof.Claims.rayQuery ∧ Sys2Proof.Claims.rayHitsTriangle

/-- RCAST, CONT and RAST. -/
def Obligations.RelaunchAndRaster : Prop :=
  Sys2Proof.Claims.relaunchRecords ∧ Sys2Proof.Claims.raster

/-- The hash grids, and coverage. -/
def Obligations.GridsAndCoverage : Prop :=
  Sys2Proof.Claims.gridFetchAndScatter ∧ Sys2Proof.Claims.coverage

/-- The events of a warp: grants, waits that end, watchdogs, traps of the words at its PC. -/
def Obligations.WarpEvents : Prop :=
  Sys2Proof.Claims.strokeGrant ∧ Sys2Proof.Claims.waitsThatEnd ∧ Sys2Proof.Claims.waitersResume ∧ Sys2Proof.Claims.watchdogs ∧ Sys2Proof.Claims.issueTraps

/-- Results that arrive, registers granted and spilled, stack lines, and a multiplication that Norem emulates. -/
def Obligations.RegisterAndStackEvents : Prop :=
  Sys2Proof.Claims.resultArrives ∧ Sys2Proof.Claims.requestGranted ∧ Sys2Proof.Claims.victimSpilled ∧ Sys2Proof.Claims.stackLineArrives ∧ Sys2Proof.Claims.stackLineLeaves ∧ Sys2Proof.Claims.emulatedMultiply

/-- The directory, translations, versions of pages, and frames. -/
def Obligations.MemorySystemEvents : Prop :=
  Sys2Proof.Claims.directoryStates ∧ Sys2Proof.Claims.translations ∧ Sys2Proof.Claims.versionsOfPages ∧ Sys2Proof.Claims.framesMove

/-- The ends of engine commands, the landing of blocks, and rays. -/
def Obligations.EngineAndRayEvents : Prop :=
  Sys2Proof.Claims.enginesEnd ∧ Sys2Proof.Claims.blocksLand ∧ Sys2Proof.Claims.raysTravel

/-- Slots, kicks, records, dependences, launches and the placing of workgroups. -/
def Obligations.QueueAndLaunchEvents : Prop :=
  Sys2Proof.Claims.slotRegisters ∧ Sys2Proof.Claims.kicksServed ∧ Sys2Proof.Claims.recordsFetched ∧ Sys2Proof.Claims.dependencesPass ∧ Sys2Proof.Claims.launchesEnd ∧ Sys2Proof.Claims.workgroupsPlaced ∧ Sys2Proof.Claims.lateStarts

/-- Mapping of queues, the lease, interrupts and interfaces. -/
def Obligations.NoremAndInterfaceEvents : Prop :=
  Sys2Proof.Claims.queuesMapped ∧ Sys2Proof.Claims.leasesHeld ∧ Sys2Proof.Claims.interruptsDelivered ∧ Sys2Proof.Claims.interfacesChange

/-- Pre-emption, its images and restores, and the end of the Faulted state. -/
def Obligations.PreemptionEvents : Prop :=
  Sys2Proof.Claims.preemptionStarts ∧ Sys2Proof.Claims.workgroupsLeave ∧ Sys2Proof.Claims.workgroupsReturn ∧ Sys2Proof.Claims.blockRings ∧ Sys2Proof.Claims.faultedWarpsEnd

/-- The debugger, the trace switch and the clocks. -/
def Obligations.DebugTraceAndClocks : Prop :=
  Sys2Proof.Claims.debugCommands ∧ Sys2Proof.Claims.debugAccess ∧ Sys2Proof.Claims.traceSwitched ∧ Sys2Proof.Claims.clocksChange

/-- Soft and fatal errors, resets and ready words. -/
def Obligations.PackageEvents : Prop :=
  Sys2Proof.Claims.errorsCorrected ∧ Sys2Proof.Claims.fatalErrors ∧ Sys2Proof.Claims.packageResets ∧ Sys2Proof.Claims.functionsReady

/-- Inbound link requests and messages, and writes to device registers. -/
def Obligations.LinksAndRegisters : Prop :=
  Sys2Proof.Claims.linkRequests ∧ Sys2Proof.Claims.linkMessages ∧ Sys2Proof.Claims.registersWritten
end Statements
end

