-- ==== Sys2Proof/Laws/State.lean ====
section
/-! SUPPORT. What each plain update of the state leaves alone: one lemma for each field and update, so that no proof unfolds a record
update; and what the update gives back. -/

namespace Sys2Proof.Machine

/-! ## `setDie` -/

@[simp] theorem setDie_mem (s : State) (d : Nat) (v : Die) : (s.setDie d v).mem = s.mem := rfl
@[simp] theorem setDie_rtime (s : State) (d : Nat) (v : Die) : (s.setDie d v).rtime = s.rtime := rfl
@[simp] theorem setDie_pkg (s : State) (d : Nat) (v : Die) : (s.setDie d v).pkg = s.pkg := rfl
@[simp] theorem setDie_cores (s : State) (d : Nat) (v : Die) : (s.setDie d v).cores = s.cores := rfl
@[simp] theorem setDie_warps (s : State) (d : Nat) (v : Die) : (s.setDie d v).warps = s.warps := rfl
@[simp] theorem setDie_groups (s : State) (d : Nat) (v : Die) : (s.setDie d v).groups = s.groups := rfl
@[simp] theorem setDie_launches (s : State) (d : Nat) (v : Die) : (s.setDie d v).launches = s.launches := rfl
@[simp] theorem setDie_queues (s : State) (d : Nat) (v : Die) : (s.setDie d v).queues = s.queues := rfl
@[simp] theorem setDie_dir (s : State) (d : Nat) (v : Die) : (s.setDie d v).dir = s.dir := rfl
@[simp] theorem setDie_partials (s : State) (d : Nat) (v : Die) : (s.setDie d v).partials = s.partials := rfl
@[simp] theorem setDie_engines (s : State) (d : Nat) (v : Die) : (s.setDie d v).engines = s.engines := rfl
@[simp] theorem setDie_sends (s : State) (d : Nat) (v : Die) : (s.setDie d v).sends = s.sends := rfl
@[simp] theorem setDie_cows (s : State) (d : Nat) (v : Die) : (s.setDie d v).cows = s.cows := rfl
@[simp] theorem setDie_rays (s : State) (d : Nat) (v : Die) : (s.setDie d v).rays = s.rays := rfl
@[simp] theorem setDie_allreds (s : State) (d : Nat) (v : Die) : (s.setDie d v).allreds = s.allreds := rfl
@[simp] theorem setDie_halos (s : State) (d : Nat) (v : Die) : (s.setDie d v).halos = s.halos := rfl
@[simp] theorem setDie_lost (s : State) (d : Nat) (v : Die) : (s.setDie d v).lost = s.lost := rfl
@[simp] theorem setDie_outbox (s : State) (d : Nat) (v : Die) : (s.setDie d v).outbox = s.outbox := rfl
@[simp] theorem setDie_replies (s : State) (d : Nat) (v : Die) : (s.setDie d v).replies = s.replies := rfl
@[simp] theorem setDie_teardowns (s : State) (d : Nat) (v : Die) : (s.setDie d v).teardowns = s.teardowns := rfl
@[simp] theorem setDie_mailbox (s : State) (d : Nat) (v : Die) : (s.setDie d v).mailbox = s.mailbox := rfl
@[simp] theorem setDie_fatal (s : State) (d : Nat) (v : Die) : (s.setDie d v).fatal = s.fatal := rfl
@[simp] theorem setDie_handles (s : State) (d : Nat) (v : Die) : (s.setDie d v).handles = s.handles := rfl
@[simp] theorem setDie_ticked (s : State) (d : Nat) (v : Die) : (s.setDie d v).ticked = s.ticked := rfl
@[simp] theorem setDie_cut (s : State) (d : Nat) (v : Die) : (s.setDie d v).cut = s.cut := rfl
@[simp] theorem setDie_focus (s : State) (d : Nat) (v : Die) : (s.setDie d v).focus = s.focus := rfl
@[simp] theorem setDie_agenda (s : State) (d : Nat) (v : Die) : (s.setDie d v).agenda = s.agenda := rfl
@[simp] theorem setDie_free (s : State) (d : Nat) (v : Die) : (s.setDie d v).free = s.free := rfl

/-! ## `setCore` -/

@[simp] theorem setCore_mem (s : State) (c : Nat) (v : Core) : (s.setCore c v).mem = s.mem := rfl
@[simp] theorem setCore_rtime (s : State) (c : Nat) (v : Core) : (s.setCore c v).rtime = s.rtime := rfl
@[simp] theorem setCore_pkg (s : State) (c : Nat) (v : Core) : (s.setCore c v).pkg = s.pkg := rfl
@[simp] theorem setCore_dies (s : State) (c : Nat) (v : Core) : (s.setCore c v).dies = s.dies := rfl
@[simp] theorem setCore_warps (s : State) (c : Nat) (v : Core) : (s.setCore c v).warps = s.warps := rfl
@[simp] theorem setCore_groups (s : State) (c : Nat) (v : Core) : (s.setCore c v).groups = s.groups := rfl
@[simp] theorem setCore_launches (s : State) (c : Nat) (v : Core) : (s.setCore c v).launches = s.launches := rfl
@[simp] theorem setCore_queues (s : State) (c : Nat) (v : Core) : (s.setCore c v).queues = s.queues := rfl
@[simp] theorem setCore_dir (s : State) (c : Nat) (v : Core) : (s.setCore c v).dir = s.dir := rfl
@[simp] theorem setCore_partials (s : State) (c : Nat) (v : Core) : (s.setCore c v).partials = s.partials := rfl
@[simp] theorem setCore_engines (s : State) (c : Nat) (v : Core) : (s.setCore c v).engines = s.engines := rfl
@[simp] theorem setCore_sends (s : State) (c : Nat) (v : Core) : (s.setCore c v).sends = s.sends := rfl
@[simp] theorem setCore_cows (s : State) (c : Nat) (v : Core) : (s.setCore c v).cows = s.cows := rfl
@[simp] theorem setCore_rays (s : State) (c : Nat) (v : Core) : (s.setCore c v).rays = s.rays := rfl
@[simp] theorem setCore_allreds (s : State) (c : Nat) (v : Core) : (s.setCore c v).allreds = s.allreds := rfl
@[simp] theorem setCore_halos (s : State) (c : Nat) (v : Core) : (s.setCore c v).halos = s.halos := rfl
@[simp] theorem setCore_lost (s : State) (c : Nat) (v : Core) : (s.setCore c v).lost = s.lost := rfl
@[simp] theorem setCore_outbox (s : State) (c : Nat) (v : Core) : (s.setCore c v).outbox = s.outbox := rfl
@[simp] theorem setCore_replies (s : State) (c : Nat) (v : Core) : (s.setCore c v).replies = s.replies := rfl
@[simp] theorem setCore_teardowns (s : State) (c : Nat) (v : Core) : (s.setCore c v).teardowns = s.teardowns := rfl
@[simp] theorem setCore_mailbox (s : State) (c : Nat) (v : Core) : (s.setCore c v).mailbox = s.mailbox := rfl
@[simp] theorem setCore_fatal (s : State) (c : Nat) (v : Core) : (s.setCore c v).fatal = s.fatal := rfl
@[simp] theorem setCore_handles (s : State) (c : Nat) (v : Core) : (s.setCore c v).handles = s.handles := rfl
@[simp] theorem setCore_ticked (s : State) (c : Nat) (v : Core) : (s.setCore c v).ticked = s.ticked := rfl
@[simp] theorem setCore_cut (s : State) (c : Nat) (v : Core) : (s.setCore c v).cut = s.cut := rfl
@[simp] theorem setCore_focus (s : State) (c : Nat) (v : Core) : (s.setCore c v).focus = s.focus := rfl
@[simp] theorem setCore_agenda (s : State) (c : Nat) (v : Core) : (s.setCore c v).agenda = s.agenda := rfl
@[simp] theorem setCore_free (s : State) (c : Nat) (v : Core) : (s.setCore c v).free = s.free := rfl

/-! ## `setWarp` -/

@[simp] theorem setWarp_mem (s : State) (g : Nat) (w : Warp) : (s.setWarp g w).mem = s.mem := rfl
@[simp] theorem setWarp_rtime (s : State) (g : Nat) (w : Warp) : (s.setWarp g w).rtime = s.rtime := rfl
@[simp] theorem setWarp_pkg (s : State) (g : Nat) (w : Warp) : (s.setWarp g w).pkg = s.pkg := rfl
@[simp] theorem setWarp_dies (s : State) (g : Nat) (w : Warp) : (s.setWarp g w).dies = s.dies := rfl
@[simp] theorem setWarp_cores (s : State) (g : Nat) (w : Warp) : (s.setWarp g w).cores = s.cores := rfl
@[simp] theorem setWarp_groups (s : State) (g : Nat) (w : Warp) : (s.setWarp g w).groups = s.groups := rfl
@[simp] theorem setWarp_launches (s : State) (g : Nat) (w : Warp) : (s.setWarp g w).launches = s.launches := rfl
@[simp] theorem setWarp_queues (s : State) (g : Nat) (w : Warp) : (s.setWarp g w).queues = s.queues := rfl
@[simp] theorem setWarp_dir (s : State) (g : Nat) (w : Warp) : (s.setWarp g w).dir = s.dir := rfl
@[simp] theorem setWarp_partials (s : State) (g : Nat) (w : Warp) : (s.setWarp g w).partials = s.partials := rfl
@[simp] theorem setWarp_engines (s : State) (g : Nat) (w : Warp) : (s.setWarp g w).engines = s.engines := rfl
@[simp] theorem setWarp_sends (s : State) (g : Nat) (w : Warp) : (s.setWarp g w).sends = s.sends := rfl
@[simp] theorem setWarp_cows (s : State) (g : Nat) (w : Warp) : (s.setWarp g w).cows = s.cows := rfl
@[simp] theorem setWarp_rays (s : State) (g : Nat) (w : Warp) : (s.setWarp g w).rays = s.rays := rfl
@[simp] theorem setWarp_allreds (s : State) (g : Nat) (w : Warp) : (s.setWarp g w).allreds = s.allreds := rfl
@[simp] theorem setWarp_halos (s : State) (g : Nat) (w : Warp) : (s.setWarp g w).halos = s.halos := rfl
@[simp] theorem setWarp_lost (s : State) (g : Nat) (w : Warp) : (s.setWarp g w).lost = s.lost := rfl
@[simp] theorem setWarp_outbox (s : State) (g : Nat) (w : Warp) : (s.setWarp g w).outbox = s.outbox := rfl
@[simp] theorem setWarp_replies (s : State) (g : Nat) (w : Warp) : (s.setWarp g w).replies = s.replies := rfl
@[simp] theorem setWarp_teardowns (s : State) (g : Nat) (w : Warp) : (s.setWarp g w).teardowns = s.teardowns := rfl
@[simp] theorem setWarp_mailbox (s : State) (g : Nat) (w : Warp) : (s.setWarp g w).mailbox = s.mailbox := rfl
@[simp] theorem setWarp_fatal (s : State) (g : Nat) (w : Warp) : (s.setWarp g w).fatal = s.fatal := rfl
@[simp] theorem setWarp_handles (s : State) (g : Nat) (w : Warp) : (s.setWarp g w).handles = s.handles := rfl
@[simp] theorem setWarp_ticked (s : State) (g : Nat) (w : Warp) : (s.setWarp g w).ticked = s.ticked := rfl
@[simp] theorem setWarp_cut (s : State) (g : Nat) (w : Warp) : (s.setWarp g w).cut = s.cut := rfl
@[simp] theorem setWarp_focus (s : State) (g : Nat) (w : Warp) : (s.setWarp g w).focus = s.focus := rfl
@[simp] theorem setWarp_agenda (s : State) (g : Nat) (w : Warp) : (s.setWarp g w).agenda = s.agenda := rfl
@[simp] theorem setWarp_free (s : State) (g : Nat) (w : Warp) : (s.setWarp g w).free = s.free := rfl

/-! ## `setGroup` -/

@[simp] theorem setGroup_mem (s : State) (k : Nat) (v : Group) : (s.setGroup k v).mem = s.mem := rfl
@[simp] theorem setGroup_rtime (s : State) (k : Nat) (v : Group) : (s.setGroup k v).rtime = s.rtime := rfl
@[simp] theorem setGroup_pkg (s : State) (k : Nat) (v : Group) : (s.setGroup k v).pkg = s.pkg := rfl
@[simp] theorem setGroup_dies (s : State) (k : Nat) (v : Group) : (s.setGroup k v).dies = s.dies := rfl
@[simp] theorem setGroup_cores (s : State) (k : Nat) (v : Group) : (s.setGroup k v).cores = s.cores := rfl
@[simp] theorem setGroup_warps (s : State) (k : Nat) (v : Group) : (s.setGroup k v).warps = s.warps := rfl
@[simp] theorem setGroup_launches (s : State) (k : Nat) (v : Group) : (s.setGroup k v).launches = s.launches := rfl
@[simp] theorem setGroup_queues (s : State) (k : Nat) (v : Group) : (s.setGroup k v).queues = s.queues := rfl
@[simp] theorem setGroup_dir (s : State) (k : Nat) (v : Group) : (s.setGroup k v).dir = s.dir := rfl
@[simp] theorem setGroup_partials (s : State) (k : Nat) (v : Group) : (s.setGroup k v).partials = s.partials := rfl
@[simp] theorem setGroup_engines (s : State) (k : Nat) (v : Group) : (s.setGroup k v).engines = s.engines := rfl
@[simp] theorem setGroup_sends (s : State) (k : Nat) (v : Group) : (s.setGroup k v).sends = s.sends := rfl
@[simp] theorem setGroup_cows (s : State) (k : Nat) (v : Group) : (s.setGroup k v).cows = s.cows := rfl
@[simp] theorem setGroup_rays (s : State) (k : Nat) (v : Group) : (s.setGroup k v).rays = s.rays := rfl
@[simp] theorem setGroup_allreds (s : State) (k : Nat) (v : Group) : (s.setGroup k v).allreds = s.allreds := rfl
@[simp] theorem setGroup_halos (s : State) (k : Nat) (v : Group) : (s.setGroup k v).halos = s.halos := rfl
@[simp] theorem setGroup_lost (s : State) (k : Nat) (v : Group) : (s.setGroup k v).lost = s.lost := rfl
@[simp] theorem setGroup_outbox (s : State) (k : Nat) (v : Group) : (s.setGroup k v).outbox = s.outbox := rfl
@[simp] theorem setGroup_replies (s : State) (k : Nat) (v : Group) : (s.setGroup k v).replies = s.replies := rfl
@[simp] theorem setGroup_teardowns (s : State) (k : Nat) (v : Group) : (s.setGroup k v).teardowns = s.teardowns := rfl
@[simp] theorem setGroup_mailbox (s : State) (k : Nat) (v : Group) : (s.setGroup k v).mailbox = s.mailbox := rfl
@[simp] theorem setGroup_fatal (s : State) (k : Nat) (v : Group) : (s.setGroup k v).fatal = s.fatal := rfl
@[simp] theorem setGroup_handles (s : State) (k : Nat) (v : Group) : (s.setGroup k v).handles = s.handles := rfl
@[simp] theorem setGroup_ticked (s : State) (k : Nat) (v : Group) : (s.setGroup k v).ticked = s.ticked := rfl
@[simp] theorem setGroup_cut (s : State) (k : Nat) (v : Group) : (s.setGroup k v).cut = s.cut := rfl
@[simp] theorem setGroup_focus (s : State) (k : Nat) (v : Group) : (s.setGroup k v).focus = s.focus := rfl
@[simp] theorem setGroup_agenda (s : State) (k : Nat) (v : Group) : (s.setGroup k v).agenda = s.agenda := rfl
@[simp] theorem setGroup_free (s : State) (k : Nat) (v : Group) : (s.setGroup k v).free = s.free := rfl

/-! ## `setPkgReg` -/

@[simp] theorem setPkgReg_mem (s : State) (r : PkgReg) (v : W64) : (s.setPkgReg r v).mem = s.mem := rfl
@[simp] theorem setPkgReg_rtime (s : State) (r : PkgReg) (v : W64) : (s.setPkgReg r v).rtime = s.rtime := rfl
@[simp] theorem setPkgReg_dies (s : State) (r : PkgReg) (v : W64) : (s.setPkgReg r v).dies = s.dies := rfl
@[simp] theorem setPkgReg_cores (s : State) (r : PkgReg) (v : W64) : (s.setPkgReg r v).cores = s.cores := rfl
@[simp] theorem setPkgReg_warps (s : State) (r : PkgReg) (v : W64) : (s.setPkgReg r v).warps = s.warps := rfl
@[simp] theorem setPkgReg_groups (s : State) (r : PkgReg) (v : W64) : (s.setPkgReg r v).groups = s.groups := rfl
@[simp] theorem setPkgReg_launches (s : State) (r : PkgReg) (v : W64) : (s.setPkgReg r v).launches = s.launches := rfl
@[simp] theorem setPkgReg_queues (s : State) (r : PkgReg) (v : W64) : (s.setPkgReg r v).queues = s.queues := rfl
@[simp] theorem setPkgReg_dir (s : State) (r : PkgReg) (v : W64) : (s.setPkgReg r v).dir = s.dir := rfl
@[simp] theorem setPkgReg_partials (s : State) (r : PkgReg) (v : W64) : (s.setPkgReg r v).partials = s.partials := rfl
@[simp] theorem setPkgReg_engines (s : State) (r : PkgReg) (v : W64) : (s.setPkgReg r v).engines = s.engines := rfl
@[simp] theorem setPkgReg_sends (s : State) (r : PkgReg) (v : W64) : (s.setPkgReg r v).sends = s.sends := rfl
@[simp] theorem setPkgReg_cows (s : State) (r : PkgReg) (v : W64) : (s.setPkgReg r v).cows = s.cows := rfl
@[simp] theorem setPkgReg_rays (s : State) (r : PkgReg) (v : W64) : (s.setPkgReg r v).rays = s.rays := rfl
@[simp] theorem setPkgReg_allreds (s : State) (r : PkgReg) (v : W64) : (s.setPkgReg r v).allreds = s.allreds := rfl
@[simp] theorem setPkgReg_halos (s : State) (r : PkgReg) (v : W64) : (s.setPkgReg r v).halos = s.halos := rfl
@[simp] theorem setPkgReg_lost (s : State) (r : PkgReg) (v : W64) : (s.setPkgReg r v).lost = s.lost := rfl
@[simp] theorem setPkgReg_outbox (s : State) (r : PkgReg) (v : W64) : (s.setPkgReg r v).outbox = s.outbox := rfl
@[simp] theorem setPkgReg_replies (s : State) (r : PkgReg) (v : W64) : (s.setPkgReg r v).replies = s.replies := rfl
@[simp] theorem setPkgReg_teardowns (s : State) (r : PkgReg) (v : W64) : (s.setPkgReg r v).teardowns = s.teardowns := rfl
@[simp] theorem setPkgReg_mailbox (s : State) (r : PkgReg) (v : W64) : (s.setPkgReg r v).mailbox = s.mailbox := rfl
@[simp] theorem setPkgReg_fatal (s : State) (r : PkgReg) (v : W64) : (s.setPkgReg r v).fatal = s.fatal := rfl
@[simp] theorem setPkgReg_handles (s : State) (r : PkgReg) (v : W64) : (s.setPkgReg r v).handles = s.handles := rfl
@[simp] theorem setPkgReg_ticked (s : State) (r : PkgReg) (v : W64) : (s.setPkgReg r v).ticked = s.ticked := rfl
@[simp] theorem setPkgReg_cut (s : State) (r : PkgReg) (v : W64) : (s.setPkgReg r v).cut = s.cut := rfl
@[simp] theorem setPkgReg_focus (s : State) (r : PkgReg) (v : W64) : (s.setPkgReg r v).focus = s.focus := rfl
@[simp] theorem setPkgReg_agenda (s : State) (r : PkgReg) (v : W64) : (s.setPkgReg r v).agenda = s.agenda := rfl
@[simp] theorem setPkgReg_free (s : State) (r : PkgReg) (v : W64) : (s.setPkgReg r v).free = s.free := rfl

/-! ## `modDie` -/

@[simp] theorem modDie_mem (s : State) (d : Nat) (f : Die → Die) : (s.modDie d f).mem = s.mem := rfl
@[simp] theorem modDie_rtime (s : State) (d : Nat) (f : Die → Die) : (s.modDie d f).rtime = s.rtime := rfl
@[simp] theorem modDie_pkg (s : State) (d : Nat) (f : Die → Die) : (s.modDie d f).pkg = s.pkg := rfl
@[simp] theorem modDie_cores (s : State) (d : Nat) (f : Die → Die) : (s.modDie d f).cores = s.cores := rfl
@[simp] theorem modDie_warps (s : State) (d : Nat) (f : Die → Die) : (s.modDie d f).warps = s.warps := rfl
@[simp] theorem modDie_groups (s : State) (d : Nat) (f : Die → Die) : (s.modDie d f).groups = s.groups := rfl
@[simp] theorem modDie_launches (s : State) (d : Nat) (f : Die → Die) : (s.modDie d f).launches = s.launches := rfl
@[simp] theorem modDie_queues (s : State) (d : Nat) (f : Die → Die) : (s.modDie d f).queues = s.queues := rfl
@[simp] theorem modDie_dir (s : State) (d : Nat) (f : Die → Die) : (s.modDie d f).dir = s.dir := rfl
@[simp] theorem modDie_partials (s : State) (d : Nat) (f : Die → Die) : (s.modDie d f).partials = s.partials := rfl
@[simp] theorem modDie_engines (s : State) (d : Nat) (f : Die → Die) : (s.modDie d f).engines = s.engines := rfl
@[simp] theorem modDie_sends (s : State) (d : Nat) (f : Die → Die) : (s.modDie d f).sends = s.sends := rfl
@[simp] theorem modDie_cows (s : State) (d : Nat) (f : Die → Die) : (s.modDie d f).cows = s.cows := rfl
@[simp] theorem modDie_rays (s : State) (d : Nat) (f : Die → Die) : (s.modDie d f).rays = s.rays := rfl
@[simp] theorem modDie_allreds (s : State) (d : Nat) (f : Die → Die) : (s.modDie d f).allreds = s.allreds := rfl
@[simp] theorem modDie_halos (s : State) (d : Nat) (f : Die → Die) : (s.modDie d f).halos = s.halos := rfl
@[simp] theorem modDie_lost (s : State) (d : Nat) (f : Die → Die) : (s.modDie d f).lost = s.lost := rfl
@[simp] theorem modDie_outbox (s : State) (d : Nat) (f : Die → Die) : (s.modDie d f).outbox = s.outbox := rfl
@[simp] theorem modDie_replies (s : State) (d : Nat) (f : Die → Die) : (s.modDie d f).replies = s.replies := rfl
@[simp] theorem modDie_teardowns (s : State) (d : Nat) (f : Die → Die) : (s.modDie d f).teardowns = s.teardowns := rfl
@[simp] theorem modDie_mailbox (s : State) (d : Nat) (f : Die → Die) : (s.modDie d f).mailbox = s.mailbox := rfl
@[simp] theorem modDie_fatal (s : State) (d : Nat) (f : Die → Die) : (s.modDie d f).fatal = s.fatal := rfl
@[simp] theorem modDie_handles (s : State) (d : Nat) (f : Die → Die) : (s.modDie d f).handles = s.handles := rfl
@[simp] theorem modDie_ticked (s : State) (d : Nat) (f : Die → Die) : (s.modDie d f).ticked = s.ticked := rfl
@[simp] theorem modDie_cut (s : State) (d : Nat) (f : Die → Die) : (s.modDie d f).cut = s.cut := rfl
@[simp] theorem modDie_focus (s : State) (d : Nat) (f : Die → Die) : (s.modDie d f).focus = s.focus := rfl
@[simp] theorem modDie_agenda (s : State) (d : Nat) (f : Die → Die) : (s.modDie d f).agenda = s.agenda := rfl
@[simp] theorem modDie_free (s : State) (d : Nat) (f : Die → Die) : (s.modDie d f).free = s.free := rfl

/-! ## `modCore` -/

@[simp] theorem modCore_mem (s : State) (c : Nat) (f : Core → Core) : (s.modCore c f).mem = s.mem := rfl
@[simp] theorem modCore_rtime (s : State) (c : Nat) (f : Core → Core) : (s.modCore c f).rtime = s.rtime := rfl
@[simp] theorem modCore_pkg (s : State) (c : Nat) (f : Core → Core) : (s.modCore c f).pkg = s.pkg := rfl
@[simp] theorem modCore_dies (s : State) (c : Nat) (f : Core → Core) : (s.modCore c f).dies = s.dies := rfl
@[simp] theorem modCore_warps (s : State) (c : Nat) (f : Core → Core) : (s.modCore c f).warps = s.warps := rfl
@[simp] theorem modCore_groups (s : State) (c : Nat) (f : Core → Core) : (s.modCore c f).groups = s.groups := rfl
@[simp] theorem modCore_launches (s : State) (c : Nat) (f : Core → Core) : (s.modCore c f).launches = s.launches := rfl
@[simp] theorem modCore_queues (s : State) (c : Nat) (f : Core → Core) : (s.modCore c f).queues = s.queues := rfl
@[simp] theorem modCore_dir (s : State) (c : Nat) (f : Core → Core) : (s.modCore c f).dir = s.dir := rfl
@[simp] theorem modCore_partials (s : State) (c : Nat) (f : Core → Core) : (s.modCore c f).partials = s.partials := rfl
@[simp] theorem modCore_engines (s : State) (c : Nat) (f : Core → Core) : (s.modCore c f).engines = s.engines := rfl
@[simp] theorem modCore_sends (s : State) (c : Nat) (f : Core → Core) : (s.modCore c f).sends = s.sends := rfl
@[simp] theorem modCore_cows (s : State) (c : Nat) (f : Core → Core) : (s.modCore c f).cows = s.cows := rfl
@[simp] theorem modCore_rays (s : State) (c : Nat) (f : Core → Core) : (s.modCore c f).rays = s.rays := rfl
@[simp] theorem modCore_allreds (s : State) (c : Nat) (f : Core → Core) : (s.modCore c f).allreds = s.allreds := rfl
@[simp] theorem modCore_halos (s : State) (c : Nat) (f : Core → Core) : (s.modCore c f).halos = s.halos := rfl
@[simp] theorem modCore_lost (s : State) (c : Nat) (f : Core → Core) : (s.modCore c f).lost = s.lost := rfl
@[simp] theorem modCore_outbox (s : State) (c : Nat) (f : Core → Core) : (s.modCore c f).outbox = s.outbox := rfl
@[simp] theorem modCore_replies (s : State) (c : Nat) (f : Core → Core) : (s.modCore c f).replies = s.replies := rfl
@[simp] theorem modCore_teardowns (s : State) (c : Nat) (f : Core → Core) : (s.modCore c f).teardowns = s.teardowns := rfl
@[simp] theorem modCore_mailbox (s : State) (c : Nat) (f : Core → Core) : (s.modCore c f).mailbox = s.mailbox := rfl
@[simp] theorem modCore_fatal (s : State) (c : Nat) (f : Core → Core) : (s.modCore c f).fatal = s.fatal := rfl
@[simp] theorem modCore_handles (s : State) (c : Nat) (f : Core → Core) : (s.modCore c f).handles = s.handles := rfl
@[simp] theorem modCore_ticked (s : State) (c : Nat) (f : Core → Core) : (s.modCore c f).ticked = s.ticked := rfl
@[simp] theorem modCore_cut (s : State) (c : Nat) (f : Core → Core) : (s.modCore c f).cut = s.cut := rfl
@[simp] theorem modCore_focus (s : State) (c : Nat) (f : Core → Core) : (s.modCore c f).focus = s.focus := rfl
@[simp] theorem modCore_agenda (s : State) (c : Nat) (f : Core → Core) : (s.modCore c f).agenda = s.agenda := rfl
@[simp] theorem modCore_free (s : State) (c : Nat) (f : Core → Core) : (s.modCore c f).free = s.free := rfl

/-! ## `modWarp` -/

@[simp] theorem modWarp_mem (s : State) (g : Nat) (f : Warp → Warp) : (s.modWarp g f).mem = s.mem := by unfold State.modWarp; split <;> rfl
@[simp] theorem modWarp_rtime (s : State) (g : Nat) (f : Warp → Warp) : (s.modWarp g f).rtime = s.rtime := by unfold State.modWarp; split <;> rfl
@[simp] theorem modWarp_pkg (s : State) (g : Nat) (f : Warp → Warp) : (s.modWarp g f).pkg = s.pkg := by unfold State.modWarp; split <;> rfl
@[simp] theorem modWarp_dies (s : State) (g : Nat) (f : Warp → Warp) : (s.modWarp g f).dies = s.dies := by unfold State.modWarp; split <;> rfl
@[simp] theorem modWarp_cores (s : State) (g : Nat) (f : Warp → Warp) : (s.modWarp g f).cores = s.cores := by unfold State.modWarp; split <;> rfl
@[simp] theorem modWarp_groups (s : State) (g : Nat) (f : Warp → Warp) : (s.modWarp g f).groups = s.groups := by unfold State.modWarp; split <;> rfl
@[simp] theorem modWarp_launches (s : State) (g : Nat) (f : Warp → Warp) : (s.modWarp g f).launches = s.launches := by unfold State.modWarp; split <;> rfl
@[simp] theorem modWarp_queues (s : State) (g : Nat) (f : Warp → Warp) : (s.modWarp g f).queues = s.queues := by unfold State.modWarp; split <;> rfl
@[simp] theorem modWarp_dir (s : State) (g : Nat) (f : Warp → Warp) : (s.modWarp g f).dir = s.dir := by unfold State.modWarp; split <;> rfl
@[simp] theorem modWarp_partials (s : State) (g : Nat) (f : Warp → Warp) : (s.modWarp g f).partials = s.partials := by unfold State.modWarp; split <;> rfl
@[simp] theorem modWarp_engines (s : State) (g : Nat) (f : Warp → Warp) : (s.modWarp g f).engines = s.engines := by unfold State.modWarp; split <;> rfl
@[simp] theorem modWarp_sends (s : State) (g : Nat) (f : Warp → Warp) : (s.modWarp g f).sends = s.sends := by unfold State.modWarp; split <;> rfl
@[simp] theorem modWarp_cows (s : State) (g : Nat) (f : Warp → Warp) : (s.modWarp g f).cows = s.cows := by unfold State.modWarp; split <;> rfl
@[simp] theorem modWarp_rays (s : State) (g : Nat) (f : Warp → Warp) : (s.modWarp g f).rays = s.rays := by unfold State.modWarp; split <;> rfl
@[simp] theorem modWarp_allreds (s : State) (g : Nat) (f : Warp → Warp) : (s.modWarp g f).allreds = s.allreds := by unfold State.modWarp; split <;> rfl
@[simp] theorem modWarp_halos (s : State) (g : Nat) (f : Warp → Warp) : (s.modWarp g f).halos = s.halos := by unfold State.modWarp; split <;> rfl
@[simp] theorem modWarp_lost (s : State) (g : Nat) (f : Warp → Warp) : (s.modWarp g f).lost = s.lost := by unfold State.modWarp; split <;> rfl
@[simp] theorem modWarp_outbox (s : State) (g : Nat) (f : Warp → Warp) : (s.modWarp g f).outbox = s.outbox := by unfold State.modWarp; split <;> rfl
@[simp] theorem modWarp_replies (s : State) (g : Nat) (f : Warp → Warp) : (s.modWarp g f).replies = s.replies := by unfold State.modWarp; split <;> rfl
@[simp] theorem modWarp_teardowns (s : State) (g : Nat) (f : Warp → Warp) : (s.modWarp g f).teardowns = s.teardowns := by unfold State.modWarp; split <;> rfl
@[simp] theorem modWarp_mailbox (s : State) (g : Nat) (f : Warp → Warp) : (s.modWarp g f).mailbox = s.mailbox := by unfold State.modWarp; split <;> rfl
@[simp] theorem modWarp_fatal (s : State) (g : Nat) (f : Warp → Warp) : (s.modWarp g f).fatal = s.fatal := by unfold State.modWarp; split <;> rfl
@[simp] theorem modWarp_handles (s : State) (g : Nat) (f : Warp → Warp) : (s.modWarp g f).handles = s.handles := by unfold State.modWarp; split <;> rfl
@[simp] theorem modWarp_ticked (s : State) (g : Nat) (f : Warp → Warp) : (s.modWarp g f).ticked = s.ticked := by unfold State.modWarp; split <;> rfl
@[simp] theorem modWarp_cut (s : State) (g : Nat) (f : Warp → Warp) : (s.modWarp g f).cut = s.cut := by unfold State.modWarp; split <;> rfl
@[simp] theorem modWarp_focus (s : State) (g : Nat) (f : Warp → Warp) : (s.modWarp g f).focus = s.focus := by unfold State.modWarp; split <;> rfl
@[simp] theorem modWarp_agenda (s : State) (g : Nat) (f : Warp → Warp) : (s.modWarp g f).agenda = s.agenda := by unfold State.modWarp; split <;> rfl
@[simp] theorem modWarp_free (s : State) (g : Nat) (f : Warp → Warp) : (s.modWarp g f).free = s.free := by unfold State.modWarp; split <;> rfl

/-! ## `modGroup` -/

@[simp] theorem modGroup_mem (s : State) (k : Nat) (f : Group → Group) : (s.modGroup k f).mem = s.mem := by unfold State.modGroup; split <;> rfl
@[simp] theorem modGroup_rtime (s : State) (k : Nat) (f : Group → Group) : (s.modGroup k f).rtime = s.rtime := by unfold State.modGroup; split <;> rfl
@[simp] theorem modGroup_pkg (s : State) (k : Nat) (f : Group → Group) : (s.modGroup k f).pkg = s.pkg := by unfold State.modGroup; split <;> rfl
@[simp] theorem modGroup_dies (s : State) (k : Nat) (f : Group → Group) : (s.modGroup k f).dies = s.dies := by unfold State.modGroup; split <;> rfl
@[simp] theorem modGroup_cores (s : State) (k : Nat) (f : Group → Group) : (s.modGroup k f).cores = s.cores := by unfold State.modGroup; split <;> rfl
@[simp] theorem modGroup_warps (s : State) (k : Nat) (f : Group → Group) : (s.modGroup k f).warps = s.warps := by unfold State.modGroup; split <;> rfl
@[simp] theorem modGroup_launches (s : State) (k : Nat) (f : Group → Group) : (s.modGroup k f).launches = s.launches := by unfold State.modGroup; split <;> rfl
@[simp] theorem modGroup_queues (s : State) (k : Nat) (f : Group → Group) : (s.modGroup k f).queues = s.queues := by unfold State.modGroup; split <;> rfl
@[simp] theorem modGroup_dir (s : State) (k : Nat) (f : Group → Group) : (s.modGroup k f).dir = s.dir := by unfold State.modGroup; split <;> rfl
@[simp] theorem modGroup_partials (s : State) (k : Nat) (f : Group → Group) : (s.modGroup k f).partials = s.partials := by unfold State.modGroup; split <;> rfl
@[simp] theorem modGroup_engines (s : State) (k : Nat) (f : Group → Group) : (s.modGroup k f).engines = s.engines := by unfold State.modGroup; split <;> rfl
@[simp] theorem modGroup_sends (s : State) (k : Nat) (f : Group → Group) : (s.modGroup k f).sends = s.sends := by unfold State.modGroup; split <;> rfl
@[simp] theorem modGroup_cows (s : State) (k : Nat) (f : Group → Group) : (s.modGroup k f).cows = s.cows := by unfold State.modGroup; split <;> rfl
@[simp] theorem modGroup_rays (s : State) (k : Nat) (f : Group → Group) : (s.modGroup k f).rays = s.rays := by unfold State.modGroup; split <;> rfl
@[simp] theorem modGroup_allreds (s : State) (k : Nat) (f : Group → Group) : (s.modGroup k f).allreds = s.allreds := by unfold State.modGroup; split <;> rfl
@[simp] theorem modGroup_halos (s : State) (k : Nat) (f : Group → Group) : (s.modGroup k f).halos = s.halos := by unfold State.modGroup; split <;> rfl
@[simp] theorem modGroup_lost (s : State) (k : Nat) (f : Group → Group) : (s.modGroup k f).lost = s.lost := by unfold State.modGroup; split <;> rfl
@[simp] theorem modGroup_outbox (s : State) (k : Nat) (f : Group → Group) : (s.modGroup k f).outbox = s.outbox := by unfold State.modGroup; split <;> rfl
@[simp] theorem modGroup_replies (s : State) (k : Nat) (f : Group → Group) : (s.modGroup k f).replies = s.replies := by unfold State.modGroup; split <;> rfl
@[simp] theorem modGroup_teardowns (s : State) (k : Nat) (f : Group → Group) : (s.modGroup k f).teardowns = s.teardowns := by unfold State.modGroup; split <;> rfl
@[simp] theorem modGroup_mailbox (s : State) (k : Nat) (f : Group → Group) : (s.modGroup k f).mailbox = s.mailbox := by unfold State.modGroup; split <;> rfl
@[simp] theorem modGroup_fatal (s : State) (k : Nat) (f : Group → Group) : (s.modGroup k f).fatal = s.fatal := by unfold State.modGroup; split <;> rfl
@[simp] theorem modGroup_handles (s : State) (k : Nat) (f : Group → Group) : (s.modGroup k f).handles = s.handles := by unfold State.modGroup; split <;> rfl
@[simp] theorem modGroup_ticked (s : State) (k : Nat) (f : Group → Group) : (s.modGroup k f).ticked = s.ticked := by unfold State.modGroup; split <;> rfl
@[simp] theorem modGroup_cut (s : State) (k : Nat) (f : Group → Group) : (s.modGroup k f).cut = s.cut := by unfold State.modGroup; split <;> rfl
@[simp] theorem modGroup_focus (s : State) (k : Nat) (f : Group → Group) : (s.modGroup k f).focus = s.focus := by unfold State.modGroup; split <;> rfl
@[simp] theorem modGroup_agenda (s : State) (k : Nat) (f : Group → Group) : (s.modGroup k f).agenda = s.agenda := by unfold State.modGroup; split <;> rfl
@[simp] theorem modGroup_free (s : State) (k : Nat) (f : Group → Group) : (s.modGroup k f).free = s.free := by unfold State.modGroup; split <;> rfl

/-! ## `modUnit` -/

@[simp] theorem modUnit_mem (s : State) (g sub : Nat) (f : WUnit → WUnit) : (s.modUnit g sub f).mem = s.mem := by unfold State.modUnit; exact modWarp_mem s g _
@[simp] theorem modUnit_rtime (s : State) (g sub : Nat) (f : WUnit → WUnit) : (s.modUnit g sub f).rtime = s.rtime := by unfold State.modUnit; exact modWarp_rtime s g _
@[simp] theorem modUnit_pkg (s : State) (g sub : Nat) (f : WUnit → WUnit) : (s.modUnit g sub f).pkg = s.pkg := by unfold State.modUnit; exact modWarp_pkg s g _
@[simp] theorem modUnit_dies (s : State) (g sub : Nat) (f : WUnit → WUnit) : (s.modUnit g sub f).dies = s.dies := by unfold State.modUnit; exact modWarp_dies s g _
@[simp] theorem modUnit_cores (s : State) (g sub : Nat) (f : WUnit → WUnit) : (s.modUnit g sub f).cores = s.cores := by unfold State.modUnit; exact modWarp_cores s g _
@[simp] theorem modUnit_groups (s : State) (g sub : Nat) (f : WUnit → WUnit) : (s.modUnit g sub f).groups = s.groups := by unfold State.modUnit; exact modWarp_groups s g _
@[simp] theorem modUnit_launches (s : State) (g sub : Nat) (f : WUnit → WUnit) : (s.modUnit g sub f).launches = s.launches := by unfold State.modUnit; exact modWarp_launches s g _
@[simp] theorem modUnit_queues (s : State) (g sub : Nat) (f : WUnit → WUnit) : (s.modUnit g sub f).queues = s.queues := by unfold State.modUnit; exact modWarp_queues s g _
@[simp] theorem modUnit_dir (s : State) (g sub : Nat) (f : WUnit → WUnit) : (s.modUnit g sub f).dir = s.dir := by unfold State.modUnit; exact modWarp_dir s g _
@[simp] theorem modUnit_partials (s : State) (g sub : Nat) (f : WUnit → WUnit) : (s.modUnit g sub f).partials = s.partials := by unfold State.modUnit; exact modWarp_partials s g _
@[simp] theorem modUnit_engines (s : State) (g sub : Nat) (f : WUnit → WUnit) : (s.modUnit g sub f).engines = s.engines := by unfold State.modUnit; exact modWarp_engines s g _
@[simp] theorem modUnit_sends (s : State) (g sub : Nat) (f : WUnit → WUnit) : (s.modUnit g sub f).sends = s.sends := by unfold State.modUnit; exact modWarp_sends s g _
@[simp] theorem modUnit_cows (s : State) (g sub : Nat) (f : WUnit → WUnit) : (s.modUnit g sub f).cows = s.cows := by unfold State.modUnit; exact modWarp_cows s g _
@[simp] theorem modUnit_rays (s : State) (g sub : Nat) (f : WUnit → WUnit) : (s.modUnit g sub f).rays = s.rays := by unfold State.modUnit; exact modWarp_rays s g _
@[simp] theorem modUnit_allreds (s : State) (g sub : Nat) (f : WUnit → WUnit) : (s.modUnit g sub f).allreds = s.allreds := by unfold State.modUnit; exact modWarp_allreds s g _
@[simp] theorem modUnit_halos (s : State) (g sub : Nat) (f : WUnit → WUnit) : (s.modUnit g sub f).halos = s.halos := by unfold State.modUnit; exact modWarp_halos s g _
@[simp] theorem modUnit_lost (s : State) (g sub : Nat) (f : WUnit → WUnit) : (s.modUnit g sub f).lost = s.lost := by unfold State.modUnit; exact modWarp_lost s g _
@[simp] theorem modUnit_outbox (s : State) (g sub : Nat) (f : WUnit → WUnit) : (s.modUnit g sub f).outbox = s.outbox := by unfold State.modUnit; exact modWarp_outbox s g _
@[simp] theorem modUnit_replies (s : State) (g sub : Nat) (f : WUnit → WUnit) : (s.modUnit g sub f).replies = s.replies := by unfold State.modUnit; exact modWarp_replies s g _
@[simp] theorem modUnit_teardowns (s : State) (g sub : Nat) (f : WUnit → WUnit) : (s.modUnit g sub f).teardowns = s.teardowns := by unfold State.modUnit; exact modWarp_teardowns s g _
@[simp] theorem modUnit_mailbox (s : State) (g sub : Nat) (f : WUnit → WUnit) : (s.modUnit g sub f).mailbox = s.mailbox := by unfold State.modUnit; exact modWarp_mailbox s g _
@[simp] theorem modUnit_fatal (s : State) (g sub : Nat) (f : WUnit → WUnit) : (s.modUnit g sub f).fatal = s.fatal := by unfold State.modUnit; exact modWarp_fatal s g _
@[simp] theorem modUnit_handles (s : State) (g sub : Nat) (f : WUnit → WUnit) : (s.modUnit g sub f).handles = s.handles := by unfold State.modUnit; exact modWarp_handles s g _
@[simp] theorem modUnit_ticked (s : State) (g sub : Nat) (f : WUnit → WUnit) : (s.modUnit g sub f).ticked = s.ticked := by unfold State.modUnit; exact modWarp_ticked s g _
@[simp] theorem modUnit_cut (s : State) (g sub : Nat) (f : WUnit → WUnit) : (s.modUnit g sub f).cut = s.cut := by unfold State.modUnit; exact modWarp_cut s g _
@[simp] theorem modUnit_focus (s : State) (g sub : Nat) (f : WUnit → WUnit) : (s.modUnit g sub f).focus = s.focus := by unfold State.modUnit; exact modWarp_focus s g _
@[simp] theorem modUnit_agenda (s : State) (g sub : Nat) (f : WUnit → WUnit) : (s.modUnit g sub f).agenda = s.agenda := by unfold State.modUnit; exact modWarp_agenda s g _
@[simp] theorem modUnit_free (s : State) (g sub : Nat) (f : WUnit → WUnit) : (s.modUnit g sub f).free = s.free := by unfold State.modUnit; exact modWarp_free s g _

/-! ## `setDieReg` -/

@[simp] theorem setDieReg_mem (s : State) (d : Nat) (r : DieReg) (v : W64) : (s.setDieReg d r v).mem = s.mem := rfl
@[simp] theorem setDieReg_rtime (s : State) (d : Nat) (r : DieReg) (v : W64) : (s.setDieReg d r v).rtime = s.rtime := rfl
@[simp] theorem setDieReg_pkg (s : State) (d : Nat) (r : DieReg) (v : W64) : (s.setDieReg d r v).pkg = s.pkg := rfl
@[simp] theorem setDieReg_cores (s : State) (d : Nat) (r : DieReg) (v : W64) : (s.setDieReg d r v).cores = s.cores := rfl
@[simp] theorem setDieReg_warps (s : State) (d : Nat) (r : DieReg) (v : W64) : (s.setDieReg d r v).warps = s.warps := rfl
@[simp] theorem setDieReg_groups (s : State) (d : Nat) (r : DieReg) (v : W64) : (s.setDieReg d r v).groups = s.groups := rfl
@[simp] theorem setDieReg_launches (s : State) (d : Nat) (r : DieReg) (v : W64) : (s.setDieReg d r v).launches = s.launches := rfl
@[simp] theorem setDieReg_queues (s : State) (d : Nat) (r : DieReg) (v : W64) : (s.setDieReg d r v).queues = s.queues := rfl
@[simp] theorem setDieReg_dir (s : State) (d : Nat) (r : DieReg) (v : W64) : (s.setDieReg d r v).dir = s.dir := rfl
@[simp] theorem setDieReg_partials (s : State) (d : Nat) (r : DieReg) (v : W64) : (s.setDieReg d r v).partials = s.partials := rfl
@[simp] theorem setDieReg_engines (s : State) (d : Nat) (r : DieReg) (v : W64) : (s.setDieReg d r v).engines = s.engines := rfl
@[simp] theorem setDieReg_sends (s : State) (d : Nat) (r : DieReg) (v : W64) : (s.setDieReg d r v).sends = s.sends := rfl
@[simp] theorem setDieReg_cows (s : State) (d : Nat) (r : DieReg) (v : W64) : (s.setDieReg d r v).cows = s.cows := rfl
@[simp] theorem setDieReg_rays (s : State) (d : Nat) (r : DieReg) (v : W64) : (s.setDieReg d r v).rays = s.rays := rfl
@[simp] theorem setDieReg_allreds (s : State) (d : Nat) (r : DieReg) (v : W64) : (s.setDieReg d r v).allreds = s.allreds := rfl
@[simp] theorem setDieReg_halos (s : State) (d : Nat) (r : DieReg) (v : W64) : (s.setDieReg d r v).halos = s.halos := rfl
@[simp] theorem setDieReg_lost (s : State) (d : Nat) (r : DieReg) (v : W64) : (s.setDieReg d r v).lost = s.lost := rfl
@[simp] theorem setDieReg_outbox (s : State) (d : Nat) (r : DieReg) (v : W64) : (s.setDieReg d r v).outbox = s.outbox := rfl
@[simp] theorem setDieReg_replies (s : State) (d : Nat) (r : DieReg) (v : W64) : (s.setDieReg d r v).replies = s.replies := rfl
@[simp] theorem setDieReg_teardowns (s : State) (d : Nat) (r : DieReg) (v : W64) : (s.setDieReg d r v).teardowns = s.teardowns := rfl
@[simp] theorem setDieReg_mailbox (s : State) (d : Nat) (r : DieReg) (v : W64) : (s.setDieReg d r v).mailbox = s.mailbox := rfl
@[simp] theorem setDieReg_fatal (s : State) (d : Nat) (r : DieReg) (v : W64) : (s.setDieReg d r v).fatal = s.fatal := rfl
@[simp] theorem setDieReg_handles (s : State) (d : Nat) (r : DieReg) (v : W64) : (s.setDieReg d r v).handles = s.handles := rfl
@[simp] theorem setDieReg_ticked (s : State) (d : Nat) (r : DieReg) (v : W64) : (s.setDieReg d r v).ticked = s.ticked := rfl
@[simp] theorem setDieReg_cut (s : State) (d : Nat) (r : DieReg) (v : W64) : (s.setDieReg d r v).cut = s.cut := rfl
@[simp] theorem setDieReg_focus (s : State) (d : Nat) (r : DieReg) (v : W64) : (s.setDieReg d r v).focus = s.focus := rfl
@[simp] theorem setDieReg_agenda (s : State) (d : Nat) (r : DieReg) (v : W64) : (s.setDieReg d r v).agenda = s.agenda := rfl
@[simp] theorem setDieReg_free (s : State) (d : Nat) (r : DieReg) (v : W64) : (s.setDieReg d r v).free = s.free := rfl

/-! ## `setCoreReg` -/

@[simp] theorem setCoreReg_mem (s : State) (c : Nat) (r : CoreReg) (v : W64) : (s.setCoreReg c r v).mem = s.mem := rfl
@[simp] theorem setCoreReg_rtime (s : State) (c : Nat) (r : CoreReg) (v : W64) : (s.setCoreReg c r v).rtime = s.rtime := rfl
@[simp] theorem setCoreReg_pkg (s : State) (c : Nat) (r : CoreReg) (v : W64) : (s.setCoreReg c r v).pkg = s.pkg := rfl
@[simp] theorem setCoreReg_dies (s : State) (c : Nat) (r : CoreReg) (v : W64) : (s.setCoreReg c r v).dies = s.dies := rfl
@[simp] theorem setCoreReg_warps (s : State) (c : Nat) (r : CoreReg) (v : W64) : (s.setCoreReg c r v).warps = s.warps := rfl
@[simp] theorem setCoreReg_groups (s : State) (c : Nat) (r : CoreReg) (v : W64) : (s.setCoreReg c r v).groups = s.groups := rfl
@[simp] theorem setCoreReg_launches (s : State) (c : Nat) (r : CoreReg) (v : W64) : (s.setCoreReg c r v).launches = s.launches := rfl
@[simp] theorem setCoreReg_queues (s : State) (c : Nat) (r : CoreReg) (v : W64) : (s.setCoreReg c r v).queues = s.queues := rfl
@[simp] theorem setCoreReg_dir (s : State) (c : Nat) (r : CoreReg) (v : W64) : (s.setCoreReg c r v).dir = s.dir := rfl
@[simp] theorem setCoreReg_partials (s : State) (c : Nat) (r : CoreReg) (v : W64) : (s.setCoreReg c r v).partials = s.partials := rfl
@[simp] theorem setCoreReg_engines (s : State) (c : Nat) (r : CoreReg) (v : W64) : (s.setCoreReg c r v).engines = s.engines := rfl
@[simp] theorem setCoreReg_sends (s : State) (c : Nat) (r : CoreReg) (v : W64) : (s.setCoreReg c r v).sends = s.sends := rfl
@[simp] theorem setCoreReg_cows (s : State) (c : Nat) (r : CoreReg) (v : W64) : (s.setCoreReg c r v).cows = s.cows := rfl
@[simp] theorem setCoreReg_rays (s : State) (c : Nat) (r : CoreReg) (v : W64) : (s.setCoreReg c r v).rays = s.rays := rfl
@[simp] theorem setCoreReg_allreds (s : State) (c : Nat) (r : CoreReg) (v : W64) : (s.setCoreReg c r v).allreds = s.allreds := rfl
@[simp] theorem setCoreReg_halos (s : State) (c : Nat) (r : CoreReg) (v : W64) : (s.setCoreReg c r v).halos = s.halos := rfl
@[simp] theorem setCoreReg_lost (s : State) (c : Nat) (r : CoreReg) (v : W64) : (s.setCoreReg c r v).lost = s.lost := rfl
@[simp] theorem setCoreReg_outbox (s : State) (c : Nat) (r : CoreReg) (v : W64) : (s.setCoreReg c r v).outbox = s.outbox := rfl
@[simp] theorem setCoreReg_replies (s : State) (c : Nat) (r : CoreReg) (v : W64) : (s.setCoreReg c r v).replies = s.replies := rfl
@[simp] theorem setCoreReg_teardowns (s : State) (c : Nat) (r : CoreReg) (v : W64) : (s.setCoreReg c r v).teardowns = s.teardowns := rfl
@[simp] theorem setCoreReg_mailbox (s : State) (c : Nat) (r : CoreReg) (v : W64) : (s.setCoreReg c r v).mailbox = s.mailbox := rfl
@[simp] theorem setCoreReg_fatal (s : State) (c : Nat) (r : CoreReg) (v : W64) : (s.setCoreReg c r v).fatal = s.fatal := rfl
@[simp] theorem setCoreReg_handles (s : State) (c : Nat) (r : CoreReg) (v : W64) : (s.setCoreReg c r v).handles = s.handles := rfl
@[simp] theorem setCoreReg_ticked (s : State) (c : Nat) (r : CoreReg) (v : W64) : (s.setCoreReg c r v).ticked = s.ticked := rfl
@[simp] theorem setCoreReg_cut (s : State) (c : Nat) (r : CoreReg) (v : W64) : (s.setCoreReg c r v).cut = s.cut := rfl
@[simp] theorem setCoreReg_focus (s : State) (c : Nat) (r : CoreReg) (v : W64) : (s.setCoreReg c r v).focus = s.focus := rfl
@[simp] theorem setCoreReg_agenda (s : State) (c : Nat) (r : CoreReg) (v : W64) : (s.setCoreReg c r v).agenda = s.agenda := rfl
@[simp] theorem setCoreReg_free (s : State) (c : Nat) (r : CoreReg) (v : W64) : (s.setCoreReg c r v).free = s.free := rfl

/-! ## `tickFree` -/

@[simp] theorem tickFree_mem (s : State) : (s.tickFree).mem = s.mem := rfl
@[simp] theorem tickFree_rtime (s : State) : (s.tickFree).rtime = s.rtime := rfl
@[simp] theorem tickFree_pkg (s : State) : (s.tickFree).pkg = s.pkg := rfl
@[simp] theorem tickFree_dies (s : State) : (s.tickFree).dies = s.dies := rfl
@[simp] theorem tickFree_cores (s : State) : (s.tickFree).cores = s.cores := rfl
@[simp] theorem tickFree_warps (s : State) : (s.tickFree).warps = s.warps := rfl
@[simp] theorem tickFree_groups (s : State) : (s.tickFree).groups = s.groups := rfl
@[simp] theorem tickFree_launches (s : State) : (s.tickFree).launches = s.launches := rfl
@[simp] theorem tickFree_queues (s : State) : (s.tickFree).queues = s.queues := rfl
@[simp] theorem tickFree_dir (s : State) : (s.tickFree).dir = s.dir := rfl
@[simp] theorem tickFree_partials (s : State) : (s.tickFree).partials = s.partials := rfl
@[simp] theorem tickFree_engines (s : State) : (s.tickFree).engines = s.engines := rfl
@[simp] theorem tickFree_sends (s : State) : (s.tickFree).sends = s.sends := rfl
@[simp] theorem tickFree_cows (s : State) : (s.tickFree).cows = s.cows := rfl
@[simp] theorem tickFree_rays (s : State) : (s.tickFree).rays = s.rays := rfl
@[simp] theorem tickFree_allreds (s : State) : (s.tickFree).allreds = s.allreds := rfl
@[simp] theorem tickFree_halos (s : State) : (s.tickFree).halos = s.halos := rfl
@[simp] theorem tickFree_lost (s : State) : (s.tickFree).lost = s.lost := rfl
@[simp] theorem tickFree_outbox (s : State) : (s.tickFree).outbox = s.outbox := rfl
@[simp] theorem tickFree_replies (s : State) : (s.tickFree).replies = s.replies := rfl
@[simp] theorem tickFree_teardowns (s : State) : (s.tickFree).teardowns = s.teardowns := rfl
@[simp] theorem tickFree_mailbox (s : State) : (s.tickFree).mailbox = s.mailbox := rfl
@[simp] theorem tickFree_fatal (s : State) : (s.tickFree).fatal = s.fatal := rfl
@[simp] theorem tickFree_handles (s : State) : (s.tickFree).handles = s.handles := rfl
@[simp] theorem tickFree_ticked (s : State) : (s.tickFree).ticked = s.ticked := rfl
@[simp] theorem tickFree_cut (s : State) : (s.tickFree).cut = s.cut := rfl
@[simp] theorem tickFree_focus (s : State) : (s.tickFree).focus = s.focus := rfl
@[simp] theorem tickFree_agenda (s : State) : (s.tickFree).agenda = s.agenda := rfl

/-! ## Maps -/

theorem find_put {κ α : Type} [DecidableEq κ] (m : AMap κ α) (k k' : κ) (v : α) :
    (m.put k v).find? k' = if k = k' then some v else m.find? k' := by
  induction m with
  | nil => by_cases h : k = k' <;> simp [AMap.put, AMap.find?, h]
  | cons p m ih =>
    obtain ⟨a, b⟩ := p
    by_cases h1 : a = k
    · subst h1; by_cases h2 : a = k' <;> simp [AMap.put, AMap.find?, h2]
    · by_cases h2 : a = k'
      · subst h2; simp [AMap.put, AMap.find?, h1, Ne.symm h1]
      · simp [AMap.put, AMap.find?, h1, h2, ih]

@[simp] theorem find_put_same {κ α : Type} [DecidableEq κ] (m : AMap κ α) (k : κ) (v : α) : (m.put k v).find? k = some v := by simp [find_put]

theorem find_put_other {κ α : Type} [DecidableEq κ] (m : AMap κ α) {k k' : κ} (v : α) (h : k ≠ k') : (m.put k v).find? k' = m.find? k' := by
  simp [find_put, h]

theorem put_put {κ α : Type} [DecidableEq κ] (m : AMap κ α) (k : κ) (v v' : α) : (m.put k v).put k v' = m.put k v' := by
  induction m with
  | nil => simp [AMap.put]
  | cons p m ih =>
    obtain ⟨a, b⟩ := p
    by_cases h : a = k
    · subst h; simp [AMap.put]
    · simp [AMap.put, h, ih]

theorem get_put {κ α : Type} [DecidableEq κ] (d : α) (m : AMap κ α) (k k' : κ) (v : α) :
    (m.put k v).get d k' = if k = k' then v else m.get d k' := by
  unfold AMap.get; rw [find_put]; split <;> rfl

@[simp] theorem get_put_same {κ α : Type} [DecidableEq κ] (d : α) (m : AMap κ α) (k : κ) (v : α) : (m.put k v).get d k = v := by simp [get_put]

theorem get_put_other {κ α : Type} [DecidableEq κ] (d : α) (m : AMap κ α) {k k' : κ} (v : α) (h : k ≠ k') :
    (m.put k v).get d k' = m.get d k' := by simp [get_put, h]

/-! ## What an update gives back -/

@[simp] theorem die_setDie (s : State) (d : Nat) (v : Die) : (s.setDie d v).die d = v := by simp [State.die, State.setDie]
theorem die_setDie_other (s : State) {d d' : Nat} (v : Die) (h : d ≠ d') : (s.setDie d v).die d' = s.die d' := by
  simp [State.die, State.setDie, get_put_other _ _ _ h]

@[simp] theorem core_setCore (s : State) (c : Nat) (v : Core) : (s.setCore c v).core c = v := by simp [State.core, State.setCore]
theorem core_setCore_other (s : State) {c c' : Nat} (v : Core) (h : c ≠ c') : (s.setCore c v).core c' = s.core c' := by
  simp [State.core, State.setCore, get_put_other _ _ _ h]

@[simp] theorem warp_setWarp (s : State) (g : Nat) (w : Warp) : (s.setWarp g w).warp? g = some w := by simp [State.warp?, State.setWarp]
theorem warp_setWarp_other (s : State) {g g' : Nat} (w : Warp) (h : g ≠ g') : (s.setWarp g w).warp? g' = s.warp? g' := by
  simp [State.warp?, State.setWarp, find_put_other _ _ h]

@[simp] theorem setWarp_setWarp (s : State) (g : Nat) (w w' : Warp) : (s.setWarp g w).setWarp g w' = s.setWarp g w' := by
  simp [State.setWarp, put_put]

theorem modWarp_of {s : State} {g : Nat} {w : Warp} (h : s.warp? g = some w) (f : Warp → Warp) : s.modWarp g f = s.setWarp g (f w) := by
  simp [State.modWarp, h]

@[simp] theorem group_setGroup (s : State) (k : Nat) (v : Group) : (s.setGroup k v).group? k = some v := by
  simp [State.group?, State.setGroup]
theorem group_setGroup_other (s : State) {k k' : Nat} (v : Group) (h : k ≠ k') : (s.setGroup k v).group? k' = s.group? k' := by
  simp [State.group?, State.setGroup, find_put_other _ _ h]

@[simp] theorem dieReg_setDieReg (s : State) (d : Nat) (r : DieReg) (v : W64) : (s.setDieReg d r v).dieReg d r = v := by
  simp [State.dieReg, State.setDieReg, State.modDie]

theorem dieReg_setDieReg_other (s : State) {d d' : Nat} {r r' : DieReg} (v : W64) (h : d ≠ d' ∨ r ≠ r') :
    (s.setDieReg d r v).dieReg d' r' = s.dieReg d' r' := by
  by_cases hd : d = d'
  · subst hd
    have hr : r ≠ r' := by simpa using h
    simp [State.dieReg, State.setDieReg, State.modDie, get_put_other _ _ _ hr]
  · simp [State.dieReg, State.setDieReg, State.modDie, die_setDie_other _ _ hd]

@[simp] theorem coreReg_setCoreReg (s : State) (c : Nat) (r : CoreReg) (v : W64) : (s.setCoreReg c r v).coreReg c r = v := by
  simp [State.coreReg, State.setCoreReg, State.modCore]

@[simp] theorem pkgReg_setPkgReg (s : State) (r : PkgReg) (v : W64) : (s.setPkgReg r v).pkgReg r = v := by
  simp [State.pkgReg, State.setPkgReg]

theorem pkgReg_setPkgReg_other (s : State) {r r' : PkgReg} (v : W64) (h : r ≠ r') : (s.setPkgReg r v).pkgReg r' = s.pkgReg r' := by
  simp [State.pkgReg, State.setPkgReg, get_put_other _ _ _ h]

/-! ## Units -/

theorem unitOf_modUnitOf (us : List WUnit) (sub : Nat) (f : WUnit → WUnit) (hf : ∀ u, (f u).sub = u.sub) :
    unitOf (modUnitOf us sub f) sub = (unitOf us sub).map f := by
  induction us with
  | nil => rfl
  | cons u us ih =>
    by_cases h : u.sub = sub
    · simp [modUnitOf, unitOf, h, hf]
    · simpa [modUnitOf, unitOf, h] using ih

theorem unitOf_modUnitOf_other (us : List WUnit) {sub sub' : Nat} (f : WUnit → WUnit) (hf : ∀ u, (f u).sub = u.sub) (h : sub ≠ sub') :
    unitOf (modUnitOf us sub f) sub' = unitOf us sub' := by
  induction us with
  | nil => rfl
  | cons u us ih =>
    by_cases h1 : u.sub = sub
    · have h2 : u.sub ≠ sub' := by rw [h1]; exact h
      simpa [modUnitOf, unitOf, h1, hf, h2, h] using ih
    · by_cases h2 : u.sub = sub'
      · simp [modUnitOf, unitOf, h2, Ne.symm h]
      · simpa [modUnitOf, unitOf, h1, h2] using ih

end Sys2Proof.Machine
end

