-- ==== Sys2Proof/Laws/Regs.lean ====
section
/-! SUPPORT. What each register operation does to what a register reads as (R57, R59, R63): allocation, a write of some lanes, last use. -/

namespace Sys2Proof.Machine

theorem find_del {κ α : Type} [DecidableEq κ] (m : AMap κ α) (k k' : κ) :
    (m.del k).find? k' = if k = k' then none else m.find? k' := by
  induction m with
  | nil => simp [AMap.del, AMap.find?]
  | cons p m ih =>
    obtain ⟨a, b⟩ := p
    by_cases h1 : a = k
    · have : AMap.del ((a, b) :: m) k = AMap.del m k := by simp [AMap.del, h1]
      rw [this, ih]
      by_cases h2 : k = k'
      · simp [h2]
      · simp [h2, AMap.find?, h1]
    · have : AMap.del ((a, b) :: m) k = (a, b) :: AMap.del m k := by simp [AMap.del, h1]
      rw [this]
      by_cases h2 : a = k'
      · subst h2; simp [AMap.find?, Ne.symm h1]
      · simp [AMap.find?, h2, ih]

theorem at_tab (f : Nat → W64) {l : Nat} (h : l < 32) : (Lanes.tab f).at l = f l := by
  simp only [Lanes.tab, Lanes.at, laneIds]
  rw [List.getD_eq_getElem?_getD, List.getElem?_map, List.getElem?_range h]
  rfl

theorem at_zeroLanes (l : Nat) : zeroLanes.at l = 0 := by
  by_cases h : l < 32
  · exact at_tab _ h
  · simp only [zeroLanes, Lanes.tab, Lanes.at, laneIds]
    rw [List.getD_eq_getElem?_getD, List.getElem?_eq_none (by simp; omega)]
    rfl

theorem at_mergeLanes (m : W32) (v old : Lanes) {l : Nat} (h : l < 32) : (mergeLanes m v old).at l = if inMask m l then v.at l else old.at l :=
  at_tab _ h

theorem vreg_alloc (w : Warp) (k n : Nat) : (w.alloc k).vreg n = w.vreg n := by
  unfold Warp.alloc
  split
  · rfl
  · next h =>
    unfold Warp.vreg
    dsimp only
    rw [find_put]
    by_cases e : k = n
    · subst e
      have : w.names.find? k = none := by simpa [Warp.mapped] using h
      simp [this]
    · simp [e]

theorem mapped_alloc (w : Warp) (k n : Nat) : (w.alloc k).mapped n = (decide (k = n) || w.mapped n) := by
  unfold Warp.alloc
  split
  · next h => by_cases e : k = n
              · subst e; simp [h]
              · simp [e]
  · unfold Warp.mapped
    dsimp only
    rw [find_put]
    by_cases e : k = n <;> simp [e]

/-- Taking a name changes nothing it reads as (R57, R61). -/
theorem vreg_claim (w : Warp) (k n : Nat) : (w.claim k).vreg n = w.vreg n := by
  unfold Warp.claim
  cases h : w.names.find? k with
  | none => exact vreg_alloc w k n
  | some e =>
    unfold Warp.vreg
    dsimp only
    rw [find_put]
    by_cases hn : k = n
    · subst hn; simp [h]
    · simp [hn]

/-- A write of the lanes `m` (R57). -/
theorem vreg_vset (w : Warp) (k n : Nat) (m : W32) (v : Lanes) {l : Nat} (hl : l < 32) :
    ((w.vset k m v).vreg n).at l = if n = k ∧ inMask m l = true then v.at l else (w.vreg n).at l := by
  unfold Warp.vset
  by_cases h0 : m = 0
  · subst h0; simp [inMask]
  · rw [if_neg h0]
    dsimp only
    have hm : (w.alloc k).mapped k = true := by simp [mapped_alloc]
    obtain ⟨e, he⟩ := Option.isSome_iff_exists.mp hm
    rw [he]
    dsimp only
    have hv : (w.vreg k) = e.val := by
      rw [← vreg_alloc w k k]; unfold Warp.vreg; rw [he]
    unfold Warp.vreg at *
    dsimp only
    rw [find_put]
    by_cases hn : k = n
    · subst hn
      simp only [if_true, at_mergeLanes m v _ hl, true_and]
      rw [hv]
    · rw [if_neg hn, if_neg (by intro h; exact hn h.1.symm)]
      have := vreg_alloc w k n
      unfold Warp.vreg at this
      rw [this]

/-- Last use of a name (R59, R61). -/
theorem vreg_lastUse (w : Warp) (d : Bool) (k n l : Nat) :
    ((w.lastUse d k).vreg n).at l = if n = k ∧ d = false then 0 else (w.vreg n).at l := by
  unfold Warp.lastUse
  cases d with
  | true =>
    simp only [if_true, Bool.true_eq_false, and_false, if_false]
    cases h : w.names.find? k with
    | none => rfl
    | some e =>
      unfold Warp.vreg
      dsimp only
      rw [find_put]
      by_cases e1 : k = n
      · subst e1; simp [h]
      · simp [e1]
  | false =>
    simp only [Bool.false_eq_true, if_false, and_true]
    unfold Warp.unmap
    cases h : w.names.find? k with
    | none =>
      dsimp only
      by_cases e1 : n = k
      · subst e1; simp [Warp.vreg, h, at_zeroLanes]
      · simp [e1]
    | some e =>
      unfold Warp.vreg
      dsimp only
      rw [find_del]
      by_cases e1 : n = k
      · subst e1; simp [at_zeroLanes]
      · simp [e1, Ne.symm e1]

theorem vreg_lastUses (ks : List Nat) (w : Warp) (d : Bool) (n l : Nat) :
    ((ks.foldl (fun w k => w.lastUse d k) w).vreg n).at l = if n ∈ ks ∧ d = false then 0 else (w.vreg n).at l := by
  induction ks generalizing w with
  | nil => simp
  | cons k ks ih =>
    rw [List.foldl_cons, ih, vreg_lastUse]
    by_cases h1 : n = k <;> by_cases h2 : n ∈ ks <;> by_cases h3 : d = false <;> simp [h1, h2, h3]

/-- The result written under a name. -/
def resultOf (vw : List (Nat × Lanes)) (n : Nat) : Option Lanes := AMap.find? vw n

theorem vreg_vsets (vw : List (Nat × Lanes)) (hd : (vw.map (·.1)).Nodup) (w : Warp) (m : W32) (n : Nat) {l : Nat} (hl : l < 32) :
    ((vw.foldl (fun w p => w.vset p.1 m p.2) w).vreg n).at l = match resultOf vw n with
      | some v => if inMask m l then v.at l else (w.vreg n).at l
      | none => (w.vreg n).at l := by
  induction vw generalizing w with
  | nil => rfl
  | cons p vw ih =>
    obtain ⟨k, v⟩ := p
    have hd' : k ∉ vw.map (·.1) ∧ (vw.map (·.1)).Nodup := by simpa using hd
    rw [List.foldl_cons, ih hd'.2]
    by_cases hk : k = n
    · subst hk
      have hnone : resultOf vw k = none := by
        have := hd'.1
        clear ih hd hd'
        induction vw with
        | nil => rfl
        | cons q vw ih2 =>
          obtain ⟨a, b⟩ := q
          simp at this
          simp only [resultOf, AMap.find?]
          rw [if_neg (Ne.symm this.1)]
          exact ih2 (by simpa using this.2)
      rw [hnone]
      have : resultOf ((k, v) :: vw) k = some v := by simp [resultOf, AMap.find?]
      rw [this]
      dsimp only
      rw [vreg_vset w k k m v hl]
      simp
    · have : resultOf ((k, v) :: vw) n = resultOf vw n := by simp [resultOf, AMap.find?, hk]
      rw [this]
      have hv : ((w.vset k m v).vreg n).at l = (w.vreg n).at l := by
        rw [vreg_vset w k n m v hl, if_neg (by intro h; exact hk h.1.symm)]
      rw [hv]

theorem vreg_claims (ks : List (Nat × Lanes)) (w : Warp) (n : Nat) : (ks.foldl (fun w p => w.claim p.1) w).vreg n = w.vreg n := by
  induction ks generalizing w with
  | nil => rfl
  | cons k ks ih => rw [List.foldl_cons, ih, vreg_claim]

/-! ## What register operations leave alone -/

/-- Registers, rename lists and the marks of queued operations apart, two warps are the same. -/
def SameButRegs (w w' : Warp) : Prop :=
  w' = { w with names := w'.names, pending := w'.pending, newList := w'.newList, mops := w'.mops }

theorem sameButRegs_refl (w : Warp) : SameButRegs w w := rfl
theorem sameButRegs_trans {a b c : Warp} (h1 : SameButRegs a b) (h2 : SameButRegs b c) : SameButRegs a c := by
  unfold SameButRegs at *; rw [h2, h1]
theorem same_alloc (w : Warp) (n : Nat) : SameButRegs w (w.alloc n) := by unfold Warp.alloc; split <;> rfl
theorem same_claim (w : Warp) (n : Nat) : SameButRegs w (w.claim n) := by
  unfold Warp.claim
  split
  · rfl
  · exact same_alloc w n
theorem same_vset (w : Warp) (n : Nat) (m : W32) (v : Lanes) : SameButRegs w (w.vset n m v) := by
  unfold Warp.vset
  split
  · rfl
  · dsimp only
    split
    · exact sameButRegs_trans (same_alloc w n) rfl
    · exact same_alloc w n
theorem same_lastUse (w : Warp) (d : Bool) (n : Nat) : SameButRegs w (w.lastUse d n) := by
  unfold Warp.lastUse Warp.unmap
  split
  · split <;> rfl
  · split <;> rfl
theorem same_foldl {α : Type} (xs : List α) (f : Warp → α → Warp) (hf : ∀ w x, SameButRegs w (f w x)) (w : Warp) :
    SameButRegs w (xs.foldl f w) := by
  induction xs generalizing w with
  | nil => rfl
  | cons x xs ih => exact sameButRegs_trans (hf w x) (ih _)

end Sys2Proof.Machine
end

