-- ==== Sys2Proof/Laws/Issue.lean ====
section
/-! SUPPORT. What issuing an instruction does, said once: the context it sees, and the state it leaves when its results are written at once. -/

namespace Sys2Proof.Machine

theorem put_find_same {κ α : Type} [DecidableEq κ] {m : AMap κ α} {k : κ} {v : α} (h : m.find? k = some v) : m.put k v = m := by
  induction m with
  | nil => simp [AMap.find?] at h
  | cons p m ih =>
    obtain ⟨a, b⟩ := p
    by_cases e : a = k
    · subst e; simp [AMap.find?] at h; simp [AMap.put, h]
    · simp [AMap.find?, e] at h; simp [AMap.put, e, ih h]

theorem setWarp_same {s : State} {g : Nat} {w : Warp} (h : s.warp? g = some w) : s.setWarp g w = s := by
  unfold State.setWarp; rw [put_find_same h]

/-! ## The context of an issue -/

/-- What the instruction's decode checks see. -/
def decodeCtx (s : State) (g sub : Nat) (w : Warp) (u : WUnit) (j : Job) : Ctx :=
  { s := s, g := g, sub := sub, w := w, u := u, act := guardMask w u.exec j.hdr.grd, len := j.hdr.len }

/-- What the instruction sees. -/
def issueCtx (s : State) (g sub : Nat) (w : Warp) (u : WUnit) (j : Job) : Ctx :=
  let e := entersAt u (j.hdr.e || j.entry)
  { s := s.setWarp g (entryWarp w sub e), g := g, sub := sub, w := entryWarp w sub e, u := entryUnit w u e,
    act := guardMask w u.exec j.hdr.grd, len := j.hdr.len }

variable {s : State} {g sub : Nat} {w : Warp} {u : WUnit}

theorem writeLooks_nil (hw : s.warp? g = some w) (hu : unitOf w.units sub = some u) (hl : u.looks = []) (p : Look → Bool) :
    s.writeLooks g sub p = s := by
  simp [State.writeLooks, State.unit?, hw, hu, hl]

theorem unit_entry (hu : unitOf w.units sub = some u) (e : Bool) :
    unitOf (entryWarp w sub e).units sub = some (entryUnit w u e) := by
  cases e
  · simpa [entryWarp, entryUnit] using hu
  · have := unitOf_modUnitOf w.units sub (fun x => { x with rpc := x.pc, ckpt := w.preds, entered := true, moved := true }) (fun _ => rfl)
    simp [entryWarp, entryUnit, this, hu]

theorem guardMask_entry (e : Bool) (x : W32) (gd : Option Guard) : guardMask (entryWarp w sub e) x gd = guardMask w x gd := by
  cases e <;> cases gd <;> rfl

theorem exec_entry (e : Bool) : (entryUnit w u e).exec = u.exec := by cases e <;> rfl
theorem looks_entry (e : Bool) : (entryUnit w u e).looks = u.looks := by cases e <;> rfl

theorem unitOf_mem {us : List WUnit} (h : unitOf us sub = some u) : u ∈ us ∧ u.sub = sub := by
  induction us with
  | nil => simp [unitOf] at h
  | cons x us ih =>
    by_cases e : x.sub = sub
    · simp [unitOf, e] at h; subst h; simp [e]
    · simp [unitOf, e] at h; have := ih h; simp [this]

theorem atIssue_looks (h : AtIssue s g sub w u) : u.looks = [] := h.clear u (unitOf_mem h.unit).1 (unitOf_mem h.unit).2

theorem map_self {α : Type} (xs : List α) (f : α → α) (h : ∀ x ∈ xs, f x = x) : xs.map f = xs := by
  conv_rhs => rw [← List.map_id xs]
  exact List.map_congr_left h

theorem each_id {κ α : Type} (m : AMap κ α) (f : α → α) (h : ∀ p ∈ m, f p.2 = p.2) : m.each f = m :=
  map_self m _ (fun p hp => by rw [h p hp])

/-- Where no write of a warp waits, none is settled. -/
theorem settleLate_none {g : Nat} {p : Nat → Bool} (h : ∀ q ∈ s.cows, ∀ x ∈ q.2.late, ∀ sub pc, x.who ≠ .unit g sub pc) : s.settleLate g p = s := by
  unfold State.settleLate
  dsimp only
  rw [each_id]
  intro q hq
  rw [map_self]
  intro x hx
  have hn := h q hq x hx
  split
  · next g' sub pc hw =>
    have : ¬ g' = g := fun e => hn sub pc (by rw [hw, e])
    simp [this]
  · rfl

/-- Issuing is running the instruction in its context. -/
theorem issue_eq (h : AtIssue s g sub w u) (hq : Quiet s g w) (j : Job) (hd : j.decode (decodeCtx s g sub w u j) = none) :
    s.issue j = (issueCtx s g sub w u j).execute j := by
  have hunit : s.unit? g sub = some u := by simp [State.unit?, h.warp, h.unit]
  have hwait : u.waitsLook = false := by simp [WUnit.waitsLook, atIssue_looks h]
  have hctx : s.ctx g sub j.hdr = some (decodeCtx s g sub w u j) := by
    unfold State.ctx; rw [h.warp, hunit]; rfl
  unfold State.issue
  simp only [h.focus, hunit, h.issuing, hwait, ne_eq, not_true_eq_false, decide_false, Bool.or_self, Bool.false_eq_true, if_false,
    writeLooks_nil h.warp h.unit (atIssue_looks h), hctx, Option.bind_some, hd]
  by_cases he : entersAt u (j.hdr.e || j.entry) = true
  · have he' : ((j.hdr.e || j.entry || u.enters) && !u.entered) = true := he
    have hs : s.commitUnit g sub = s.setWarp g (entryWarp w sub true) := by
      unfold State.commitUnit
      rw [modWarp_of h.warp, settleLate_none (s := s.setWarp g w.commit) hq.late]
      simp only [warp_setWarp, State.modUnit]
      rw [modWarp_of (warp_setWarp s g w.commit), setWarp_setWarp]
      rfl
    have hc2 : (s.setWarp g (entryWarp w sub true)).ctx g sub j.hdr = some (issueCtx s g sub w u j) := by
      unfold State.ctx State.unit?
      simp only [warp_setWarp, Option.bind_some, unit_entry h.unit]
      simp only [issueCtx, he, exec_entry, guardMask_entry]
    rw [if_pos he', hs, hc2]
  · have he2 : entersAt u (j.hdr.e || j.entry) = false := by simpa using he
    have he' : ((j.hdr.e || j.entry || u.enters) && !u.entered) = false := he2
    have hc2 : decodeCtx s g sub w u j = issueCtx s g sub w u j := by
      simp only [issueCtx, decodeCtx, he2, entryWarp, entryUnit, if_false, Bool.false_eq_true, setWarp_same h.warp]
    simp only [he', if_false, Bool.false_eq_true, hctx, hc2]

/-- The registers an instruction writes can be had. -/
theorem allocate_go {c : Ctx} {ns : List Nat} {k : State} (h : newNames c.w ns = []
      ∨ (c.w.held + (newNames c.w ns).length ≤ c.w.regsMax ∧ c.s.grantable (quadOf c.g) (c.w.lseq, c.s.handles) (newNames c.w ns).length = true)) :
    c.allocate ns k = k := by
  unfold Ctx.allocate
  rcases h with h | ⟨h2, h3⟩
  · simp [h]
  · have h4 : decide (c.w.regsMax < c.w.held + (newNames c.w ns).length) = false := by simp; omega
    have h5 : c.s.grantable (quadOf c.g) (c.w.lseq, c.s.newHandle.1) (newNames c.w ns).length = true := h3
    simp only [h4, Bool.false_and, Bool.false_eq_true, if_false, h5, Bool.not_true, Bool.and_false]

/-- Reads that are mapped, or that do not trap, let an instruction go on. -/
theorem readTrap_none {c : Ctx} {ns : List Nat} (h : c.act = 0 ∨ ReadsOk c.w ns) : c.readTrap ns = none := by
  unfold Ctx.readTrap
  rw [if_neg]
  rcases h with h | h | h
  · simp [h]
  · simp [h]
  · intro hh
    simp only [Bool.and_eq_true, List.any_eq_true] at hh
    obtain ⟨n, hn, hm⟩ := hh.2
    simp [h n hn] at hm

/-- An instruction whose checks pass and whose registers can be had completes. -/
theorem execute_go {c : Ctx} {j : Job} {f : Fin} (hu : j.uniform c = none) (hr : c.act = 0 ∨ ReadsOk c.w j.reads) (hla : j.late = false)
    (hrun : j.run c = .go f)
    (hroom : f.lanes = 0 ∨ newNames c.w (f.vw.map (·.1)) = []
      ∨ (c.w.held + (newNames c.w (f.vw.map (·.1))).length ≤ c.w.regsMax
          ∧ c.s.grantable (quadOf c.g) (c.w.lseq, c.s.handles) (newNames c.w (f.vw.map (·.1))).length = true)) :
    c.execute j = c.finish j f := by
  unfold Ctx.execute Ctx.perform
  simp only [hu, readTrap_none hr, hla, hrun, Bool.false_eq_true, if_false]
  refine allocate_go ?_
  by_cases h0 : f.lanes = 0
  · left; rw [if_pos h0]; rfl
  · rw [if_neg h0]; exact hroom.resolve_left h0

end Sys2Proof.Machine
end

