-- ==== Sys2Proof/Laws/Result.lean ====
section
/-! SUPPORT. The state an instruction leaves when its results are written at once: the one equation (`finish_eq`), and what holds of it
(`after_finish`), for every instruction whose effect is registers, predicates, EXEC and the PC. -/

namespace Sys2Proof.Machine

/-! ## Results -/

/-- A workgroup scalar written in the workgroup's copy. -/
def groupsPut (gs : AMap Nat Group) (wg n : Nat) (v : W64) : AMap Nat Group :=
  match gs.find? wg with
  | some k => gs.put wg { k with wregs := k.wregs.set n v }
  | none => gs

/-- The workgroups after an instruction's scalar results. -/
def finGroups (gs : AMap Nat Group) (wg : Nat) (sw : List (Dest × W64)) : AMap Nat Group :=
  sw.foldl (fun m p => match p.1 with
    | .w n => groupsPut m wg n p.2
    | _ => m) gs

/-- The warp after an instruction's scalar results. -/
def finScalars (w : Warp) (sub : Nat) (sw : List (Dest × W64)) : Warp :=
  sw.foldl (fun w p => match p.1 with
    | .s n => w.setSreg n p.2
    | .w n => { w with units := modUnitOf w.units sub (fun u => { u with wview := u.wview.set n p.2 }) }
    | .v _ => w) w

/-- The registers and flags after an instruction's results. -/
def finRegs (w : Warp) (sub : Nat) (f : Fin) : Warp :=
  let w := if f.lanes = 0 then w else f.vw.foldl (fun w p => w.claim p.1) w
  finScalars ((f.vw.foldl (fun w p => w.vset p.1 f.lanes p.2) w).flag f.flags) sub f.sw

/-- The unit that an instruction leaves. -/
def finUnit (c : Ctx) (j : Job) (f : Fin) (u : WUnit) : WUnit :=
  { u with pc := f.pc.getD c.next, enters := j.endsRegion, entered := false, count := u.count + 1, exec := f.exec.getD u.exec,
           xsets := u.xsets ++ (match f.exec with
             | some e => [(u.count, e)]
             | none => []) }

/-- The registers that an instruction's last uses free, and its marks. -/
def finUses (c : Ctx) (j : Job) (f : Fin) (div : Bool) (w : Warp) : Warp :=
  let w := if c.act ≠ 0 && (j.reads ++ f.reads).any (fun n => !c.w.mapped n) then { w with wstat := w.wstat ||| wsRdunmap } else w
  (((j.hdr.uses ++ f.frees).filter (fun n => !j.dests.contains n && !f.keeps.contains n && !f.vw.any (fun p => p.1 = n))).foldl (fun w n => w.lastUse div n) w)

/-- The warp that an instruction leaves, from the warp `w` that holds its results. -/
def endWarp (c : Ctx) (j : Job) (f : Fin) (w : Warp) (div : Bool) : Warp :=
  let w := finUses c j f div w
  { w with units := modUnitOf w.units c.sub (finUnit c j f) }

/-- The warp that an instruction leaves, from the warp `w2` its effect gives. -/
def finWarp (c : Ctx) (j : Job) (f : Fin) (w2 : Warp) (div : Bool) : Warp := endWarp c j f (finRegs w2 c.sub f) div

/-- The warp whose unit's stroke has ended. -/
def stopWarp (w : Warp) (sub : Nat) (st : USt) : Warp :=
  { w with units := modUnitOf w.units sub (fun u => { u with st := st, count := 0, xsets := [] }) }

/-- The stroke ends with an instruction (R20). -/
def strokeEnds (c : Ctx) (j : Job) (f : Fin) : Bool := f.ends.isSome || f.wait.isSome || j.hdr.s || decide (24 ≤ c.u.count + 1)

/-- The scheduling state that a stroke's end leaves. -/
def endSt (f : Fin) : USt :=
  match f.wait with
  | some w => .blocked w
  | none => .ready

theorem foldl_modWarp {α : Type} (xs : List α) (s : State) (g : Nat) (w : Warp) (f : Warp → α → Warp) :
    xs.foldl (fun s x => s.modWarp g (fun w => f w x)) (s.setWarp g w) = s.setWarp g (xs.foldl f w) := by
  induction xs generalizing w with
  | nil => rfl
  | cons x xs ih =>
    simp only [List.foldl_cons]
    rw [modWarp_of (warp_setWarp s g w), setWarp_setWarp]
    exact ih _

theorem foldl_keeps {α β : Type} {p : Warp → β} (xs : List α) (f : Warp → α → Warp) (hf : ∀ w x, p (f w x) = p w) (w : Warp) :
    p (xs.foldl f w) = p w := by
  induction xs generalizing w with
  | nil => rfl
  | cons x xs ih => rw [List.foldl_cons, ih, hf]

theorem vset_none (w : Warp) (n : Nat) (v : Lanes) : w.vset n 0 v = w := by simp [Warp.vset]

theorem foldl_vset_none (xs : List (Nat × Lanes)) (w : Warp) : xs.foldl (fun w p => w.vset p.1 0 p.2) w = w := by
  induction xs with
  | nil => rfl
  | cons x xs ih => rw [List.foldl_cons, vset_none]; exact ih

/-- Writing a unit's workgroup scalar. -/
theorem setWreg_eq (s0 : State) (g sub n : Nat) (w : Warp) (v : W64) :
    (s0.setWarp g w).setWreg g sub n v = ({ s0 with groups := groupsPut s0.groups w.wg n v }).setWarp g
      { w with units := modUnitOf w.units sub (fun u => { u with wview := u.wview.set n v }) } := by
  have hw : (s0.setWarp g w).warp? g = some w := warp_setWarp s0 g w
  unfold State.setWreg
  simp only [hw]
  unfold State.modGroup State.group? groupsPut
  rw [setWarp_groups]
  cases hg : s0.groups.find? w.wg with
  | none =>
    simp only []
    unfold State.modUnit
    rw [modWarp_of hw, setWarp_setWarp]
  | some k =>
    simp only []
    have h2 : ((s0.setWarp g w).setGroup w.wg { k with wregs := k.wregs.set n v }).warp? g = some w := hw
    unfold State.modUnit
    rw [modWarp_of h2]
    simp [State.setWarp, State.setGroup, put_put]

theorem foldl_scalars (sub g : Nat) (sw : List (Dest × W64)) (s0 : State) (w : Warp) :
    sw.foldl (fun s p => s.writeScalar g sub p.1 p.2) (s0.setWarp g w)
      = ({ s0 with groups := finGroups s0.groups w.wg sw }).setWarp g (finScalars w sub sw) := by
  induction sw generalizing s0 w with
  | nil => rfl
  | cons p sw ih =>
    obtain ⟨d, v⟩ := p
    simp only [List.foldl_cons, finGroups, finScalars, State.writeScalar]
    cases d with
    | v n => exact ih s0 w
    | s n =>
      simp only [modWarp_of (warp_setWarp s0 g w), setWarp_setWarp]
      exact ih s0 _
    | w n =>
      simp only [setWreg_eq]
      exact ih { s0 with groups := groupsPut s0.groups w.wg n v } _

theorem age_none {u : WUnit} (ws : List (Dest × W32)) (h : u.looks = []) :
    { u with looks := markOver (u.looks.map (fun k => { k with left := k.left - 1 })) ws } = u := by
  cases u; dsimp only at h; subst h; rfl

/-- An instruction has no result. -/
def noResult (f : Fin) : Prop := (f.lanes = 0 ∨ f.vw = []) ∧ f.sw = []

/-- An instruction's results, if any, are written at once. -/
def atOnce (j : Job) (f : Fin) : Prop := (j.long = false ∧ f.later = none) ∨ noResult f

theorem age_units {us : List WUnit} {sub : Nat} (hu : ∀ u ∈ us, u.sub = sub → u.looks = []) (ws : List (Dest × W32)) :
    modUnitOf us sub (fun u => { u with looks := markOver (u.looks.map (fun k => { k with left := k.left - 1 })) ws }) = us := by
  unfold modUnitOf
  apply map_self
  intro u hm
  by_cases h : u.sub = sub
  · rw [if_pos h]; exact age_none _ (hu u hm h)
  · simp [h]

/-- The warp whose unit's destinations have been claimed. -/
def claimed (w : Warp) (f : Fin) : Warp := if f.lanes = 0 then w else f.vw.foldl (fun w p => w.claim p.1) w

theorem claim_setWarp (s0 : State) (g : Nat) (w : Warp) (f : Fin) :
    (if f.lanes = 0 then s0.setWarp g w else (s0.setWarp g w).modWarp g (fun w => f.vw.foldl (fun w p => w.claim p.1) w)) = s0.setWarp g (claimed w f) := by
  unfold claimed
  split
  · rfl
  · rw [modWarp_of (warp_setWarp s0 g w), setWarp_setWarp]

theorem writeFin_nothing {c : Ctx} {j : Job} {f : Fin} {s0 : State} {w2 : Warp} (hr : noResult f) (hu : ∀ u ∈ w2.units, u.sub = c.sub → u.looks = []) :
    (s0.setWarp c.g w2).writeFin c j f = s0.setWarp c.g (w2.flag f.flags) := by
  have hws : (if f.lanes = 0 then [] else f.vw.map (fun p => (Dest.v p.1, f.lanes))) ++ f.sw.map (fun p => (p.1, (1 : W32))) = [] := by
    rw [hr.2]
    rcases hr.1 with h | h
    · rw [if_pos h]; rfl
    · rw [h]; split <;> rfl
  have hal : claimed w2 f = w2 := by
    unfold claimed
    rcases hr.1 with h | h
    · rw [if_pos h]
    · rw [h]; split <;> rfl
  have hc := claim_setWarp s0 c.g w2 f
  rw [modWarp_of (warp_setWarp s0 c.g w2), setWarp_setWarp, hal] at hc
  unfold State.writeFin
  rw [hws]
  simp only [State.modUnit, modWarp_of (warp_setWarp s0 c.g w2), setWarp_setWarp, age_units hu, List.isEmpty_nil, if_true]
  rw [hc, modWarp_of (warp_setWarp s0 c.g w2), setWarp_setWarp]

theorem finRegs_nothing {w : Warp} {sub : Nat} {f : Fin} (hr : noResult f) : finRegs w sub f = w.flag f.flags := by
  unfold finRegs
  rw [hr.2]
  rcases hr.1 with h | h
  · rw [h]; dsimp only; rw [if_pos rfl, foldl_vset_none]; rfl
  · rw [h]; dsimp only; split <;> rfl

/-- An instruction that has a result writes something. -/
theorem writes_some {f : Fin} (h : ¬ noResult f) :
    ((if f.lanes = 0 then [] else f.vw.map (fun p => (Dest.v p.1, f.lanes))) ++ f.sw.map (fun p => (p.1, (1 : W32)))).isEmpty = false := by
  rw [Bool.eq_false_iff]
  intro hh
  apply h
  have hh := List.isEmpty_iff.mp hh
  rw [List.append_eq_nil_iff] at hh
  refine ⟨?_, List.map_eq_nil_iff.mp hh.2⟩
  by_cases h0 : f.lanes = 0
  · exact Or.inl h0
  · rw [if_neg h0] at hh
    exact Or.inr (List.map_eq_nil_iff.mp hh.1)

/-- The results of an instruction that is not long-latency. -/
theorem writeFin_short {c : Ctx} {j : Job} {f : Fin} {s0 : State} {w2 : Warp} (hat : atOnce j f)
    (hu : ∀ u ∈ w2.units, u.sub = c.sub → u.looks = []) :
    (s0.setWarp c.g w2).writeFin c j f
      = ({ s0 with groups := finGroups s0.groups w2.wg f.sw }).setWarp c.g (finRegs w2 c.sub f) := by
  by_cases hr : noResult f
  · rw [writeFin_nothing hr hu, finRegs_nothing hr, hr.2]; rfl
  obtain ⟨hl, hla⟩ := hat.resolve_right hr
  have wg1 : ∀ (xs : List (Nat × Lanes)) (w : Warp), (xs.foldl (fun w p => w.claim p.1) w).wg = w.wg := by
    intro xs w
    exact foldl_keeps (p := fun w : Warp => w.wg) xs (fun w p => w.claim p.1)
      (fun w x => by unfold Warp.claim Warp.alloc; split <;> [skip; split] <;> rfl) w
  have wg2 : ∀ (xs : List (Nat × Lanes)) (w : Warp), (xs.foldl (fun w p => w.vset p.1 f.lanes p.2) w).wg = w.wg := by
    intro xs w
    refine foldl_keeps (p := fun w : Warp => w.wg) xs (fun w p => w.vset p.1 f.lanes p.2) (fun w x => ?_) w
    unfold Warp.vset Warp.alloc
    split
    · rfl
    · dsimp only; split <;> split <;> rfl
  have wg3 : (claimed w2 f).wg = w2.wg := by unfold claimed; split <;> [rfl; exact wg1 _ _]
  unfold State.writeFin
  simp only [State.modUnit, modWarp_of (warp_setWarp s0 c.g w2), setWarp_setWarp, age_units hu, hl, hla, Option.isSome_none, Bool.or_self,
    Bool.false_eq_true, if_false, writes_some hr]
  have := claim_setWarp s0 c.g w2 f
  rw [modWarp_of (warp_setWarp s0 c.g w2), setWarp_setWarp] at this
  rw [this, modWarp_of (warp_setWarp s0 c.g _), setWarp_setWarp, foldl_scalars]
  have hwg : ((f.vw.foldl (fun w p => w.vset p.1 f.lanes p.2) (claimed w2 f)).flag f.flags).wg = w2.wg := (wg2 _ _).trans wg3
  rw [hwg]
  rfl

/-! ## The end of an instruction -/

theorem any_modUnit_serial (us : List WUnit) (sub : Nat) (f : WUnit → WUnit) (hf : ∀ u, (f u).serial = u.serial) :
    (modUnitOf us sub f).any (fun u => !u.serial.isEmpty) = us.any (fun u => !u.serial.isEmpty) := by
  induction us with
  | nil => rfl
  | cons u us ih =>
    have : (modUnitOf (u :: us) sub f) = (if u.sub = sub then f u else u) :: modUnitOf us sub f := rfl
    rw [this, List.any_cons, List.any_cons, ih]
    split <;> simp [hf]

/-- Whether a warp is divergent does not change with its registers. -/
theorem divergent_setWarp {s : State} {g : Nat} {w w' : Warp} (hw : s.warp? g = some w)
    (h : w'.units.any (fun u => !u.serial.isEmpty) = w.units.any (fun u => !u.serial.isEmpty)) :
    (s.setWarp g w').divergent g = s.divergent g := by
  unfold State.divergent
  rw [warp_setWarp, hw]
  simp only [h]
  rfl

theorem units_alloc (w : Warp) (n : Nat) : (w.alloc n).units = w.units := by unfold Warp.alloc; split <;> rfl
theorem units_vset (w : Warp) (n : Nat) (m : W32) (v : Lanes) : (w.vset n m v).units = w.units := by
  unfold Warp.vset
  split
  · rfl
  · dsimp only
    split
    · exact units_alloc w n
    · exact units_alloc w n
theorem units_claim (w : Warp) (n : Nat) : (w.claim n).units = w.units := by
  unfold Warp.claim
  split
  · rfl
  · exact units_alloc w n
theorem units_unmap (w : Warp) (n : Nat) : (w.unmap n).units = w.units := by unfold Warp.unmap; split <;> rfl
theorem units_lastUse (w : Warp) (d : Bool) (n : Nat) : (w.lastUse d n).units = w.units := by
  unfold Warp.lastUse
  split
  · split <;> rfl
  · exact units_unmap w n

theorem serial_finRegs (w : Warp) (sub : Nat) (f : Fin) :
    (finRegs w sub f).units.any (fun u => !u.serial.isEmpty) = w.units.any (fun u => !u.serial.isEmpty) := by
  have h3 : ∀ w : Warp, (finScalars w sub f.sw).units.any (fun u => !u.serial.isEmpty) = w.units.any (fun u => !u.serial.isEmpty) := by
    intro w
    refine foldl_keeps (p := fun w : Warp => w.units.any (fun u => !u.serial.isEmpty)) _ _ ?_ w
    intro w x
    obtain ⟨d, v⟩ := x
    cases d with
    | v n => rfl
    | s n => rfl
    | w n => exact any_modUnit_serial _ _ _ (fun _ => rfl)
  unfold finRegs
  rw [h3]
  have h2 : ∀ w : Warp, (f.vw.foldl (fun w p => w.vset p.1 f.lanes p.2) w).units = w.units := fun w =>
    foldl_keeps (p := fun w : Warp => w.units) f.vw (fun w p => w.vset p.1 f.lanes p.2) (fun w x => units_vset w x.1 f.lanes x.2) w
  have h1 : ∀ w : Warp, (f.vw.foldl (fun w p => w.claim p.1) w).units = w.units := fun w =>
    foldl_keeps (p := fun w : Warp => w.units) f.vw (fun w p => w.claim p.1) (fun w x => units_claim w x.1) w
  have h4 : ∀ w : Warp, (w.flag f.flags).units = w.units := fun _ => rfl
  rw [h4, h2]
  split
  · rfl
  · rw [h1]

/-- A warp in a slot, in a workgroup that is not ending, loses no unit at its stroke's end. -/
theorem afterStroke_quiet {s : State} {g : Nat} {w : Warp} (hw : s.warp? g = some w) (hk : ∀ k, s.group? w.wg = some k → k.ending = false) :
    s.afterStroke g = s := by
  unfold State.afterStroke
  rw [hw]
  dsimp only
  cases h : s.group? w.wg with
  | none => rfl
  | some k => simp [hk k h]

/-- The end of a stroke that nothing watches. -/
theorem endStroke_quiet {s : State} {g sub : Nat} {w : Warp} {u : WUnit} (hw : s.warp? g = some w) (hu : unitOf w.units sub = some u)
    (hd : (s.die (dieOf g)).dbg = none) (ht : (s.coreReg (coreOf g) .trctl).getLsbD 0 = false) (hf : s.focus = some (g, sub))
    (e : StrokeEnd) (st : USt) : s.endStroke g sub e st = { s.setWarp g (stopWarp w sub st) with focus := none } := by
  have hst : s.stepping g sub = false := by simp [State.stepping, hd]
  have hn : s.noteStep g sub e st = s := by simp [State.noteStep, hst]
  have htr : ∀ q, s.traced (coreOf g) q = false := by intro q; simp only [State.traced, ht, Bool.false_and]
  unfold State.endStroke
  simp only [State.unit?, hw, Option.bind_some, hu, hn, htr, Bool.false_eq_true, if_false, State.modUnit]
  rw [modWarp_of hw]
  have : (s.setWarp g { w with units := modUnitOf w.units sub (fun u => { u with st := st, count := 0, xsets := [] }) }).focus = some (g, sub) := hf
  rw [if_pos this]
  rfl

theorem find_groupsPut_same (gs : AMap Nat Group) (wg n : Nat) (v : W64) :
    (groupsPut gs wg n v).find? wg = (gs.find? wg).map (fun k => { k with wregs := k.wregs.set n v }) := by
  unfold groupsPut
  cases h : gs.find? wg with
  | none => simp [h]
  | some k => simp

theorem find_groupsPut_other (gs : AMap Nat Group) {wg h : Nat} (n : Nat) (v : W64) (hne : wg ≠ h) :
    (groupsPut gs wg n v).find? h = gs.find? h := by
  unfold groupsPut
  cases hg : gs.find? wg with
  | none => rfl
  | some k => exact find_put_other gs _ hne

/-- The workgroup scalars after an instruction's scalar results. -/
def finWregs (sw : List (Dest × W64)) (ws : List W64) : List W64 :=
  sw.foldl (fun ws p => match p.1 with
    | .w n => ws.set n p.2
    | _ => ws) ws

theorem find_finGroups_same (sw : List (Dest × W64)) (gs : AMap Nat Group) (wg : Nat) :
    (finGroups gs wg sw).find? wg = (gs.find? wg).map (fun k => { k with wregs := finWregs sw k.wregs }) := by
  induction sw generalizing gs with
  | nil => simp [finGroups, finWregs]
  | cons p sw ih =>
    obtain ⟨d, v⟩ := p
    have hh : finGroups gs wg ((d, v) :: sw) = finGroups (match d with
      | .w n => groupsPut gs wg n v
      | _ => gs) wg sw := rfl
    rw [hh, ih]
    cases d with
    | v n => rfl
    | s n => rfl
    | w n => dsimp only; rw [find_groupsPut_same, Option.map_map]; rfl

theorem find_finGroups_other (sw : List (Dest × W64)) (gs : AMap Nat Group) {wg h : Nat} (hne : wg ≠ h) :
    (finGroups gs wg sw).find? h = gs.find? h := by
  induction sw generalizing gs with
  | nil => rfl
  | cons p sw ih =>
    obtain ⟨d, v⟩ := p
    have hh : finGroups gs wg ((d, v) :: sw) = finGroups (match d with
      | .w n => groupsPut gs wg n v
      | _ => gs) wg sw := rfl
    rw [hh, ih]
    cases d with
    | v n => rfl
    | s n => rfl
    | w n => exact find_groupsPut_other gs n v hne

/-- The end of an instruction whose results are in warp `W` of state `S`: last uses, marks, the unit, the end of its stroke, and what is done
after it. -/
theorem finish_core {c : Ctx} {j : Job} {f : Fin} {S : State} {W : Warp} {div : Bool} {us : WUnit}
    (hwf : f.s.writeFin c j f = S.setWarp c.g W) (hdiv : (S.setWarp c.g W).divergent c.g = div) (hstep : c.s.stepping c.g c.sub = false)
    (hul : c.u.looks = []) (hdbg : (S.die (dieOf c.g)).dbg = none) (htr : (S.coreReg (coreOf c.g) .trctl).getLsbD 0 = false)
    (hfo : S.focus = some (c.g, c.sub)) (hun : unitOf W.units c.sub = some us) :
    c.finish j f
      = if strokeEnds c j f
        then (f.post { S.setWarp c.g (stopWarp (endWarp c j f W div) c.sub (endSt f)) with focus := none }).afterStroke c.g
        else f.post (S.setWarp c.g (endWarp c j f W div)) := by
  have hend : (f.ends.isSome || f.wait.isSome || j.hdr.s || decide (24 ≤ c.u.count + 1) || c.s.stepping c.g c.sub) = strokeEnds c j f := by
    rw [hstep, Bool.or_false]; rfl
  have hul' : c.u.looks.isEmpty = true := by simp [hul]
  have a2 : S.setWarp c.g (finUses c j f div W) = (S.setWarp c.g W).modWarp c.g (finUses c j f div) := by
    rw [modWarp_of (warp_setWarp S c.g _), setWarp_setWarp]
  have a3 : (S.setWarp c.g (finUses c j f div W)).modUnit c.g c.sub (finUnit c j f) = S.setWarp c.g (endWarp c j f W div) := by
    unfold State.modUnit
    rw [modWarp_of (warp_setWarp S c.g _), setWarp_setWarp]
    rfl
  have hu : unitOf (endWarp c j f W div).units c.sub = some (finUnit c j f us) := by
    have h1 : (finUses c j f div W).units = W.units := by
      unfold finUses
      dsimp only
      have h2 : ∀ w : Warp, (((j.hdr.uses ++ f.frees).filter (fun n => !j.dests.contains n && !f.keeps.contains n && !f.vw.any (fun p => p.1 = n))).foldl (fun w n => w.lastUse div n) w).units = w.units :=
        fun w => foldl_keeps (p := fun w : Warp => w.units) _ (fun w n => w.lastUse div n) (fun w x => units_lastUse w div x) w
      show (List.foldl (fun (w : Warp) n => w.lastUse div n) _ _).units = _
      rw [h2]
      split <;> rfl
    show unitOf (modUnitOf (finUses c j f div W).units c.sub (finUnit c j f)) c.sub = _
    rw [h1, unitOf_modUnitOf W.units c.sub (finUnit c j f) (fun _ => rfl), hun]
    rfl
  unfold Ctx.finish
  rw [hwf]
  dsimp only
  rw [hdiv, hend, hul', if_pos rfl]
  change (if strokeEnds c j f = true then State.afterStroke (f.post (if strokeEnds c j f = true then
      (((S.setWarp c.g W).modWarp c.g (finUses c j f div)).modUnit c.g c.sub (finUnit c j f)).endStroke c.g c.sub (f.ends.getD .none) (endSt f)
      else ((S.setWarp c.g W).modWarp c.g (finUses c j f div)).modUnit c.g c.sub (finUnit c j f))) c.g
    else f.post (if strokeEnds c j f = true then
      (((S.setWarp c.g W).modWarp c.g (finUses c j f div)).modUnit c.g c.sub (finUnit c j f)).endStroke c.g c.sub (f.ends.getD .none) (endSt f)
      else ((S.setWarp c.g W).modWarp c.g (finUses c j f div)).modUnit c.g c.sub (finUnit c j f))) = _
  rw [← a2, a3]
  cases hs : strokeEnds c j f with
  | false => rfl
  | true =>
    simp only [if_true]
    rw [endStroke_quiet (warp_setWarp S c.g _) hu hdbg htr hfo, setWarp_setWarp]

/-- The end of an instruction that does nothing after its stroke, in a workgroup that is not ending. -/
theorem finish_end {c : Ctx} {j : Job} {f : Fin} {S : State} {W : Warp} {div : Bool} {us : WUnit}
    (hwf : f.s.writeFin c j f = S.setWarp c.g W) (hdiv : (S.setWarp c.g W).divergent c.g = div) (hstep : c.s.stepping c.g c.sub = false)
    (hul : c.u.looks = []) (hdbg : (S.die (dieOf c.g)).dbg = none) (htr : (S.coreReg (coreOf c.g) .trctl).getLsbD 0 = false)
    (hfo : S.focus = some (c.g, c.sub)) (hun : unitOf W.units c.sub = some us) (hpost : ∀ s, f.post s = s)
    (hk : ∀ k, S.group? W.wg = some k → k.ending = false) :
    c.finish j f
      = if strokeEnds c j f then { S.setWarp c.g (stopWarp (endWarp c j f W div) c.sub (endSt f)) with focus := none }
        else S.setWarp c.g (endWarp c j f W div) := by
  rw [finish_core hwf hdiv hstep hul hdbg htr hfo hun]
  cases strokeEnds c j f with
  | false => exact hpost _
  | true =>
    simp only [if_true, hpost]
    have hwg : (endWarp c j f W div).wg = W.wg := by
      have h2 : ∀ w : Warp, (((j.hdr.uses ++ f.frees).filter (fun n => !j.dests.contains n && !f.keeps.contains n && !f.vw.any (fun p => p.1 = n))).foldl (fun w n => w.lastUse div n) w).wg = w.wg :=
        fun w => foldl_keeps (p := fun w : Warp => w.wg) _ (fun w n => w.lastUse div n)
          (fun w x => by unfold Warp.lastUse Warp.unmap; split <;> split <;> rfl) w
      show (List.foldl (fun (w : Warp) n => w.lastUse div n) _ _).wg = _
      rw [h2]
      split <;> rfl
    refine afterStroke_quiet (w := stopWarp (endWarp c j f W div) c.sub (endSt f)) (warp_setWarp S c.g _) ?_
    intro k hk'
    exact hk k (by rw [← hwg]; exact hk')

/-- The state that an instruction with results at once leaves: `s0` is the state before, and `w2` the warp its effect gives. -/
theorem finish_short {c : Ctx} {j : Job} {f : Fin} {s0 : State} {w w2 : Warp} (hw : s0.warp? c.g = some w) (hq : Quiet s0 c.g w)
    (hfocus : s0.focus = some (c.g, c.sub)) (hcs : c.s = s0.setWarp c.g c.w) (hfs : f.s = s0.setWarp c.g w2) (hwg : w2.wg = w.wg)
    (hat : atOnce j f) (hpost : ∀ s, f.post s = s) (hlooks : ∀ x ∈ w2.units, x.sub = c.sub → x.looks = [])
    (hul : c.u.looks = [])
    (hser : w2.units.any (fun u => !u.serial.isEmpty) = w.units.any (fun u => !u.serial.isEmpty))
    (hwg2 : (finRegs w2 c.sub f).wg = w.wg)
    (hun : (unitOf (finRegs w2 c.sub f).units c.sub).isSome) :
    c.finish j f
      = if strokeEnds c j f
        then { ({ s0 with groups := finGroups s0.groups w.wg f.sw }).setWarp c.g (stopWarp (finWarp c j f w2 (s0.divergent c.g)) c.sub (endSt f)) with focus := none }
        else ({ s0 with groups := finGroups s0.groups w.wg f.sw }).setWarp c.g (finWarp c j f w2 (s0.divergent c.g)) := by
  obtain ⟨us, hus⟩ := Option.isSome_iff_exists.mp hun
  refine finish_end (S := { s0 with groups := finGroups s0.groups w.wg f.sw }) (W := finRegs w2 c.sub f) ?_ ?_ ?_ hul hq.debug hq.trace hfocus hus hpost ?_
  · rw [hfs, writeFin_short hat hlooks, hwg]
  · rw [divergent_setWarp (s := { s0 with groups := finGroups s0.groups w.wg f.sw }) (w := w) hw (by rw [serial_finRegs, hser])]
    rfl
  · have : (c.s.die (dieOf c.g)).dbg = none := by rw [hcs]; exact hq.debug
    simp [State.stepping, this]
  · intro k hk
    rw [hwg2] at hk
    unfold State.group? at hk
    rw [find_finGroups_same] at hk
    cases h0 : s0.groups.find? w.wg with
    | none => rw [h0] at hk; simp at hk
    | some k0 => rw [h0] at hk; simp at hk; rw [← hk]; exact hq.group k0 h0

end Sys2Proof.Machine
end

