-- ==== Sys2Proof/Laws/After.lean ====
section
/-! SUPPORT. What holds after an instruction whose effect is registers, predicates, EXEC and the PC, said once (`after_go`), and the form of it for
one destination (`after_put`). The statements about such instructions follow from these two. -/

namespace Sys2Proof.Machine

/-! ## Scalar results -/

/-- The last value written to scalar `n`. -/
def scaOf (sw : List (Dest × W64)) (n : Nat) : Option W64 := sw.foldl (fun a p => if p.1 = .s n then some p.2 else a) none

/-- The last value written to workgroup scalar `n`. -/
def wgsOf (sw : List (Dest × W64)) (n : Nat) : Option W64 := sw.foldl (fun a p => if p.1 = .w n then some p.2 else a) none

theorem foldl_last {α β : Type} (xs : List α) (p : α → Bool) (v : α → β) (a : Option β) :
    xs.foldl (fun a x => if p x then some (v x) else a) a = (xs.foldl (fun a x => if p x then some (v x) else a) none).or a := by
  induction xs generalizing a with
  | nil => cases a <;> rfl
  | cons x xs ih =>
    rw [List.foldl_cons, List.foldl_cons, ih, ih (if p x = true then some (v x) else none)]
    cases p x <;> simp

theorem scaOf_cons (d : Dest) (v : W64) (sw : List (Dest × W64)) (n : Nat) :
    scaOf ((d, v) :: sw) n = (scaOf sw n).or (if d = .s n then some v else none) := by
  have := foldl_last sw (fun p => decide (p.1 = Dest.s n)) (fun p => p.2) (if d = .s n then some v else none)
  simpa [scaOf] using this

theorem wgsOf_cons (d : Dest) (v : W64) (sw : List (Dest × W64)) (n : Nat) :
    wgsOf ((d, v) :: sw) n = (wgsOf sw n).or (if d = .w n then some v else none) := by
  have := foldl_last sw (fun p => decide (p.1 = Dest.w n)) (fun p => p.2) (if d = .w n then some v else none)
  simpa [wgsOf] using this

theorem sreg_setSreg (w : Warp) (k n : Nat) (v : W64) : (w.setSreg k v).sreg n = if k = n then v else w.sreg n := by
  unfold Warp.setSreg Warp.sreg
  exact get_put 0 w.sregs k n v

theorem sreg_finScalars (sw : List (Dest × W64)) (w : Warp) (sub n : Nat) :
    (finScalars w sub sw).sreg n = (scaOf sw n).getD (w.sreg n) := by
  induction sw generalizing w with
  | nil => rfl
  | cons p sw ih =>
    obtain ⟨d, v⟩ := p
    have hh : finScalars w sub ((d, v) :: sw) = finScalars (match d with
      | .s n => w.setSreg n v
      | .w n => { w with units := modUnitOf w.units sub (fun u => { u with wview := u.wview.set n v }) }
      | .v _ => w) sub sw := by cases d <;> rfl
    rw [hh, ih, scaOf_cons]
    cases d with
    | v k => simp
    | s k =>
      dsimp only
      rw [sreg_setSreg]
      by_cases e : k = n
      · subst e; cases scaOf sw k <;> simp
      · cases scaOf sw n <;> simp [e]
    | w k => simp; rfl

theorem getD_finWregs (sw : List (Dest × W64)) (ws : List W64) {n : Nat} (hn : n < ws.length) :
    (finWregs sw ws).getD n 0 = (wgsOf sw n).getD (ws.getD n 0) := by
  induction sw generalizing ws with
  | nil => rfl
  | cons p sw ih =>
    obtain ⟨d, v⟩ := p
    have hh : finWregs ((d, v) :: sw) ws = finWregs sw (match d with
      | .w n => ws.set n v
      | _ => ws) := by cases d <;> rfl
    rw [hh, wgsOf_cons]
    cases d with
    | v k => dsimp only; rw [ih ws hn]; simp
    | s k => dsimp only; rw [ih ws hn]; simp
    | w k =>
      dsimp only
      rw [ih (ws.set k v) (by simpa using hn)]
      by_cases e : k = n
      · subst e
        cases wgsOf sw k <;> simp [List.getD_eq_getElem?_getD, hn]
      · cases wgsOf sw n <;> simp [List.getD_eq_getElem?_getD, e]

/-- The warp after scalar results, but for its scalars and its unit's view. -/
theorem finScalars_same (sw : List (Dest × W64)) (w : Warp) (sub : Nat) :
    finScalars w sub sw = { w with sregs := (finScalars w sub sw).sregs, units := modUnitOf w.units sub (fun u => { u with wview := finWregs sw u.wview }) } := by
  induction sw generalizing w with
  | nil =>
    have : modUnitOf w.units sub (fun u => { u with wview := finWregs [] u.wview }) = w.units := by
      unfold modUnitOf
      conv_rhs => rw [← List.map_id w.units]
      apply List.map_congr_left
      intro u _
      by_cases h : u.sub = sub
      · rw [if_pos h]; rfl
      · rw [if_neg h]; rfl
    rw [this]; rfl
  | cons p sw ih =>
    obtain ⟨d, v⟩ := p
    cases d with
    | v k => exact ih w
    | s k => exact ih (w.setSreg k v)
    | w k =>
      have hh : finScalars w sub ((Dest.w k, v) :: sw)
        = finScalars { w with units := modUnitOf w.units sub (fun u => { u with wview := u.wview.set k v }) } sub sw := rfl
      rw [hh, ih]
      congr 1
      dsimp only
      unfold modUnitOf
      rw [List.map_map]
      apply List.map_congr_left
      intro u _
      by_cases h : u.sub = sub
      · simp only [Function.comp, h, if_true]; rfl
      · simp only [Function.comp, h, if_false]

/-! ## The warp an instruction leaves -/

/-- The registers of a warp with an instruction's vector results. -/
theorem same_results (w : Warp) (f : Fin) : SameButRegs w (f.vw.foldl (fun w p => w.vset p.1 f.lanes p.2) (claimed w f)) := by
  refine sameButRegs_trans ?_ (same_foldl f.vw (fun w p => w.vset p.1 f.lanes p.2) (fun w x => same_vset w _ _ _) _)
  unfold claimed
  split
  · rfl
  · exact same_foldl f.vw (fun w p => w.claim p.1) (fun w x => same_claim w _) w

theorem finRegs_eq (w : Warp) (sub : Nat) (f : Fin) :
    finRegs w sub f = finScalars ((f.vw.foldl (fun w p => w.vset p.1 f.lanes p.2) (claimed w f)).flag f.flags) sub f.sw := rfl

/-- Warp `w2` with its registers, scalars, flags and its unit's view as an instruction leaves them. -/
theorem finRegs_same (w : Warp) (sub : Nat) (f : Fin) :
    ∃ names pending newList mops sregs, finRegs w sub f
      = { w with names := names, pending := pending, newList := newList, mops := mops, sregs := sregs, fpsr := w.fpsr ||| f.flags,
                 units := modUnitOf w.units sub (fun u => { u with wview := finWregs f.sw u.wview }) } := by
  have h1 := same_results w f
  rw [finRegs_eq, finScalars_same]
  generalize (f.vw.foldl (fun w p => w.vset p.1 f.lanes p.2) (claimed w f)) = w1 at *
  unfold SameButRegs at h1
  exact ⟨w1.names, w1.pending, w1.newList, w1.mops, (finScalars (w1.flag f.flags) sub f.sw).sregs, by rw [h1]; rfl⟩

theorem vreg_claimed (w : Warp) (f : Fin) (n : Nat) : (claimed w f).vreg n = w.vreg n := by
  unfold claimed
  split
  · rfl
  · exact vreg_claims f.vw w n

theorem vreg_finRegs (w : Warp) (sub : Nat) (f : Fin) (hd : (f.vw.map (·.1)).Nodup) (n : Nat) {l : Nat} (hl : l < 32) :
    ((finRegs w sub f).vreg n).at l = match resultOf f.vw n with
      | some v => if inMask f.lanes l then v.at l else (w.vreg n).at l
      | none => (w.vreg n).at l := by
  have hs : ∀ w : Warp, (finScalars w sub f.sw).vreg n = w.vreg n := by
    intro w; rw [finScalars_same]; rfl
  have hf : ∀ w : Warp, (w.flag f.flags).vreg n = w.vreg n := fun _ => rfl
  have h := vreg_vsets f.vw hd (claimed w f) f.lanes n hl
  rw [vreg_claimed] at h
  rw [finRegs_eq, hs, hf]
  exact h

theorem vreg_units (w : Warp) (us : List WUnit) (n : Nat) : ({ w with units := us } : Warp).vreg n = w.vreg n := rfl

theorem resultOf_none {vw : List (Nat × Lanes)} {n : Nat} : resultOf vw n = none ↔ vw.any (fun p => p.1 = n) = false := by
  induction vw with
  | nil => simp [resultOf, AMap.find?]
  | cons p vw ih =>
    obtain ⟨k, v⟩ := p
    by_cases h : k = n
    · simp [resultOf, AMap.find?, h]
    · have : resultOf ((k, v) :: vw) n = resultOf vw n := by simp [resultOf, AMap.find?, h]
      rw [this, ih]; simp [h]

theorem vreg_entry (w : Warp) (sub : Nat) (e : Bool) (n : Nat) : (entryWarp w sub e).vreg n = w.vreg n := by cases e <;> rfl
theorem mapped_entry (w : Warp) (sub : Nat) (e : Bool) (n : Nat) : (entryWarp w sub e).mapped n = w.mapped n := by cases e <;> rfl
theorem pred_entry (w : Warp) (sub : Nat) (e : Bool) (k : Nat) : (entryWarp w sub e).pred k = w.pred k := by cases e <;> rfl
theorem sreg_entry (w : Warp) (sub : Nat) (e : Bool) (n : Nat) : (entryWarp w sub e).sreg n = w.sreg n := by cases e <;> rfl
theorem wreg_entry (w : Warp) (u : WUnit) (e : Bool) (n : Nat) : (entryUnit w u e).wreg n = u.wreg n := by cases e <;> rfl

/-- The mark of R63 on a warp. -/
def markRead (c : Ctx) (j : Job) (w : Warp) : Warp :=
  if c.act ≠ 0 && j.reads.any (fun n => !c.w.mapped n) then { w with wstat := w.wstat ||| wsRdunmap } else w

/-- The names whose registers an instruction's last uses free. -/
def freed (j : Job) (f : Fin) : List Nat := j.hdr.uses.filter (fun n => !j.dests.contains n && !f.vw.any (fun p => p.1 = n))

/-- The encoding alone shows every register an instruction reads, frees or writes. -/
structure Shown (f : Fin) : Prop where
  reads : f.reads = []
  frees : f.frees = []
  keeps : f.keeps = []

theorem finUses_eq (c : Ctx) (j : Job) {f : Fin} (h : Shown f) (d : Bool) (w : Warp) :
    finUses c j f d w = (freed j f).foldl (fun w n => w.lastUse d n) (markRead c j w) := by
  unfold finUses freed markRead
  rw [h.reads, h.frees, h.keeps, List.append_nil, List.append_nil]
  simp only [List.contains_nil, Bool.not_false, Bool.and_true]

/-- How an instruction's results change its unit: its view of the workgroup scalars, and what is outstanding. -/
def unitWith (a : List W64 → List W64) (b : List Look → List Look) (u : WUnit) : WUnit := { u with wview := a u.wview, looks := b u.looks }

theorem markRead_wstat (c : Ctx) (j : Job) (W : Warp) :
    (markRead c j W).wstat = if c.act ≠ 0 ∧ ∃ n ∈ j.reads, c.w.mapped n = false then W.wstat ||| wsRdunmap else W.wstat := by
  unfold markRead
  have hiff : ((decide (c.act ≠ 0) && j.reads.any (fun n => !c.w.mapped n)) = true) ↔ (c.act ≠ 0 ∧ ∃ n ∈ j.reads, c.w.mapped n = false) := by
    simp [List.any_eq_true]
  by_cases hx : (c.act ≠ 0 ∧ ∃ n ∈ j.reads, c.w.mapped n = false)
  · rw [if_pos hx, if_pos (hiff.mpr hx)]
  · rw [if_neg hx, if_neg (fun hh => hx (hiff.mp hh))]

theorem markRead_same (c : Ctx) (j : Job) (W : Warp) : markRead c j W = { W with wstat := (markRead c j W).wstat } := by
  unfold markRead; split <;> rfl

/-- The warp at the end of an instruction: as its results left it, but for the names its last uses free, its marks and its unit. -/
theorem endWarp_same (c : Ctx) (j : Job) {f : Fin} (h : Shown f) (W : Warp) (d : Bool) :
    ∃ names pending newList mops, endWarp c j f W d
      = { W with names := names, pending := pending, newList := newList, mops := mops, wstat := (markRead c j W).wstat,
                 units := modUnitOf W.units c.sub (finUnit c j f) } := by
  have h1 : SameButRegs (markRead c j W) ((freed j f).foldl (fun w n => w.lastUse d n) (markRead c j W)) :=
    same_foldl _ (fun w n => w.lastUse d n) (fun w x => same_lastUse w d x) _
  unfold endWarp
  rw [finUses_eq c j h]
  dsimp only
  generalize ((freed j f).foldl (fun w n => w.lastUse d n) (markRead c j W)) = w5 at *
  unfold SameButRegs at h1
  refine ⟨w5.names, w5.pending, w5.newList, w5.mops, ?_⟩
  rw [h1, markRead_same]

theorem vreg_endWarp (c : Ctx) (j : Job) {f : Fin} (h : Shown f) (W : Warp) (d : Bool) (n l : Nat) :
    ((endWarp c j f W d).vreg n).at l = if n ∈ freed j f ∧ d = false then 0 else (W.vreg n).at l := by
  have h1 : (endWarp c j f W d).vreg n = ((freed j f).foldl (fun w n => w.lastUse d n) (markRead c j W)).vreg n := by
    unfold endWarp; rw [finUses_eq c j h]; rfl
  have h2 : (markRead c j W).vreg n = W.vreg n := by rw [markRead_same]; rfl
  rw [h1, vreg_lastUses, h2]

theorem sregs_lastUses (ks : List Nat) (w : Warp) (d : Bool) : (ks.foldl (fun w n => w.lastUse d n) w).sregs = w.sregs :=
  foldl_keeps (p := fun w : Warp => w.sregs) ks (fun w n => w.lastUse d n) (fun w x => by unfold Warp.lastUse Warp.unmap; split <;> split <;> rfl) w

theorem sregs_vsets (vw : List (Nat × Lanes)) (m : W32) (w : Warp) : (vw.foldl (fun w p => w.vset p.1 m p.2) w).sregs = w.sregs :=
  foldl_keeps (p := fun w : Warp => w.sregs) vw (fun w p => w.vset p.1 m p.2) (fun w x => by rw [same_vset w x.1 m x.2]) w

theorem sregs_claims (vw : List (Nat × Lanes)) (w : Warp) : (vw.foldl (fun w p => w.claim p.1) w).sregs = w.sregs :=
  foldl_keeps (p := fun w : Warp => w.sregs) vw (fun w p => w.claim p.1) (fun w x => by rw [same_claim w x.1]) w

theorem mem_freed {j : Job} {f : Fin} {n : Nat} : n ∈ freed j f ↔ n ∈ j.hdr.uses ∧ n ∉ j.dests ∧ resultOf f.vw n = none := by
  unfold freed
  rw [List.mem_filter, resultOf_none]
  simp

theorem sreg_finRegs (w : Warp) (sub : Nat) (f : Fin) (n : Nat) : (finRegs w sub f).sreg n = (scaOf f.sw n).getD (w.sreg n) := by
  have hf : ∀ w : Warp, (w.flag f.flags).sregs = w.sregs := fun _ => rfl
  rw [finRegs_eq, sreg_finScalars]
  unfold Warp.sreg
  rw [hf, sregs_vsets]
  unfold claimed
  split
  · rfl
  · rw [sregs_claims]

/-- An instruction passes its own checks: those of its words before anything changes, and the uniform ones after (R166). -/
structure Passes (j : Job) (c0 c : Ctx) : Prop where
  decode  : j.decode c0 = none
  uniform : j.uniform c = none
  late    : j.late = false

/-- What holds after an instruction, from what its results are. `s1` is the state with the instruction's effects outside its warp, `S` that state with
the workgroup scalars and handles as the instruction leaves them, and `W` the warp with its results. -/
theorem after_core {s s1 S : State} {g sub : Nat} {w W : Warp} {u : WUnit} {j : Job} {f : Fin} {P : List W32} {r : Res}
    {a : List W64 → List W64} {b : List Look → List Look} (h : AtIssue s g sub w u) (hq : Quiet s g w)
    (hw1 : s1.warp? g = some w) (hq1 : Quiet s1 g w) (hf1 : s1.focus = some (g, sub))
    (hdec : j.decode (decodeCtx s g sub w u j) = none) (hex : (issueCtx s g sub w u j).execute j = (issueCtx s g sub w u j).finish j f)
    (hsh : Shown f)
    (hwf : f.s.writeFin (issueCtx s g sub w u j) j f = S.setWarp g W)
    (hS : ∃ gs hs, S = { s1 with groups := gs, handles := hs })
    (hW : ∃ names pending newList mops sregs, W =
      { entryWarp w sub (entersAt u (j.hdr.e || j.entry)) with
        preds := P, names := names, pending := pending, newList := newList, mops := mops, sregs := sregs, fpsr := w.fpsr ||| r.flags,
        units := modUnitOf (entryWarp w sub (entersAt u (j.hdr.e || j.entry))).units sub (unitWith a b) })
    (hwait : f.wait = none) (hpost : ∀ s, f.post s = s)
    (hvec : ∀ n l, l < 32 → (if n ∈ freed j f ∧ s1.divergent g = false then 0 else (W.vreg n).at l) = match r.vec n with
      | some v => if inMask r.act l then v l else (w.vreg n).at l
      | none => if n ∈ r.uses ∧ n ∉ r.dests ∧ s1.divergent g = false then 0 else (w.vreg n).at l)
    (hsca : ∀ n, W.sreg n = (r.sca n).getD (w.sreg n))
    (hwgs : ∀ n, n < u.wview.length → (a u.wview).getD n 0 = (r.wgs n).getD (u.wreg n))
    (hgrp : ∀ k, s1.group? w.wg = some k → ∃ ws, S.group? w.wg = some { k with wregs := ws } ∧
      ∀ n, n < k.wregs.length → ws.getD n 0 = (r.wgs n).getD (k.wregs.getD n 0))
    (hgrps : ∀ x, x ≠ w.wg ∨ s1.group? x = none → S.group? x = s1.group? x)
    (hr1 : r.act = guardMask w u.exec j.hdr.grd) (hr2 : r.reads = j.reads) (hr4 : ∀ k, k < 8 → r.preds k = P.getD k 0)
    (hr5 : r.exec = f.exec.getD u.exec) (hr6 : r.pc = f.pc.getD (u.pc + BitVec.ofNat 64 j.hdr.len))
    (hr7 : r.ends = (f.ends.isSome || j.hdr.s || decide (24 ≤ u.count + 1)))
    (hr8 : match r.late with
      | none => b [] = []
      | some p => ∃ k, b [] = [k] ∧ p k) :
    ∃ w' u', After s1 (s.issue j) g sub w w' u u' r := by
  rw [issue_eq h hq j hdec, hex]
  generalize hc : issueCtx s g sub w u j = c at *
  generalize he : entersAt u (j.hdr.e || j.entry) = e at *
  have hcg : c.g = g := by rw [← hc]; rfl
  have hcsub : c.sub = sub := by rw [← hc]; rfl
  have hcw : c.w = entryWarp w sub e := by rw [← hc, ← he]; rfl
  have hcu : c.u = entryUnit w u e := by rw [← hc, ← he]; rfl
  have hcs : c.s = s.setWarp g (entryWarp w sub e) := by rw [← hc, ← he]; rfl
  have hcact : c.act = guardMask w u.exec j.hdr.grd := by rw [← hc]; rfl
  obtain ⟨gs, hs, hS⟩ := hS
  obtain ⟨names, pending, newList, mops, sregs, hW⟩ := hW
  have hSw : S.warp? g = some w := by rw [hS]; exact hw1
  have hWwg : W.wg = w.wg := by rw [hW]; cases e <;> rfl
  have huW : unitOf W.units sub = some (unitWith a b c.u) := by
    rw [hW, hcu]
    dsimp only
    rw [unitOf_modUnitOf _ sub (unitWith a b) (fun _ => rfl), unit_entry h.unit e]
    rfl
  have hserW : W.units.any (fun u => !u.serial.isEmpty) = w.units.any (fun u => !u.serial.isEmpty) := by
    rw [hW]
    dsimp only
    rw [any_modUnit_serial _ _ (unitWith a b) (fun _ => rfl)]
    cases e with
    | false => rfl
    | true => exact any_modUnit_serial _ _ _ (fun _ => rfl)
  have hdiv : (S.setWarp c.g W).divergent c.g = s1.divergent g := by
    rw [hcg, divergent_setWarp hSw hserW, hS]; rfl
  have hstep : c.s.stepping c.g c.sub = false := by
    have : (c.s.die (dieOf c.g)).dbg = none := by rw [hcs, hcg]; exact hq.debug
    simp [State.stepping, this]
  have hul : c.u.looks = [] := by rw [hcu]; exact (looks_entry e).trans (atIssue_looks h)
  have hk : ∀ k, S.group? W.wg = some k → k.ending = false := by
    intro k hk
    rw [hWwg] at hk
    cases h0 : s1.group? w.wg with
    | none => rw [hgrps w.wg (Or.inr h0), h0] at hk; cases hk
    | some k0 =>
      obtain ⟨ws, hws, _⟩ := hgrp k0 h0
      rw [hws] at hk
      injection hk with hk
      rw [← hk]
      exact hq1.group k0 h0
  have hfinish := finish_end (c := c) (j := j) (f := f) (S := S) (W := W) (by rw [hcg]; exact hwf) hdiv hstep hul
    (by rw [hcg, hS]; exact hq1.debug) (by rw [hcg, hS]; exact hq1.trace) (by rw [hcg, hcsub, hS]; exact hf1) (by rw [hcsub]; exact huW) hpost hk
  rw [hcg, hcsub] at hfinish
  have hst : endSt f = .ready := by unfold endSt; rw [hwait]
  rw [hst] at hfinish
  rw [hfinish]
  obtain ⟨names2, pending2, newList2, mops2, hF⟩ := endWarp_same c j hsh W (s1.divergent g)
  have hvreg : ∀ n l, l < 32 → ((endWarp c j f W (s1.divergent g)).vreg n).at l = match r.vec n with
      | some v => if inMask r.act l then v l else (w.vreg n).at l
      | none => if n ∈ r.uses ∧ n ∉ r.dests ∧ s1.divergent g = false then 0 else (w.vreg n).at l := by
    intro n l hl
    rw [vreg_endWarp c j hsh]
    exact hvec n l hl
  generalize hFdef : endWarp c j f W (s1.divergent g) = F at *
  rw [hcsub] at hF
  have huF : unitOf F.units sub = some (finUnit c j f (unitWith a b c.u)) := by
    rw [hF]
    dsimp only
    rw [unitOf_modUnitOf _ sub (finUnit c j f) (fun _ => rfl), huW]
    rfl
  have hsame : SameWarp w F := by
    unfold SameWarp
    rw [hF, hW]
    cases e <;> rfl
  have hstop : SameWarp w (stopWarp F sub .ready) := by
    unfold SameWarp at *
    unfold stopWarp
    dsimp only
    rw [hsame]
  have hothers : ∀ k, k ≠ sub → unitOf F.units k = unitOf w.units k := by
    intro k hk
    rw [hF]
    dsimp only
    rw [unitOf_modUnitOf_other _ (finUnit c j f) (fun _ => rfl) (Ne.symm hk), hW]
    dsimp only
    rw [unitOf_modUnitOf_other _ (unitWith a b) (fun _ => rfl) (Ne.symm hk)]
    cases e with
    | false => rfl
    | true => exact unitOf_modUnitOf_other w.units _ (fun _ => rfl) (Ne.symm hk)
  have hothers2 : ∀ k, k ≠ sub → unitOf (stopWarp F sub .ready).units k = unitOf w.units k := by
    intro k hk
    rw [← hothers k hk]
    exact unitOf_modUnitOf_other F.units (fun u => { u with st := .ready, count := 0, xsets := [] }) (fun _ => rfl) (Ne.symm hk)
  have hstopu : unitOf (stopWarp F sub .ready).units sub
      = some { finUnit c j f (unitWith a b c.u) with st := .ready, count := 0, xsets := [] } := by
    have := unitOf_modUnitOf F.units sub (fun u => { u with st := .ready, count := 0, xsets := [] }) (fun _ => rfl)
    rw [huF] at this
    exact this
  have hFs : F.sregs = W.sregs := by rw [hF]
  have hFp : F.preds = P := by rw [hF, hW]
  have hsca' : ∀ n, F.sreg n = (r.sca n).getD (w.sreg n) := by
    intro n; rw [← hsca n]; unfold Warp.sreg; rw [hFs]
  have hwgs' : ∀ n, n < u.wview.length → (a c.u.wview).getD n 0 = (r.wgs n).getD (u.wreg n) := by
    intro n hn
    have hv : c.u.wview = u.wview := by rw [hcu]; cases e <;> rfl
    rw [hv]; exact hwgs n hn
  have hpreds : ∀ k, k < 8 → F.pred k = r.preds k := by
    intro k hk; rw [hr4 k hk]; unfold Warp.pred; rw [hFp]
  have hfpsr : F.fpsr = w.fpsr ||| r.flags := by
    rw [hF, hW]
  have hwstat : F.wstat = if r.act ≠ 0 ∧ ∃ n ∈ r.reads, w.mapped n = false then w.wstat ||| wsRdunmap else w.wstat := by
    have e1 : F.wstat = (markRead c j W).wstat := by rw [hF]
    have e2 : W.wstat = w.wstat := by rw [hW]; cases e <;> rfl
    have e3 : ∀ n, c.w.mapped n = w.mapped n := by intro n; rw [hcw]; exact mapped_entry w sub e n
    rw [e1, markRead_wstat, e2, hcact, hr1, hr2]
    simp only [e3]
  have hlooks : match r.late with
    | none => b c.u.looks = []
    | some p => ∃ k, b c.u.looks = [k] ∧ p k := by rw [hul]; exact hr8
  have hpcE : c.next = u.pc + BitVec.ofNat 64 j.hdr.len := by
    have : c.u.pc = u.pc := by rw [hcu]; cases e <;> rfl
    have hlen : c.len = j.hdr.len := by rw [← hc]; rfl
    unfold Ctx.next; rw [this, hlen]
  have hexE : c.u.exec = u.exec := by rw [hcu]; exact exec_entry e
  have hse : strokeEnds c j f = r.ends := by
    have hcnt : c.u.count = u.count := by rw [hcu]; cases e <;> rfl
    rw [hr7]
    unfold strokeEnds
    rw [hcnt, hwait]
    simp
  have hwarps : ∀ F' : Warp, ∀ g', g' ≠ g → (S.setWarp g F').warp? g' = s1.warp? g' := by
    intro F' g' hg'
    rw [warp_setWarp_other S F' (Ne.symm hg'), hS]; rfl
  have hrest : ∀ F' : Warp, SameRest s1 (S.setWarp g F') := by intro F'; rw [hS]; rfl
  cases hs : strokeEnds c j f with
  | true =>
    refine ⟨stopWarp F sub .ready, { finUnit c j f (unitWith a b c.u) with st := .ready, count := 0, xsets := [] }, ?_⟩
    rw [if_pos rfl]
    exact {
      rest := by rw [hS]; rfl
      warps := hwarps _
      here := warp_setWarp S _ _
      unit := hstopu
      warp := hstop
      others := hothers2
      vec := hvreg
      sca := hsca'
      wgs := hwgs'
      group := hgrp
      groups := hgrps
      preds := hpreds
      fpsr := hfpsr
      wstat := hwstat
      exec := by rw [hr5, ← hexE]; rfl
      pc := by rw [hr6, ← hpcE]; rfl
      owned := by rw [hcu]; cases e <;> exact ⟨rfl, rfl, rfl⟩
      stroke := by
        rw [if_pos (hse ▸ hs)]
        exact ⟨rfl, rfl⟩
      looks := hlooks }
  | false =>
    refine ⟨F, finUnit c j f (unitWith a b c.u), ?_⟩
    rw [if_neg (by simp)]
    exact {
      rest := hrest F
      warps := hwarps _
      here := warp_setWarp S _ _
      unit := huF
      warp := hsame
      others := hothers
      vec := hvreg
      sca := hsca'
      wgs := hwgs'
      group := hgrp
      groups := hgrps
      preds := hpreds
      fpsr := hfpsr
      wstat := hwstat
      exec := by rw [hr5, ← hexE]; rfl
      pc := by rw [hr6, ← hpcE]; rfl
      owned := by rw [hcu]; cases e <;> exact ⟨rfl, rfl, rfl⟩
      stroke := by
        rw [if_neg (by rw [← hse, hs]; simp)]
        refine ⟨?_, by rw [hS]; exact rfl⟩
        show c.u.st = .issuing
        rw [hcu]
        cases e <;> exact h.issuing
      looks := hlooks }

/-- What an effect whose results are written at once gives, as a result; `P` are the predicate depths it leaves. -/
def resFin (w : Warp) (u : WUnit) (j : Job) (f : Fin) (P : List W32) : Res :=
  { act := guardMask w u.exec j.hdr.grd, uses := j.hdr.uses, dests := j.dests, reads := j.reads, vec := fun n => (resultOf f.vw n).map Lanes.at,
    sca := scaOf f.sw, wgs := wgsOf f.sw, flags := f.flags, preds := fun k => P.getD k 0, exec := f.exec.getD u.exec,
    pc := f.pc.getD (u.pc + BitVec.ofNat 64 j.hdr.len), ends := f.ends.isSome || j.hdr.s || decide (24 ≤ u.count + 1), late := none }

/-- Everything that holds after an instruction whose results are written at once, whose effects outside its warp make `s1` of the state. -/
theorem after_go {s s1 : State} {g sub : Nat} {w : Warp} {u : WUnit} (h : AtIssue s g sub w u) (hq : Quiet s g w)
    (hw1 : s1.warp? g = some w) (hq1 : Quiet s1 g w) (hf1 : s1.focus = some (g, sub)) {j : Job} {f : Fin} {P : List W32}
    (hdec : j.decode (decodeCtx s g sub w u j) = none) (hex : (issueCtx s g sub w u j).execute j = (issueCtx s g sub w u j).finish j f)
    (hsh : Shown f)
    (hfs : f.s = s1.setWarp g { entryWarp w sub (entersAt u (j.hdr.e || j.entry)) with preds := P })
    (hat : atOnce j f) (hwait : f.wait = none) (hpost : ∀ s, f.post s = s)
    (hnd : (f.vw.map (·.1)).Nodup) (hlanes : f.vw = [] ∨ f.lanes = guardMask w u.exec j.hdr.grd) :
    ∃ w' u', After s1 (s.issue j) g sub w w' u u' (resFin w u j f P) := by
  have hlk : ∀ x ∈ ({ entryWarp w sub (entersAt u (j.hdr.e || j.entry)) with preds := P } : Warp).units, x.sub = (issueCtx s g sub w u j).sub → x.looks = [] := by
    intro x hx hxs
    change x ∈ (entryWarp w sub (entersAt u (j.hdr.e || j.entry))).units at hx
    change x.sub = sub at hxs
    cases he : (entersAt u (j.hdr.e || j.entry)) with
    | false => rw [he] at hx; exact h.clear x hx hxs
    | true =>
      rw [he] at hx
      obtain ⟨y, hy, hyx⟩ := List.mem_map.mp hx
      by_cases hys : y.sub = sub
      · rw [if_pos hys] at hyx
        rw [← hyx]
        exact h.clear y hy hys
      · rw [if_neg hys] at hyx
        rw [← hyx] at hxs
        exact absurd hxs hys
  have hwg2 : ({ entryWarp w sub (entersAt u (j.hdr.e || j.entry)) with preds := P } : Warp).wg = w.wg := by
    cases (entersAt u (j.hdr.e || j.entry)) <;> rfl
  refine after_core (S := { s1 with groups := finGroups s1.groups w.wg f.sw })
    (W := finRegs { entryWarp w sub (entersAt u (j.hdr.e || j.entry)) with preds := P } sub f) (P := P)
    (a := finWregs f.sw) (b := id) h hq hw1 hq1 hf1 hdec hex hsh ?_ ⟨_, s1.handles, rfl⟩ ?_ hwait hpost ?_ ?_ ?_ ?_ ?_ rfl rfl (fun _ _ => rfl) rfl rfl rfl rfl
  · have := writeFin_short (c := issueCtx s g sub w u j) (s0 := s1) hat hlk
    rw [hfs]
    rw [hwg2] at this
    exact this
  · obtain ⟨names, pending, newList, mops, sregs, hh⟩ := finRegs_same { entryWarp w sub (entersAt u (j.hdr.e || j.entry)) with preds := P } sub f
    refine ⟨names, pending, newList, mops, sregs, hh.trans ?_⟩
    cases (entersAt u (j.hdr.e || j.entry)) <;> rfl
  · intro n l hl32
    rw [vreg_finRegs _ sub f hnd n hl32]
    have hv : ({ entryWarp w sub (entersAt u (j.hdr.e || j.entry)) with preds := P } : Warp).vreg n = w.vreg n := vreg_entry w sub _ n
    rw [hv]
    unfold resFin
    dsimp only
    cases hr : resultOf f.vw n with
    | none =>
      have : (n ∈ freed j f) ↔ (n ∈ j.hdr.uses ∧ n ∉ j.dests) := by rw [mem_freed, hr]; simp
      dsimp only [Option.map]
      by_cases hx : n ∈ j.hdr.uses ∧ n ∉ j.dests ∧ s1.divergent g = false
      · rw [if_pos hx, if_pos ⟨this.mpr ⟨hx.1, hx.2.1⟩, hx.2.2⟩]
      · rw [if_neg hx, if_neg (fun hh => hx ⟨(this.mp hh.1).1, (this.mp hh.1).2, hh.2⟩)]
    | some v =>
      have : n ∉ freed j f := by rw [mem_freed, hr]; simp
      rw [if_neg (fun hh => this hh.1)]
      dsimp only [Option.map]
      rcases hlanes with hv | hv
      · rw [hv] at hr; cases hr
      · rw [hv]
  · intro n
    rw [sreg_finRegs]
    have hv : ({ entryWarp w sub (entersAt u (j.hdr.e || j.entry)) with preds := P } : Warp).sreg n = w.sreg n := sreg_entry w sub _ n
    rw [hv]; rfl
  · intro n hn
    exact getD_finWregs f.sw u.wview hn
  · intro k hk
    refine ⟨finWregs f.sw k.wregs, ?_, fun n hn => getD_finWregs f.sw k.wregs hn⟩
    unfold State.group? at *
    rw [find_finGroups_same, hk]
    rfl
  · intro x hx
    unfold State.group? at *
    by_cases hxw : x = w.wg
    · subst hxw
      rcases hx with hx | hx
      · exact absurd rfl hx
      · rw [find_finGroups_same, hx]; rfl
    · exact find_finGroups_other f.sw s1.groups (Ne.symm hxw)

/-- Two results that agree in every part hold of the same states. -/
theorem After.congr {s t : State} {g sub : Nat} {w w' : Warp} {u u' : WUnit} {r r' : Res} (h : After s t g sub w w' u u' r)
    (h1 : r'.act = r.act) (h2 : r'.uses = r.uses) (h3 : r'.dests = r.dests) (h4 : r'.reads = r.reads)
    (h5 : ∀ n, (∀ l, l < 32 → inMask r.act l = true → ((r'.vec n).map (fun v => v l)) = ((r.vec n).map (fun v => v l))) ∧ ((r'.vec n).isSome = (r.vec n).isSome))
    (h6 : ∀ n, r'.sca n = r.sca n) (h7 : ∀ n, r'.wgs n = r.wgs n) (h8 : r'.flags = r.flags) (h9 : ∀ k, k < 8 → r'.preds k = r.preds k)
    (h10 : r'.exec = r.exec) (h11 : r'.pc = r.pc) (h12 : r'.ends = r.ends) (h13 : r'.late = r.late) : After s t g sub w w' u u' r' := by
  exact {
    rest := h.rest
    warps := h.warps
    here := h.here
    unit := h.unit
    warp := h.warp
    others := h.others
    vec := by
      intro n l hl
      rw [h.vec n l hl, h1, h2, h3]
      obtain ⟨ha, hb⟩ := h5 n
      cases hr : r.vec n with
      | none =>
        rw [hr] at hb
        have : r'.vec n = none := by simpa using hb
        rw [this]
      | some v =>
        rw [hr] at hb
        obtain ⟨v', hv'⟩ := Option.isSome_iff_exists.mp hb
        rw [hv']
        dsimp only
        split
        · next hm =>
          have := ha l hl hm
          rw [hr, hv'] at this
          simpa using this.symm
        · rfl
    sca := fun n => by rw [h6]; exact h.sca n
    wgs := fun n hn => by rw [h7]; exact h.wgs n hn
    group := fun k hk => by
      obtain ⟨ws, hw, hx⟩ := h.group k hk
      exact ⟨ws, hw, fun n hn => by rw [h7]; exact hx n hn⟩
    groups := h.groups
    preds := fun k hk => by rw [h9 k hk]; exact h.preds k hk
    fpsr := by rw [h8]; exact h.fpsr
    wstat := by rw [h1, h4]; exact h.wstat
    exec := by rw [h10]; exact h.exec
    pc := by rw [h11]; exact h.pc
    owned := h.owned
    stroke := by rw [h12]; exact h.stroke
    looks := by rw [h13]; exact h.looks }

theorem scaOf_one (m : W32) (d : Dest) (x : W64) (n : Nat) : scaOf (if m = 0 then [] else [(d, x)]) n = if d = .s n ∧ m ≠ 0 then some x else none := by
  by_cases h : m = 0
  · rw [if_pos h, if_neg (fun hh => hh.2 h)]; rfl
  · rw [if_neg h, scaOf_cons]
    by_cases hd : d = .s n
    · rw [if_pos hd, if_pos ⟨hd, h⟩]; rfl
    · rw [if_neg hd, if_neg (fun hh => hd hh.1)]; rfl

theorem wgsOf_one (m : W32) (d : Dest) (x : W64) (n : Nat) : wgsOf (if m = 0 then [] else [(d, x)]) n = if d = .w n ∧ m ≠ 0 then some x else none := by
  by_cases h : m = 0
  · rw [if_pos h, if_neg (fun hh => hh.2 h)]; rfl
  · rw [if_neg h, wgsOf_cons]
    by_cases hd : d = .w n
    · rw [if_pos hd, if_pos ⟨hd, h⟩]; rfl
    · rw [if_neg hd, if_neg (fun hh => hd hh.1)]; rfl

/-- The result an instruction's properties give before its effect says more. -/
def resJob (w : Warp) (u : WUnit) (j : Job) : Res :=
  { act := guardMask w u.exec j.hdr.grd, uses := j.hdr.uses, dests := j.dests, reads := j.reads, vec := fun _ => none, sca := fun _ => none,
    wgs := fun _ => none, flags := 0, preds := w.pred, exec := u.exec, pc := u.pc + BitVec.ofNat 64 j.hdr.len,
    ends := j.hdr.s || decide (24 ≤ u.count + 1), late := none }

theorem issueCtx_act (s : State) (g sub : Nat) (w : Warp) (u : WUnit) (j : Job) : (issueCtx s g sub w u j).act = guardMask w u.exec j.hdr.grd := rfl

/-- An instruction that writes one destination and nothing else. -/
theorem after_put {s : State} {g sub : Nat} {w : Warp} {u : WUnit} {j : Job} {d : Operand} {v : Lanes} {flags : W32}
    (hc : CanIssue s g sub w u (resJob w u j) (j.hdr.e || j.entry) (d.run 1)) (hck : Passes j (decodeCtx s g sub w u j) (issueCtx s g sub w u j)) (hl : j.long = false)
    (hrun : j.run (issueCtx s g sub w u j) = .go ((issueCtx s g sub w u j).put d v flags)) :
    ∃ w' u', After s (s.issue j) g sub w w' u u' { (resJob w u j).one d v.at with flags := flags } := by
  generalize he : entersAt u (j.hdr.e || j.entry) = e
  have hP : ({ entryWarp w sub e with preds := w.preds } : Warp) = entryWarp w sub e := by cases e <;> rfl
  have hcs : (issueCtx s g sub w u j).s = s.setWarp g { entryWarp w sub e with preds := w.preds } := by rw [hP, ← he]; rfl
  have hfs : ((issueCtx s g sub w u j).put d v flags).s = s.setWarp g { entryWarp w sub e with preds := w.preds } := by
    rw [← hcs]; unfold Ctx.put; cases d <;> rfl
  have hvw : ((issueCtx s g sub w u j).put d v flags).vw.map (·.1) = d.run 1 := by
    unfold Ctx.put Operand.run; cases d <;> rfl
  have hlanes : ((issueCtx s g sub w u j).put d v flags).vw = [] ∨ ((issueCtx s g sub w u j).put d v flags).lanes = (issueCtx s g sub w u j).act := by
    unfold Ctx.put
    cases d <;> simp [Fin.nil]
  have hroom := hc.room
  have hex : (issueCtx s g sub w u j).execute j = (issueCtx s g sub w u j).finish j ((issueCtx s g sub w u j).put d v flags) := by
    refine execute_go hck.uniform ?_ hck.late hrun ?_
    · rcases hc.reads with h | h
      · left; exact h
      · right
        rcases h with h | h
        · left
          show (entryWarp w sub _).wstat &&& wsUnmapTrap = 0
          have : ∀ b, (entryWarp w sub b).wstat = w.wstat := by intro b; cases b <;> rfl
          rw [this]; exact h
        · right
          intro n hn
          show (entryWarp w sub _).mapped n = true
          rw [mapped_entry]; exact h n hn
    · rw [hvw]
      rcases hlanes with hv | hv
      · rw [hv] at hvw
        rw [← hvw]
        right; left; rfl
      · rcases hroom with h | h | h
        · left; rw [hv]; exact h
        · right; left; exact h
        · right; right; exact h
  rw [he] at hroom
  obtain ⟨w', u', ha⟩ := after_go hc.now hc.quiet hc.now.warp hc.quiet hc.now.focus (P := w.preds) hck.decode hex (by unfold Ctx.put; cases d <;> exact ⟨rfl, rfl, rfl⟩) (by rw [he]; exact hfs)
    (Or.inl ⟨hl, by unfold Ctx.put; cases d <;> rfl⟩) (by unfold Ctx.put; cases d <;> rfl) (by unfold Ctx.put; cases d <;> exact fun _ => rfl)
    (by rw [hvw]; unfold Operand.run; cases d <;> simp) hlanes
  refine ⟨w', u', ha.congr ?_ ?_ ?_ ?_ ?_ ?_ ?_ ?_ ?_ ?_ ?_ ?_ ?_⟩
  · unfold Res.one; cases d <;> rfl
  · unfold Res.one; cases d <;> rfl
  · unfold Res.one; cases d <;> rfl
  · unfold Res.one; cases d <;> rfl
  · intro n
    unfold Res.one Ctx.put resFin resultOf
    cases d <;> simp [Fin.nil, AMap.find?, resJob]
    next k =>
      by_cases hk : k.toNat = n
      · simp [hk]
      · simp [hk, Ne.symm hk]
  · intro n
    cases d with
    | s k =>
      show _ = scaOf (if guardMask w u.exec j.hdr.grd = 0 then [] else _) n
      rw [scaOf_one]
      by_cases hk : n = k.toNat
      · subst hk; simp [Res.one, resJob, issueCtx_act]
      · have : ¬ (Dest.s k.toNat = Dest.s n) := fun hh => hk (by injection hh with hh; exact hh.symm)
        simp [Res.one, resJob, hk, this]
    | w k =>
      show _ = scaOf (if guardMask w u.exec j.hdr.grd = 0 then [] else _) n
      rw [scaOf_one]
      simp [Res.one, resJob]
    | _ => rfl
  · intro n
    cases d with
    | w k =>
      show _ = wgsOf (if guardMask w u.exec j.hdr.grd = 0 then [] else _) n
      rw [wgsOf_one]
      by_cases hk : n = k.toNat
      · subst hk; simp [Res.one, resJob, issueCtx_act]
      · have : ¬ (Dest.w k.toNat = Dest.w n) := fun hh => hk (by injection hh with hh; exact hh.symm)
        simp [Res.one, resJob, hk, this]
    | s k =>
      show _ = wgsOf (if guardMask w u.exec j.hdr.grd = 0 then [] else _) n
      rw [wgsOf_one]
      simp [Res.one, resJob]
    | _ => rfl
  · unfold Ctx.put resFin; cases d <;> rfl
  · intro k _; unfold Res.one resFin; cases d <;> rfl
  · unfold Res.one Ctx.put resFin; cases d <;> rfl
  · unfold Res.one Ctx.put resFin; cases d <;> rfl
  · unfold Res.one Ctx.put resFin; cases d <;> rfl
  · unfold Res.one resFin; cases d <;> rfl

end Sys2Proof.Machine
end

