-- ==== Sys2Proof/Laws/Lanes.lean ====
section
/-! SUPPORT. What holds after each shape of instruction that computes lane by lane (`after_lane`, `after_fp`), that pushes or rewrites predicates
(`after_preds`), or that only moves control or EXEC (`after_plain`). -/

namespace Sys2Proof.Machine

variable {s : State} {g sub : Nat} {w : Warp} {u : WUnit}

/-! ## Operands at issue -/

theorem pends_none (h : u.looks = []) (d : Dest) : u.pends d = false := by simp [WUnit.pends, h]

theorem at_constLanes (v : W64) {l : Nat} (h : l < 32) : (constLanes v).at l = v := at_tab _ h

theorem ctx_vreg (h : AtIssue s g sub w u) (j : Job) (n : Nat) : (issueCtx s g sub w u j).vreg n = w.vreg n := by
  unfold Ctx.vreg
  have hl : (issueCtx s g sub w u j).u.looks = [] := (looks_entry _).trans (atIssue_looks h)
  rw [pends_none hl]
  exact vreg_entry w sub _ n

theorem ctx_sreg (h : AtIssue s g sub w u) (j : Job) (n : Nat) : (issueCtx s g sub w u j).sreg n = w.sreg n := by
  unfold Ctx.sreg
  have hl : (issueCtx s g sub w u j).u.looks = [] := (looks_entry _).trans (atIssue_looks h)
  rw [pends_none hl]
  exact sreg_entry w sub _ n

theorem ctx_wreg (h : AtIssue s g sub w u) (j : Job) (n : Nat) : (issueCtx s g sub w u j).wreg n = u.wreg n := by
  unfold Ctx.wreg
  have hl : (issueCtx s g sub w u j).u.looks = [] := (looks_entry _).trans (atIssue_looks h)
  rw [pends_none hl]
  exact wreg_entry w u _ n

/-- A source operand, lane by lane. -/
theorem at_src (h : AtIssue s g sub w u) (j : Job) (lit : Option W64) (o : Operand) {l : Nat} (hl : l < 32) :
    ((issueCtx s g sub w u j).src lit o).at l = opVal w u lit l o := by
  cases o with
  | v n => show ((issueCtx s g sub w u j).vreg n.toNat).at l = _; rw [ctx_vreg h]; rfl
  | s n => show (constLanes ((issueCtx s g sub w u j).sreg n.toNat)).at l = _; rw [ctx_sreg h, at_constLanes _ hl]; rfl
  | w n => show (constLanes ((issueCtx s g sub w u j).wreg n.toNat)).at l = _; rw [ctx_wreg h, at_constLanes _ hl]; rfl
  | imm n => exact at_constLanes _ hl
  | lit => exact at_constLanes _ hl
  | x r => exact at_constLanes _ hl
  | none => exact at_constLanes _ hl

/-- A source operand of a floating operation, lane by lane. -/
theorem at_fsrc (h : AtIssue s g sub w u) (j : Job) (code : Nat) (lit : Option W64) (o : Operand) {l : Nat} (hl : l < 32) :
    ((issueCtx s g sub w u j).fsrc code lit o).at l = opFval code w u lit l o := by
  cases o with
  | imm n => exact at_constLanes _ hl
  | v n => exact at_src h j lit (.v n) hl
  | s n => exact at_src h j lit (.s n) hl
  | w n => exact at_src h j lit (.w n) hl
  | lit => exact at_src h j lit .lit hl
  | x r => exact at_src h j lit (.x r) hl
  | none => exact at_src h j lit .none hl

/-- A scalar operand. -/
theorem ctx_scalar (h : AtIssue s g sub w u) (j : Job) (lit : Option W64) (o : Operand) : (issueCtx s g sub w u j).scalar lit o = opVal w u lit 0 o := by
  cases o with
  | v n => show ((issueCtx s g sub w u j).vreg n.toNat).at 0 = _; rw [ctx_vreg h]; rfl
  | s n => exact ctx_sreg h j n.toNat
  | w n => exact ctx_wreg h j n.toNat
  | _ => rfl

theorem ctx_pred (j : Job) (k : Nat) : (issueCtx s g sub w u j).w.pred k = w.pred k := pred_entry w sub _ k
theorem ctx_exec (j : Job) : (issueCtx s g sub w u j).u.exec = u.exec := exec_entry _
theorem ctx_owned (j : Job) : (issueCtx s g sub w u j).u.owned = u.owned := by
  show (entryUnit w u _).owned = u.owned
  cases (entersAt u (j.hdr.e || j.entry)) <;> rfl
theorem ctx_pc (j : Job) : (issueCtx s g sub w u j).u.pc = u.pc := by
  show (entryUnit w u _).pc = u.pc
  cases (entersAt u (j.hdr.e || j.entry)) <;> rfl
theorem ctx_fpcr (j : Job) : (issueCtx s g sub w u j).w.fpcr = w.fpcr := by
  show (entryWarp w sub _).fpcr = w.fpcr
  cases (entersAt u (j.hdr.e || j.entry)) <;> rfl
theorem ctx_next (j : Job) : (issueCtx s g sub w u j).next = u.pc + BitVec.ofNat 64 j.hdr.len := by
  unfold Ctx.next; rw [ctx_pc]; rfl

theorem lowLane_lt (m : W32) : (lowLane m).getD 0 < 32 := by
  unfold lowLane
  cases h : laneIds.find? (inMask m) with
  | none => simp
  | some l =>
    have := List.mem_of_find?_eq_some h
    simpa [laneIds] using this

theorem mem_lanes {m : W32} {l : Nat} (h : l ∈ lanesOf m) : l < 32 := by
  have := (List.mem_filter.mp h).1
  simpa [laneIds] using this

theorem foldl_flags_congr (xs : List Nat) (f f' : Nat → W32) (h : ∀ l ∈ xs, f l = f' l) (m : W32) :
    xs.foldl (fun m l => m ||| f l) m = xs.foldl (fun m l => m ||| f' l) m := by
  induction xs generalizing m with
  | nil => rfl
  | cons x xs ih =>
    rw [List.foldl_cons, List.foldl_cons, h x (by simp)]
    exact ih (fun l hl => h l (by simp [hl])) _

/-- The result of one destination, where two value functions agree on the lanes. -/
theorem After.one_congr {t : State} {w' : Warp} {u' : WUnit} {r : Res} {d : Operand} {v v' : Nat → W64} {fl fl' : W32}
    (h : After s t g sub w w' u u' { r.one d v with flags := fl }) (hv : ∀ l, l < 32 → v l = v' l) (hf : fl = fl') :
    After s t g sub w w' u u' { r.one d v' with flags := fl' } := by
  subst hf
  have hlow := hv _ (lowLane_lt r.act)
  refine h.congr ?_ ?_ ?_ ?_ ?_ ?_ ?_ rfl ?_ ?_ ?_ ?_ ?_
  · cases d <;> rfl
  · cases d <;> rfl
  · cases d <;> rfl
  · cases d <;> rfl
  · intro n
    cases d with
    | v k =>
      by_cases hk : n = k.toNat
      · refine ⟨fun l hl _ => ?_, ?_⟩
        · simp [Res.one, hk, hv l hl]
        · simp [Res.one, hk]
      · refine ⟨fun l hl _ => ?_, ?_⟩
        · simp [Res.one, hk]
        · simp [Res.one, hk]
    | _ => exact ⟨fun _ _ _ => rfl, rfl⟩
  · intro n
    cases d with
    | s k => simp [Res.one, hlow]
    | _ => rfl
  · intro n
    cases d with
    | w k => simp [Res.one, hlow]
    | _ => rfl
  · intro k _; cases d <;> rfl
  · cases d <;> rfl
  · cases d <;> rfl
  · cases d <;> rfl
  · cases d <;> rfl

/-- A result that sets no flag. -/
theorem one_noflags {r : Res} (h : r.flags = 0) (d : Operand) (v : Nat → W64) : { r.one d v with flags := 0 } = r.one d v := by
  cases r; dsimp only at h; subst h; cases d <;> rfl

theorem laneFlags_zero (m : W32) : laneFlags m (fun _ => 0) = 0 := by
  unfold laneFlags
  induction lanesOf m with
  | nil => rfl
  | cons x xs ih => simp

/-! ## Shapes -/

theorem resJob_jobOf (x : Op) (len : Nat) (run : Ctx → Run) : resJob w u (jobOf x len run) = Res.plain w u x len := rfl

/-- The `l`-th of a list made lane by lane. -/
theorem at_lane {α : Type} (f : Nat → α) (p : α → W64) {l : Nat} (hl : l < 32) : Lanes.at ((laneIds.map f).map p) l = p (f l) := by
  rw [List.map_map]; exact at_tab _ hl

theorem getD_lane {α : Type} (f : Nat → α) (d : α) {l : Nat} (hl : l < 32) : (laneIds.map f).getD l d = f l := by
  unfold laneIds
  rw [List.getD_eq_getElem?_getD, List.getElem?_map, List.getElem?_range hl]; rfl

theorem entry_jobOf (x : Op) (len : Nat) (run : Ctx → Run) : ((jobOf x len run).hdr.e || (jobOf x len run).entry) = x.e := Bool.or_false _

/-- An instruction of one register each that writes one destination, whose lanes and flags are known. -/
theorem after_one {x : Op} {len : Nat} {run : Ctx → Run} {v : Lanes} {fl : W32} {val : Nat → W64} {flags : W32}
    (hc : CanIssue s g sub w u (Res.plain w u x len) x.e (x.d.run 1))
    (hrun : run (issueCtx s g sub w u (jobOf x len run)) = .go ((issueCtx s g sub w u (jobOf x len run)).put x.d v fl))
    (hv : ∀ l, l < 32 → v.at l = val l) (hf : fl = flags) :
    ∃ w' u', After s (s.issue (jobOf x len run)) g sub w w' u u' { (Res.plain w u x len).one x.d val with flags := flags } := by
  obtain ⟨w', u', h⟩ := after_put (j := jobOf x len run) (by rw [entry_jobOf]; exact hc) ⟨rfl, rfl, rfl⟩ rfl hrun
  exact ⟨w', u', h.one_congr hv hf⟩

theorem orFlags_eq (j : Job) (f f' : Nat → W32) (h : ∀ l, l < 32 → f l = f' l) :
    orFlags (issueCtx s g sub w u j) f = laneFlags (guardMask w u.exec j.hdr.grd) f' :=
  foldl_flags_congr _ f f' (fun l hl => h l (mem_lanes hl)) 0

/-- An instruction that computes each lane of its destination from raw sources (R218). -/
theorem after_lane {x : Op} {len : Nat} {f : W64 → W64 → W64 → W64 × W32} (hc : CanIssue s g sub w u (Res.plain w u x len) x.e (x.d.run 1)) :
    ∃ w' u', After s (s.issue (laneJob x len f)) g sub w w' u u'
      { (Res.plain w u x len).one x.d (fun l => (f (opVal w u x.lit l x.a) (opVal w u x.lit l x.b) (opVal w u x.lit l x.c)).1) with
        flags := laneFlags (guardMask w u.exec x.grd) (fun l => (f (opVal w u x.lit l x.a) (opVal w u x.lit l x.b) (opVal w u x.lit l x.c)).2) } := by
  refine after_one hc rfl ?_ ?_
  · intro l hl
    rw [at_lane _ _ hl, at_src hc.now _ _ _ hl, at_src hc.now _ _ _ hl, at_src hc.now _ _ _ hl]
  · refine orFlags_eq _ _ _ ?_
    intro l hl
    rw [getD_lane _ _ hl, at_src hc.now _ _ _ hl, at_src hc.now _ _ _ hl, at_src hc.now _ _ _ hl]

/-- An instruction that computes each lane of its destination from floating sources (R228 to R234). -/
theorem after_fp {code : Nat} {x : Op} {len : Nat} {f : Rnd → Bool → Nat → Nat → Nat → Nat × W32}
    (hc : CanIssue s g sub w u (Res.plain w u x len) x.e (x.d.run 1)) :
    ∃ w' u', After s (s.issue (fpJob code x len f)) g sub w w' u u'
      { (Res.plain w u x len).one x.d (fun l => BitVec.ofNat 64 (f (Rnd.select x.mod.toNat w.fpcr) (bffz w.fpcr)
          (fpSrc code w u x 0 x.a l) (fpSrc code w u x 1 x.b l) (fpSrc code w u x 2 x.c l)).1) with
        flags := laneFlags (guardMask w u.exec x.grd) (fun l => (f (Rnd.select x.mod.toNat w.fpcr) (bffz w.fpcr)
          (fpSrc code w u x 0 x.a l) (fpSrc code w u x 1 x.b l) (fpSrc code w u x 2 x.c l)).2) } := by
  refine after_one hc rfl ?_ ?_
  · intro l hl
    rw [at_lane _ _ hl, at_fsrc hc.now _ _ _ _ hl, at_fsrc hc.now _ _ _ _ hl, at_fsrc hc.now _ _ _ _ hl, ctx_fpcr]
    rfl
  · refine orFlags_eq _ _ _ ?_
    intro l hl
    rw [getD_lane _ _ hl, at_fsrc hc.now _ _ _ _ hl, at_fsrc hc.now _ _ _ _ hl, at_fsrc hc.now _ _ _ _ hl, ctx_fpcr]
    rfl

/-- An instruction that writes no vector register, and whose effect is scalars, flags, predicates, EXEC and the PC. -/
theorem after_plain {s1 : State} {j : Job} {f : Fin} {P : List W32} (hc : AtIssue s g sub w u) (hq : Quiet s g w)
    (hw1 : s1.warp? g = some w) (hq1 : Quiet s1 g w) (hf1 : s1.focus = some (g, sub))
    (hr : guardMask w u.exec j.hdr.grd = 0 ∨ ReadsOk w j.reads) (hck : Passes j (decodeCtx s g sub w u j) (issueCtx s g sub w u j))
    (hrun : j.run (issueCtx s g sub w u j) = .go f) (hsh : Shown f) (hat : atOnce j f)
    (hfs : f.s = s1.setWarp g { entryWarp w sub (entersAt u (j.hdr.e || j.entry)) with preds := P })
    (hvw : f.vw = []) (hwait : f.wait = none) (hpost : ∀ s, f.post s = s) :
    ∃ w' u', After s1 (s.issue j) g sub w w' u u'
      { resJob w u j with sca := scaOf f.sw, wgs := wgsOf f.sw, flags := f.flags, preds := fun k => P.getD k 0, exec := f.exec.getD u.exec,
                          pc := f.pc.getD (u.pc + BitVec.ofNat 64 j.hdr.len), ends := f.ends.isSome || j.hdr.s || decide (24 ≤ u.count + 1) } := by
  have hex : (issueCtx s g sub w u j).execute j = (issueCtx s g sub w u j).finish j f := by
    refine execute_go hck.uniform ?_ hck.late hrun ?_
    · rcases hr with h | h
      · left; exact h
      · right
        rcases h with h | h
        · left
          show (entryWarp w sub _).wstat &&& wsUnmapTrap = 0
          have : ∀ b, (entryWarp w sub b).wstat = w.wstat := by intro b; cases b <;> rfl
          rw [this]; exact h
        · right
          intro n hn
          show (entryWarp w sub _).mapped n = true
          rw [mapped_entry]; exact h n hn
    · right; left; rw [hvw]; rfl
  obtain ⟨w', u', ha⟩ := after_go hc hq hw1 hq1 hf1 hck.decode hex hsh hfs hat hwait hpost (by rw [hvw]; exact List.nodup_nil) (Or.inl hvw)
  refine ⟨w', u', ha.congr rfl rfl rfl rfl ?_ (fun _ => rfl) (fun _ => rfl) rfl (fun _ _ => rfl) rfl rfl rfl rfl⟩
  intro n
  unfold resFin resultOf
  rw [hvw]
  exact ⟨fun _ _ _ => rfl, rfl⟩

/-- The state an instruction sees is the state with its warp at the region entry. -/
theorem ctx_state (j : Job) : (issueCtx s g sub w u j).s = s.setWarp g { entryWarp w sub (entersAt u (j.hdr.e || j.entry)) with preds := w.preds } := by
  have : ∀ b, ({ entryWarp w sub b with preds := w.preds } : Warp) = entryWarp w sub b := by intro b; cases b <;> rfl
  rw [this]; rfl

/-- The state after a rewrite of the warp's predicates. -/
theorem ctx_mapPreds (j : Job) (m : W32) (f : Nat → W32) :
    (issueCtx s g sub w u j).s.modWarp g (fun w => w.mapPreds m f) = s.setWarp g { entryWarp w sub (entersAt u (j.hdr.e || j.entry)) with
      preds := (List.range 8).map (fun k => (f k &&& m) ||| (w.pred k &&& ~~~m)) } := by
  show (s.setWarp g _).modWarp g _ = _
  rw [modWarp_of (warp_setWarp s g _), setWarp_setWarp]
  unfold Warp.mapPreds
  simp only [pred_entry]

/-- The state after a push. -/
theorem ctx_push (j : Job) (m bit : W32) :
    (issueCtx s g sub w u j).s.modWarp g (fun w => w.push m bit) = s.setWarp g { entryWarp w sub (entersAt u (j.hdr.e || j.entry)) with
      preds := (List.range 8).map (fun k => ((if k = 0 then bit else w.pred (k - 1)) &&& m) ||| (w.pred k &&& ~~~m)) } := by
  show (s.setWarp g _).modWarp g _ = _
  rw [modWarp_of (warp_setWarp s g _), setWarp_setWarp]
  unfold Warp.push Warp.mapPreds
  simp only [pred_entry]

theorem maskOf_congr (f f' : Nat → Bool) (h : ∀ l, l < 32 → f l = f' l) : maskOf f = maskOf f' := by
  unfold maskOf
  congr 2
  apply List.map_congr_left
  intro l hl
  rw [h l (by simpa [laneIds] using hl)]

theorem getD_range8 (f : Nat → W32) {k : Nat} (h : k < 8) : ((List.range 8).map f).getD k 0 = f k := by
  rw [List.getD_eq_getElem?_getD, List.getElem?_map, List.getElem?_range h]; rfl

end Sys2Proof.Machine
end

