-- ==== Sys2Proof/Laws/Late.lean ====
section
/-! SUPPORT. What holds after a long-latency instruction (R24): its results are outstanding, and everything else is as after any other
(`after_late`). -/

namespace Sys2Proof.Machine

variable {s : State} {g sub : Nat} {w : Warp} {u : WUnit}

/-- What a long-latency instruction leaves outstanding. -/
def lateLook (h : Nat) (j : Job) (f : Fin) : Look :=
  { id := 2 * h, left := j.hdr.la, lanes := f.lanes,
    dests := (if f.lanes = 0 then [] else f.vw.map (fun p => (Dest.v p.1, p.2))) ++ f.sw.map (fun p => (p.1, [p.2])), ready := true, wover := [], flags := f.flags }

theorem writeFin_late {c : Ctx} {j : Job} {f : Fin} {s0 : State} {w2 : Warp} (hl : j.long = true) (hla : f.later = none)
    (hu : ∀ u ∈ w2.units, u.sub = c.sub → u.looks = []) (hr : ¬ noResult f) :
    (s0.setWarp c.g w2).writeFin c j f = ({ s0 with handles := s0.handles + 1 }).setWarp c.g
      { claimed w2 f with units := modUnitOf (claimed w2 f).units c.sub (unitWith id (fun ks => ks ++ [lateLook s0.handles j f])) } := by
  unfold State.writeFin
  simp only [State.modUnit, modWarp_of (warp_setWarp s0 c.g w2), setWarp_setWarp, age_units hu, hl, hla, Bool.true_or, if_true, writes_some hr,
    Bool.false_eq_true, if_false, Option.isNone_none, Option.getD_none]
  have hc := claim_setWarp s0 c.g w2 f
  rw [modWarp_of (warp_setWarp s0 c.g w2), setWarp_setWarp] at hc
  rw [hc]
  unfold State.newHandle
  dsimp only
  have hx : ({ s0.setWarp c.g (claimed w2 f) with handles := (s0.setWarp c.g (claimed w2 f)).handles + 1 } : State)
      = ({ s0 with handles := s0.handles + 1 } : State).setWarp c.g (claimed w2 f) := rfl
  rw [hx, modWarp_of (warp_setWarp _ c.g _), setWarp_setWarp]
  rfl

/-- What a long-latency effect gives, as a result. -/
def resLate (w : Warp) (u : WUnit) (j : Job) (f : Fin) (h : Nat) (P : List W32) : Res :=
  { act := guardMask w u.exec j.hdr.grd, uses := j.hdr.uses, dests := j.dests, reads := j.reads, vec := fun _ => none,
    sca := fun _ => none, wgs := fun _ => none, flags := 0, preds := fun k => P.getD k 0, exec := f.exec.getD u.exec,
    pc := f.pc.getD (u.pc + BitVec.ofNat 64 j.hdr.len), ends := f.ends.isSome || j.hdr.s || decide (24 ≤ u.count + 1),
    late := some (fun k => k = lateLook h j f) }

/-- Everything that holds after a long-latency instruction that has a result. -/
theorem after_late {s1 : State} (h : AtIssue s g sub w u) (hq : Quiet s g w)
    (hw1 : s1.warp? g = some w) (hq1 : Quiet s1 g w) (hf1 : s1.focus = some (g, sub)) {j : Job} {f : Fin} {P : List W32}
    (hdec : j.decode (decodeCtx s g sub w u j) = none) (hex : (issueCtx s g sub w u j).execute j = (issueCtx s g sub w u j).finish j f)
    (hsh : Shown f) (hfs : f.s = s1.setWarp g { entryWarp w sub (entersAt u (j.hdr.e || j.entry)) with preds := P })
    (hl : j.long = true) (hla : f.later = none) (hr : ¬ noResult f) (hwait : f.wait = none) (hpost : ∀ s, f.post s = s)
    (hd : ∀ p ∈ f.vw, p.1 ∈ j.dests) :
    ∃ w' u', After s1 (s.issue j) g sub w w' u u' (resLate w u j f s1.handles P) := by
  have hlk : ∀ x ∈ ({ entryWarp w sub (entersAt u (j.hdr.e || j.entry)) with preds := P } : Warp).units, x.sub = (issueCtx s g sub w u j).sub → x.looks = [] := by
    intro x hx hxs
    change x ∈ (entryWarp w sub (entersAt u (j.hdr.e || j.entry))).units at hx
    change x.sub = sub at hxs
    cases he : (entersAt u (j.hdr.e || j.entry)) with
    | false => rw [he] at hx; exact h.clear x hx hxs
    | true =>
      rw [he] at hx
      obtain ⟨y, hy, hyx⟩ := List.mem_map.mp hx
      by_cases hys : y.sub = sub
      · rw [if_pos hys] at hyx
        rw [← hyx]
        exact h.clear y hy hys
      · rw [if_neg hys] at hyx
        rw [← hyx] at hxs
        exact absurd hxs hys
  have hwf := writeFin_late (c := issueCtx s g sub w u j) (s0 := s1) hl hla hlk hr
  generalize hw2 : ({ entryWarp w sub (entersAt u (j.hdr.e || j.entry)) with preds := P } : Warp) = w2 at *
  have hal : SameButRegs w2 (claimed w2 f) := by
    unfold claimed
    split
    · rfl
    · exact same_foldl f.vw (fun (w : Warp) (p : Nat × Lanes) => w.claim p.1) (fun w x => same_claim w _) w2
  have hvr : ∀ n, (claimed w2 f).vreg n = w.vreg n := by
    intro n
    rw [vreg_claimed, ← hw2]
    exact vreg_entry w sub _ n
  generalize hA : claimed w2 f = A at *
  refine after_core (S := { s1 with handles := s1.handles + 1 })
    (W := { A with units := modUnitOf A.units sub (unitWith id (fun ks => ks ++ [lateLook s1.handles j f])) }) (P := P)
    (a := id) (b := fun ks => ks ++ [lateLook s1.handles j f]) h hq hw1 hq1 hf1 hdec hex hsh ?_ ⟨s1.groups, s1.handles + 1, rfl⟩ ?_ hwait hpost ?_ ?_ ?_ ?_ ?_
    rfl rfl (fun _ _ => rfl) rfl rfl rfl ⟨_, rfl, rfl⟩
  · rw [hfs]
    exact hwf
  · unfold SameButRegs at hal
    refine ⟨A.names, A.pending, A.newList, A.mops, A.sregs, ?_⟩
    rw [hal, ← hw2]
    cases entersAt u (j.hdr.e || j.entry) <;> simp [resLate, entryWarp, Warp.commit]
  · intro n l hl32
    have hv : ({ A with units := modUnitOf A.units sub (unitWith id (fun ks => ks ++ [lateLook s1.handles j f])) } : Warp).vreg n = w.vreg n := hvr n
    rw [hv]
    unfold resLate
    dsimp only
    have : (n ∈ freed j f) ↔ (n ∈ j.hdr.uses ∧ n ∉ j.dests) := by
      rw [mem_freed]
      refine ⟨fun hh => ⟨hh.1, hh.2.1⟩, fun hh => ⟨hh.1, hh.2, ?_⟩⟩
      rw [resultOf_none]
      rw [Bool.eq_false_iff]
      intro hh2
      obtain ⟨p, hp, hpn⟩ := List.any_eq_true.mp hh2
      have : p.1 = n := by simpa using hpn
      exact hh.2 (this ▸ hd p hp)
    by_cases hx : n ∈ j.hdr.uses ∧ n ∉ j.dests ∧ s1.divergent g = false
    · rw [if_pos hx, if_pos ⟨this.mpr ⟨hx.1, hx.2.1⟩, hx.2.2⟩]
    · rw [if_neg hx, if_neg (fun hh => hx ⟨(this.mp hh.1).1, (this.mp hh.1).2, hh.2⟩)]
  · intro n
    unfold SameButRegs at hal
    have hs : ({ A with units := modUnitOf A.units sub (unitWith id (fun ks => ks ++ [lateLook s1.handles j f])) } : Warp).sreg n = w.sreg n := by
      show A.sreg n = w.sreg n
      rw [hal]
      have hv : w2.sreg n = w.sreg n := by rw [← hw2]; exact sreg_entry w sub _ n
      exact hv
    rw [hs]; rfl
  · intro n _; rfl
  · intro k hk
    exact ⟨k.wregs, hk, fun _ _ => rfl⟩
  · intro x _; rfl

/-! ## Runs of destinations -/

theorem put_eq_putRun (c : Ctx) (d : Operand) (v : Lanes) (fl : W32) : c.put d v fl = c.putRun d [v] fl := by
  cases d <;> rfl

theorem names_putRun (c : Ctx) (d : Operand) (vs : List Lanes) (fl : W32) : (c.putRun d vs fl).vw.map (·.1) = d.run vs.length := by
  unfold Ctx.putRun Operand.run
  cases d with
  | v n => dsimp only; rw [List.map_map]; rfl
  | _ => rfl

theorem nodup_run (d : Operand) (n : Nat) : (d.run n).Nodup := by
  unfold Operand.run
  cases d with
  | v k => exact List.Nodup.map (fun a b h => by simpa using h) List.nodup_range
  | _ => exact List.nodup_nil

theorem lanes_putRun (c : Ctx) (d : Operand) (vs : List Lanes) (fl : W32) : (c.putRun d vs fl).vw = [] ∨ (c.putRun d vs fl).lanes = c.act := by
  unfold Ctx.putRun
  cases d with
  | v k => right; rfl
  | _ => left; rfl

theorem shown_putRun (c : Ctx) (d : Operand) (vs : List Lanes) (fl : W32) : Shown (c.putRun d vs fl) := by
  unfold Ctx.putRun; cases d <;> exact ⟨rfl, rfl, rfl⟩

theorem state_putRun (c : Ctx) (d : Operand) (vs : List Lanes) (fl : W32) : (c.putRun d vs fl).s = c.s := by
  unfold Ctx.putRun; cases d <;> rfl

theorem find_map_range {α : Type} (k : Nat) (f : Nat → α) (m : Nat) (n : Nat) :
    AMap.find? ((List.range m).map (fun i => (k + i, f i))) n = if k ≤ n ∧ n < k + m then some (f (n - k)) else none := by
  have gen : ∀ m a, AMap.find? ((List.range' a m).map (fun i => (k + i, f i))) n = if k + a ≤ n ∧ n < k + a + m then some (f (n - k)) else none := by
    intro m
    induction m with
    | zero => intro a; rw [if_neg (by omega)]; rfl
    | succ m ih =>
      intro a
      rw [List.range'_succ, List.map_cons]
      by_cases h : k + a = n
      · have hn : n - k = a := by omega
        simp only [AMap.find?, h, if_true]
        rw [if_pos (by omega), hn]
      · simp only [AMap.find?, h, if_false]
        rw [ih]
        by_cases h2 : k + (a + 1) ≤ n ∧ n < k + (a + 1) + m
        · rw [if_pos h2, if_pos (by omega)]
        · rw [if_neg h2, if_neg (by omega)]
  rw [List.range_eq_range', gen m 0]
  simp

/-- The checks of an instruction with one run of destinations pass. -/
theorem execute_run {j : Job} {d : Operand} {vs : List Lanes} {fl : W32} {f : Fin}
    (hc : CanIssue s g sub w u (resJob w u j) (j.hdr.e || j.entry) (d.run vs.length)) (hck : Passes j (decodeCtx s g sub w u j) (issueCtx s g sub w u j))
    (hrun : j.run (issueCtx s g sub w u j) = .go f) (hvw : f.vw = ((issueCtx s g sub w u j).putRun d vs fl).vw)
    (hla : f.lanes = ((issueCtx s g sub w u j).putRun d vs fl).lanes) :
    (issueCtx s g sub w u j).execute j = (issueCtx s g sub w u j).finish j f := by
  refine execute_go hck.uniform ?_ hck.late hrun ?_
  · rcases hc.reads with h | h
    · left; exact h
    · right
      rcases h with h | h
      · left
        show (entryWarp w sub _).wstat &&& wsUnmapTrap = 0
        have : ∀ b, (entryWarp w sub b).wstat = w.wstat := by intro b; cases b <;> rfl
        rw [this]; exact h
      · right
        intro n hn
        show (entryWarp w sub _).mapped n = true
        rw [mapped_entry]; exact h n hn
  · rw [hvw, hla, names_putRun]
    have hroom := hc.room
    rcases lanes_putRun (issueCtx s g sub w u j) d vs fl with hv | hv
    · have := names_putRun (issueCtx s g sub w u j) d vs fl
      rw [hv] at this
      rw [← this]
      right; left; rfl
    · rcases hroom with h | h | h
      · left; rw [hv]; exact h
      · right; left; exact h
      · right; right; exact h

theorem at_getD_run (vs : List Lanes) (i l : Nat) : (vs.getD i []).at l = ((vs[i]?).map (fun v => v.at l)).getD 0 := by
  rw [List.getD_eq_getElem?_getD]
  cases vs[i]? <;> simp [Lanes.at]

theorem scaOf_run (m : W32) (n low : Nat) (vs : List Lanes) (k : Nat) :
    scaOf (if m = 0 then [] else (List.range vs.length).map (fun i => (Dest.s (n + i), (vs.getD i []).at low))) k
      = if n ≤ k ∧ m ≠ 0 then (vs[k - n]?).map (fun v => v.at low) else none := by
  by_cases h : m = 0
  · rw [if_pos h, if_neg (fun hh => hh.2 h)]; rfl
  · rw [if_neg h]
    have gen : ∀ c a : Nat, scaOf ((List.range' a c).map (fun i => (Dest.s (n + i), (vs.getD i []).at low))) k
        = if n + a ≤ k ∧ k < n + a + c then some ((vs.getD (k - n) []).at low) else none := by
      intro c
      induction c with
      | zero => intro a; rw [if_neg (by omega)]; rfl
      | succ c ih =>
        intro a
        rw [List.range'_succ, List.map_cons, scaOf_cons, ih]
        by_cases hk : n + a = k
        · subst hk
          rw [if_neg (by omega), if_pos rfl, if_pos (by omega), Nat.add_sub_cancel_left]; rfl
        · have : ¬ (Dest.s (n + a) = Dest.s k) := fun hh => hk (by injection hh)
          rw [if_neg this, Option.or_none]
          by_cases h2 : n + (a + 1) ≤ k ∧ k < n + (a + 1) + c
          · rw [if_pos h2, if_pos (by omega)]
          · rw [if_neg h2, if_neg (by omega)]
    rw [List.range_eq_range', gen vs.length 0]
    by_cases hk : n ≤ k
    · rw [if_pos (show n ≤ k ∧ m ≠ 0 from ⟨hk, h⟩)]
      by_cases h3 : k < n + 0 + vs.length
      · rw [if_pos ⟨by omega, h3⟩]
        have hlt : k - n < vs.length := by omega
        rw [List.getD_eq_getElem?_getD, List.getElem?_eq_getElem hlt]; rfl
      · rw [if_neg (fun hh => h3 hh.2), List.getElem?_eq_none (by omega)]; rfl
    · rw [if_neg (fun hh => hk (by omega)), if_neg (fun hh => hk hh.1)]

theorem wgsOf_run (m : W32) (n low : Nat) (vs : List Lanes) (k : Nat) :
    wgsOf (if m = 0 then [] else (List.range vs.length).map (fun i => (Dest.w (n + i), (vs.getD i []).at low))) k
      = if n ≤ k ∧ m ≠ 0 then (vs[k - n]?).map (fun v => v.at low) else none := by
  by_cases h : m = 0
  · rw [if_pos h, if_neg (fun hh => hh.2 h)]; rfl
  · rw [if_neg h]
    have gen : ∀ c a : Nat, wgsOf ((List.range' a c).map (fun i => (Dest.w (n + i), (vs.getD i []).at low))) k
        = if n + a ≤ k ∧ k < n + a + c then some ((vs.getD (k - n) []).at low) else none := by
      intro c
      induction c with
      | zero => intro a; rw [if_neg (by omega)]; rfl
      | succ c ih =>
        intro a
        rw [List.range'_succ, List.map_cons, wgsOf_cons, ih]
        by_cases hk : n + a = k
        · subst hk
          rw [if_neg (by omega), if_pos rfl, if_pos (by omega), Nat.add_sub_cancel_left]; rfl
        · have : ¬ (Dest.w (n + a) = Dest.w k) := fun hh => hk (by injection hh)
          rw [if_neg this, Option.or_none]
          by_cases h2 : n + (a + 1) ≤ k ∧ k < n + (a + 1) + c
          · rw [if_pos h2, if_pos (by omega)]
          · rw [if_neg h2, if_neg (by omega)]
    rw [List.range_eq_range', gen vs.length 0]
    by_cases hk : n ≤ k
    · rw [if_pos (show n ≤ k ∧ m ≠ 0 from ⟨hk, h⟩)]
      by_cases h3 : k < n + 0 + vs.length
      · rw [if_pos ⟨by omega, h3⟩]
        have hlt : k - n < vs.length := by omega
        rw [List.getD_eq_getElem?_getD, List.getElem?_eq_getElem hlt]; rfl
      · rw [if_neg (fun hh => h3 hh.2), List.getElem?_eq_none (by omega)]; rfl
    · rw [if_neg (fun hh => hk (by omega)), if_neg (fun hh => hk hh.1)]

/-- An instruction that writes a run of consecutive destinations, and nothing else. -/
theorem after_run {j : Job} {d : Operand} {vs : List Lanes} {fl : W32}
    (hc : CanIssue s g sub w u (resJob w u j) (j.hdr.e || j.entry) (d.run vs.length)) (hck : Passes j (decodeCtx s g sub w u j) (issueCtx s g sub w u j))
    (hl : j.long = false) (hrun : j.run (issueCtx s g sub w u j) = .go ((issueCtx s g sub w u j).putRun d vs fl)) :
    ∃ w' u', After s (s.issue j) g sub w w' u u' { (resJob w u j).run d (vs.map Lanes.at) with flags := fl } := by
  have hex := execute_run hc hck hrun rfl rfl
  have hfs : ((issueCtx s g sub w u j).putRun d vs fl).s = s.setWarp g { entryWarp w sub (entersAt u (j.hdr.e || j.entry)) with preds := w.preds } := by
    rw [state_putRun]; exact ctx_state j
  obtain ⟨w', u', ha⟩ := after_go hc.now hc.quiet hc.now.warp hc.quiet hc.now.focus (P := w.preds) hck.decode hex (shown_putRun _ d vs fl) hfs
    (Or.inl ⟨hl, by unfold Ctx.putRun; cases d <;> rfl⟩) (by unfold Ctx.putRun; cases d <;> rfl) (by unfold Ctx.putRun; cases d <;> exact fun _ => rfl)
    (by rw [names_putRun]; exact nodup_run d _) (lanes_putRun _ d vs fl)
  refine ⟨w', u', ha.congr ?_ ?_ ?_ ?_ ?_ ?_ ?_ ?_ ?_ ?_ ?_ ?_ ?_⟩
  · unfold Res.run; cases d <;> rfl
  · unfold Res.run; cases d <;> rfl
  · unfold Res.run; cases d <;> rfl
  · unfold Res.run; cases d <;> rfl
  · intro n
    cases d with
    | v k =>
      have h1 : (resFin w u j ((issueCtx s g sub w u j).putRun (.v k) vs fl) w.preds).vec n
          = if k.toNat ≤ n ∧ n < k.toNat + vs.length then some (Lanes.at (vs.getD (n - k.toNat) [])) else none := by
        show (resultOf ((List.range vs.length).map (fun i => (k.toNat + i, vs.getD i []))) n).map Lanes.at = _
        unfold resultOf
        rw [find_map_range]
        split <;> rfl
      have h2 : (({ (resJob w u j).run (.v k) (vs.map Lanes.at) with flags := fl } : Res)).vec n
          = if k.toNat ≤ n ∧ n < k.toNat + vs.length then some (Lanes.at (vs.getD (n - k.toNat) [])) else none := by
        show (if k.toNat ≤ n then (vs.map Lanes.at)[n - k.toNat]? else none) = _
        by_cases hk : k.toNat ≤ n
        · rw [if_pos hk, List.getElem?_map]
          by_cases h3 : n < k.toNat + vs.length
          · rw [if_pos ⟨hk, h3⟩, List.getD_eq_getElem?_getD, List.getElem?_eq_getElem (show n - k.toNat < vs.length by omega)]; rfl
          · rw [if_neg (fun hh => h3 hh.2), List.getElem?_eq_none (by omega)]; rfl
        · rw [if_neg hk, if_neg (fun hh => hk hh.1)]
      rw [h1, h2]
      exact ⟨fun _ _ _ => rfl, rfl⟩
    | _ => exact ⟨fun _ _ _ => rfl, rfl⟩
  · intro n
    cases d with
    | s k =>
      show _ = scaOf (if guardMask w u.exec j.hdr.grd = 0 then [] else _) n
      rw [scaOf_run]
      unfold Res.run resJob
      dsimp only
      rw [List.getElem?_map, Option.map_map]
      rfl
    | w k =>
      show none = scaOf (if guardMask w u.exec j.hdr.grd = 0 then [] else _) n
      symm
      unfold scaOf
      split
      · rfl
      · generalize List.range vs.length = xs
        induction xs with
        | nil => rfl
        | cons x xs ih => rw [List.map_cons, List.foldl_cons]; exact ih
    | _ => rfl
  · intro n
    cases d with
    | w k =>
      show _ = wgsOf (if guardMask w u.exec j.hdr.grd = 0 then [] else _) n
      rw [wgsOf_run]
      unfold Res.run resJob
      dsimp only
      rw [List.getElem?_map, Option.map_map]
      rfl
    | s k =>
      show none = wgsOf (if guardMask w u.exec j.hdr.grd = 0 then [] else _) n
      symm
      unfold wgsOf
      split
      · rfl
      · generalize List.range vs.length = xs
        induction xs with
        | nil => rfl
        | cons x xs ih => rw [List.map_cons, List.foldl_cons]; exact ih
    | _ => rfl
  · unfold Ctx.putRun resFin; cases d <;> rfl
  · intro k _; unfold Res.run resFin; cases d <;> rfl
  · unfold Res.run Ctx.putRun resFin; cases d <;> rfl
  · unfold Res.run Ctx.putRun resFin; cases d <;> rfl
  · unfold Res.run Ctx.putRun resFin; cases d <;> rfl
  · unfold Res.run resFin; cases d <;> rfl

theorem zipIdx_run (mk : Nat → Dest) (n : Nat) (vs : List Lanes) :
    (List.range vs.length).map (fun i => mk (n + i)) = ((vs.map Lanes.at).zipIdx.map (fun p => (mk (n + p.2), p.1))).map (·.1) := by
  apply List.ext_getElem
  · simp
  · intro i h1 h2
    simp

theorem lateDests_v (h : Nat) (j : Job) (c : Ctx) (k : BitVec 11) (vs : List Lanes) (fl : W32) (h0 : ¬ c.act = 0) :
    (lateLook h j (c.putRun (.v k) vs fl)).dests = (List.range vs.length).map (fun i => (Dest.v (k.toNat + i), vs.getD i [])) := by
  unfold lateLook Ctx.putRun
  dsimp only
  rw [if_neg h0, List.map_map]
  simp [Fin.nil]

theorem lateDests_s (h : Nat) (j : Job) (c : Ctx) (k : BitVec 7) (vs : List Lanes) (fl : W32) (h0 : ¬ c.act = 0) :
    (lateLook h j (c.putRun (.s k) vs fl)).dests = (List.range vs.length).map (fun i => (Dest.s (k.toNat + i), [(vs.getD i []).at ((lowLane c.act).getD 0)])) := by
  unfold lateLook Ctx.putRun
  dsimp only
  rw [if_neg h0, List.map_map]
  simp [Fin.nil]

theorem lateDests_w (h : Nat) (j : Job) (c : Ctx) (k : BitVec 4) (vs : List Lanes) (fl : W32) (h0 : ¬ c.act = 0) :
    (lateLook h j (c.putRun (.w k) vs fl)).dests = (List.range vs.length).map (fun i => (Dest.w (k.toNat + i), [(vs.getD i []).at ((lowLane c.act).getD 0)])) := by
  unfold lateLook Ctx.putRun
  dsimp only
  rw [if_neg h0, List.map_map]
  simp [Fin.nil]

/-- With no active lane, a result in a destination is no result. -/
theorem After.novec {s1 t : State} {w' : Warp} {u' : WUnit} {r : Res} (h : After s1 t g sub w w' u u' r) (h0 : r.act = 0)
    (hd : ∀ n, (r.vec n).isSome = true → n ∈ r.dests) : After s1 t g sub w w' u u' { r with vec := fun _ => none } :=
  { rest := h.rest, warps := h.warps, here := h.here, unit := h.unit, warp := h.warp, others := h.others, sca := h.sca, wgs := h.wgs,
    group := h.group, groups := h.groups, preds := h.preds, fpsr := h.fpsr, wstat := h.wstat, exec := h.exec, pc := h.pc, owned := h.owned,
    stroke := h.stroke, looks := h.looks
    vec := by
      intro n l hl
      rw [h.vec n l hl]
      cases hv : r.vec n with
      | none => rfl
      | some v =>
        have hn := hd n (by rw [hv]; rfl)
        dsimp only
        rw [if_neg (by rw [h0]; simp [inMask]), if_neg (fun hh => hh.2.1 hn)] }

/-- A long-latency instruction whose results are a run of consecutive destinations. -/
theorem after_owed {j : Job} {d : Operand} {vs : List Lanes} {fl : W32}
    (hc : CanIssue s g sub w u (resJob w u j) (j.hdr.e || j.entry) (d.run vs.length)) (hck : Passes j (decodeCtx s g sub w u j) (issueCtx s g sub w u j))
    (hl : j.long = true) (hne : vs ≠ []) (hd : ∀ n ∈ d.run vs.length, n ∈ j.dests)
    (hrun : j.run (issueCtx s g sub w u j) = .go ((issueCtx s g sub w u j).putRun d vs fl)) :
    ∃ w' u', After s (s.issue j) g sub w w' u u' ((resJob w u j).owed j.hdr.la d (vs.map Lanes.at) fl) := by
  have hex := execute_run hc hck hrun rfl rfl
  have hfs : ((issueCtx s g sub w u j).putRun d vs fl).s = s.setWarp g { entryWarp w sub (entersAt u (j.hdr.e || j.entry)) with preds := w.preds } := by
    rw [state_putRun]; exact ctx_state j
  have hmem : ∀ p ∈ ((issueCtx s g sub w u j).putRun d vs fl).vw, p.1 ∈ j.dests := by
    intro p hp
    apply hd
    rw [← names_putRun (issueCtx s g sub w u j) d vs fl]
    exact List.mem_map_of_mem hp
  have hlen : 0 < vs.length := List.length_pos_iff.mpr hne
  have hrange : List.range vs.length ≠ [] := by intro hh; rw [List.range_eq_nil] at hh; omega
  by_cases hnr : noResult ((issueCtx s g sub w u j).putRun d vs fl)
  · -- no result: no active lane, or no destination
    obtain ⟨w', u', ha⟩ := after_go hc.now hc.quiet hc.now.warp hc.quiet hc.now.focus (P := w.preds) hck.decode hex (shown_putRun _ d vs fl) hfs
      (Or.inr hnr) (by unfold Ctx.putRun; cases d <;> rfl) (by unfold Ctx.putRun; cases d <;> exact fun _ => rfl)
      (by rw [names_putRun]; exact nodup_run d _) (lanes_putRun _ d vs fl)
    have how : (resJob w u j).owed j.hdr.la d (vs.map Lanes.at) fl = { resJob w u j with flags := fl } := by
      unfold Res.owed
      by_cases h0 : (resJob w u j).act = 0
      · rw [if_pos h0]
      · rw [if_neg h0]
        cases d with
        | v k =>
          exfalso
          rcases hnr.1 with hh | hh
          · exact h0 hh
          · exact hrange (List.map_eq_nil_iff.mp hh)
        | s k =>
          exfalso
          have := hnr.2
          change (if guardMask w u.exec j.hdr.grd = 0 then [] else _) = [] at this
          rw [if_neg (show ¬ guardMask w u.exec j.hdr.grd = 0 from h0)] at this
          exact hrange (List.map_eq_nil_iff.mp this)
        | w k =>
          exfalso
          have := hnr.2
          change (if guardMask w u.exec j.hdr.grd = 0 then [] else _) = [] at this
          rw [if_neg (show ¬ guardMask w u.exec j.hdr.grd = 0 from h0)] at this
          exact hrange (List.map_eq_nil_iff.mp this)
        | _ => rfl
    rw [how]
    have hvs : ∀ n, ((resFin w u j ((issueCtx s g sub w u j).putRun d vs fl) w.preds).vec n).isSome = true → n ∈ j.dests := by
      intro n hn
      unfold resFin at hn
      dsimp only at hn
      cases hr : resultOf ((issueCtx s g sub w u j).putRun d vs fl).vw n with
      | none => rw [hr] at hn; cases hn
      | some v =>
        by_contra hnd
        have : resultOf ((issueCtx s g sub w u j).putRun d vs fl).vw n = none := by
          rw [resultOf_none, Bool.eq_false_iff]
          intro hh2
          obtain ⟨p, hp, hpn⟩ := List.any_eq_true.mp hh2
          have hpe : p.1 = n := by simpa using hpn
          exact hnd (hpe ▸ hmem p hp)
        rw [this] at hr; cases hr
    have hb : After s (s.issue j) g sub w w' u u' { resFin w u j ((issueCtx s g sub w u j).putRun d vs fl) w.preds with vec := fun _ => none } := by
      by_cases h0 : guardMask w u.exec j.hdr.grd = 0
      · exact ha.novec h0 hvs
      · refine ha.congr rfl rfl rfl rfl ?_ (fun _ => rfl) (fun _ => rfl) rfl (fun _ _ => rfl) rfl rfl rfl rfl
        intro n
        have hvw : ((issueCtx s g sub w u j).putRun d vs fl).vw = [] := by
          rcases hnr.1 with hh | hh
          · rcases lanes_putRun (issueCtx s g sub w u j) d vs fl with hx | hx
            · exact hx
            · exact absurd (hx.symm.trans hh) h0
          · exact hh
        unfold resFin resultOf
        rw [hvw]
        exact ⟨fun _ _ _ => rfl, rfl⟩
    refine ⟨w', u', hb.congr rfl rfl rfl rfl (fun _ => ⟨fun _ _ _ => rfl, rfl⟩) ?_ ?_ ?_ (fun _ _ => rfl) ?_ ?_ ?_ rfl⟩
    · intro n
      show none = scaOf _ n
      rw [hnr.2]; rfl
    · intro n
      show none = wgsOf _ n
      rw [hnr.2]; rfl
    · unfold Ctx.putRun resFin; cases d <;> rfl
    · unfold Ctx.putRun resFin; cases d <;> rfl
    · unfold Ctx.putRun resFin; cases d <;> rfl
    · unfold Ctx.putRun resFin; cases d <;> rfl
  · -- the results are outstanding
    obtain ⟨w', u', ha⟩ := after_late hc.now hc.quiet hc.now.warp hc.quiet hc.now.focus (P := w.preds) hck.decode hex (shown_putRun _ d vs fl) hfs hl
      (by unfold Ctx.putRun; cases d <;> rfl) hnr (by unfold Ctx.putRun; cases d <;> rfl) (by unfold Ctx.putRun; cases d <;> exact fun _ => rfl) hmem
    have hgen : ∀ late : Look → Prop, late (lateLook s.handles j ((issueCtx s g sub w u j).putRun d vs fl)) →
        After s (s.issue j) g sub w w' u u' { resJob w u j with late := some late } := by
      intro late hlate
      have h2 : After s (s.issue j) g sub w w' u u' { resLate w u j ((issueCtx s g sub w u j).putRun d vs fl) s.handles w.preds with late := some late } :=
        { rest := ha.rest, warps := ha.warps, here := ha.here, unit := ha.unit, warp := ha.warp, others := ha.others, vec := ha.vec, sca := ha.sca,
          wgs := ha.wgs, group := ha.group, groups := ha.groups, preds := ha.preds, fpsr := ha.fpsr, wstat := ha.wstat, exec := ha.exec,
          pc := ha.pc, owned := ha.owned, stroke := ha.stroke
          looks := by
            obtain ⟨k, hk, hp⟩ := ha.looks
            exact ⟨k, hk, by rw [hp]; exact hlate⟩ }
      refine h2.congr rfl rfl rfl rfl (fun _ => ⟨fun _ _ _ => rfl, rfl⟩) (fun _ => rfl) (fun _ => rfl) ?_ (fun _ _ => rfl) ?_ ?_ ?_ rfl
      · rfl
      · unfold Ctx.putRun resLate; cases d <;> rfl
      · unfold Ctx.putRun resLate; cases d <;> rfl
      · unfold Ctx.putRun resLate; cases d <;> rfl
    refine ⟨w', u', ?_⟩
    have h0 : ¬ guardMask w u.exec j.hdr.grd = 0 := by
      intro h0
      apply hnr
      unfold Ctx.putRun noResult
      cases d with
      | v k => exact ⟨Or.inl h0, rfl⟩
      | s k => exact ⟨Or.inl rfl, if_pos h0⟩
      | w k => exact ⟨Or.inl rfl, if_pos h0⟩
      | _ => exact ⟨Or.inl rfl, rfl⟩
    unfold Res.owed
    rw [if_neg (show ¬ (resJob w u j).act = 0 from h0)]
    cases d with
    | v k =>
      have hds := lateDests_v s.handles j (issueCtx s g sub w u j) k vs fl h0
      refine hgen _ ⟨rfl, rfl, rfl, rfl, rfl, ?_, ?_⟩
      · rw [hds, List.map_map]
        exact zipIdx_run Dest.v k.toNat vs
      · intro d v hm
        rw [hds, List.mem_map] at hm
        obtain ⟨i, hi, hdv⟩ := hm
        injection hdv with hd1 hd2
        refine ⟨v.at, ?_, fun _ _ _ => rfl⟩
        rw [List.mem_map]
        refine ⟨(v.at, i), ?_, by rw [← hd1]⟩
        rw [List.mem_zipIdx_iff_getElem?]
        dsimp only
        rw [List.getElem?_map, ← hd2, List.getD_eq_getElem?_getD, List.getElem?_eq_getElem (List.mem_range.mp hi)]; rfl
    | s k =>
      have hds := lateDests_s s.handles j (issueCtx s g sub w u j) k vs fl h0
      refine hgen _ ⟨rfl, rfl, rfl, rfl, rfl, ?_, ?_⟩
      · rw [hds, List.map_map]
        have := zipIdx_run Dest.s k.toNat vs
        simp only [List.map_map] at this ⊢
        exact this
      · intro d v hm
        rw [hds, List.mem_map] at hm
        obtain ⟨i, hi, hdv⟩ := hm
        injection hdv with hd1 hd2
        refine ⟨fun _ => ((vs.getD i []).at ((lowLane (resJob w u j).act).getD 0)), ?_, ?_⟩
        · rw [List.mem_map]
          refine ⟨((vs.getD i []).at, i), ?_, by rw [← hd1]⟩
          rw [List.mem_zipIdx_iff_getElem?]
          dsimp only
          rw [List.getElem?_map, List.getD_eq_getElem?_getD, List.getElem?_eq_getElem (List.mem_range.mp hi)]; rfl
        · intro l _ hor
          rcases hor with hh | hh
          · have hz : (lateLook s.handles j ((issueCtx s g sub w u j).putRun (.s k) vs fl)).lanes = 0 := rfl
            simp [inMask] at hh
          · rw [← hd2, hh.1]; rfl
    | w k =>
      have hds := lateDests_w s.handles j (issueCtx s g sub w u j) k vs fl h0
      refine hgen _ ⟨rfl, rfl, rfl, rfl, rfl, ?_, ?_⟩
      · rw [hds, List.map_map]
        have := zipIdx_run Dest.w k.toNat vs
        simp only [List.map_map] at this ⊢
        exact this
      · intro d v hm
        rw [hds, List.mem_map] at hm
        obtain ⟨i, hi, hdv⟩ := hm
        injection hdv with hd1 hd2
        refine ⟨fun _ => ((vs.getD i []).at ((lowLane (resJob w u j).act).getD 0)), ?_, ?_⟩
        · rw [List.mem_map]
          refine ⟨((vs.getD i []).at, i), ?_, by rw [← hd1]⟩
          rw [List.mem_zipIdx_iff_getElem?]
          dsimp only
          rw [List.getElem?_map, List.getD_eq_getElem?_getD, List.getElem?_eq_getElem (List.mem_range.mp hi)]; rfl
        · intro l _ hor
          rcases hor with hh | hh
          · have hz : (lateLook s.handles j ((issueCtx s g sub w u j).putRun (.w k) vs fl)).lanes = 0 := rfl
            simp [inMask] at hh
          · rw [← hd2, hh.1]; rfl
    | x r => exact absurd ⟨Or.inl rfl, rfl⟩ hnr
    | imm n => exact absurd ⟨Or.inl rfl, rfl⟩ hnr
    | lit => exact absurd ⟨Or.inl rfl, rfl⟩ hnr
    | none => exact absurd ⟨Or.inl rfl, rfl⟩ hnr

end Sys2Proof.Machine
end

