-- ==== Sys2Proof/Laws/Store.lean ====
section
/-! SUPPORT. The store keeps its canonical form under every operation, and a byte reads back as it was written. -/

namespace Sys2Proof.Machine

theorem wfFrom_mono {m : Store} {a b : Nat} (h : a ≤ b) (hw : m.wfFrom b = true) : m.wfFrom a = true := by
  cases m with
  | nil => rfl
  | cons p m =>
    obtain ⟨x, v⟩ := p
    simp only [Store.wfFrom, Bool.and_eq_true, decide_eq_true_eq, ne_eq, BitVec.ofNat_eq_ofNat] at hw ⊢
    exact ⟨⟨by omega, hw.1.2⟩, hw.2⟩

theorem get_below {m : Store} {lo a : Nat} (hw : m.wfFrom lo = true) (h : a < lo) : m.get a = 0 := by
  cases m with
  | nil => rfl
  | cons p m =>
    obtain ⟨x, v⟩ := p
    simp only [Store.wfFrom, Bool.and_eq_true, decide_eq_true_eq, ne_eq, BitVec.ofNat_eq_ofNat] at hw
    have h1 : x ≠ a := by omega
    have h2 : a < x := by omega
    simp [Store.get, h1, h2]

theorem set_wfFrom (m : Store) (a : Nat) (b : Byte) (lo : Nat) (h : lo ≤ a) (hw : m.wfFrom lo = true) : (m.set a b).wfFrom lo = true := by
  induction m generalizing lo with
  | nil => by_cases hb : b = 0#8 <;> simp [Store.set, Store.wfFrom, hb, h]
  | cons p m ih =>
    obtain ⟨x, v⟩ := p
    simp only [Store.wfFrom, Bool.and_eq_true, decide_eq_true_eq, ne_eq, BitVec.ofNat_eq_ofNat] at hw
    obtain ⟨⟨h1, h2⟩, h3⟩ := hw
    by_cases e : x = a
    · subst e
      by_cases hb : b = 0#8
      · simpa [Store.set, hb] using wfFrom_mono (by omega : lo ≤ x + 1) h3
      · simp [Store.set, hb, Store.wfFrom, h, h3]
    · by_cases l : a < x
      · by_cases hb : b = 0#8
        · simp [Store.set, e, l, hb, Store.wfFrom, h1, h2, h3]
        · simp [Store.set, e, l, hb, Store.wfFrom, h, h2, h3]
      · simp [Store.set, e, l, Store.wfFrom, h1, h2, ih (x + 1) (by omega) h3]

/-- A write keeps the canonical form. -/
theorem set_wf (m : Store) (a : Nat) (b : Byte) (hw : m.wf = true) : (m.set a b).wf = true := set_wfFrom m a b 0 (Nat.zero_le a) hw

theorem setBytes_wf (m : Store) (a : Nat) (bs : List Byte) (hw : m.wf = true) : (m.setBytes a bs).wf = true := by
  induction bs generalizing m a with
  | nil => exact hw
  | cons b bs ih => exact ih _ _ (set_wf m a b hw)

theorem filter_wfFrom (m : Store) (p : Host.Cell → Bool) (lo : Nat) (hw : m.wfFrom lo = true) :
    Store.wfFrom (m.filter p) lo = true := by
  induction m generalizing lo with
  | nil => rfl
  | cons c m ih =>
    obtain ⟨x, v⟩ := c
    simp only [Store.wfFrom, Bool.and_eq_true, decide_eq_true_eq, ne_eq, BitVec.ofNat_eq_ofNat] at hw
    by_cases h : p (x, v) = true
    · rw [List.filter_cons_of_pos h]
      simp only [Store.wfFrom, Bool.and_eq_true, decide_eq_true_eq, ne_eq, BitVec.ofNat_eq_ofNat]
      exact ⟨hw.1, ih _ hw.2⟩
    · rw [List.filter_cons_of_neg (by simpa using h)]
      exact wfFrom_mono (by omega) (ih _ hw.2)

theorem clear_wf (m : Store) (a n : Nat) (hw : m.wf = true) : (m.clear a n).wf = true := filter_wfFrom m _ 0 hw

/-- A byte after a write: the one written at its address, every other as before. -/
theorem get_set (m : Store) (a a' : Nat) (b : Byte) {lo : Nat} (hw : m.wfFrom lo = true) :
    (m.set a b).get a' = if a = a' then b else m.get a' := by
  induction m generalizing lo with
  | nil =>
    by_cases hb : b = 0#8 <;> by_cases h : a = a' <;> simp [Store.set, Store.get, hb, h]
  | cons p m ih =>
    obtain ⟨x, v⟩ := p
    simp only [Store.wfFrom, Bool.and_eq_true, decide_eq_true_eq, ne_eq, BitVec.ofNat_eq_ofNat] at hw
    obtain ⟨⟨_, hv⟩, h3⟩ := hw
    by_cases e : x = a
    · subst e
      by_cases h : x = a'
      · subst h
        by_cases hb : b = 0#8
        · simp [Store.set, hb, get_below h3 (Nat.lt_succ_self x)]
        · simp [Store.set, hb, Store.get]
      · by_cases hb : b = 0#8
        · by_cases l : a' < x
          · simp [Store.set, hb, Store.get, h, l, get_below h3 (by omega : a' < x + 1)]
          · simp [Store.set, hb, Store.get, h, l]
        · simp [Store.set, hb, Store.get, h]
    · by_cases l : a < x
      · by_cases hb : b = 0#8
        · by_cases h : a = a'
          · subst h; simp [Store.set, e, l, hb, Store.get]
          · simp [Store.set, e, l, hb, h]
        · by_cases h : a = a'
          · subst h; simp [Store.set, e, l, hb, Store.get]
          · by_cases l2 : a' < a
            · have : x ≠ a' := by omega
              have l3 : a' < x := by omega
              simp [Store.set, e, l, hb, Store.get, h, l2, this, l3]
            · simp [Store.set, e, l, hb, Store.get, h, l2]
      · by_cases h : x = a'
        · subst h
          simp [Store.set, e, l, Store.get, Ne.symm e]
        · by_cases l2 : a' < x
          · have : a ≠ a' := by omega
            simp [Store.set, e, l, Store.get, h, l2, this]
          · simp [Store.set, e, l, Store.get, h, l2, ih h3]

/-- Bytes outside a run that is written stay as they were. -/
theorem get_setBytes_other (m : Store) (a a' : Nat) (bs : List Byte) (hw : m.wf = true) (h : a' < a ∨ a + bs.length ≤ a') :
    (m.setBytes a bs).get a' = m.get a' := by
  induction bs generalizing m a with
  | nil => rfl
  | cons b bs ih =>
    simp only [List.length_cons] at h
    have h1 : a ≠ a' := by omega
    show ((m.set a b).setBytes (a + 1) bs).get a' = m.get a'
    rw [ih _ _ (set_wf m a b hw) (by omega), get_set m a a' b hw]
    simp [h1]

/-- A run reads back as it was written. -/
theorem get_setBytes (m : Store) (a i : Nat) (bs : List Byte) (hw : m.wf = true) (h : i < bs.length) :
    (m.setBytes a bs).get (a + i) = bs.getD i 0 := by
  induction bs generalizing m a i with
  | nil => simp at h
  | cons b bs ih =>
    show ((m.set a b).setBytes (a + 1) bs).get (a + i) = _
    cases i with
    | zero =>
      rw [get_setBytes_other _ _ _ _ (set_wf m a b hw) (Or.inl (by omega)), get_set m a (a + 0) b hw]
      simp
    | succ i =>
      have := ih (m.set a b) (a + 1) i (set_wf m a b hw) (by simpa using h)
      rw [show a + (i + 1) = a + 1 + i by omega, this]
      simp

end Sys2Proof.Machine
end

