-- ==== Sys2Proof/Tests/Slice0.lean ====
section
/-! SUPPORT. The model's own tests: ill-formed terms that the checks refuse, and words written out from the encoding tables with the instruction each
stands for. Expected values come from the rules the theorems name. -/

set_option maxRecDepth 100000
-- Each theorem is elaborated and checked before the next one starts.
set_option Elab.async false

namespace Sys2Proof.Tests

open Sys2Proof

/-! ## Terms -/

/-- An extended form without guard, literal, lookahead, last use, S and E. -/
def op (d a b c : Operand) (mod : BitVec 6) (func : BitVec 10) : Op :=
  { s := false, e := false, la := 0, grd := none, ula := false, ulb := false, ulc := false, mod := mod, d := d, a := a, b := b, c := c, func := func, lit := none }

/-- A base word without literal, last use and S. -/
def bw (d a b : BitVec 6) (mod : BitVec 2) : Bw := { s := false, d := d, a := a, b := b, ua := false, ub := false, mod := mod, lit := none }

/-! ## Well-formedness: each check refuses a term that only it refuses -/

/-- A guard where none may stand: PPOP (R155, R188). -/
theorem test_wf_guard : ({ op .none .none .none .none 0 0 with grd := some { neg := false, dep := 0 } } : Op).guardWf (Rule.of 0x292 0 0 0) = false
    ∧ Instr.wf (.ppop { op .none .none .none .none 0 0 with grd := some { neg := false, dep := 0 } }) = false ∧ Instr.wf (.ppop (op .none .none .none .none 0 0)) = true := by decide

/-- An operand that the instruction does not use: IABS has no B (R159, R221). -/
theorem test_wf_unused : (op (.v 1) (.v 2) (.v 3) .none 0 0).unusedWf (Rule.of 7 0 0 0) = false ∧ Instr.wf (.iabs (op (.v 1) (.v 2) (.v 3) .none 0 0)) = false
    ∧ Instr.wf (.iabs (op (.v 1) (.v 2) .none .none 0 0)) = true := by decide

/-- A literal that nothing reads, and an operand that reads a literal that is not there (R161). -/
theorem test_wf_literal : Instr.wf (.iadd { op (.v 1) (.v 2) (.v 3) .none 0 0 with lit := some 5 }) = false ∧ Instr.wf (.iadd (op (.v 1) (.v 2) .lit .none 0 0)) = false
    ∧ Instr.wf (.iadd { op (.v 1) (.v 2) .lit .none 0 0 with lit := some 5 }) = true := by decide

/-- A conditional branch without a reconvergence PC (R163). -/
theorem test_wf_branch : Instr.wf (.braPk 0 { op .none .none .none .none 0 0 with lit := some 9 }) = false
    ∧ Instr.wf (.braPk 0 { op .none .none .none .none 0 0 with lit := some 0x900000009 }) = true := by decide

/-- A class that the place does not allow, a run past the end of its file, a last-use bit on a scalar, and a vector source of a scalar result (R159, R162, R218). -/
theorem test_wf_operands : Instr.wf (.bar (op .none (.w 3) .none .none 0 0)) = false ∧ Instr.wf (.rq (op (.v 2047) (.v 0) (.s 0) .none 0 0)) = false
    ∧ Instr.wf (.iadd { op (.v 1) (.s 2) (.s 3) .none 0 0 with ula := true }) = false ∧ Instr.wf (.iadd (op (.s 1) (.v 2) (.s 3) .none 0 0)) = false
    ∧ Instr.wf (.swr (op (.x .clk) (.s 1) .none .none 0 0)) = false ∧ Instr.wf (.getwork (op (.s 3) .none .none .none 0 0)) = false := by decide

/-- MOD and FUNC values that are not defined, a lookahead count on a fixed-latency instruction, and FUNC where it has no use (R158, R165). -/
theorem test_wf_selectors : Instr.wf (.iabs (op (.v 1) (.v 2) .none .none 1 0)) = false ∧ Instr.wf (.prot (op .none .none .none .none 0 0)) = false
    ∧ Instr.wf (.iadd { op (.v 1) (.v 2) (.v 3) .none 0 0 with la := 1 }) = false ∧ Instr.wf (.iadd (op (.v 1) (.v 2) (.v 3) .none 0 1)) = false
    ∧ Instr.wf (.brx { op .none (.v 2) .none .none 0 1 with ula := true, lit := some 0x100000001 }) = false := by decide

/-- Base words: a field that is not used, a literal that is not allowed, a last-use bit of a scalar, a MOD, an RCV (R151 to R153, R163, R168). -/
theorem test_wf_base : Instr.wf (.iabsV (bw 1 2 3 0)) = false ∧ Instr.wf (.iabsV { bw 1 2 0 0 with lit := some 1 }) = false ∧ Instr.wf (.iaddS { bw 1 2 3 0 with ua := true }) = false
    ∧ Instr.wf (.faddF64V (bw 1 2 3 1)) = false ∧ Instr.wf (.braPkBase 0 { bw 0 0 0 0 with lit := some 1 }) = false
    ∧ Instr.wf (.iaddV { bw 1 2 3 0 with ua := true }) = true := by decide

/-- An ENGCMD whose FUNC names another kind (R270). -/
theorem test_wf_kind : Instr.kindWf (.engcmdHalo (op .none (.s 1) (.imm 0) (.s 4) 0 4)) = false ∧ Instr.wf (.engcmdHalo (op .none (.s 1) (.imm 0) (.s 4) 0 4)) = false
    ∧ Instr.wf (.engcmdHalo (op .none (.s 1) (.imm 0) (.s 4) 0 5)) = true := by decide

/-! ## Words

Each word is written out from R151, R154, R159 and R160 with the opcode of R167 to R173. -/

/-- Every list of words decodes to its instruction, whole. -/
def decodesAll (ps : List (List W32 × Instr)) : Bool := ps.all (fun p => decide (decode p.1 = .ok p.2 (4 * p.1.length)))

theorem test_words_integer_base_1 : decodesAll [
    ([0x00052512], .iaddV (bw 5 9 17 2)),
    ([0x083F0421], .iaddS (bw 63 1 2 1)),
    ([0x00452512], .isubV (bw 5 9 17 2)),
    ([0x087F0421], .isubS (bw 63 1 2 1)),
    ([0x00852512], .imulV (bw 5 9 17 2)),
    ([0x08BF0421], .imulS (bw 63 1 2 1)),
    ([0x00C52512], .imulhV (bw 5 9 17 2)),
    ([0x08FF0421], .imulhS (bw 63 1 2 1)),
    ([0x01052512], .imadV (bw 5 9 17 2)),
    ([0x093F0421], .imadS (bw 63 1 2 1)),
    ([0x01452512], .iminV (bw 5 9 17 2)),
    ([0x097F0421], .iminS (bw 63 1 2 1)),
    ([0x01852512], .imaxV (bw 5 9 17 2)),
    ([0x09BF0421], .imaxS (bw 63 1 2 1)),
    ([0x01C52402], .iabsV (bw 5 9 0 2)),
    ([0x09FF0400], .iabsS (bw 63 1 0 0)),
    ([0x02052512], .andV (bw 5 9 17 2)),
    ([0x0A3F0421], .andS (bw 63 1 2 1)),
    ([0x02452512], .orV (bw 5 9 17 2)),
    ([0x0A7F0421], .orS (bw 63 1 2 1)),
    ([0x02852512], .xorV (bw 5 9 17 2)),
    ([0x0ABF0421], .xorS (bw 63 1 2 1)),
    ([0x02C52402], .notV (bw 5 9 0 2)),
    ([0x0AFF0401], .notS (bw 63 1 0 1))] = true := by decide +kernel

theorem test_words_integer_base_2 : decodesAll [
    ([0x03052512], .shlV (bw 5 9 17 2)),
    ([0x0B3F0421], .shlS (bw 63 1 2 1)),
    ([0x03452512], .shrV (bw 5 9 17 2)),
    ([0x0B7F0421], .shrS (bw 63 1 2 1)),
    ([0x03852512], .sarV (bw 5 9 17 2)),
    ([0x0BBF0421], .sarS (bw 63 1 2 1)),
    ([0x03C52512], .rotV (bw 5 9 17 2)),
    ([0x0BFF0421], .rotS (bw 63 1 2 1)),
    ([0x04052402], .popcV (bw 5 9 0 2)),
    ([0x0C3F0401], .popcS (bw 63 1 0 1)),
    ([0x04452402], .clzV (bw 5 9 0 2)),
    ([0x0C7F0401], .clzS (bw 63 1 0 1)),
    ([0x04852402], .brevV (bw 5 9 0 2)),
    ([0x0CBF0401], .brevS (bw 63 1 0 1)),
    ([0x04C52402], .movV (bw 5 9 0 2)),
    ([0x0CFF0401], .movS (bw 63 1 0 1)),
    ([0x45040001, 0x55667788, 0x11223344], .moviV { bw 4 0 0 1 with lit := some 0x1122334455667788 }),
    ([0x4D040002, 0x00000005, 0x00000000], .moviS { bw 4 0 0 2 with lit := some 0x5 }),
    ([0x05440423], .leaV (bw 4 1 2 3)),
    ([0x0D440421], .leaS (bw 4 1 2 1))] = true := by decide +kernel

theorem test_words_integer_extended_1 : decodesAll [
    ([0x80000003, 0x0C9F4030, 0x00E00000], .iadd (op (.v 100) (.v 2000) (.imm 7) .none 3 0x0)),
    ([0x80040003, 0x0C9F4030, 0x00E00000], .isub (op (.v 100) (.v 2000) (.imm 7) .none 3 0x0)),
    ([0x80080003, 0x0C9F4030, 0x00E00000], .imul (op (.v 100) (.v 2000) (.imm 7) .none 3 0x0)),
    ([0x800C0003, 0x0C9F4030, 0x00E00000], .imulh (op (.v 100) (.v 2000) (.imm 7) .none 3 0x0)),
    ([0x80100003, 0x0C9F4038, 0x00E00C00], .imad (op (.v 100) (.v 2000) (.imm 7) (.w 3) 3 0x0)),
    ([0x80140003, 0x0C9F4030, 0x00E00000], .imin (op (.v 100) (.v 2000) (.imm 7) .none 3 0x0)),
    ([0x80180003, 0x0C9F4030, 0x00E00000], .imax (op (.v 100) (.v 2000) (.imm 7) .none 3 0x0)),
    ([0x801C0002, 0x0C800C40, 0x00000000], .iabs (op (.v 100) (.s 3) .none .none 2 0x0)),
    ([0x80200003, 0x0C9F4030, 0x00E00000], .and (op (.v 100) (.v 2000) (.imm 7) .none 3 0x0)),
    ([0x80240003, 0x0C9F4030, 0x00E00000], .or (op (.v 100) (.v 2000) (.imm 7) .none 3 0x0)),
    ([0x80280003, 0x0C9F4030, 0x00E00000], .xor (op (.v 100) (.v 2000) (.imm 7) .none 3 0x0)),
    ([0x802C0003, 0x0C800C40, 0x00000000], .not (op (.v 100) (.s 3) .none .none 3 0x0)),
    ([0x80300003, 0x0C9F4030, 0x00E00000], .shl (op (.v 100) (.v 2000) (.imm 7) .none 3 0x0)),
    ([0x80340003, 0x0C9F4030, 0x00E00000], .shr (op (.v 100) (.v 2000) (.imm 7) .none 3 0x0)),
    ([0x80380003, 0x0C9F4030, 0x00E00000], .sar (op (.v 100) (.v 2000) (.imm 7) .none 3 0x0)),
    ([0x803C0003, 0x0C9F4030, 0x00E00000], .rot (op (.v 100) (.v 2000) (.imm 7) .none 3 0x0)),
    ([0x80400003, 0x0C800C40, 0x00000000], .popc (op (.v 100) (.s 3) .none .none 3 0x0)),
    ([0x80440003, 0x0C800C40, 0x00000000], .clz (op (.v 100) (.s 3) .none .none 3 0x0)),
    ([0x80480003, 0x0C800C40, 0x00000000], .brev (op (.v 100) (.s 3) .none .none 3 0x0)),
    ([0x804C0003, 0x0C800C40, 0x00000000], .mov (op (.v 100) (.s 3) .none .none 3 0x0)),
    ([0x80500002, 0x08C00030, 0x00A00000], .movi (op (.v 70) .none (.imm 5) .none 2 0x0)),
    ([0x80540007, 0x00C00160, 0x00400000], .lea (op (.s 6) (.s 0) (.w 2) .none 7 0x0)),
    ([0x80580001, 0x0020083C, 0x00802000], .bfe (op (.v 1) (.v 2) (.imm 4) (.imm 8) 1 0x0)),
    ([0x805C0002, 0x00200804, 0x00601000], .bfi (op (.v 1) (.v 2) (.v 3) (.s 4) 2 0x0))] = true := by decide +kernel

theorem test_words_integer_extended_2 : decodesAll [
    ([0x80600000, 0x00200800, 0x0060000D], .sel (op (.v 1) (.v 2) (.v 3) .none 0 0xd))] = true := by decide +kernel

theorem test_words_compares_1 : decodesAll [
    ([0x16000C40], .icmpEqV (bw 0 3 4 0)),
    ([0x17800C40], .fcmpEqV (bw 0 3 4 0)),
    ([0x80800000, 0x00000C30, 0x00800000], .icmp .eq (op .none (.v 3) (.imm 4) .none 0 0x0)),
    ([0x86C00000, 0x00000C00, 0x00800000], .fcmp .eq (op .none (.v 3) (.v 4) .none 0 0x0)),
    ([0x16400C41], .icmpNeV (bw 0 3 4 1)),
    ([0x17C00C41], .fcmpNeV (bw 0 3 4 1)),
    ([0x80840001, 0x00000C30, 0x00800000], .icmp .ne (op .none (.v 3) (.imm 4) .none 1 0x0)),
    ([0x86C40001, 0x00000C00, 0x00800000], .fcmp .ne (op .none (.v 3) (.v 4) .none 1 0x0)),
    ([0x16800C42], .icmpLtV (bw 0 3 4 2)),
    ([0x18000C42], .fcmpLtV (bw 0 3 4 2)),
    ([0x80880002, 0x00000C30, 0x00800000], .icmp .lt (op .none (.v 3) (.imm 4) .none 2 0x0)),
    ([0x86C80002, 0x00000C00, 0x00800000], .fcmp .lt (op .none (.v 3) (.v 4) .none 2 0x0)),
    ([0x16C00C43], .icmpLeV (bw 0 3 4 3)),
    ([0x18400C43], .fcmpLeV (bw 0 3 4 3)),
    ([0x808C0003, 0x00000C30, 0x00800000], .icmp .le (op .none (.v 3) (.imm 4) .none 3 0x0)),
    ([0x86CC0003, 0x00000C00, 0x00800000], .fcmp .le (op .none (.v 3) (.v 4) .none 3 0x0)),
    ([0x17000C40], .icmpGtV (bw 0 3 4 0)),
    ([0x18800C40], .fcmpGtV (bw 0 3 4 0)),
    ([0x80900000, 0x00000C30, 0x00800000], .icmp .gt (op .none (.v 3) (.imm 4) .none 0 0x0)),
    ([0x86D00000, 0x00000C00, 0x00800000], .fcmp .gt (op .none (.v 3) (.v 4) .none 0 0x0)),
    ([0x17400C41], .icmpGeV (bw 0 3 4 1)),
    ([0x18C00C41], .fcmpGeV (bw 0 3 4 1)),
    ([0x80940001, 0x00000C30, 0x00800000], .icmp .ge (op .none (.v 3) (.imm 4) .none 1 0x0)),
    ([0x86D40001, 0x00000C00, 0x00800000], .fcmp .ge (op .none (.v 3) (.v 4) .none 1 0x0))] = true := by decide +kernel

theorem test_words_compares_2 : decodesAll [
    ([0x86D80000, 0x00000C00, 0x00800000], .fcmp .ord (op .none (.v 3) (.v 4) .none 0 0x0)),
    ([0x86DC0000, 0x00000C00, 0x00800000], .fcmp .uno (op .none (.v 3) (.v 4) .none 0 0x0))] = true := by decide +kernel

theorem test_words_floating_base : decodesAll [
    ([0x10072090], .faddF64V (bw 7 8 9 0)),
    ([0x11872090], .faddF32V (bw 7 8 9 0)),
    ([0x13072090], .faddF64S (bw 7 8 9 0)),
    ([0x14872090], .faddF32S (bw 7 8 9 0)),
    ([0x10472090], .fsubF64V (bw 7 8 9 0)),
    ([0x11C72090], .fsubF32V (bw 7 8 9 0)),
    ([0x13472090], .fsubF64S (bw 7 8 9 0)),
    ([0x14C72090], .fsubF32S (bw 7 8 9 0)),
    ([0x10872090], .fmulF64V (bw 7 8 9 0)),
    ([0x12072090], .fmulF32V (bw 7 8 9 0)),
    ([0x13872090], .fmulF64S (bw 7 8 9 0)),
    ([0x15072090], .fmulF32S (bw 7 8 9 0)),
    ([0x10C72090], .ffmaF64V (bw 7 8 9 0)),
    ([0x12472090], .ffmaF32V (bw 7 8 9 0)),
    ([0x13C72090], .ffmaF64S (bw 7 8 9 0)),
    ([0x15472090], .ffmaF32S (bw 7 8 9 0)),
    ([0x11072090], .fminF64V (bw 7 8 9 0)),
    ([0x12872090], .fminF32V (bw 7 8 9 0)),
    ([0x14072090], .fminF64S (bw 7 8 9 0)),
    ([0x15872090], .fminF32S (bw 7 8 9 0)),
    ([0x11472090], .fmaxF64V (bw 7 8 9 0)),
    ([0x12C72090], .fmaxF32V (bw 7 8 9 0)),
    ([0x14472090], .fmaxF64S (bw 7 8 9 0)),
    ([0x15C72090], .fmaxF32S (bw 7 8 9 0))] = true := by decide +kernel

theorem test_words_floating_extended : decodesAll [
    ([0x84000005, 0x00200800, 0x00600000], .fadd .f64 (op (.v 1) (.v 2) (.v 3) .none 5 0x0)),
    ([0x84240005, 0x00200800, 0x00600000], .fsub .f32 (op (.v 1) (.v 2) (.v 3) .none 5 0x0)),
    ([0x84680005, 0x00200800, 0x00600000], .fmul .f16 (op (.v 1) (.v 2) (.v 3) .none 5 0x0)),
    ([0x844C0005, 0x00200800, 0x00601000], .ffma .bf16 (op (.v 1) (.v 2) (.v 3) (.v 4) 5 0x0)),
    ([0x84800000, 0x00200800, 0x00600000], .fmin .f64 (op (.v 1) (.v 2) (.v 3) .none 0 0x0)),
    ([0x84A40000, 0x00200800, 0x00600000], .fmax .f32 (op (.v 1) (.v 2) (.v 3) .none 0 0x0)),
    ([0x84C80000, 0x00200800, 0x00000000], .fclass .f16 (op (.v 1) (.v 2) .none .none 0 0x0)),
    ([0x84EC0006, 0x00200800, 0x00000000], .frnd .bf16 (op (.v 1) (.v 2) .none .none 6 0x0)),
    ([0x8504C000, 0x01400800, 0x00000000], .frcp .f32 { op (.v 10) (.v 2) .none .none 0 0x0 with la := 3 }),
    ([0x8524C000, 0x01400800, 0x00000000], .frsq .f32 { op (.v 10) (.v 2) .none .none 0 0x0 with la := 3 }),
    ([0x8544C000, 0x01400800, 0x00000000], .fsqrt .f32 { op (.v 10) (.v 2) .none .none 0 0x0 with la := 3 }),
    ([0x8564C000, 0x01400800, 0x00600000], .fdivf .f32 { op (.v 10) (.v 2) (.v 3) .none 0 0x0 with la := 3 }),
    ([0x8584C000, 0x01400800, 0x00000000], .fred .f32 { op (.v 10) (.v 2) .none .none 0 0x0 with la := 3 }),
    ([0x85A4C000, 0x01400800, 0x00600000], .fsin .f32 { op (.v 10) (.v 2) (.v 3) .none 0 0x0 with la := 3 }),
    ([0x85C4C000, 0x01400800, 0x00600000], .fcos .f32 { op (.v 10) (.v 2) (.v 3) .none 0 0x0 with la := 3 }),
    ([0x85E4C000, 0x01400800, 0x00000000], .fexp2 .f32 { op (.v 10) (.v 2) .none .none 0 0x0 with la := 3 }),
    ([0x8604C000, 0x01400800, 0x00000000], .flog2 .f32 { op (.v 10) (.v 2) .none .none 0 0x0 with la := 3 }),
    ([0x86200004, 0x00200800, 0x00000061], .cvt (op (.v 1) (.v 2) .none .none 4 0x61)),
    ([0x86400000, 0x00200810, 0x00600005], .fmtcvt (op (.v 1) (.v 2) (.s 3) .none 0 0x5)),
    ([0x86600000, 0x00202000, 0x0000000E], .pack (op (.v 1) (.v 8) .none .none 0 0xe)),
    ([0x86800001, 0x00202000, 0x0000001D], .unpack (op (.v 1) (.v 8) .none .none 1 0x1d))] = true := by decide +kernel

theorem test_words_lanes : decodesAll [
    ([0x88000000, 0x00200830, 0x00800016], .shfl (op (.v 1) (.v 2) (.imm 4) .none 0 0x16)),
    ([0x88040005, 0x00200800, 0x00000009], .swapp (op (.v 1) (.v 2) .none .none 5 0x9)),
    ([0x88080000, 0x00200810, 0x00600000], .bcast (op (.v 1) (.v 2) (.s 3) .none 0 0x0)),
    ([0x880C0000, 0x00800100, 0x0000000A], .vote (op (.s 4) .none .none .none 0 0xa)),
    ([0x88100000, 0x00200900, 0x00000030], .redl (op (.s 1) (.v 2) .none .none 0 0x30)),
    ([0x88140000, 0x00200800, 0x000000B0], .scanl (op (.v 1) (.v 2) .none .none 0 0xb0))] = true := by decide +kernel

theorem test_words_control_1 : decodesAll [
    ([0x0FC00000], .nopBase (bw 0 0 0 0)),
    ([0x5C000000, 0xFFFFFFF7, 0x00000000], .braBase { bw 0 0 0 0 with lit := some 0xfffffff7 }),
    ([0x5E400000, 0x00000020, 0x00000000], .callBase { bw 0 0 0 0 with lit := some 0x20 }),
    ([0x5C400001, 0x00000005, 0x00000009], .braPkBase 0 { bw 0 0 0 1 with lit := some 0x900000005 }),
    ([0x5E000001, 0x00000005, 0x00000009], .braPkBase 7 { bw 0 0 0 1 with lit := some 0x900000005 }),
    ([0x19000003], .ppopBase (bw 0 0 0 3)),
    ([0x19490000], .xrdBase (bw 9 0 0 0)),
    ([0x19802400], .xwrBase (bw 0 9 0 0)),
    ([0xCA000000, 0x00000000, 0x00000000, 0x00000005, 0x00000000], .bra { op .none .none .none .none 0 0x0 with lit := some 0x5 }),
    ([0xCA040002, 0x00000C00, 0x00000004, 0x00000008, 0x00000010], .brx { op .none (.v 3) .none .none 2 0x4 with lit := some 0x1000000008 }),
    ([0xCA080000, 0x00000000, 0x00000000, 0x00000009, 0x00000000], .call { op .none .none .none .none 0 0x0 with lit := some 0x9 }),
    ([0x8A0C0000, 0x00001040, 0x00000000], .callx (op .none (.s 4) .none .none 0 0x0)),
    ([0x8A100000, 0x0001FC40, 0x00000000], .ret (op .none (.s 127) .none .none 0 0x0)),
    ([0x8A140001, 0x00000000, 0x00000000], .exit (op .none .none .none .none 1 0x0)),
    ([0x8A180000, 0x00000000, 0x00000000], .nop (op .none .none .none .none 0 0x0)),
    ([0x8A1C0000, 0x00000000, 0x00000000], .yield (op .none .none .none .none 0 0x0)),
    ([0xCA2C0003, 0x00000000, 0x00000000, 0x00000005, 0x00000009], .braPk 3 { op .none .none .none .none 3 0x0 with lit := some 0x900000005 }),
    ([0x8A400000, 0x00000000, 0x00000000], .rgn (op .none .none .none .none 0 0x0)),
    ([0x8A440000, 0x00000000, 0x00000000], .fuse (op .none .none .none .none 0 0x0)),
    ([0x8A480002, 0x00000000, 0x00000000], .ppop (op .none .none .none .none 2 0x0)),
    ([0x8A4C0000, 0x00000000, 0x00000005], .prot (op .none .none .none .none 0 0x5)),
    ([0x8A500000, 0x00000000, 0x000001AB], .plog (op .none .none .none .none 0 0x1ab)),
    ([0x8A540000, 0x00000000, 0x0000001B], .ptox (op .none .none .none .none 0 0x1b)),
    ([0x8A580000, 0x00000000, 0x00000000], .xtop (op .none .none .none .none 0 0x0))] = true := by decide +kernel

theorem test_words_control_2 : decodesAll [
    ([0x8A5C0000, 0x0C800100, 0x00000000], .xrd (op (.s 100) .none .none .none 0 0x0)),
    ([0x8A600000, 0x00000CC0, 0x00000000], .xwr (op .none (.imm 3) .none .none 0 0x0))] = true := by decide +kernel

theorem test_words_synchronisation : decodesAll [
    ([0x8A800000, 0x00000CC0, 0x00000000], .bar (op .none (.imm 3) .none .none 0 0x0)),
    ([0x8A840000, 0x00000C40, 0x00000000], .bara (op .none (.s 3) .none .none 0 0x0)),
    ([0x8A880000, 0x00000C40, 0x00000000], .barw (op .none (.s 3) .none .none 0 0x0)),
    ([0x8A8C0000, 0x000024C0, 0x00000000], .gbar (op .none (.imm 9) .none .none 0 0x0)),
    ([0x8A908000, 0x01000554, 0x00400C0B], .watch { op (.s 8) (.s 1) (.s 2) (.s 3) 0 0xb with la := 2 }),
    ([0x8A940000, 0x0100057C, 0x00400C06], .waitw (op (.s 8) (.s 1) (.imm 2) (.imm 3) 0 0x6)),
    ([0x8A980000, 0x000190C0, 0x00000000], .sleep (op .none (.imm 100) .none .none 0 0x0))] = true := by decide +kernel

theorem test_words_system : decodesAll [
    ([0x8AC00000, 0x00000450, 0x00400000], .swi (op .none (.s 1) (.s 2) .none 0 0x0)),
    ([0x8AC40000, 0x00000000, 0x000003FF], .trap (op .none .none .none .none 0 0x3ff)),
    ([0x8AC80000, 0x00000000, 0x00000000], .tret (op .none .none .none .none 0 0x0)),
    ([0x8ACC0000, 0x00000000, 0x00000000], .brk (op .none .none .none .none 0 0x0)),
    ([0x8AD00000, 0x00010080, 0x00000000], .srd (op (.v 0) (.x .laneid) .none .none 0 0x0)),
    ([0x8AD40000, 0x092016C0, 0x00000000], .swr (op (.x .fpcr) (.imm 5) .none .none 0 0x0)),
    ([0x8AD90000, 0x01400100, 0x00000000], .getwork { op (.s 10) .none .none .none 0 0x0 with la := 4 })] = true := by decide +kernel

theorem test_words_memory : decodesAll [
    ([0x8C014003, 0x00200840, 0x00600000], .ld { op (.v 1) (.s 2) (.v 3) .none 3 0x0 with la := 5 }),
    ([0x8C040002, 0x00000430, 0x01000C00], .st (op .none (.v 1) (.imm 8) (.v 3) 2 0x0)),
    ([0x8C080003, 0x01402434, 0x00005800], .ldv (op (.v 10) (.v 9) (.imm 0) (.s 22) 3 0x0)),
    ([0x8C0C0000, 0x00000430, 0x00000000], .pref (op .none (.v 1) (.imm 0) .none 0 0x0)),
    ([0x8C100001, 0x00200970, 0x01000000], .ldc (op (.s 1) (.s 2) (.imm 8) .none 1 0x0)),
    ([0x8C140003, 0x00200830, 0x00000000], .lds (op (.v 1) (.v 2) (.imm 0) .none 3 0x0)),
    ([0x8C180003, 0x00000430, 0x00000800], .sts (op .none (.v 1) (.imm 0) (.v 2) 3 0x0)),
    ([0x8C244003, 0x02800440, 0x00600000], .samp { op (.v 20) (.s 1) (.v 3) .none 3 0x0 with la := 1 }),
    ([0x8C400000, 0x00401030, 0x000014B0], .atom (op (.v 2) (.v 4) (.imm 0) (.v 5) 0 0xb0)),
    ([0x8C440000, 0x00001030, 0x000014B0], .red (op .none (.v 4) (.imm 0) (.v 5) 0 0xb0)),
    ([0x8C600003, 0x00000000, 0x00000000], .fence (op .none .none .none .none 3 0x0)),
    ([0x8C640000, 0x00000000, 0x00000005], .pfence (op .none .none .none .none 0 0x5)),
    ([0x8CA40000, 0x00001000, 0x00000003], .pushf (op .none (.v 4) .none .none 0 0x3)),
    ([0x8CA84000, 0x00800000, 0x00000003], .popf { op (.v 4) .none .none .none 0 0x3 with la := 1 })] = true := by decide +kernel

theorem test_words_tiles : decodesAll [
    ([0x8C1C0002, 0x00200CC0, 0x00400000], .ldt (op (.v 1) (.imm 3) (.v 2) .none 2 0x0)),
    ([0x8C200001, 0x00000C40, 0x00401000], .stt (op .none (.s 3) (.v 2) (.v 4) 1 0x0)),
    ([0x8C800000, 0x000004D4, 0x00400C00], .tcfg (op .none (.imm 1) (.s 2) (.s 3) 0 0x0)),
    ([0x8C840000, 0x000004C0, 0x00000000], .tacq (op .none (.imm 1) .none .none 0 0x0)),
    ([0x8C880000, 0x000004C0, 0x00000000], .trel (op .none (.imm 1) .none .none 0 0x0)),
    ([0x8C8C0000, 0x008005C0, 0x00000000], .tstat (op (.s 4) (.imm 1) .none .none 0 0x0)),
    ([0xCCA00000, 0x0000041C, 0x00400000, 0x00000003, 0x00000000], .send { op .none (.v 1) (.s 2) (.imm 0) 0 0x0 with lit := some 0x3 })] = true := by decide +kernel

theorem test_words_engines : decodesAll [
    ([0x8F800000, 0x00000454, 0x00401000], .engcmdCopyin (op .none (.s 1) (.s 2) (.s 4) 0 0x0)),
    ([0x8F800000, 0x00000454, 0x00401001], .engcmdCopyout (op .none (.s 1) (.s 2) (.s 4) 0 0x1)),
    ([0x8F800000, 0x00000474, 0x00001002], .engcmdPublish (op .none (.s 1) (.imm 0) (.s 4) 0 0x2)),
    ([0x8F800000, 0x00000474, 0x00001003], .engcmdRetire (op .none (.s 1) (.imm 0) (.s 4) 0 0x3)),
    ([0x8F800000, 0x00000474, 0x00001004], .engcmdAsbuild (op .none (.s 1) (.imm 0) (.s 4) 0 0x4)),
    ([0x8F800000, 0x00000474, 0x00001005], .engcmdHalo (op .none (.s 1) (.imm 0) (.s 4) 0 0x5)),
    ([0x8F800000, 0x00000474, 0x00001006], .engcmdAllred (op .none (.s 1) (.imm 0) (.s 4) 0 0x6)),
    ([0x8F800000, 0x00000474, 0x00001007], .engcmdRecon (op .none (.s 1) (.imm 0) (.s 4) 0 0x7))] = true := by decide +kernel

theorem test_words_matrix : decodesAll [
    ([0x8E000000, 0x00002800, 0x02C00000], .mma (op .none (.v 10) (.v 22) .none 0 0x0)),
    ([0x8E040000, 0x00002800, 0x03C00080], .mmas (op .none (.v 10) (.v 30) .none 0 0x80)),
    ([0x8E080000, 0x00000440, 0x00400080], .mmac (op .none (.s 1) (.v 2) .none 0 0x80)),
    ([0x8E200000, 0x00002000, 0x00000041], .accld (op .none (.v 8) .none .none 0 0x41)),
    ([0x8E248000, 0x01000000, 0x00000041], .accst { op (.v 8) .none .none .none 0 0x41 with la := 2 }),
    ([0x8E280000, 0x00000000, 0x00000010], .accz (op .none .none .none .none 0 0x10)),
    ([0x8E400000, 0x00000840, 0x00000040], .mdrain (op .none (.s 2) .none .none 0 0x40)),
    ([0x8E600000, 0x00A00100, 0x00000000], .mbatch (op (.s 5) .none .none .none 0 0x0)),
    ([0x8E640000, 0x00001440, 0x00000000], .mwait (op .none (.s 5) .none .none 0 0x0)),
    ([0x8E680000, 0x00000000, 0x00000000], .ofence (op .none .none .none .none 0 0x0)),
    ([0x8E800000, 0x00000C40, 0x00000000], .mcfg (op .none (.s 3) .none .none 0 0x0))] = true := by decide +kernel

theorem test_words_render : decodesAll [
    ([0x8F008000, 0x00202810, 0x00400003], .rq { op (.v 1) (.v 10) (.s 2) .none 0 0x3 with la := 2 }),
    ([0xCF040000, 0x00002830, 0x00405009, 0x00000040, 0x00000000], .rcast { op .none (.v 10) (.imm 2) (.v 20) 0 0x9 with lit := some 0x40 }),
    ([0xCF080000, 0x00000000, 0x0000500C, 0x00000040, 0x00000000], .cont { op .none .none .none (.v 20) 0 0xc with lit := some 0x40 }),
    ([0x8F0C4000, 0x00200010, 0x00800000], .rast { op (.v 1) .none (.s 4) .none 0 0x0 with la := 1 }),
    ([0x8F200000, 0x00202810, 0x00400000], .hgf (op (.v 1) (.v 10) (.s 2) .none 0 0x0)),
    ([0x8F240000, 0x00002810, 0x00405001], .hgs (op .none (.v 10) (.s 2) (.v 20) 0 0x1)),
    ([0x8F400000, 0x00200000, 0x00000000], .covq (op (.v 1) .none .none .none 0 0x0)),
    ([0x8F440000, 0x00200800, 0x00000001], .covp (op (.v 1) (.v 2) .none .none 0 0x1))] = true := by decide +kernel

/-- What is illegal, by the subcode of R165: unassigned opcodes, reserved bits, names and classes, selectors, RCV, LEN. -/
theorem test_illegal_words : ([([0x05800000], 0), ([0x8FC00000, 0, 0], 0), ([0x80000000, 1, 0], 1), ([0x80001000, 0, 0], 1), ([0x01C00010], 1), ([0x80000100, 0x00000040, 0], 3),
    ([0x80000000, 0x10000100, 0], 3), ([0x80000000, 0x00000100, 0], 3), ([0x80000000, 0x00000030, 0x80200000], 3), ([0x80000010, 0, 0], 4), ([0x80004000, 0, 0], 4), ([0x7C400000, 1, 0], 2), ([0xC0000000, 0, 0, 1, 0], 5), ([0x80000000, 0x00000030, 0x80000000], 5)]
    : List (List W32 × Nat)).all (fun p => decide (decode p.1 = .illegal p.2)) = true := by decide +kernel

/-- Fewer words than LEN states. -/
theorem test_short_words : decode [0x80000000, 0] = .short ∧ decode [] = .short := by decide +kernel

end Sys2Proof.Tests
end

