-- ==== Sys2Proof/Tests/Witness.lean ====
section
/-! SUPPORT. For each statement about an instruction with hypotheses: a concrete state and operands that meet all of them together. The states are the probe's:
one warp on core 0 of die 0, in the middle of its issue slot, in an address space whose page 0 is frame 5. -/

set_option maxRecDepth 100000
-- Each theorem is elaborated and checked before the next one starts.
set_option Elab.async false

namespace Sys2Proof.Tests

open Sys2Proof Sys2Proof.Machine Sys2Proof.Claims

/-! ## The states -/

/-- Some registers: v0 to v39 are mapped, lane l of name n holding n + l. -/
def someNames : AMap Nat RegEnt := (List.range 40).map (fun n => (n, { st := .mapped, val := Lanes.tab (fun l => BitVec.ofNat 64 (n + l)) }))

/-- The probe's unit, and its warp with those registers, a few scalars and two predicates. -/
def pu : WUnit := probeUnit
def pw : Warp := { probeWarp with names := someNames, sregs := [(2, 3), (9, 0x40), (10, 0x75C)], preds := [0x0000FFFF, 0xFFFFFFFF, 0, 0, 0, 0, 0, 0] }

/-- The probe with die 0 ready, and another warp in its place. -/
def probe : State := (State.reset.withFetchWord 0 0).setDieReg 0 .dready (-1)
def with' (w : Warp) : State := { probe with warps := [(0, w)] }
def ps : State := with' pw

/-- A warp with one unit. -/
def one (u : WUnit) : Warp := { pw with units := [u] }

/-! ## A unit about to issue -/

/-- The conditions of `CanIssue`, evaluated, but for the sources, which are mapped or do not trap. -/
def canB (s : State) (w : Warp) (u : WUnit) (e : Bool) (ns : List Nat) : Bool :=
  s.focus = some (0, 0) && s.warp? 0 = some w && unitOf w.units 0 = some u && u.st = .issuing && w.units.all (fun x => x.sub ≠ 0 || x.looks = [])
    && (s.die 0).dbg = none && !(s.coreReg 0 .trctl).getLsbD 0 && (s.group? w.wg).all (fun k => !k.ending) && s.cows.all (fun p => p.2.late.isEmpty) && w.wstat &&& wsUnmapTrap = 0
    && newNames (entryWarp w 0 (entersAt u e)) ns = []

theorem can {s : State} {w : Warp} {u : WUnit} {r : Res} {e : Bool} {ns : List Nat} (h : canB s w u e ns = true) : CanIssue s 0 0 w u r e ns := by
  simp only [canB, Bool.and_eq_true, decide_eq_true_eq, List.all_eq_true, Bool.or_eq_true, Option.all_eq_true, Bool.not_eq_true', List.isEmpty_iff] at h
  obtain ⟨⟨⟨⟨⟨⟨⟨⟨⟨⟨h1, h2⟩, h3⟩, h4⟩, h5⟩, h6⟩, h7⟩, h8⟩, hl⟩, h9⟩, h10⟩ := h
  exact ⟨⟨h1, h2, h3, h4, fun x hx hs => (h5 x hx).resolve_left (fun h => h hs)⟩, ⟨h6, h7, fun k hk => h8 k hk, fun p hp x hx => by simp [hl p hp] at hx⟩, .inr (.inl h9), .inr (.inl h10)⟩

/-- The probe itself, for any instruction that writes names among v0 to v39. -/
theorem can_probe {r : Res} {e : Bool} {ns : List Nat} (h : canB ps pw pu e ns = true) : CanIssue ps 0 0 pw pu r e ns := can h

/-! ## Arithmetic, moves, compares -/

theorem witness_integerArithmeticWraps : IntOp.Is .add (.iadd (op (.v 1) (.v 2) (.imm 1000) .none 1 0)) (op (.v 1) (.v 2) (.imm 1000) .none 1 0) 12
    ∧ (op (.v 1) (.v 2) (.imm 1000) .none 1 0).mod.getLsbD 2 = false ∧ ∀ r, CanIssue ps 0 0 pw pu r false [1] :=
  ⟨.ext _, by decide, fun _ => can (by decide +kernel)⟩

theorem witness_integerArithmeticSaturates : IntOp.Is .sub (.isub (op (.v 1) (.v 2) (.v 3) .none 4 0)) (op (.v 1) (.v 2) (.v 3) .none 4 0) 12 ∧ IntOp.sats .sub = true
    ∧ (op (.v 1) (.v 2) (.v 3) .none 4 0).mod.getLsbD 2 = true ∧ ∀ r, CanIssue ps 0 0 pw pu r false [1] :=
  ⟨.ext _, rfl, by decide, fun _ => can (by decide +kernel)⟩

theorem witness_BitOperations : BitOp.Is .shl (.shlS (bw 4 2 9 0)) ((bw 4 2 9 0).op 0x2C false) 4 ∧ BitOp.Is .popc (.popcV (bw 4 2 0 2)) ((bw 4 2 0 2).op 0x10 false) 4
    ∧ ∀ r, CanIssue ps 0 0 pw pu r false (((bw 4 2 9 0).op 0x2C false).d.run 1) ∧ CanIssue ps 0 0 pw pu r false (((bw 4 2 0 2).op 0x10 false).d.run 1) :=
  ⟨.sca _, .vec _, fun _ => ⟨can (by decide +kernel), can (by decide +kernel)⟩⟩

theorem witness_movesAndAddresses : Form3 .mov .movV .movS 0x13 0x33 false (.movV (bw 4 2 0 3)) ((bw 4 2 0 3).op 0x13 false) 4
    ∧ Form3 .movi .moviV .moviS 0x14 0x34 false (.moviS { bw 4 0 0 3 with lit := some 7 }) (({ bw 4 0 0 3 with lit := some 7 } : Bw).op 0x34 false) 12
    ∧ Form3 .lea .leaV .leaS 0x15 0x35 false (.lea (op (.v 1) (.v 2) (.v 3) .none 7 0)) (op (.v 1) (.v 2) (.v 3) .none 7 0) 12
    ∧ ∀ r, CanIssue ps 0 0 pw pu r false [4] ∧ CanIssue ps 0 0 pw pu r false [] ∧ CanIssue ps 0 0 pw pu r false [1] :=
  ⟨.vec _, .sca _, .ext _, fun _ => ⟨can (by decide +kernel), can (by decide +kernel), can (by decide +kernel)⟩⟩

theorem witness_fieldsAndSelection : ∀ r, CanIssue ps 0 0 pw pu r false ((op (.v 5) (.v 2) (.imm 4) (.imm 8) 0 0).d.run 1) := fun _ => can (by decide +kernel)

theorem witness_IntegerCompares : IsIcmp .lt (.icmp .lt (op .none (.v 2) (.imm 4) .none 1 0)) (op .none (.v 2) (.imm 4) .none 1 0) 12 ∧ IsIcmp .ge (.icmpGeV (bw 0 2 3 2)) ((bw 0 2 3 2).op 0x5D false) 4
    ∧ ∀ r, CanIssue ps 0 0 pw pu r false [] := ⟨.ext _ _, .ge _, fun _ => can (by decide +kernel)⟩

theorem witness_FloatArithmetic : FpOp.Is .fma 0 (.ffma .f64 (op (.v 1) (.v 2) (.v 3) (.v 4) 5 0x29)) (op (.v 1) (.v 2) (.v 3) (.v 4) 5 0x29) 12
    ∧ FpOp.Is .min 1 (.fminF32S (bw 1 2 9 0)) ((bw 1 2 9 0).op (0x52 + 4) false) 4 ∧ ∀ r, CanIssue ps 0 0 pw pu r false [1] ∧ CanIssue ps 0 0 pw pu r false [] :=
  ⟨.ext .f64 _, .s32 _, fun _ => ⟨can (by decide +kernel), can (by decide +kernel)⟩⟩

theorem witness_FloatCompares : IsFcmp .uno (.fcmp .uno (op .none (.v 2) (.v 3) .none 1 0)) (op .none (.v 2) (.v 3) .none 1 0) 12 ∧ ∀ r, CanIssue ps 0 0 pw pu r false [] :=
  ⟨.ext _ _, fun _ => can (by decide +kernel)⟩

theorem witness_ClassRoundConvert : ∀ r, CanIssue ps 0 0 pw pu r false ((op (.v 5) (.v 2) .none .none 0 0x61).d.run 1) := fun _ => can (by decide +kernel)

theorem witness_roundingIsIeee : (roundVal 1 false .rne (.fin true 0x1000001 0)).2 &&& flOF = 0 ∧ (1 : Nat) < 4 ∧ 0 < 0x1000001 := by decide +kernel

theorem witness_representableRoundsToItself : (ffmt 2).decode 0x7C01 = .nan true ∧ 0x7C01 < 2 ^ (ffmt 2).width ∧ ∃ n m e, (ffmt 0).decode 0xBFF0000000000000 = .fin n m e :=
  ⟨by decide +kernel, by decide +kernel, _, _, _, rfl⟩

theorem witness_frndIsIntegral : (∃ n m e, (ffmt 1).decode 0x40200000 = .fin n m e) ∧ 0x40200000 < 2 ^ (ffmt 1).width := ⟨⟨_, _, _, rfl⟩, by decide +kernel⟩

theorem witness_transcendentalPipe : IsPipe (.fsin .f32 (op (.v 1) (.v 2) (.v 3) .none 0 0)) (op (.v 1) (.v 2) (.v 3) .none 0 0)
      (fun c _ a _ q => sinQuad fnSin c a (BitVec.ofNat 64 (q.toNat % 4)) (q.toNat % 4)) 1 ∧ ∀ r, CanIssue ps 0 0 pw pu r false [1] := ⟨.sin .f32 _, fun _ => can (by decide +kernel)⟩

theorem witness_fredWritesTwo : ∀ r, CanIssue ps 0 0 pw pu r false ((op (.v 5) (.v 2) .none .none 0 0).d.run 2) := fun _ => can (by decide +kernel)

theorem witness_TranscendentalSpecialCases : (∃ m e, (ffmt 1).decode (slotPat 1 0xC0000000) = .fin true m e ∧ 0 < m) ∧ (ffmt 0).decode (slotPat 0 0x7FF0000000000001) = .nan true
    ∧ (ffmt 1).emin ≤ -126 ∧ (-126 : Int) ≤ (ffmt 1).emax := ⟨⟨_, _, rfl, by decide⟩, by decide +kernel, by decide +kernel, by decide +kernel⟩

/-- An 8-bit element with 4 exponent and 3 fraction bits and bias 7 (R139), named by s10. -/
theorem witness_narrowConversion : (FWord.ofBits ((opVal pw pu none 0 (.s 10)).toNat % 2 ^ 32)).valid = true ∧ (FWord.ofBits ((opVal pw pu none 0 (.s 10)).toNat % 2 ^ 32)).native = true
    ∧ ∀ r, CanIssue ps 0 0 pw pu r false ((op (.v 5) (.v 2) (.s 10) .none 0 5).d.run 1) := ⟨by decide +kernel, by decide +kernel, fun _ => can (by decide +kernel)⟩

theorem witness_narrowRoundTrip : 0x31 < 2 ^ (FWord.ofBits 0x75C).n ∧ ((FWord.ofBits 0x75C).decode 0x31).isNan = false ∧ (FWord.ofBits 0x75C).valid = true ∧ (FWord.ofBits 0x75C).native = true := by
  decide +kernel

theorem witness_PackAndUnpack : ∀ r, CanIssue ps 0 0 pw pu r false ((op (.v 5) (.v 8) .none .none 0 0x1D).d.run 1) ∧ CanIssue ps 0 0 pw pu r false ((op (.v 5) (.v 8) .none .none 1 0x1D).d.run 8) :=
  fun _ => ⟨can (by decide +kernel), can (by decide +kernel)⟩

theorem witness_laneMoves : ((op (.v 5) (.v 8) (.imm 3) .none 0 0x16).func.extractLsb' 2 3).toNat ≤ 5 ∧ ((op (.v 5) (.v 8) .none .none 5 9).func.setWidth 5).toNat ≠ 0
    ∧ ∀ r, CanIssue ps 0 0 pw pu r false [5] := ⟨by decide, by decide, fun _ => can (by decide +kernel)⟩

theorem witness_votes : ((op (.v 5) .none .none .none 0 0x08).func.extractLsb' 4 2).toNat = 0 ∧ ((op .none .none .none .none 0 0x28).func.extractLsb' 4 2).toNat = 2
    ∧ ∀ r, CanIssue ps 0 0 pw pu r false [5] ∧ CanIssue ps 0 0 pw pu r false [] := ⟨by decide, by decide, fun _ => ⟨can (by decide +kernel), can (by decide +kernel)⟩⟩

theorem witness_ReductionsAndScans : ∀ r, CanIssue ps 0 0 pw pu r false ((op (.v 5) (.v 8) .none .none 0 0x38).d.run 1) ∧ CanIssue ps 0 0 pw pu r false ((op (.s 5) (.v 8) .none .none 0 0x38).d.run 1) :=
  fun _ => ⟨can (by decide +kernel), can (by decide +kernel)⟩

end Sys2Proof.Tests
end

