-- ==== Sys2Proof/Tests/Control.lean ====
section
/-! SUPPORT. Witnesses of the statements about control, predicates, special registers, traps, barriers and waits. -/

set_option maxRecDepth 100000
-- Each theorem is elaborated and checked before the next one starts.
set_option Elab.async false

namespace Sys2Proof.Tests

open Sys2Proof Sys2Proof.Machine Sys2Proof.Claims

/-! ## States -/

/-- A pair with a known second part. -/
theorem pairOf {α β : Type} {p : α × β} {b : β} (h : p.2 = b) : ∃ a, p = (a, b) := ⟨p.1, by rw [← h]⟩

/-- A word of memory. -/
def poke (s : State) (a n v : Nat) : State := { s with mem := Store.setBytes s.mem a (leBytes n v) }

/-- A guard on a depth. -/
def on (k : BitVec 3) (x : Op) : Op := { x with grd := some { neg := false, dep := k } }

/-- An instruction without operands, and one that jumps. -/
def op0 : Op := op .none .none .none .none 0 0
def jump (l : W64) (mod : BitVec 6) : Op := { op0 with lit := some l, mod := mod }

/-- The warp with a stack of one page. -/
def sw : Warp := { pw with stkptr := 0x8000, stktop := 0x8000 }
def ss : State := with' sw

/-! ## Jumps and branches (R192 to R201) -/

theorem witness_jumpsAndCalls : IsJump (.ret (op .none (.s 9) .none .none 0 0)) (op .none (.s 9) .none .none 0 0) 12 (fun w u => opVal w u none 0 (.s 9)) false true
    ∧ (opVal pw pu none 0 (.s 9)).toNat % 4 = 0 ∧ IsJump (.bra (jump 9 0)) (jump 9 0) 20 (fun _ u => tgtOf (jump 9 0) u) false false ∧ ∀ r, CanIssue ps 0 0 pw pu r false [] :=
  ⟨.ret (op .none (.s 9) .none .none 0 0), by decide +kernel, .bra (.ext _), fun _ => can (by decide +kernel)⟩

/-- p0 divides, p1 takes every lane, p2 none. -/
theorem witness_uniformBranches : Form2 (.braPk 1) (.braPkBase 1) 0x71 (.braPk 1 (jump 0x800000009 0)) (jump 0x800000009 0) 20 ∧ pw.pred 1 &&& pu.exec = pu.exec ∧ pw.pred 1 ≠ 0
    ∧ pw.pred 2 &&& pu.exec = 0 ∧ ∀ r, CanIssue ps 0 0 pw pu r false [] := ⟨.ext _, by decide +kernel, by decide +kernel, by decide +kernel, fun _ => can (by decide +kernel)⟩

/-- A split: p0 divides, an entry and a SUBID are free. A serial branch: MOD bit 1 asks for it, and the record's line opens. -/
theorem witness_branchesDivide : Form2 (.braPk 0) (.braPkBase 0) 0x71 (.braPk 0 (jump 0x800000009 0)) (jump 0x800000009 0) 20
    ∧ pw.pred 0 &&& pu.exec ≠ 0 ∧ pw.pred 0 &&& pu.exec ≠ pu.exec ∧ ss.freeSplit (coreOf 0) = some 0 ∧ ss.freeSub 0 = some 1
    ∧ (jump 0x800000009 2).mod.getLsbD 1 = true ∧ sw.stklim.toNat + 32 ≤ sw.stkptr.toNat
    ∧ (∃ s2, (entered ss 0 0 sw pu false).stackOpen 0 (sw.stkptr.toNat - 32) = (s2, true)) ∧ ∀ r, CanIssue ss 0 0 sw pu r false [] :=
  ⟨.ext _, by decide +kernel, by decide +kernel, by decide +kernel, by decide +kernel, by decide, by decide +kernel, pairOf (by decide +kernel), fun _ => can (by decide +kernel)⟩

/-- A BRX whose indices all pass its table of one entry, so that every lane goes to the next instruction. -/
theorem witness_branchesDivide_brx : ((brxTargets 0 pu.pc 0x40 20 1 (fun l => ((opVal pw pu none l (.v 2)).setWidth 32).toNat) (lanesOf pu.exec) (entered ps 0 0 pw pu false)).2.toOption.map
      (fun ts => (ts.headD (0, 0)).2 = 20 ∧ maskOf (fun l => ts.any (fun p => p.1 = l && p.2 = 20)) = pu.exec)) = some True := by
  have h : ((brxTargets 0 pu.pc 0x40 20 1 (fun l => ((opVal pw pu none l (.v 2)).setWidth 32).toNat) (lanesOf pu.exec) (entered ps 0 0 pw pu false)).2.toOption)
    = some ((List.range 32).map (fun l => (l, 20))) := by decide +kernel
  rw [h]; simp only [Option.map_some, Option.some.injEq, eq_iff_iff, iff_true]; decide +kernel

theorem witness_splitMakesTwoUnits : ss.warp? 0 = some sw ∧ unitOf sw.units 0 = some pu ∧ ss.freeSplit (coreOf 0) = some 0 ∧ ss.freeSub 0 = some 1 := by decide +kernel

theorem witness_serialBranchPushes : ss.warp? 0 = some sw ∧ unitOf sw.units 0 = some pu ∧ sw.stkptr.toNat % 32 = 0 ∧ 32 ≤ sw.stkptr.toNat
    ∧ (sw.stack.get SLine.empty (stackLine (sw.stkptr.toNat - 32))).words.length = 4 := by decide +kernel

theorem witness_nopRgnYield : Form2 .nop .nopBase 0x3F (.nopBase (bw 0 0 0 0)) ((bw 0 0 0 0).op 0x3F false) 4 ∧ pu.entered = false ∧ ∀ r e, CanIssue ps 0 0 pw pu r e [] :=
  ⟨.base _, rfl, fun _ e => by cases e <;> exact can (by decide +kernel)⟩

theorem witness_sleepWaits : ((opVal pw pu none 0 (.imm 0)).setWidth 32).toNat = 0 ∧ ((opVal pw pu none 0 (.s 2)).setWidth 32).toNat ≠ 0 ∧ ∀ r, CanIssue ps 0 0 pw pu r false [] :=
  ⟨by decide +kernel, by decide +kernel, fun _ => can (by decide +kernel)⟩

/-- Half the lanes exit. -/
theorem witness_exitEndsLanes : pu.owned &&& ~~~guardMask pw pu.exec (on 0 op0).grd ≠ 0 ∧ pw.helpers = 0 ∧ ∀ r, CanIssue ps 0 0 pw pu r false [] :=
  ⟨by decide +kernel, rfl, fun _ => can (by decide +kernel)⟩

/-- A unit with nothing to reach, one with a split entry, and one with a serial record in each phase. -/
def recLine (phase : W64) : AMap Nat SLine := [(stackLine 0x7FE0, { words := [some (0x100, true), some (0x200, true), some (0xFFFFFFFF0000FFFF, true), some (phase, true)] })]
def serialUnit : WUnit := { pu with serial := [0x7FE0] }
def serialWarp (phase : W64) : Warp := { sw with stkptr := 0x7FE0, stack := recLine phase, units := [serialUnit] }

theorem witness_fuseReaches : (pu.serial = [] ∧ pu.entry = none ∧ ∀ r, CanIssue ps 0 0 pw pu r false [])
    ∧ (∀ r, CanIssue (with' (one { pu with entry := some 3 })) 0 0 (one { pu with entry := some 3 }) { pu with entry := some 3 } r false [])
    ∧ (∀ r, CanIssue (with' (serialWarp 0)) 0 0 (serialWarp 0) serialUnit r false [])
    ∧ (∃ s1, (entered (with' (serialWarp 0)) 0 0 (serialWarp 0) serialUnit false).serialRec 0 0x7FE0 = (s1, some { ntpc := 0x100, rcpc := 0x200, masks := 0xFFFFFFFF0000FFFF, phase := 0 }))
    ∧ ∃ s1, (entered (with' (serialWarp 1)) 0 0 (serialWarp 1) serialUnit false).serialRec 0 0x7FE0 = (s1, some { ntpc := 0x100, rcpc := 0x200, masks := 0xFFFFFFFF0000FFFF, phase := 1 }) :=
  ⟨⟨rfl, rfl, fun _ => can (by decide +kernel)⟩, fun _ => can (by decide +kernel), fun _ => can (by decide +kernel), pairOf (by decide +kernel), pairOf (by decide +kernel)⟩

/-! ## Predicates and special registers (R202 to R204, R215, R216) -/

theorem witness_PredicatesAndExec : IsMask (.ppopBase (bw 0 0 0 1)) ((bw 0 0 0 1).op 0x64 false) 4 (fun w u r =>
      let n := (((bw 0 0 0 1).op 0x64 false).mod.setWidth 2).toNat + 1
      { r with preds := fun k => ((if k + n ≤ 7 then w.pred (k + n) else 0) &&& u.exec) ||| (w.pred k &&& ~~~u.exec) }) ∧ ∀ r, CanIssue ps 0 0 pw pu r false [] :=
  ⟨.ppop (.base _), fun _ => can (by decide +kernel)⟩

theorem witness_readsSpecialRegisters : (op (.v 5) (.x .stkptr) .none .none 0 0).a = .x .stkptr ∧ specialVal ss sw pu 0 .stkptr = some 0x8000
    ∧ ∀ r, CanIssue ss 0 0 sw pu r false [5] ∧ CanIssue ss 0 0 sw pu r false [] := ⟨rfl, rfl, fun _ => ⟨can (by decide +kernel), can (by decide +kernel)⟩⟩

/-- STKPTR takes a value between the limit and the top, at either bound; a value that is no multiple of 32; one above the top. -/
theorem witness_writesSpecialRegisters : (op (.x .stkptr) (.s 1) .none .none 0 0).d = .x .stkptr ∧ (0x8000 : W64).toNat % 32 = 0 ∧ sw.stklim.toNat ≤ (0 : W64).toNat ∧ (0x8000 : W64).toNat ≤ sw.stktop.toNat
    ∧ (0x7FF0 : W64).toNat % 32 ≠ 0 ∧ sw.stktop.toNat < (0x8020 : W64).toNat ∧ (0x8020 : W64).toNat % 32 = 0
    ∧ ∀ v, v ∈ [(0 : W64), 0x8000, 0x7FF0, 0x8020] → opVal { sw with sregs := [(1, v)] } pu none 0 (.s 1) = v ∧ ∀ r, CanIssue (with' { sw with sregs := [(1, v)] }) 0 0 { sw with sregs := [(1, v)] } pu r false [] :=
  ⟨rfl, by decide, by decide, by decide +kernel, by decide, by decide +kernel, by decide, by
    intro v hv
    fin_cases hv <;> exact ⟨by decide +kernel, fun _ => can (by decide +kernel)⟩⟩

/-! ## Traps (R213, R214, R381 to R388) -/

/-- The probe's queue with a debugger. -/
def watched : State := poke ps (0x60000 + 82) 1 8

theorem witness_TrapTretBrk : (guardMask pw pu.exec (on 2 op0).grd = 0 ∧ guardMask pw pu.exec (on 0 op0).grd ≠ 0 ∧ pw.trappc.toNat % 4 = 0 ∧ ({ pw with trappc := 6 } : Warp).trappc.toNat % 4 ≠ 0
    ∧ (ps.launchOf 0 = some (0, probeLaunch) ∧ ps.attached probeLaunch = false) ∧ (watched.launchOf 0 = some (0, probeLaunch) ∧ watched.attached probeLaunch = true))
    ∧ ∀ r, CanIssue ps 0 0 pw pu r false [] ∧ CanIssue watched 0 0 pw pu r false [] ∧ CanIssue (with' { pw with trappc := 6 }) 0 0 { pw with trappc := 6 } pu r false [] :=
  ⟨by decide +kernel, fun _ => ⟨can (by decide +kernel), can (by decide +kernel), can (by decide +kernel)⟩⟩

theorem witness_GetworkReturnsSegment : guardMask pw pu.exec none ≠ 0 ∧ guardMask (one { pu with exec := 0 }) 0 none = 0 ∧ ∀ r, CanIssue ps 0 0 pw pu r false []
    ∧ CanIssue (with' (one { pu with exec := 0 })) 0 0 (one { pu with exec := 0 }) { pu with exec := 0 } r false [] :=
  ⟨by decide +kernel, by decide +kernel, fun _ => ⟨can (by decide +kernel), can (by decide +kernel)⟩⟩

/-- v5 is mapped, v50 is not, v6 is deferred, v7 is new and v8 pending. -/
def lists : Warp := { pw with names := (6, { st := .deferred, val := zeroLanes }) :: someNames.filter (fun p => p.1 ≠ 6 ∧ p.1 ≠ 8), newList := [7], pending := [{ name := 8, val := zeroLanes, slot := none, prior := false }] }

theorem witness_registerLists : lists.mapped 50 = false ∧ lists.mapped 5 = true ∧ lists.names.find? 6 = some { st := .deferred, val := zeroLanes } ∧ 7 ∈ lists.newList ∧ 8 ∉ lists.newList
    ∧ lists.pending.filter (fun q => q.name = 8) = [{ name := 8, val := zeroLanes, slot := none, prior := false }] ∧ (0x10 : W32) ≠ 0 := by decide +kernel

/-- A read of v50 where it traps; a write of v50 with the maximum at the held count; the same with room in the maximum, but a warp of the quadrant that holds the whole pool. -/
def trapping : Warp := { pw with wstat := wsUnmapTrap }
def atMax : Warp := { pw with regsMax := 40 }
def greedy : Warp := { pw with wg := 7, units := [], names := (List.range 1536).map (fun n => (n, { st := .mapped, val := [] })) }
def younger : Warp := { pw with lseq := 1 }
def crowded : State := { with' younger with warps := [(0, younger), (1, greedy)], handles := 9 }

theorem witness_allocationChecks : IntOp.Is .add (.iadd (op (.v 50) (.v 50) (.imm 1) .none 0 0)) (op (.v 50) (.v 50) (.imm 1) .none 0 0) 12
    ∧ (trapping.wstat &&& wsUnmapTrap ≠ 0 ∧ trapping.mapped 50 = false ∧ AtIssue (with' trapping) 0 0 trapping pu ∧ Quiet (with' trapping) 0 trapping)
    ∧ (newNames atMax [50] ≠ [] ∧ atMax.regsMax < (entryWarp atMax 0 true).held + (newNames atMax [50]).length ∧ AtIssue (with' atMax) 0 0 atMax pu)
    ∧ (newNames younger [50] ≠ [] ∧ (entryWarp younger 0 true).held + (newNames younger [50]).length ≤ younger.regsMax
        ∧ (entered crowded 0 0 younger pu false).grantable (quadOf 0) (younger.lseq, crowded.handles) (newNames younger [50]).length = false ∧ AtIssue crowded 0 0 younger pu) :=
  ⟨.ext _, ⟨by decide +kernel, by decide +kernel, ⟨by decide +kernel, by decide +kernel, by decide +kernel, rfl, by decide +kernel⟩,
      ⟨by decide +kernel, by decide +kernel, fun k h => by
        have h0 : (with' trapping).group? trapping.wg = some probeGroup := by decide +kernel
        cases h0.symm.trans h; rfl,
        fun p hp => by simp [show (with' trapping).cows = [] by decide +kernel] at hp⟩⟩,
    ⟨by decide +kernel, by decide +kernel, (can (r := Res.plain atMax pu op0 12) (e := false) (ns := []) (by decide +kernel)).now⟩,
    ⟨by decide +kernel, by decide +kernel, by decide +kernel, (can (r := Res.plain younger pu op0 12) (e := false) (ns := []) (by decide +kernel)).now⟩⟩

theorem quiet : Quiet ps 0 pw := (can_probe (r := Res.plain pw pu op0 12) (e := false) (ns := []) (by decide +kernel)).quiet

theorem witness_replayedFaultStops : (TrapInfo.unit 1 1 0x123).replay = true ∧ ps.warp? 0 = some pw ∧ unitOf pw.units 0 = some pu ∧ pu.looks = [] ∧ Quiet ps 0 pw :=
  ⟨by decide, by decide +kernel, by decide +kernel, rfl, quiet⟩

theorem witness_replayStartsRegion : ps.warp? 0 = some pw ∧ unitOf pw.units 0 = some pu := by decide +kernel

/-- A division of the stack page takes the frame; the class is the software trap. -/
def handled : Warp := { sw with traph := 0x400 }

theorem witness_HandlerEntry : handled.traph ≠ 0 ∧ (TrapInfo.unit 11 0 0).handled = true ∧ handled.handler = false ∧ handled.stkptr.toNat % 32 = 0 ∧ handled.stklim.toNat + 1024 ≤ handled.stkptr.toNat
    ∧ (∀ k, k < 32 → (handled.stack.get SLine.empty (stackLine (handled.stkptr.toNat - 1024 + 32 * k))).words.length = 4)
    ∧ (∃ s1, ((with' handled).endStroke 0 0 (.trap 11) .ready).stackReach 0 (lineHeads ((handlerFrame pu (TrapInfo.unit 11 0 0) (handled.stkptr.toNat - 1024)).map (·.1))) = (s1, none))
    ∧ Quiet (with' handled) 0 handled :=
  ⟨by decide +kernel, by decide, rfl, by decide +kernel, by decide +kernel, by decide +kernel, pairOf (by decide +kernel), (can (u := pu) (r := Res.plain handled pu op0 12) (e := false) (ns := []) (by decide +kernel)).quiet⟩

theorem witness_haltingTrapEndsWarp : (TrapInfo.unit 0 2 0).replay = false ∧ pw.traph = 0 ∧ pw.mops = [] ∧ ps.group? pw.wg = some probeGroup ∧ ps.launch? probeGroup.launch = some probeLaunch ∧ Quiet ps 0 pw :=
  ⟨by decide, rfl, rfl, by decide +kernel, by decide +kernel, quiet⟩

/-! ## Barriers (R205, R206) -/

/-- The phase is over once the warp's unit is recorded; before that it is not. -/
def recorded : Barrier := { Barrier.empty with units := [(0, 0)] }
theorem witness_barrierCompletes : ((∃ i, arrivedAt ps probeGroup recorded i) ∧ ∀ p ∈ ps.liveWarps probeGroup, arrivedAt ps probeGroup recorded p.1)
    ∧ ¬ ((∃ i, arrivedAt ps probeGroup Barrier.empty i) ∧ ∀ p ∈ ps.liveWarps probeGroup, arrivedAt ps probeGroup Barrier.empty p.1) := by
  have h : ps.liveWarps probeGroup = [(0, pw)] := by decide +kernel
  have a : arrivedAt ps probeGroup recorded 0 := .inr ⟨pw, by rw [h]; exact List.mem_singleton.2 rfl, ⟨pu, by decide +kernel, by decide +kernel⟩, fun v hv _ => by
    have : v = pu := by simpa [pw, probeWarp, pu] using hv
    subst this; decide⟩
  refine ⟨⟨⟨0, a⟩, fun p hp => ?_⟩, fun hh => ?_⟩
  · rw [h] at hp; cases List.mem_singleton.1 hp; exact a
  · have hb := hh.2 (0, pw) (by rw [h]; exact List.mem_singleton.2 rfl)
    rcases hb with hb | ⟨w, hw, -, hv⟩
    · simp [Barrier.empty] at hb
    · rw [h] at hw
      cases List.mem_singleton.1 hw
      have := hv pu (by decide +kernel) (by decide +kernel)
      simp [Barrier.empty] at this

/-- Barriers 0 to 4 of the group: fresh, arrived, with a BARA of the phase before, with one of this phase and arrived, with one of this phase and not arrived. -/
def barGroup : Group := { probeGroup with bars := [Barrier.empty, { Barrier.empty with arrived := [0] }, { Barrier.empty with phase := 1, bara := [(0, 0, [])] },
  { Barrier.empty with arrived := [0], bara := [(0, 0, [])] }, { Barrier.empty with bara := [(0, 0, [])] }] ++ List.replicate 11 Barrier.empty }
def barState : State := { ps with groups := [(0, barGroup)] }

theorem witness_barriers : ((pw.wgw ∉ (barState.barrier 0 0).arrived ∧ (barState.barrier 0 0).oldBara 0 0 = none ∧ (barState.barrier 0 0).hasBara 0 = false)
    ∧ (pw.wgw ∈ (barState.barrier 0 1).arrived ∧ (barState.barrier 0 1).oldBara 0 0 = none ∧ (barState.barrier 0 1).hasBara 0 = false)
    ∧ (barState.barrier 0 2).oldBara 0 0 = some 0
    ∧ ((barState.barrier 0 3).oldBara 0 0 = none ∧ (barState.barrier 0 3).hasBara 0 = true ∧ pw.wgw ∈ (barState.barrier 0 3).arrived)
    ∧ ((barState.barrier 0 4).oldBara 0 0 = none ∧ (barState.barrier 0 4).hasBara 0 = true ∧ pw.wgw ∉ (barState.barrier 0 4).arrived)
    ∧ (∀ b ∈ [(0 : BitVec 10), 1, 2, 3, 4], (opVal pw pu none 0 (.imm b)).toNat % 16 = b.toNat)) ∧ ∀ r, CanIssue barState 0 0 pw pu r false [] :=
  ⟨by decide +kernel, fun _ => can (by decide +kernel)⟩

/-- Entry 1 lists workgroup 0, which completes it alone, entry 2 lists workgroups 0 and 1; entry 3 lists none. -/
def groupLaunch : Launch := { probeLaunch with groups := [[], [0], [0, 1], []], gdone := [0, 0, 0, 0] }
def groupState : State := { ps with launches := [(0, groupLaunch)] }
def arriveAt (e : Nat) : State :=
  (((entered groupState 0 0 pw pu false).modGroup pw.wg (fun k => if k.garr.contains (e, pw.wgw, 0) then k else { k with garr := k.garr ++ [(e, pw.wgw, 0)] })).checkEntry 0 e)

theorem witness_groupBarrier : groupState.launchOf 0 = some (0, groupLaunch) ∧ groupState.group? pw.wg = some probeGroup ∧ probeGroup.lin ∉ groupLaunch.groups.getD 3 []
    ∧ probeGroup.relaunched = false ∧ probeGroup.lin ∈ groupLaunch.groups.getD 1 [] ∧ probeGroup.lin ∈ groupLaunch.groups.getD 2 []
    ∧ groupLaunch.gdone.getD 1 0 < (((arriveAt 1).launch? 0).map (fun l => l.gdone.getD 1 0)).getD 0 ∧ (((arriveAt 2).launch? 0).map (fun l => l.gdone.getD 2 0)).getD 0 ≤ groupLaunch.gdone.getD 2 0
    ∧ ∀ r, CanIssue groupState 0 0 pw pu r false [] :=
  ⟨by decide +kernel, by decide +kernel, by decide +kernel, rfl, by decide +kernel, by decide +kernel, by decide +kernel, by decide +kernel, fun _ => can (by decide +kernel)⟩

end Sys2Proof.Tests
end

