-- ==== Sys2Proof/Tests/Memory.lean ====
section
/-! SUPPORT. Witnesses of the statements about waits on words, memory, the scratchpad, the stack and sampling. -/

set_option maxRecDepth 100000
-- Each theorem is elaborated and checked before the next one starts.
set_option Elab.async false

namespace Sys2Proof.Tests

open Sys2Proof Sys2Proof.Machine Sys2Proof.Claims

/-! ## Results -/

/-- What a check answers. -/
def passed : Checked → Option (List Acc)
  | .ok _ as => some as
  | .trap _ => none
def trapped : Checked → Bool
  | .ok _ _ => false
  | .trap _ => true

theorem passedOf {c : Checked} {as : List Acc} (h : passed c = some as) : ∃ s, c = .ok s as := by
  cases c with
  | ok s bs => exact ⟨s, by cases h; rfl⟩
  | trap t => cases h
theorem trappedOf {c : Checked} (h : trapped c = true) : ∃ t, c = .trap t := by
  cases c with
  | ok s bs => cases h
  | trap t => exact ⟨t, rfl⟩

/-- A translation that succeeds, with its address, entry and the entry's place. -/
def found : State × Xlat → Option (Nat × W64 × Nat)
  | (_, .ok pa pte addr) => some (pa, pte, addr)
  | (_, .fail _ _) => none
theorem foundOf {r : State × Xlat} {x : Nat × W64 × Nat} (h : found r = some x) : ∃ s, r = (s, .ok x.1 x.2.1 x.2.2) := by
  obtain ⟨s, y⟩ := r
  cases y with
  | ok pa pte addr => exact ⟨s, by cases h; rfl⟩
  | fail c k => cases h

/-- One lane, lane 0. -/
def lane0 : WUnit := { pu with exec := 1 }
def ow : Warp := one lane0
def os : State := with' ow

/-! ## Waiting on a word (R208 to R212) -/

/-- The word at 0x40 of page 0 is 0; s9 holds its address. It equals 0 and is not 5. -/
theorem witness_watchAndWaitw : (opVal pw pu none 0 (.s 9)).toNat % 8 = 0 ∧ (opVal pw pu none 0 (.s 2)).toNat % 8 ≠ 0 ∧ guardMask pw pu.exec none ≠ 0
    ∧ (∃ s1 pa pte addr, (entered ps 0 0 pw pu false).xlatCore (coreOf 0) ((entered ps 0 0 pw pu false).rootOf 0) (opVal pw pu none 0 (.s 9)) .read = (s1, .ok pa pte addr))
    ∧ ((entered ps 0 0 pw pu false).xlatCore (coreOf 0) ((entered ps 0 0 pw pu false).rootOf 0) (opVal pw pu none 0 (.s 9)) .read).1.memReady 0x50040 = true
    ∧ passes 64 0 (BitVec.ofNat 64 0) (-1) ((0 : W64) &&& -1) ∧ ¬ passes 64 0 (BitVec.ofNat 64 0) (-1) ((5 : W64) &&& -1)
    ∧ (ps.armWatch { cmp := 0, w64 := true, kind := 0, pa := 0x50040, mask := -1, ref := 5, waiter := 0, fired := false }).isSome = true
    ∧ ∀ r, CanIssue ps 0 0 pw pu r false [] :=
  ⟨by decide +kernel, by decide +kernel, by decide +kernel, ⟨_, _, _, _, (foundOf (x := (0x50040, 0x50217, 0x40000)) (by decide +kernel)).choose_spec⟩, by decide +kernel,
    by simp [passes], by simp [passes], by decide +kernel, fun _ => can (by decide +kernel)⟩

/-- With no active lane. -/
theorem witness_watchAndWaitw_idle : guardMask pw pu.exec (on 2 op0).grd = 0 ∧ guardMask (one { pu with exec := 0 }) 0 none = 0 := by decide +kernel

/-- A full watch table: every entry of the home die is in use. -/
def full : State := ps.modDie 0 (fun x => { x with watches := (List.range 4096).map (fun i => (i, { cmp := 0, w64 := true, kind := 2, pa := 0, mask := 0, ref := 0, waiter := 0, fired := false })) })
theorem find_map (e : Watch) : ∀ (xs : List Nat) (i : Nat), i ∈ xs → (AMap.find? (xs.map (fun i => (i, e))) i).isSome = true
  | x :: xs, i, h => by
    simp only [List.map_cons, AMap.find?]
    by_cases hx : x = i
    · simp [hx]
    · simp only [hx, if_false]
      exact find_map e xs i (by simpa [Ne.symm hx] using h)
theorem witness_watchAndWaitw_full (e : Watch) (h : full.homeDie e.pa = 0) : full.armWatch e = none := by
  have hw : (full.die 0).watches = (List.range 4096).map (fun i => (i, ({ cmp := 0, w64 := true, kind := 2, pa := 0, mask := 0, ref := 0, waiter := 0, fired := false } : Watch))) := rfl
  simp only [State.armWatch, h, hw, Option.map_eq_none_iff, List.find?_eq_none]
  intro i hi
  have := find_map { cmp := 0, w64 := true, kind := 2, pa := 0, mask := 0, ref := 0, waiter := 0, fired := false } (List.range 4096) i hi
  cases hf : AMap.find? ((List.range 4096).map (fun i => (i, ({ cmp := 0, w64 := true, kind := 2, pa := 0, mask := 0, ref := 0, waiter := 0, fired := false } : Watch)))) i with
  | none => rw [hf] at this; cases this
  | some v => simp

/-- The mailbox, other bits with it, a queue that is not the launch's interface's, and one that is. -/
def queued : State :=
  let s := poke (poke ps (0x60000 + 81) 1 3) (0x60000 + 82) 2 (4 + 5 * 16)
  { s with queues := [{ qid := 5, qcb := 0x60000 }] }.setPkgReg (.vifcfg 0) 0xFFFFFFFF0001

theorem witness_softwareInterrupt : guardMask pw pu.exec none &&& ~~~pw.helpers ≠ 0 ∧ guardMask pw pu.exec (on 2 op0).grd &&& ~~~pw.helpers = 0 ∧ queued.launchOf 0 = some (0, probeLaunch)
    ∧ (0x8000000000000000 : W64).getLsbD 63 = true ∧ (0x8000000000000000 : W64).setWidth 12 = (0 : BitVec 12) ∧ (0x8000000000000005 : W64).setWidth 12 ≠ (0 : BitVec 12)
    ∧ queued.ownQueue probeLaunch.vif ((6 : W64).setWidth 12).toNat = none ∧ queued.ownQueue probeLaunch.vif ((5 : W64).setWidth 12).toNat = some { qid := 5, qcb := 0x60000 }
    ∧ ∀ r, CanIssue queued 0 0 pw pu r false [] := ⟨by decide +kernel, by decide +kernel, by decide +kernel, by decide, by decide, by decide, by decide +kernel, by decide +kernel, fun _ => can (by decide +kernel)⟩

/-! ## Loads and stores (R247 to R261) -/

/-- LD.z64 v5, v2, 6: lane l reads at 8 + l, so lane 0 alone is aligned; LD.z64 v5, s9, 0 reads 0x40. -/
def ldx : Op := op (.v 5) (.v 2) (.imm 6) .none 3 0
def lds9 : Op := op (.v 5) (.s 9) (.imm 0) .none 3 0

theorem witness_loads : (∃ t, (ctxAt ps 0 0 pw pu ldx).checkMem (loadLanes pw pu ldx) (eaOf pw pu ldx) (memItem ldx) (memCount ldx) (memItem ldx) .read = .trap t)
    ∧ (∃ s1, (ctxAt os 0 0 ow lane0 ldx).checkMem (loadLanes ow lane0 ldx) (eaOf ow lane0 ldx) (memItem ldx) (memCount ldx) (memItem ldx) .read
        = .ok s1 [{ lane := 0, k := 0, va := 8, pa := 0x50008, pte := 0x50217, addr := 0x40000 }])
    ∧ ∀ r, CanIssue ps 0 0 pw pu r false [5] ∧ CanIssue os 0 0 ow lane0 r false [5] :=
  ⟨trappedOf (by decide +kernel), passedOf (by decide +kernel), fun _ => ⟨can (by decide +kernel), can (by decide +kernel)⟩⟩

/-- The page as a versioned one, VS set and record 0 of the table at 0x900000, whose current version is 3; and with CW set too. -/
def versioned (cw ptea : Nat) : State :=
  let s := (poke os 0x40000 8 (0x50217 + 2 ^ 7 + cw * 2 ^ 6)).setDieReg 0 .whvrt (BitVec.ofNat 64 (0x900000 + 4))
  s.writeVrec 0x900000 { cur := 3, nimg := 0, cpy := false, live := true, rtd := false, ptea := ptea, slots := [(0, 0), (0, 0), (0, 0)], retv := 0, rsv := false }
def ldvx (v : BitVec 10) : Op := op (.v 5) (.s 9) (.imm 0) (.imm v) 3 0
def vAcc : Acc := { lane := 0, k := 0, va := 0x40, pa := 0x50040, pte := 0x50297, addr := 0x40000 }

/-- Version 3 is there, version 4 is not. -/
theorem witness_versionedLoads : (∃ s1, (ctxAt (versioned 0 0x40000) 0 0 ow lane0 (ldvx 3)).checkMem (loadLanes ow lane0 (ldvx 3)) (eaOf ow lane0 (ldvx 3)) 8 1 8 .read = .ok s1 [vAcc])
    ∧ (checkVersions (versioned 0 0x40000) 4 [vAcc]).2.filter (fun f => !inMask ow.helpers f.1) ≠ [] ∧ (checkVersions (versioned 0 0x40000) 3 [vAcc]).2.filter (fun f => !inMask ow.helpers f.1) = []
    ∧ (checkVersions (versioned 0 0x40000) 3 [vAcc]).1 = [vAcc] ∧ ∀ r, CanIssue (versioned 0 0x40000) 0 0 ow lane0 r false [5] :=
  ⟨passedOf (by decide +kernel), by decide +kernel, by decide +kernel, by decide +kernel, fun _ => can (by decide +kernel)⟩

/-- A sector the core holds, and one it does not; a page whose version 2 is an image. -/
def cached : State := ps.modCore 0 (fun c => { c with l1 := [(0x50000 / 32, List.replicate 32 7)] })
theorem witness_loadedValue : ps.memOk = true ∧ inHole 0x50008 = false ∧ 0x50008 % Path.generic.fill + 8 ≤ Path.generic.fill ∧ (((ps.touch 0x40000 false).core 0).cache .generic).find? (0x50008 / 32) = none
    ∧ (((cached.touch 0x40000 false).core 0).cache .generic).find? (0x50008 / 32) = some (List.replicate 32 7) ∧ pteScope 0x50217 ≠ 2 ∧ pteScope 0x50217 = 1 ∧ (ps.dirEnt 0x50008).st ≠ .u
    ∧ ((versioned 0 0x40000).touch 0x40000 false).isImage 0x40000 2 = true := by decide +kernel

/-- ST.z64 of one lane at 0x40, and of lane 0 at 3, which is not aligned. -/
def stx : Op := op .none (.s 9) (.imm 0) (.v 7) 3 0
def stOdd : Op := op .none (.s 2) (.imm 0) (.v 7) 3 0
/-- The item at 0x40. -/
def sAcc : Acc := { lane := 0, k := 0, va := 0x40, pa := 0x50040, pte := 0x50217, addr := 0x40000 }
theorem witness_Stores : os.memOk = true ∧ (∃ t, (ctxAt os 0 0 ow lane0 stOdd).checkMem (realLanes ow lane0 stOdd) (eaOf ow lane0 stOdd) 8 1 8 .write = .trap t)
    ∧ (∃ s1, (ctxAt os 0 0 ow lane0 stx).checkMem (realLanes ow lane0 stx) (eaOf ow lane0 stx) 8 1 8 .write = .ok s1 [sAcc])
    ∧ cowFails os [sAcc] = [] ∧ (pteVS (os.leaf sAcc.addr) && pteCW (os.leaf sAcc.addr)) = false ∧ leavesApart os [sAcc] 8
    ∧ ∀ r, CanIssue os 0 0 ow lane0 r false [] :=
  ⟨by decide +kernel, trappedOf (by decide +kernel), passedOf (by decide +kernel), by decide +kernel, by decide +kernel, by simp [leavesApart, sAcc, show os.partials = [] from rfl], fun _ => can (by decide +kernel)⟩

/-- A page with CW set: the copy starts; a record of another entry; a copy in progress; one that has found no frame for 1 ms. -/
def pageCopy (late : Bool) : Cow := { pte := 0x40000, vrec := 0x900000, die := 0, old := 5, frame := none, empty := some 0, timedOut := late, late := [] }
def copying (late : Bool) : State := { versioned 1 0x40000 with cows := [(0x40000, pageCopy late)] }
def cowAcc : Acc := { sAcc with pte := 0x502D7 }
theorem witness_Stores_copy : cowFails (versioned 1 0x40000) [cowAcc] = [] ∧ cowFails (versioned 1 8) [cowAcc] = [(0, 1, 5)] ∧ cowFails (copying true) [cowAcc] = [(0, 1, 7)]
    ∧ (pteVS ((copying false).leaf 0x40000) && pteCW ((copying false).leaf 0x40000)) = true ∧ (copying false).cows.find? 0x40000 = some (pageCopy false) ∧ ((pageCopy false).timedOut && (pageCopy false).frame.isNone) = false
    ∧ (∃ s1, (ctxAt (copying false) 0 0 ow lane0 stx).checkMem (realLanes ow lane0 stx) (eaOf ow lane0 stx) 8 1 8 .write = .ok s1 [cowAcc])
    ∧ ∀ r n, n ∈ [[], [5]] → CanIssue (copying false) 0 0 ow lane0 r false n ∧ CanIssue (versioned 1 8) 0 0 ow lane0 r false n :=
  ⟨by decide +kernel, by decide +kernel, by decide +kernel, by decide +kernel, by decide +kernel, rfl, passedOf (by decide +kernel), fun _ n hn => by
    fin_cases hn <;> exact ⟨can (by decide +kernel), can (by decide +kernel)⟩⟩

theorem witness_Scratchpad : os.group? ow.wg = some probeGroup ∧ os.memOk = true ∧ (scrCheck (ctxAt os 0 0 ow lane0 lds9) probeGroup (loadLanes ow lane0 lds9) (eaOf ow lane0 lds9) 8 8).toOption = some [0]
    ∧ (scrCheck (ctxAt os 0 0 ow lane0 stx) probeGroup (realLanes ow lane0 stx) (eaOf ow lane0 stx) 8 8).toOption = some [0]
    ∧ (scrCheck (ctxAt os 0 0 ow lane0 stOdd) probeGroup (realLanes ow lane0 stOdd) (eaOf ow lane0 stOdd) 8 8).toOption = none ∧ probeGroup.nbH = 0
    ∧ ∀ r, CanIssue os 0 0 ow lane0 r false [5] ∧ CanIssue os 0 0 ow lane0 r false [] := ⟨by decide +kernel, by decide +kernel, by decide +kernel, by decide +kernel, by decide +kernel, rfl, fun _ => ⟨can (by decide +kernel), can (by decide +kernel)⟩⟩

/-- ATOM.add.z64 and ATOM.cas.z64 of lane 0 at 0x40, where memory holds 0: a cas against 3 keeps it, and against 0 does not. -/
def atomx : Op := op (.v 5) (.s 9) (.imm 0) (.v 7) 0 0xB0
def casx : Op := op (.v 5) (.s 9) (.s 2) (.v 7) 0 0xB7
theorem witness_atomics : (∃ s1, (ctxAt os 0 0 ow lane0 atomx).checkMem (realLanes ow lane0 atomx) (eaOf ow lane0 atomx) 8 1 8 .write = .ok s1 [{ lane := 0, k := 0, va := 0x40, pa := 0x50040, pte := 0x50217, addr := 0x40000 }])
    ∧ (∃ s1, (ctxAt os 0 0 ow lane0 (on 2 atomx)).checkMem (realLanes ow lane0 (on 2 atomx)) (eaOf ow lane0 atomx) 8 1 8 .write = .ok s1 [])
    ∧ ((os.touch 0x40000 false).homeRead (dieOf 0) (pteScope 0x50217) 0x50040 8).2 = 0 ∧ atomOp casx = 7 ∧ (0 : Nat) ≠ (opVal ow lane0 casx.lit 0 casx.b).toNat % 2 ^ 64
    ∧ (pteVS (os.leaf 0x40000) && pteCW (os.leaf 0x40000)) = false ∧ atomOp atomx ≠ 7 ∧ (∃ m, atomx.d = .v m)
    ∧ (∃ s1, (ctxAt (copying false) 0 0 ow lane0 atomx).checkMem (realLanes ow lane0 atomx) (eaOf ow lane0 atomx) 8 1 8 .write = .ok s1 [cowAcc]) ∧ ∀ r, CanIssue os 0 0 ow lane0 r false [5] :=
  ⟨passedOf (by decide +kernel), passedOf (by decide +kernel), by decide +kernel, by decide, by decide +kernel, by decide +kernel, by decide, ⟨_, rfl⟩, passedOf (by decide +kernel), fun _ => can (by decide +kernel)⟩

/-- The page is package-shared, and no watch is on the line; the same page of scope D. -/
def dieShared : State := poke os 0x40000 8 0x50207
theorem witness_reductions : os.partials = [] ∧ os.watchedLine (lineOf 0x50040) = false ∧ pteScope 0x50217 = 1 ∧ pteScope 0x50207 ≠ 1
    ∧ (∃ s1, (ctxAt os 0 0 ow lane0 atomx).checkMem (realLanes ow lane0 atomx) (eaOf ow lane0 atomx) 8 1 8 .write = .ok s1 [{ lane := 0, k := 0, va := 0x40, pa := 0x50040, pte := 0x50217, addr := 0x40000 }])
    ∧ (∃ s1, (ctxAt dieShared 0 0 ow lane0 atomx).checkMem (realLanes ow lane0 atomx) (eaOf ow lane0 atomx) 8 1 8 .write = .ok s1 [{ lane := 0, k := 0, va := 0x40, pa := 0x50040, pte := 0x50207, addr := 0x40000 }])
    ∧ ∀ r, CanIssue os 0 0 ow lane0 r false [] ∧ CanIssue dieShared 0 0 ow lane0 r false [] :=
  ⟨rfl, by decide +kernel, by decide, by decide, passedOf (by decide +kernel), passedOf (by decide +kernel), fun _ => ⟨can (by decide +kernel), can (by decide +kernel)⟩⟩

theorem witness_FencesAndPrefetch : (op .none .none .none .none 3 0).mod.getLsbD 0 = true ∧ (op .none .none .none .none 2 0).mod.getLsbD 0 = false ∧ ∀ r, CanIssue ps 0 0 pw pu r false [] :=
  ⟨by decide, by decide, fun _ => can (by decide +kernel)⟩

/-- A stack of one page: a push of one register fits at the top and not at the bottom, a pop fits below the top and not at it. -/
def low : Warp := { sw with stkptr := 0x7F00, stack := [] }
def bottom : Warp := { sw with stkptr := 0xE0 }
/-- One whose stack no page backs. -/
def wild : Warp := { sw with stklim := 0x40000000, stkptr := 0x40008000, stktop := 0x40010000 }
theorem witness_StackFrames : 256 * 1 + sw.stklim.toNat ≤ sw.stkptr.toNat ∧ bottom.stkptr.toNat < 256 * 1 + bottom.stklim.toNat ∧ sw.stktop.toNat < sw.stkptr.toNat + 256 * 1 ∧ low.stkptr.toNat + 256 * 1 ≤ low.stktop.toNat
    ∧ (∃ s1, (entered ss 0 0 sw pu false).stackReach 0 (lineHeads (((List.range 1).flatMap (fun k => (realLanes sw pu op0).map (fun l => (0x8000 - 256 + 256 * k + 8 * l, nthVal sw pu l (.v 3) k)))).map (·.1))) = (s1, none))
    ∧ (frameRead 0 0x7F00 0 [(0, 0), (31, 0)] (entered (with' low) 0 0 low pu false)).2.toOption.isSome = true
    ∧ ((entered (with' wild) 0 0 wild pu false).stackReach 0 (lineHeads (((List.range 1).flatMap (fun k => (realLanes wild pu op0).map (fun l => (0x40008000 - 256 + 256 * k + 8 * l, nthVal wild pu l (.v 3) k)))).map (·.1)))).2.isSome = true
    ∧ (frameRead 0 0x40008000 0 [(0, 0), (31, 0)] (entered (with' wild) 0 0 wild pu false)).2.toOption = none
    ∧ ∀ r, CanIssue (with' wild) 0 0 wild pu r false [5] ∧ CanIssue (with' wild) 0 0 wild pu r false [] ∧ CanIssue ss 0 0 sw pu r false [5] ∧ CanIssue (with' low) 0 0 low pu r false [5] ∧ CanIssue (with' bottom) 0 0 bottom pu r false [] :=
  ⟨by decide +kernel, by decide +kernel, by decide +kernel, by decide +kernel, pairOf (by decide +kernel), by decide +kernel, by decide +kernel, by decide +kernel, fun _ => by
    refine ⟨can ?_, can ?_, can ?_, can ?_, can ?_⟩ <;> decide +kernel⟩

end Sys2Proof.Tests
end

