-- ==== Sys2Proof/Tests/Units.lean ====
section
/-! SUPPORT. Witnesses of the statements about tiles, blocks, textures, engine commands, the matrix engine, rays, rasters, grids and coverage. -/

set_option maxRecDepth 100000
-- Each theorem is elaborated and checked before the next one starts.
set_option Elab.async false

namespace Sys2Proof.Tests

open Sys2Proof Sys2Proof.Machine Sys2Proof.Claims

/-! ## Results and states -/

/-- The value a check gives, and its error. -/
def right {ε α : Type} : State × Except ε α → Option α
  | (_, .ok a) => some a
  | (_, .error _) => none
def wrong {ε α : Type} : State × Except ε α → Option ε
  | (_, .ok _) => none
  | (_, .error e) => some e
theorem failedOf {ε α : Type} {p : State × Except ε α} (h : (wrong p).isSome = true) : ∃ s e, p = (s, .error e) := by
  obtain ⟨s, e | a⟩ := p
  · exact ⟨s, e, rfl⟩
  · cases h
theorem lostOf {r : State × Xlat} (h : found r = none) : ∃ s, ∃ x : Nat × Nat, r = (s, .fail x.1 x.2) := by
  obtain ⟨s, y⟩ := r
  cases y with
  | ok pa pte addr => cases h
  | fail c k => exact ⟨s, (c, k), rfl⟩
theorem rightOf {ε α : Type} {p : State × Except ε α} (h : (right p).isSome = true) : ∃ s a, p = (s, .ok a) := by
  obtain ⟨s, a | a⟩ := p
  · cases h
  · exact ⟨s, a, rfl⟩
theorem rightIs {ε α : Type} {p : State × Except ε α} {a : α} (h : right p = some a) : ∃ s, p = (s, .ok a) := by
  obtain ⟨s, b | b⟩ := p
  · cases h
  · cases h; exact ⟨s, rfl⟩
theorem wrongOf {ε α : Type} {p : State × Except ε α} {e : ε} (h : wrong p = some e) : ∃ s, p = (s, .error e) := by
  obtain ⟨s, b | b⟩ := p
  · cases h; exact ⟨s, rfl⟩
  · cases h

/-- The warp with more scalars: s20 and s21 give a shape of 32 rows of 8 bytes, s22 is past the scratchpad, s23 has a reserved bit, s24 is in a page that is not mapped. -/
def uw : Warp := { pw with sregs := pw.sregs ++ [(20, 0x0040402000000000), (21, 1), (22, 786432), (23, 0x0040402002000000), (24, 0x40000000)] }
def us : State := with' uw
def low32 : Shape := { base := 0, rows := 32, cols := 8, esz := 1, layout := 0, pitch := 1 }
/-- Tile 0 configured, in a state. -/
def tiled (st rd : Nat) (sf : Bool) (h : Shape) : State := us.setTile 0 0 { shape := h, conf := true, state := st, gen := 0, readers := rd, swfill := sf }

/-! ## Tiles (R262 to R265) -/

def tcfg : Op := op .none (.imm 0) (.s 20) (.s 21) 0 0
theorem witness_TileStates : (us.group? uw.wg = some probeGroup ∧ (opVal uw pu none 0 (.imm 0)).toNat % 256 < probeGroup.tiles ∧ ¬ (opVal uw pu none 0 (.imm 4)).toNat % 256 < probeGroup.tiles
    ∧ (tileAt us probeGroup uw pu tcfg).conf = false ∧ (tileAt us probeGroup uw pu tcfg).state = 0 ∧ (tileAt (tiled 1 0 true low32) probeGroup uw pu tcfg).conf = true
    ∧ (tileAt (tiled 1 0 true low32) probeGroup uw pu tcfg).state = 1 ∧ (tileAt (tiled 1 0 true low32) probeGroup uw pu tcfg).swfill = true ∧ (tileAt (tiled 2 0 false low32) probeGroup uw pu tcfg).state = 2
    ∧ (tileAt (tiled 2 1 false low32) probeGroup uw pu tcfg).readers ≠ 0 ∧ guardMask uw pu.exec none ≠ 0 ∧ guardMask uw pu.exec (on 2 op0).grd = 0)
    ∧ ∀ r, CanIssue us 0 0 uw pu r false [] ∧ CanIssue (tiled 1 0 true low32) 0 0 uw pu r false [] ∧ CanIssue (tiled 2 0 false low32) 0 0 uw pu r false [] ∧ CanIssue (tiled 2 1 false low32) 0 0 uw pu r false [] :=
  ⟨by decide +kernel, fun _ => ⟨can (by decide +kernel), can (by decide +kernel), can (by decide +kernel), can (by decide +kernel)⟩⟩
/-- A legal shape; one with a reserved bit, and one whose base is not aligned. -/
theorem witness_TileStates_shapes : ShapeFits probeGroup.window (shapeIn (opVal uw pu none 0 (.s 20)) (opVal uw pu none 0 (.s 21))) ∧ (opVal uw pu none 0 (.s 20)).extractLsb' 25 7 = (0 : BitVec 7)
    ∧ (opVal uw pu none 0 (.s 20)).extractLsb' 60 4 = (0 : BitVec 4) ∧ (opVal uw pu none 0 (.s 21)).extractLsb' 16 48 = (0 : BitVec 48) ∧ (opVal uw pu none 0 (.s 23)).extractLsb' 25 7 ≠ (0 : BitVec 7)
    ∧ ¬ ShapeFits probeGroup.window (shapeIn (opVal uw pu none 0 (.s 2)) (opVal uw pu none 0 (.s 21))) := by unfold ShapeFits elemFits; decide +kernel

theorem witness_tileElementsReadBack : us.memOk = true ∧ probeGroup.nbH = 0 ∧ ShapeFits probeGroup.window low32 ∧ 3 < low32.rows ∧ 7 < low32.cols ∧ elemFits probeGroup.window low32 3 7 := by unfold ShapeFits elemFits; decide +kernel

/-- LDT and STT of one element for each lane at row l, of column 0. Eight elements of 64 bits are too many. -/
def ldt (m : BitVec 6) : Op := op (.v 5) (.imm 0) (.v 0) .none m 0
def stt : Op := op .none (.imm 0) (.v 0) (.v 7) 0 0
/-- A tile of four rows, so that the lanes past the third name none; a run past the last register, and one that ends before it. -/
theorem witness_tileElements_far : (tileAt (tiled 2 0 false { low32 with rows := 4 }) probeGroup uw pu stt).state = 2 ∧ (rowOf uw pu stt 31 = 31 ∧ inMask uw.helpers 31 = false ∧ 31 ∈ realLanes uw pu stt)
    ∧ 2 ^ ((3 : BitVec 6).setWidth 2).toNat * (4 <<< 3) ≤ 256 ∧ (∃ m ∈ (Operand.v 2047).run 4, 2048 ≤ m) ∧ ∀ m ∈ (Operand.v 5).run 4, m < 2048 :=
  ⟨by decide +kernel, by decide +kernel, by decide, by decide, by decide⟩
theorem witness_tileElements : (tiled 2 0 false low32).memOk = true ∧ (tiled 2 0 false low32).group? uw.wg = some probeGroup ∧ (∀ l, l < 32 → inTile low32 uw pu (ldt 0) 1 l)
    ∧ 256 < 2 ^ ((3 : BitVec 6).setWidth 2).toNat * (4 <<< 4) ∧ (∃ l, l ∈ realLanes uw pu stt) ∧ (∀ l, l ∉ realLanes uw pu (on 2 stt)) ∧ (∀ l ∈ realLanes uw pu stt, inTile low32 uw pu stt 1 l)
    ∧ (∀ l ∈ realLanes uw pu stt, ∀ l' ∈ realLanes uw pu stt, l ≠ l' → rowOf uw pu stt l ≠ rowOf uw pu stt l')
    ∧ ∀ r, CanIssue (tiled 2 0 false low32) 0 0 uw pu r false [5] ∧ CanIssue (tiled 2 0 false { low32 with esz := 4 }) 0 0 uw pu r false [5] ∧ CanIssue (tiled 3 0 false low32) 0 0 uw pu r false [5]
        ∧ CanIssue (tiled 2 0 false low32) 0 0 uw pu r false [] ∧ CanIssue (tiled 1 0 true low32) 0 0 uw pu r false [] ∧ CanIssue (tiled 0 0 false low32) 0 0 uw pu r false [] :=
  ⟨by decide +kernel, by decide +kernel, by unfold inTile; decide +kernel, by decide, ⟨3, by decide +kernel⟩,
    by rw [show realLanes uw pu (on 2 stt) = [] by decide +kernel]; simp, by unfold inTile; decide +kernel, by decide +kernel,
    fun _ => ⟨can (by decide +kernel), can (by decide +kernel), can (by decide +kernel), can (by decide +kernel), can (by decide +kernel), can (by decide +kernel)⟩⟩

/-! ## SEND and SAMP -/

/-- The route of no hops; one past the edge. -/
theorem witness_sendQueuesBlock : (us.launchOf 0 = some (0, probeLaunch) ∧ route us 0 0 0x8000000000000000 = some 0 ∧ route us 0 0 0x8100000000000000 = none ∧ guardMask uw pu.exec none &&& ~~~uw.helpers ≠ 0
    ∧ guardMask uw pu.exec (on 2 op0).grd &&& ~~~uw.helpers = 0 ∧ (opVal uw pu none 0 (.imm 8)).toNat % 8 = 0 ∧ (opVal uw pu none 0 (.imm 4)).toNat % 8 ≠ 0 ∧ (opVal uw pu none 0 (.s 2)).toNat % 8 ≠ 0
    ∧ 786432 < (opVal uw pu none 0 (.s 22)).toNat + 256 ∧ (opVal uw pu none 0 (.s 22)).toNat % 8 = 0 ∧ (opVal uw pu none 0 (.imm 8)).toNat + 256 ≤ 786432 ∧ (opVal uw pu none 0 (.s 9)).toNat % 8 = 0
    ∧ (opVal uw pu none 0 (.s 24)).toNat % 8 = 0)
    ∧ (∃ s1, (entered us 0 0 uw pu false).xlatCore (coreOf 0) (us.rootOf 0) (opVal uw pu none 0 (.s 9)) .write = (s1, .ok 0x50040 0x50217 0x40000))
    ∧ (∃ s1, ∃ x : Nat × Nat, (entered us 0 0 uw pu false).xlatCore (coreOf 0) (us.rootOf 0) (opVal uw pu none 0 (.s 24)) .write = (s1, .fail x.1 x.2))
    ∧ ∀ r, CanIssue us 0 0 uw pu r false [] :=
  ⟨by decide +kernel, foundOf (x := (0x50040, 0x50217, 0x40000)) (by decide +kernel), lostOf (by decide +kernel), fun _ => can (by decide +kernel)⟩

/-- A texture record of zeros at 0x40: one FP32 texel at 0. The same with its texel in a page that is not mapped; one at an address that is not aligned. -/
def samp (a : BitVec 7) : Op := op (.v 5) (.s a) (.v 0) .none 0 0
def noTexel : State := poke (with' ow) 0x50040 8 0x100000
theorem witness_sampleTexture : (∃ s1, (ctxAt os 0 0 ow lane0 (samp 2)).texRec (samp 2) = (s1, .error 1)) ∧ (∃ s1 t, (ctxAt os 0 0 ow lane0 (samp 9)).texRec (samp 9) = (s1, .ok t))
    ∧ (∀ m ∈ (Operand.v 0).run 3, ow.mapped m = true)
    ∧ (texLanes 0 1 (TexRec.ofBytes (List.replicate 64 0)) false 1 (fun _ => [0, 0, 0]) [0] (entered os 0 0 ow lane0 false)).2.2 = []
    ∧ (∃ s1 t, (ctxAt noTexel 0 0 ow lane0 (samp 9)).texRec (samp 9) = (s1, .ok t))
    ∧ (texLanes 0 1 (TexRec.ofBytes (leBytes 64 0x100000)) false 1 (fun _ => [0, 0, 0]) [0] noTexel).2.2.filter (fun f => !inMask ow.helpers f.1) ≠ []
    ∧ ∀ r, CanIssue os 0 0 ow lane0 r false [5] ∧ CanIssue noTexel 0 0 ow lane0 r false [5] :=
  ⟨wrongOf (by decide +kernel), rightOf (by decide +kernel), by decide +kernel, by decide +kernel, rightOf (by decide +kernel), by decide +kernel, fun _ => ⟨can (by decide +kernel), can (by decide +kernel)⟩⟩

/-! ## Engine commands (R270 to R276) -/

/-- Descriptors at 0x40: a COPYIN to tile 0, which is Ready or has a reader, of bytes or of nibbles; a HALO of one neighbour. -/
def eng (a : BitVec 7) (b : Operand) : Op := op .none (.s a) b (.s 9) 0 0
def halo : State := poke us 0x50040 24 (5 + 2 ^ 128)
def nibbles : Shape := { low32 with esz := 0 }
theorem witness_EngineCommands : us.launchOf 0 = some (0, probeLaunch) ∧ engCheck 0 (eng 2 (.imm 0)) (ctxAt us 0 0 uw pu (eng 2 (.imm 0))) ≠ none
    ∧ engCheck 0 (eng 9 (.imm 0)) (ctxAt (tiled 2 0 false low32) 0 0 uw pu (eng 9 (.imm 0))) = none ∧ engCheck 5 (eng 9 (.imm 0)) (ctxAt halo 0 0 uw pu (eng 9 (.imm 0))) = none
    ∧ (∃ s1 a, (ctxAt (tiled 2 0 false low32) 0 0 uw pu (eng 9 (.imm 0))).engRead 0 (eng 9 (.imm 0)) = (s1, .ok a)) ∧ (∃ s1 a, (ctxAt halo 0 0 uw pu (eng 9 (.imm 0))).engRead 5 (eng 9 (.imm 0)) = (s1, .ok a))
    ∧ ((ctxAt (tiled 2 0 false low32) 0 0 uw pu (eng 9 (.imm 0))).tileEntry 0 false).isSome = true ∧ guardMask uw pu.exec none &&& ~~~uw.helpers ≠ 0 ∧ guardMask uw pu.exec (on 2 op0).grd &&& ~~~uw.helpers = 0
    ∧ nibbles.esz = 0 ∧ ((ctxAt (tiled 2 0 false nibbles) 0 0 uw pu (eng 9 (.imm 1))).engCoord (eng 9 (.imm 1))).map (fun b => b.toNat % 2) = some 1
    ∧ ∀ r, CanIssue us 0 0 uw pu r false [] ∧ CanIssue (tiled 2 0 false low32) 0 0 uw pu r false [] ∧ CanIssue (tiled 2 1 false low32) 0 0 uw pu r false [] ∧ CanIssue (tiled 2 0 false nibbles) 0 0 uw pu r false []
        ∧ CanIssue halo 0 0 uw pu r false [] :=
  ⟨by decide +kernel, by decide +kernel, by decide +kernel, by decide +kernel, rightOf (by decide +kernel), rightOf (by decide +kernel), by decide +kernel, by decide +kernel, by decide +kernel, rfl, by decide +kernel,
    fun _ => ⟨can (by decide +kernel), can (by decide +kernel), can (by decide +kernel), can (by decide +kernel), can (by decide +kernel)⟩⟩

/-! ## The matrix engine (R277 to R296) -/

/-- An FP64 multiply: A is v0 to v3, B is v8 and v9. The same with B from tile 0, of doubles. One of FMT 4 whose words differ by lane. -/
def mma : Op := op .none (.v 0) (.v 8) .none 0 0
def mmaTile : Op := op .none (.v 0) (.imm 0) .none 0 0
def mmaWords : Op := op .none (.v 0) (.v 8) (.v 9) 0 (4 * 64)
def two : WUnit := { pu with exec := 3 }
def wide64 : Shape := { base := 0, rows := 16, cols := 16, esz := 4, layout := 0, pitch := 16 }
def someOp (done : Bool) : MOp :=
  { id := 0, kind := .mma, fmt := 0, cont := 0, rows := 0xFFFFFFFF, row0 := 0, col0 := 0, sel := 0, fpcr := 0, joint := 1, jseq := 0, aRegs := List.replicate 4 (constLanes 0x3FF0000000000000), aSrc := .regs,
    bRegs := List.replicate 2 (constLanes 0x4000000000000000), bSrc := .regs, aNames := [], bNames := [], aw := constLanes 0, bw := 0, drain := .none, add := false, atype := 0, held := [], look := none, emul := false,
    spoilt := 0, bSpoilt := false, fence := 0, pages := [], done := done, flags := 0, batch := none }
def busyW : Warp := { uw with mops := List.replicate 32 (someOp false) }
/-- A word that is no format. -/
def mmaNone : Op := op .none (.v 0) (.v 8) (.imm 8) 0 (4 * 64)
theorem witness_MatrixMultiplyQueues : (mulCheck .mma mma (ctxAt us 0 0 uw pu mma) = none ∧ mulCheck .mma mma (ctxAt (with' busyW) 0 0 busyW pu mma) = none
    ∧ mulCheck .mma mmaTile (ctxAt us 0 0 uw pu mmaTile) ≠ none ∧ mulCheck .mma mmaTile (ctxAt (tiled 2 0 false wide64) 0 0 uw pu mmaTile) = none
    ∧ ((ctxAt (tiled 2 0 false wide64) 0 0 uw pu mmaTile).tileEntry 0 false).isSome = true ∧ 32 ≤ (busyW.mops.filter (fun o => !o.done)).length ∧ ¬ 32 ≤ (uw.mops.filter (fun o => !o.done)).length
    ∧ mulDecode .mma mma (ctxAt us 0 0 uw pu mma) = none ∧ (mulDecode .mma mmaNone (ctxAt us 0 0 uw pu mmaNone)).isSome = true)
    ∧ ReadsOk uw (mma.a.run 4 ++ mma.b.run 2 ++ mma.c.run 1)
    ∧ ∀ r, CanIssue us 0 0 uw pu r false [] ∧ CanIssue (with' busyW) 0 0 busyW pu r false [] ∧ CanIssue (tiled 2 0 false wide64) 0 0 uw pu r false [] :=
  ⟨by decide +kernel, .inr (by decide +kernel),
    fun _ => ⟨can (by decide +kernel), can (by decide +kernel), can (by decide +kernel)⟩⟩

theorem witness_MatrixMultiplyQueues_words : mulCheck .mma mmaWords (ctxAt (with' (one two)) 0 0 (one two) two mmaWords) = none ∧ inMask (guardMask (one two) two.exec none) 0 = true
    ∧ inMask (guardMask (one two) two.exec none) 1 = true ∧ (opVal (one two) two none 0 (.v 9)).setWidth 32 ≠ (opVal (one two) two none 1 (.v 9)).setWidth 32
    ∧ ∀ r, CanIssue (with' (one two)) 0 0 (one two) two r false [] := ⟨by decide +kernel, by decide +kernel, by decide +kernel, by decide +kernel, fun _ => can (by decide +kernel)⟩

/-- One operation queued. -/
def opW : Warp := { uw with mops := [someOp false] }
theorem witness_MatrixMultiplyPerforms : (with' opW).warp? 0 = some opW ∧ opW.units ≠ [] ∧ opW.nextOp = some (someOp false) ∧ (with' opW).group? opW.wg = some probeGroup ∧ (someOp false).kind = .mma
    ∧ (someOp false).joint ≤ 1 ∧ (someOp false).fmt < 4 ∧ (someOp false).emul = false ∧ (someOp false).spoilt = 0 ∧ (someOp false).bSpoilt = false ∧ (someOp false).aSrc = .regs ∧ (someOp false).bSrc = .regs ∧ (someOp false).col0 ≤ 48 := by decide +kernel

/-- Region 0 lies inside the 32 rows, region 1 does not. -/
def accOf (f : BitVec 10) : Op := op (.v 16) (.v 0) .none .none 0 f
theorem witness_accumulatorMovesQueue : (us.group? uw.wg = some probeGroup ∧ ((accOf 0).func.setWidth 4).toNat * 32 < probeGroup.accRows ∧ ¬ ((accOf 1).func.setWidth 4).toNat * 32 < probeGroup.accRows
    ∧ 32 ≤ (busyW.mops.filter (fun o => !o.done)).length ∧ ¬ 32 ≤ (uw.mops.filter (fun o => !o.done)).length ∧ guardMask uw pu.exec none ≠ 0)
    ∧ ∀ r, CanIssue us 0 0 uw pu r false [] ∧ CanIssue (with' busyW) 0 0 busyW pu r false [] ∧ CanIssue us 0 0 uw pu r false ((accOf 0).d.run 16) :=
  ⟨by decide +kernel, fun _ => ⟨can (by decide +kernel), can (by decide +kernel), can (by decide +kernel)⟩⟩

/-- MDRAIN of doubles to memory, one row of one lane at 0x40, or to tile 0; adding to it or not; with words that differ. -/
def toMem : Op := op .none (.s 9) (.imm 0) .none 16 0
def toTile (m : BitVec 6) : Op := op .none (.imm 0) .none .none m 0
def drainWords : Op := op .none (.imm 0) .none (.v 9) 16 (4 * 64)
def tileTwo : State := tiled 0 0 false { wide64 with rows := 32, pitch := 32 }
theorem witness_drainQueues : (drainDecode toMem (ctxAt os 0 0 ow lane0 toMem) = none ∧ (drainDecode { drainWords with c := .imm 8 } (ctxAt us 0 0 uw pu { drainWords with c := .imm 8 })).isSome = true) ∧ drainCheck toMem (ctxAt os 0 0 ow lane0 toMem) = none ∧ drainCheck (toTile 0) (ctxAt us 0 0 uw pu (toTile 0)) ≠ none ∧ drainCheck (toTile 0) (ctxAt tileTwo 0 0 uw pu (toTile 0)) = none
    ∧ drainCheck drainWords (ctxAt (with' (one two)) 0 0 (one two) two drainWords) = none
    ∧ (∃ s1 as, (ctxAt os 0 0 ow lane0 toMem).checkMem (realLanes ow lane0 toMem) (fun l => opVal ow lane0 none 0 (.s 9) + BitVec.ofNat 64 l * 0) 8 16 8 .write = .ok s1 as)
    ∧ (∃ t, (ctxAt os 0 0 ow lane0 toMem).checkMem (realLanes ow lane0 toMem) (fun _ => 3) 8 16 8 .write = .trap t)
    ∧ ((ctxAt tileTwo 0 0 uw pu (toTile 0)).tileEntry 0 false).map (fun e => e.2.2.state) = some 0 ∧ ((ctxAt (tiled 2 0 false low32) 0 0 uw pu (toTile 8)).tileEntry 0 false).map (fun e => e.2.2.readers) = some 0
    ∧ ∀ r, CanIssue os 0 0 ow lane0 r false [] ∧ CanIssue tileTwo 0 0 uw pu r false [] ∧ CanIssue (with' busyW) 0 0 busyW pu r false [] :=
  ⟨by decide +kernel, by decide +kernel, by decide +kernel, by decide +kernel, by decide +kernel, by
      obtain ⟨s1, h⟩ := passedOf (c := (ctxAt os 0 0 ow lane0 toMem).checkMem (realLanes ow lane0 toMem) (fun l => opVal ow lane0 none 0 (.s 9) + BitVec.ofNat 64 l * 0) 8 16 8 .write)
        (as := (List.range 16).map (fun i => { lane := 0, k := i, va := BitVec.ofNat 64 (0x40 + 8 * i), pa := 0x50040 + 8 * i, pte := 0x50217, addr := 0x40000 })) (by decide +kernel)
      exact ⟨s1, _, h⟩,
    trappedOf (by decide +kernel), by decide +kernel, by decide +kernel, fun _ => ⟨can (by decide +kernel), can (by decide +kernel), can (by decide +kernel)⟩⟩

/-- A warp with no batch closed, and two with sixteen closed, all complete and none complete. -/
def batches (closes lo : Nat) : Warp := { uw with closes := closes, batchLo := lo }
theorem witness_BatchesAndFormat : ¬ 16 ≤ (batches 0 0).closes ∧ 16 ≤ (batches 16 0).closes ∧ ¬ 16 - 16 < (batches 16 0).batchLo ∧ 16 - 16 < (batches 16 16).batchLo ∧ (batches 0 0).closes ≤ 3 ∧ 3 < (batches 16 0).closes
    ∧ (FWord.ofBits ((opVal uw pu none 0 (.imm 9)).setWidth 32).toNat).valid = true ∧ (FWord.ofBits ((opVal uw pu none 0 (.imm 8)).setWidth 32).toNat).valid = false
    ∧ (op .none .none .none .none 1 0).mod.getLsbD 0 = true ∧ (op .none .none .none .none 0 0).mod.getLsbD 0 = false
    ∧ ∀ r, CanIssue (with' (batches 0 0)) 0 0 (batches 0 0) pu r false [] ∧ CanIssue (with' (batches 16 0)) 0 0 (batches 16 0) pu r false [] ∧ CanIssue (with' (batches 16 16)) 0 0 (batches 16 16) pu r false [] :=
  ⟨by decide, by decide, by decide, by decide, by decide, by decide, by decide +kernel, by decide +kernel, by decide, by decide, fun _ => ⟨can (by decide +kernel), can (by decide +kernel), can (by decide +kernel)⟩⟩

/-! ## Rays and rasters (R300 to R312) -/

/-- A scene record at 0x40: one triangle at 0x100, the owner's entry of treelet 0 at 0x200. -/
def sceneBytes : Nat := 1 + 2 ^ 48 + 0x100 * 2 ^ 64 + 0x200 * 2 ^ 128 + magicScene.toNat * 2 ^ 256
def sceneS (w : Warp) : State := poke (with' w) 0x50040 40 sceneBytes
def helpW : Warp := { pw with helpers := 0xFFFFFFFF }
def rq : Op := op (.v 20) (.v 0) (.s 9) .none 0 0
theorem witness_rayQuery : (∃ s1, (ctxAt (sceneS ow) 0 0 ow lane0 rq).scene (opVal ow lane0 none 0 (.s 2)) = (s1, .error 1)) ∧ (∃ s1, (ctxAt os 0 0 ow lane0 rq).scene (opVal ow lane0 none 0 (.s 9)) = (s1, .error 3))
    ∧ (∃ s1 rc, (ctxAt (sceneS ow) 0 0 ow lane0 rq).scene (opVal ow lane0 none 0 (.s 9)) = (s1, .ok rc)) ∧ (rayOf ow lane0 rq 0).dead = false ∧ guardMask ow lane0.exec none ≠ 0 ∧ guardMask ow lane0.exec (on 2 op0).grd = 0
    ∧ (∃ s2 prims, readScene 0 1 (dwords (leBytes 64 sceneBytes) 8) (entered (sceneS ow) 0 0 ow lane0 false) = (s2, .ok prims))
    ∧ (∃ s2 e, readScene 0 1 (dwords (leBytes 64 (sceneBytes + 0x40000000 * 2 ^ 64)) 8) (entered (sceneS ow) 0 0 ow lane0 false) = (s2, .error e))
    ∧ (∀ l, l < 32 → inMask (guardMask helpW pu.exec none &&& ~~~helpW.helpers) l = false)
    ∧ ∀ r, CanIssue (sceneS ow) 0 0 ow lane0 r false (rq.d.run 2) ∧ CanIssue os 0 0 ow lane0 r false (rq.d.run 2) ∧ CanIssue (sceneS helpW) 0 0 helpW pu r false (rq.d.run 2) :=
  ⟨wrongOf (by decide +kernel), wrongOf (by decide +kernel), rightOf (by decide +kernel), by decide +kernel, by decide +kernel, by decide +kernel, rightOf (by decide +kernel), failedOf (by decide +kernel), by decide +kernel,
    fun _ => ⟨can (by decide +kernel), can (by decide +kernel), can (by decide +kernel)⟩⟩

/-- A ray along z from the origin, and a triangle it meets at t = 1. -/
def zRay : RayIn := { org := [0, 0, 0], tmin := 0, dir := [0, 0, 0x3F800000], tmax := 0x40000000, first := false, cullb := false }
def tri : List Nat := [0xBF800000, 0xBF800000, 0x3F800000, 0x3F800000, 0xBF800000, 0x3F800000, 0, 0x3F800000, 0x3F800000]
theorem witness_rayHitsTriangle : (vec3 zRay.org).isSome = true ∧ (vec3 zRay.dir).isSome = true ∧ (vec3 tri).isSome = true ∧ (vec3 (tri.drop 3)).isSome = true ∧ (vec3 (tri.drop 6)).isSome = true
    ∧ (hitPrim zRay 0 tri 5 0 0).map (fun h => h.idx) = some 5 ∧ ((hitPrim zRay 0 tri 5 0 0).bind (fun h => nearest [h])).isSome = true := by decide +kernel

/-- A launch that relaunches, with scene 0 at 0x40 and pools of one record. -/
def poolLaunch : Launch := { probeLaunch with record := [2 ^ 56] ++ List.replicate 19 0 ++ [0x1000] ++ List.replicate 11 0, relaunch := 0x40 :: List.replicate 24 0 }
def pooledS (w : Warp) : State := { sceneS w with launches := [(0, poolLaunch)] }
def rcast : Op := { op .none (.v 0) (.imm 0) (.v 20) 0 4 with lit := some 0 }
def rcastFar : Op := { rcast with lit := some 0x7FFFFFFF }
theorem poolCan (r : Res) : CanIssue (pooledS ow) 0 0 ow lane0 r false [] := can (by decide +kernel)
theorem witness_relaunchRecords : ((pooledS ow).launchOf 0 = some (0, poolLaunch) ∧ castCheck rcast (rcastScene rcast) (ctxAt (pooledS ow) 0 0 ow lane0 rcast) = none
    ∧ castCheck rcast (fun _ => none) (ctxAt (pooledS ow) 0 0 ow lane0 rcast) = none ∧ castCheck rcast (rcastScene rcast) (ctxAt os 0 0 ow lane0 rcast) ≠ none ∧ castCheck rcast (fun _ => none) (ctxAt os 0 0 ow lane0 rcast) ≠ none
    ∧ 2 ^ 21 ≤ (tgtOf rcastFar lane0 - BitVec.ofNat 64 poolLaunch.entry).toInt / 4) ∧ AtIssue (pooledS ow) 0 0 ow lane0 ∧ Quiet (pooledS ow) 0 ow
    ∧ castCheck rcast (rcastScene rcast) (ctxAt (pooledS pw) 0 0 pw pu rcast) = none
    ∧ (pooledS ow).poolHeld 0 0 + (realLanes ow lane0 rcast).length ≤ poolLaunch.poolCap 0 ∧ ¬ (pooledS pw).poolHeld 0 0 + (realLanes pw pu rcast).length ≤ poolLaunch.poolCap 0
    ∧ (∃ s1 rc, (ctxAt (pooledS ow) 0 0 ow lane0 rcast).scene (poolLaunch.sceneAt 0) = (s1, .ok rc))
    ∧ (∃ s2 b, genBytes 0 1 16 (sceneRoot (dwords (leBytes 64 sceneBytes) 8)) (entered (pooledS ow) 0 0 ow lane0 false) = (s2, .ok b))
    ∧ castCheck (on 2 rcast) (rcastScene rcast) (ctxAt (pooledS ow) 0 0 ow lane0 (on 2 rcast)) = none ∧ guardMask ow lane0.exec (on 2 rcast).grd = 0
    ∧ ∀ r, CanIssue (pooledS ow) 0 0 ow lane0 r false [] ∧ CanIssue (pooledS pw) 0 0 pw pu r false [] ∧ CanIssue os 0 0 ow lane0 r false [] :=
  ⟨by decide +kernel, (poolCan (Res.plain ow lane0 op0 12)).now, (poolCan (Res.plain ow lane0 op0 12)).quiet, by decide +kernel, by decide +kernel, by decide +kernel,
    rightOf (by decide +kernel), rightOf (by decide +kernel), by decide +kernel, by decide +kernel, fun _ => ⟨can (by decide +kernel), can (by decide +kernel), can (by decide +kernel)⟩⟩

/-- A launch of quads, whose triangle record at 0x40 names one triangle at 0x100. -/
def quadLaunch : Launch := { probeLaunch with record := [2 ^ 8, 0, 1 + 2 ^ 16 + 2 ^ 32, 8 + 4 * 2 ^ 11 + 2 ^ 22] ++ List.replicate 28 0 }
def quadS (w : Warp) : State := { poke (with' w) 0x50040 12 (0x100 + 2 ^ 64) with launches := [(0, quadLaunch)] }
def rast : Op := op (.v 20) .none (.s 9) .none 0 0
/-- The same with its triangle in a page that is not mapped. -/
def noTri : State := { poke (with' pw) 0x50040 12 (0x40000000 + 2 ^ 64) with launches := [(0, quadLaunch)] }
theorem witness_raster : ((quadS pw).launchOf 0 = some (0, quadLaunch) ∧ (quadS pw).group? pw.wg = some probeGroup ∧ rastCheck rast (ctxAt ps 0 0 pw pu rast) ≠ none ∧ rastCheck rast (ctxAt (quadS pw) 0 0 pw pu rast) = none
    ∧ guardMask pw pu.exec none ≠ 0 ∧ guardMask pw pu.exec (on 2 op0).grd = 0) ∧ (∃ s1 rc, (ctxAt noTri 0 0 pw pu rast).triRec (opVal pw pu none 0 (.s 9)) = (s1, .ok rc))
    ∧ (∃ s2 e, genBytes 0 1 36 0x40000000 (entered noTri 0 0 pw pu false) = (s2, .error e)) ∧ (∃ s1 rc, (ctxAt (quadS pw) 0 0 pw pu rast).triRec (opVal pw pu none 0 (.s 9)) = (s1, .ok rc))
    ∧ (∃ s2 b, genBytes 0 1 36 0x100 (entered (quadS pw) 0 0 pw pu false) = (s2, .ok b)) ∧ ∀ r, CanIssue (quadS pw) 0 0 pw pu r false (rast.d.run 2) ∧ CanIssue ps 0 0 pw pu r false (rast.d.run 2) :=
  ⟨by decide +kernel, rightOf (by decide +kernel), failedOf (by decide +kernel), rightOf (by decide +kernel), rightOf (by decide +kernel), fun _ => ⟨can (by decide +kernel), can (by decide +kernel)⟩⟩

/-! ## Grids and coverage (R313 to R322) -/

/-- A grid record at 0x40: one level of two features, of 2^10 entries. -/
def gridBytes : Nat := (1 + 10 * 2 ^ 8 + 2 * 2 ^ 16 + 2 ^ 32) * 2 ^ 192 + 0x3F800000 * 2 ^ 256
def gridS : State := poke os 0x50040 40 gridBytes
def hg : Op := op (.v 20) (.v 0) (.s 9) (.v 24) 0 0
theorem witness_gridFetchAndScatter : gridS.memOk = true ∧ (∃ s1 k, (ctxAt os 0 0 ow lane0 hg).grid hg hg.d = (s1, .error k)) ∧ (∃ s1 rc, (ctxAt gridS 0 0 ow lane0 hg).grid hg hg.d = (s1, .ok rc))
    ∧ gridL (dwords (leBytes 64 gridBytes) 8) * gridF (dwords (leBytes 64 gridBytes) 8) = 2
    ∧ (featLanes 0 1 (dwords (leBytes 64 gridBytes) 8) false (fun l => (List.range 3).map (fun i => gridCoord (nthVal ow lane0 l (.v 0) i).toNat)) [0] (entered gridS 0 0 ow lane0 false)).2.2 = []
    ∧ (∃ s1 rc, (ctxAt gridS 0 0 ow lane0 hg).grid hg hg.c = (s1, .ok rc))
    ∧ ((ctxAt gridS 0 0 ow lane0 hg).gradLane hg (dwords (leBytes 64 gridBytes) 8) 0).map (fun p => p.1.toNat % 4) = List.replicate 8 0
    ∧ (xlatEach 0 1 .write (fun _ => [(0, 0x40)]) [0] (entered gridS 0 0 ow lane0 false)).2.2 = []
    ∧ ∀ r, CanIssue os 0 0 ow lane0 r false (hg.d.run 1) ∧ CanIssue gridS 0 0 ow lane0 r false (hg.d.run 2) ∧ CanIssue gridS 0 0 ow lane0 r false [] :=
  ⟨by decide +kernel, ⟨_, 3, (wrongOf (by decide +kernel)).choose_spec⟩, rightOf (by decide +kernel), by decide +kernel, by decide +kernel, rightOf (by decide +kernel), by decide +kernel, by decide +kernel,
    fun _ => ⟨can (by decide +kernel), can (by decide +kernel), can (by decide +kernel)⟩⟩

/-- A launch under coverage: a row of 32 points at level 1 of the checkerboard of 2 by 2, each skipped point a probe. Point 2 is one, point 0 is not. -/
def covRec : List W64 := [0x400 + 0x10000 + 1 + 2 ^ 32, 0, 0x200, 0, 0, 32 + 2 ^ 32, 1 + 32 * 2 ^ 32 + 2 ^ 48, 1 + 2 ^ 16 + 2 ^ 32 + 2 ^ 48]
def covLaunch : Launch := { probeLaunch with cov := covRec, record := [2 ^ 11, 0, 1 + 2 ^ 16 + 2 ^ 32, 32 + 2 ^ 11 + 2 ^ 22] ++ List.replicate 15 0 ++ [0x300] ++ List.replicate 12 0 }
def covGroup : Group := { probeGroup with level := 1 }
def lane2 : WUnit := { pu with exec := 4 }
def covS (w : Warp) : State := { poke (with' w) 0x50300 1 1 with launches := [(0, covLaunch)], groups := [(0, covGroup)] }
def covp (f : BitVec 10) : Op := op (.v 20) (.v 0) .none .none 0 f
def covSrc (s : State) : List W64 :=
  let levels : AMap Nat (Option Nat) := [(0, s.blockLevel 0 covLaunch 0)]
  let rc := reconstruct (covKern covRec 1) (covSource covRec (fun _ => 0) (fun b => levels.get none b) 0) 2 0
  rc.2.map (fun t => covElem covRec (covOut covRec) (covPitch covRec) 1 t.2.1 t.2.2 0)
theorem witness_coverage : ((ctxAt ps 0 0 pw pu (covp 0)).covered = none ∧ (ctxAt (covS (one lane2)) 0 0 (one lane2) lane2 (covp 1)).covered = some (covLaunch, covGroup)
    ∧ ((covp 1).func.setWidth 2).toNat = covType covRec ∧ ((covp 0).func.setWidth 2).toNat ≠ covType covRec ∧ realLanes (one lane2) lane2 (covp 1) = [2] ∧ realLanes ow lane0 (covp 1) = [0]
    ∧ covLaunch.point 0 0 2 ∈ covProbes covRec (fun _ => 0) 1 0 ∧ covLaunch.point 0 0 0 ∉ covProbes covRec (fun _ => 0) 1 0
    ∧ covSrc (covS (one lane2)) = [0x204, 0x210]) ∧ (∃ s1 vs, covReads 0 1 4 (covSrc (covS (one lane2))) (entered (covS (one lane2)) 0 0 (one lane2) lane2 false) = (s1, .ok vs))
    ∧ ∀ r, CanIssue ps 0 0 pw pu r false ((covp 0).d.run 1) ∧ CanIssue (covS (one lane2)) 0 0 (one lane2) lane2 r false ((covp 1).d.run 1) ∧ CanIssue (covS ow) 0 0 ow lane0 r false ((covp 1).d.run 1) :=
  ⟨by decide +kernel, rightOf (by decide +kernel),
    fun _ => ⟨can (by decide +kernel), can (by decide +kernel), can (by decide +kernel)⟩⟩

/-! ## Decoding, encoding, the step -/

theorem witness_atomicOperations : atomOp atomx = 0 ∧ atomWidth (atomTy atomx) = 64 := by decide +kernel

/-- A NOP is next. -/
def atNop : State := State.reset.withFetchWord 32 0x0FC00000
theorem witness_StepRunsTheDecodedInstruction : atNop.tickDue = false ∧ atNop.staleOps = false ∧ atNop.agenda = [] ∧ atNop.stalled = false ∧ atNop.issuer = some (0, 0, probeUnit) ∧ atNop.atJoin 0 probeUnit = false
    ∧ ∃ s1 ws, atNop.fetch 0 probeUnit.pc = (s1, .ok ws) ∧ decode ws = .ok (.nopBase (bw 0 0 0 0)) 4 := by
  obtain ⟨s1, h⟩ := rightIs (p := atNop.fetch 0 probeUnit.pc) (a := [0x0FC00000]) (by decide +kernel)
  exact ⟨by decide +kernel, by decide +kernel, by decide +kernel, by decide +kernel, by decide +kernel, by decide +kernel, s1, _, h, by decide +kernel⟩

theorem witness_MemoryStaysCanonical : atNop.memOk = true := by decide +kernel

theorem witness_DecodeAndEncodeAgree : (Instr.iadd (op (.v 1) (.v 2) (.v 3) .none 0 0)).wf = true ∧ (Instr.iadd (op (.v 1) (.v 2) (.v 3) .none 0 0)).form ≠ .event := by decide +kernel

end Sys2Proof.Tests
end

