-- ==== Sys2Proof/Tests/Events.lean ====
section
/-! SUPPORT. Witnesses of the statements about events of warps, memory, engines and rays. -/

set_option maxRecDepth 100000
-- Each theorem is elaborated and checked before the next one starts.
set_option Elab.async false

namespace Sys2Proof.Tests

open Sys2Proof Sys2Proof.Machine Sys2Proof.Claims

/-! ## Warps, results, registers, the stack -/

/-- The probe's warp with its unit in a given state, and no unit in the middle of its slot. -/
def idle (st : USt) : WUnit := { pu with st := st }
def idleS (w : Warp) : State := { with' w with focus := none }
def rs : State := idleS (one (idle .ready))
def rcand : Cand := { g := 0, sub := 0, id := (one (idle .ready)).warpId 0, wait := 0, prio := 0, yielded := false }

theorem witness_strokeGrant : (rs.slotHeld 0 = false ∧ (rs.die (dieOfCore 0)).stall = none) ∧ IsCand ((rs.wakeQuad 0).settleQuad 0) 0 rcand
    ∧ (∀ d, IsCand ((rs.wakeQuad 0).settleQuad 0) 0 d → d ≠ rcand → outranks rcand d) ∧ Named ((rs.wakeQuad 0).settleQuad 0) := by
  have hs : (rs.wakeQuad 0).settleQuad 0 = rs := by decide +kernel
  have hw : rs.warps = [(0, one (idle .ready))] := rfl
  rw [hs]
  refine ⟨by decide +kernel, ⟨one (idle .ready), idle .ready, by rw [hw]; exact List.mem_singleton.mpr rfl, by decide +kernel⟩, ?_, ?_, ?_⟩
  · rintro ⟨g, sub, id, wait, prio, yld⟩ ⟨w, u, h, -, -, hu, -, -, -, h1, h2, h3, h4, h5⟩ hne
    rw [hw] at h
    simp only [List.mem_singleton, Prod.mk.injEq] at h
    obtain ⟨rfl, rfl⟩ := h
    simp only [one, List.mem_singleton] at hu
    subst hu
    simp only at h1 h2 h3 h4 h5
    refine absurd ?_ hne
    rw [h1, h2, h3, h4, h5]
    decide +kernel
  · intro g w h
    rw [hw] at h
    simp only [List.mem_singleton, Prod.mk.injEq] at h
    obtain ⟨rfl, rfl⟩ := h
    decide +kernel
  · intro g w u h hu
    rw [hw] at h
    simp only [List.mem_singleton, Prod.mk.injEq] at h
    obtain ⟨rfl, rfl⟩ := h
    simp only [one, List.mem_singleton] at hu
    subst hu
    decide +kernel

/-- A unit that waits in each of the ways of R22. -/
def waitS (x : Wait) : State := idleS (one (idle (.blocked x)))
theorem witness_waitsThatEnd : ∀ x ∈ [Wait.bar 0 0, .gbar 1 0, .sleep 0, .mwait 0, .alloc [50] 0, .watch 0 0 12], (waitS x).warp? 0 = some (one (idle (.blocked x)))
    ∧ unitOf (one (idle (.blocked x))).units 0 = some (idle (.blocked x)) ∧ (waitS x).group? pw.wg = some probeGroup ∧ (waitS x).launchOf 0 = some (0, probeLaunch) ∧ (waitS x).clk 0 < 2 ^ 63 := by
  intro x hx
  fin_cases hx <;> decide +kernel

/-- A result that is ready, for a register or a scalar. -/
def look (d : Dest) : Look := { id := 1, dests := [(d, constLanes 7)], lanes := 3, left := 0, ready := true, flags := 1, wover := [] }
def lookW (d : Dest) : Warp := one { idle .ready with looks := [look d] }
theorem witness_resultArrives : ∀ d ∈ [Dest.v 5, .s 5], (idleS (lookW d)).warp? 0 = some (lookW d) ∧ (lookW d).parked = false ∧ (idleS (lookW d)).core (coreOf 0) = { (idleS (lookW d)).core (coreOf 0) with split := [] }
    ∧ unitOf (lookW d).units 0 = some { idle .ready with looks := [look d] } ∧ (∀ v ∈ (lookW d).units, ∀ y ∈ v.looks, y.id = (look d).id → y.wover = []) := by
  intro d hd
  fin_cases hd <;> decide +kernel

/-- A unit that asks for v50, with room in its maximum and without; a parked warp with a spilled register. -/
def askS (w : Warp) : State := idleS { w with units := [idle (.blocked (.alloc [50] 0))] }
def spilled : Warp := { one (idle .ready) with parked := true, names := [(5, { st := .spilled 3 true, val := [] })] }
theorem witness_requestGranted : ((0, some 0, (pw.lseq, 0), 1) ∈ (askS pw).requests 0 ∧ (askS pw).grantable 0 (pw.lseq, 0) 1 = true ∧ (∀ r ∈ (askS pw).requests 0, r = (0, some 0, (pw.lseq, 0), 1))
      ∧ pw.held + (newNames pw [50]).length ≤ pw.regsMax ∧ atMax.regsMax < atMax.held + (newNames atMax [50]).length ∧ (0, some 0, (atMax.lseq, 0), 1) ∈ (askS atMax).requests 0)
    ∧ (idleS spilled).requests 0 = [(0, none, (spilled.lseq, 0), 1)] ∧ (idleS spilled).grantable 0 (spilled.lseq, 0) 1 = true ∧ spilled.faulted = false := by decide +kernel

/-- An older warp that waits for registers, and the probe's warp, at a barrier, above its reserve. -/
def older : Warp := { pw with lseq := 0, wg := 1, names := [], units := [{ idle (.blocked (.alloc [50] 0)) with sub := 0 }] }
def barred : Warp := { pw with lseq := 1, regsMin := 1, names := [(5, { st := .mapped, val := zeroLanes }), (6, { st := .mapped, val := zeroLanes })], units := [idle (.blocked (.bar 0 0))] }
def spillS : State := { idleS barred with warps := [(0, barred), (1, older)] }
theorem witness_victimSpilled : spillS.wakeQuad 0 = spillS ∧ spillS.requests 0 ≠ [] ∧ spillS.slotHeld 0 = false ∧ (∀ p ∈ spillS.quadWarps 0, p.2.spillOk = true) ∧ (0, barred) ∈ spillS.quadWarps 0
    ∧ barred.regsMin < barred.held ∧ (∃ r ∈ spillS.requests 0, r.1 ≠ 0 ∧ r.2.2.1.1 < barred.lseq) ∧ (∀ p ∈ spillS.quadWarps 0, p ≠ (0, barred) → p.2.lseq < barred.lseq ∨ p.2.faulted = true ∨ p.2.held ≤ p.2.regsMin)
    ∧ (barred.names.map (·.1)).Nodup ∧ (∀ p ∈ spillS.warps, spillS.warp? p.1 = some p.2 ∧ ∀ u ∈ p.2.units, unitOf p.2.units u.sub = some u) := by decide +kernel

/-- A line of the window at 0x7FE0, and one below it, clean or dirty. -/
def stackW (dirty : Bool) : Warp := { one (idle .ready) with stkptr := 0x8000, stktop := 0x8000, stack := [(0x200, { words := [some (5, dirty), none, none, none] })] }
theorem witness_stackLines : (stackW true).inWindow 0x400 = true ∧ (stackW true).inWindow 0x200 = false ∧ (idleS (stackW true)).warp? 0 = some (stackW true)
    ∧ (found ((idleS (stackW true)).xlatCore (coreOf 0) ((idleS (stackW true)).rootOf 0) (BitVec.ofNat 64 (0x400 * 32)) .read)).isSome = true
    ∧ found ((idleS (stackW true)).xlatCore (coreOf 0) ((idleS (stackW true)).rootOf 0) (BitVec.ofNat 64 (0x200 * 32)) .write) = some (0x54000, 0x50217, 0x40000) ∧ 0x54000 % 32 = 0
    ∧ (∀ d, ((stackW d).stack.find? 0x200).map SLine.isDirty = some d) ∧ (idleS (stackW true)).partials = [] ∧ (idleS (stackW true)).memOk = true := by
  refine ⟨?_, ?_, ?_, ?_, ?_, ?_, ?_, ?_, ?_⟩ <;> decide +kernel

/-- A warp above its limit: without a handler, with one, and in the grace of one that runs. -/
def late (h : Bool) (w : Warp) : Warp := { w with limit := 1, strokes := 2, units := [idle .ready], handler := h, grace := h }
theorem witness_watchdogs : ∀ w ∈ [late false pw, late false handled, late true pw], (idleS w).launchOf 0 = some (0, probeLaunch) ∧ ((idleS w).settleWarp 0).nextUnit 0 = some 0 ∧ ((idleS w).settleWarp 0).warp? 0 = some w ∧ w.limit < w.strokes ∧ w.faulted = false := by
  intro w hw
  fin_cases hw <;> decide +kernel
/-- The warp without a handler is gone; the other enters its handler, and its launch goes on. -/
def overdueAt (w : Warp) : State := ((idleS w).settleWarp 0).takeTrap 0 0 (TrapInfo.unit 10 0 0)
theorem witness_watchdogs_after : (overdueAt (late false pw)).warp? 0 = none ∧ ((overdueAt (late false handled)).warp? 0).map (·.handler) = some true
    ∧ (overdueAt (late false handled)).launchOf 0 = some (0, probeLaunch) := by decide +kernel

/-- Entries that have fired: an interrupt's, and one for a unit. -/
def firedS (kind waiter : Nat) : State := (waitS (.watch 0 7 12)).modDie 0 (fun x => { x with watches := [(7, { cmp := 0, w64 := true, kind := kind, pa := 0x50040, mask := 0, ref := 0, waiter := waiter, fired := true })] })
theorem witness_waitersResume : (((firedS 2 5).die 0).watches.find? 7).map (fun e => (e.fired, e.kind)) = some (true, 2) ∧ (((firedS 0 0).die 0).watches.find? 7).map (fun e => (e.fired, e.kind, e.waiter)) = some (true, 0, 0 + 0 * 4 + 0 * 2 ^ 8 + 0 * 2 ^ 15)
    ∧ (firedS 0 0).warp? 0 = some (one (idle (.blocked (.watch 0 7 12)))) ∧ (0 : Nat) ≤ (waitS (.sleep 0)).clk 0 ∧ (waitS .emul).warp? 0 = some (one (idle (.blocked .emul))) := by decide +kernel

/-- FP4 elements that Norem multiplies. -/
def emulOp : MOp := { someOp false with fmt := 4, cont := 4, emul := true, aw := constLanes 0x2E2, bw := 0x2E2 }
def emulW : Warp := { one (idle .ready) with mops := [emulOp] }
theorem witness_emulatedMultiply : (idleS emulW).warp? 0 = some emulW ∧ emulW.nextOp = some emulOp ∧ (idleS emulW).group? emulW.wg = some probeGroup ∧ emulOp.kind = .mma ∧ emulOp.joint ≤ 1 ∧ emulOp.fmt = 4
    ∧ emulOp.emul = true ∧ emulOp.spoilt = 0 ∧ emulOp.bSpoilt = false ∧ emulOp.aSrc = .regs ∧ emulOp.bSrc = .regs ∧ emulOp.col0 ≤ 48 := by decide +kernel

/-- A word of an opcode that is not assigned, and a PC in a page that is not mapped. -/
def odd : State := State.reset.withFetchWord 32 0x05800000
def lostPc : WUnit := { pu with pc := 0x40000000 }
theorem witness_issueTraps : odd.issuer = some (0, 0, probeUnit) ∧ right (odd.fetch 0 probeUnit.pc) = some [0x05800000] ∧ decode [0x05800000] = .illegal 0
    ∧ (odd.fetch 0 probeUnit.pc).1.focus = some (0, 0) ∧ (odd.fetch 0 probeUnit.pc).1.unit? 0 0 = some probeUnit
    ∧ (with' (one lostPc)).issuer = some (0, 0, lostPc) ∧ (wrong ((with' (one lostPc)).fetch 0 lostPc.pc)).isSome = true ∧ ((with' (one lostPc)).fetch 0 lostPc.pc).1.unit? 0 0 = some lostPc := by decide +kernel

/-! ## Memory, versions, engines, rays -/

theorem witness_directoryStates : ps.memOk = true ∧ inHole 0x50040 = false ∧ 0x50040 < 2 ^ 48 ∧ 0x50040 % (atomWidth 11 / 8) = 0 ∧ ps.watchedLine (lineOf 0x50040) = false ∧ ps.partials = []
    ∧ (ps.modDie 0 (fun x => { x with watches := [(7, { cmp := 0, w64 := true, kind := 2, pa := 0x50040, mask := 0, ref := 0, waiter := 0, fired := false })] })).watchedLine (lineOf 0x50040) = true := by decide +kernel

/-- The leaf entry of page 0, which no TLB holds yet; an invalidation in progress. -/
theorem witness_translations : ps.walk 0 1 0x40 = .leaf 0x50217 0x40000 ∧ tlbFind (ps.die 0).tlb 1 0 = none ∧ ps.pteBad 0x50217 = false ∧ pteHole 0x50217 = false ∧ pteLG 0x50217 = false
    ∧ ((ps.setDieReg 0 .tlbinv (2 ^ 33 + 9)).dieReg 0 .tlbinv).getLsbD 33 = true ∧ (ps.setDieReg 0 .tlbinv (2 ^ 33 + 9)).rootBusy 9 = false := by
  refine ⟨?_, ?_, ?_, ?_, ?_, ?_, ?_⟩ <;> decide +kernel

/-- A command of a kind on one page of virtual address 0, for version `n`. -/
def command (kind n : Nat) : EngCmd :=
  { kind := kind, src := 0, srcSub := 0, started := false, die := 0, launch := 0, wg := 0, lseq := 0, wgid := 0, area := { qcb := 0x60000, root := 1, fbase := 0, flog2 := 0, vif := 0, qid := 0 },
    desc := [0, 0, 65536, BitVec.ofNat 64 n, 0, 0, 0, 0], x := 0, y := 0, ctr := 0x100, fpc := 0, tile := none, recon := [], pages := 0, bad := 0, readDone := false, sent := false, data := [], buf := [],
    face := none, plan := [], todo := [], after := none, status := none, dead := false }
/-- The versioned page, current version 3, without an image or with the image of version 2. -/
def pageS (c : EngCmd) (img : List (Nat × Nat)) : State :=
  let s := (poke (with' ow) 0x40000 8 (0x50217 + 2 ^ 7)).setDieReg 0 .whvrt (BitVec.ofNat 64 (0x900000 + 4))
  { s.writeVrec 0x900000 { cur := 3, nimg := img.length, cpy := false, live := true, rtd := false, ptea := 0x40000, slots := (img ++ [(0, 0), (0, 0), (0, 0)]).take 3, retv := 0, rsv := false } with engines := [(4, c)] }
def pageXlat (s : State) (c : EngCmd) : State × Xlat := s.xlatDie c.die c.area.root (descW c.desc 127 64) .read true
theorem witness_versionsOfPages : ∀ x ∈ [(command 2 3, []), (command 2 1, []), (command 3 1, []), (command 3 2, [(2, 9)])], (pageS x.1 x.2).memOk = true ∧ (pageS x.1 x.2).mayStart 4 x.1 = true ∧ x.1.pages < (descW x.1.desc 191 128).toNat / 65536
    ∧ found (pageXlat (pageS x.1 x.2) x.1) = some (0x50000, 0x50297, 0x40000) ∧ ((pageXlat (pageS x.1 x.2) x.1).1.dieReg 0 .dready).getLsbD 22 = true
    ∧ ((pageXlat (pageS x.1 x.2) x.1).1.readVrec 0x900000).ok 0x40000 = true ∧ (pageXlat (pageS x.1 x.2) x.1).1.vrec ((pageXlat (pageS x.1 x.2) x.1).1.leaf 0x40000) = 0x900000
    ∧ (pageXlat (pageS x.1 x.2) x.1).1.returnRoom 0 = true ∧ (pageXlat (pageS x.1 x.2) x.1).1.cows.find? 0x40000 = none := by
  intro x hx
  fin_cases hx <;> decide +kernel

/-- A frame that waits for the return ring at 0x70000; a copy that has its frame; one whose ring has stayed empty, with no write or an engine's. -/
def ringS : State := (({ copying false with rtime := 1000000 } : State).modDie 0 (fun x => { x with frees := [9] })).setDieReg 0 .whfring (BitVec.ofNat 64 (0x70000 + 4))
def engWrite : LateWrite := { who := .engine 4, core := none, die := 0, lane := 0, va := 0, off := 0, op := .bytes [1] }
theorem witness_framesMove : ringS.memOk = true ∧ ((ringS.die 0).frees = [9] ∧ ringHeld (ringS.dieReg 0 .whfhead) (ringS.dieReg 0 .whftail) < ringSize (ringS.dieReg 0 .whfring) ∧ inHole (ringBase (ringS.dieReg 0 .whfring)) = false)
    ∧ ({ pageCopy false with frame := some 0x500 } : Cow).pte = 0x40000 ∧ (0x40000 + 8 ≤ 0x500 * 65536) ∧ (0x900000 + 64 ≤ 0x500 * 65536) ∧ (ringS.readVrec 0x900000).rsv = false ∧ ringS.partials = []
    ∧ (ringS.cows.find? 0x40000 = some (pageCopy false) ∧ (pageCopy false).empty = some 0 ∧ 0 + 1000000 ≤ ringS.rtime) ∧ engWrite.who = .engine 4 := by
  refine ⟨?_, ?_, ?_, ?_, ?_, ?_, ?_, ?_, ?_⟩ <;> decide +kernel

/-- A command that has ended, with its workgroup gone; a COPYIN that has made no transfer yet, and a COPYOUT. -/
def ended : EngCmd := { command 2 3 with status := some (0, 0, 0), wg := 9 }
def endS : State := { with' ow with engines := [(4, ended)] }
def copies (kind : Nat) : EngCmd := { command kind 0 with tile := some (0, 0, low32), desc := [0, 0, 1024, 0, 0, 0, 0, 0] }
def copyS (kind : Nat) : State := { with' ow with engines := [(4, copies kind)] }
theorem witness_enginesEnd : (endS.memOk = true ∧ endS.engLate 4 = false ∧ endS.group? 9 = none ∧ found (endS.xlatDie 0 1 0x100 .write true) = some (0x50100, 0x50217, 0x40000) ∧ (pteVS (endS.leaf 0x40000) && pteCW (endS.leaf 0x40000)) = false)
    ∧ ((copyS 0).mayStart 4 (copies 0) = true ∧ (copyS 0).group? 0 = some probeGroup ∧ probeGroup.nbH = 0 ∧ spanOf low32 low32.cols ≤ 8 * low32.pitch ∧ 0 < low32.rows ∧ 0 < spanOf low32 low32.cols
      ∧ (right ((copyS 0).readVa 0 1 (copyRow (copies 0) low32 0) true (min (8 - (copyRow (copies 0) low32 0).toNat % 8) (spanOf low32 low32.cols)))).isSome = true)
    ∧ (copyS 1).mayStart 4 (copies 1) = true ∧ (copies 1).readDone = false := by decide +kernel

/-- A block for core 0 without a counter and with one; for a core with no workgroup. -/
def block (core : Nat) (ctr : Option W64) : SendBlk := { launch := 0, src := 0, srcSub := 0, core := core, off := 8, lanes := 3, data := constLanes 7, ctr := ctr, root := 1, die := 0 }
def sendS (b : SendBlk) : State := { with' ow with sends := [(4, b)] }
theorem witness_blocksLand : ((sendS (block 0 none)).sendGroup (block 0 none)).isSome = true ∧ (sendS (block 1 none)).sendGroup (block 1 none) = none ∧ (sendS (block 1 (some 0x100))).sendGroup (block 1 (some 0x100)) = none
    ∧ found (({ sendS (block 1 (some 0x100)) with sends := [] } : State).xlatDie 0 1 0x100 .write true) = some (0x50100, 0x50217, 0x40000) ∧ (sendS (block 0 none)).memOk = true := by
  refine ⟨?_, ?_, ?_, ?_, ?_⟩ <;> decide +kernel

/-- A ray in the pool of die 0, of the scene at 0x40, whose treelet 0 stands at 0; its scene unreadable; its treelet unreadable. A launch under coverage 4,096 workgroups on. -/
def rayRec : Ray := { launch := 0, die := 0, order := 0, hdr := List.replicate 8 0, live := [], ready := false, hit := none, stamp := 0 }
def rayS (extra : Nat) : State := { poke (pooledS ow) 0x50040 40 (sceneBytes + extra) with rays := [(4, rayRec)] }
def stepLaunch : Launch := { covLaunch with covcnt := 4097, cov := (covRec.headD 0 ||| 0x10) :: covRec.drop 1 }
def treelet (s : State) : Option (Option (Nat × Nat)) :=
  match s.unitScene 0 1 (poolLaunch.sceneAt rayRec.scene) with
  | (s1, .ok y) => some (s1.readTreelets 0 1 y.2 (treeletsRead s1 (recBits y.1 63 48) (recBits y.1 207 192))).2
  | (_, .error _) => none
theorem witness_raysTravel : (rayS 0).launch? 0 = some poolLaunch ∧ (right ((rayS 0).unitScene 0 1 (poolLaunch.sceneAt rayRec.scene))).isSome = true
    ∧ (wrong ((rayS (0x40000000 * 2 ^ 128)).unitScene 0 1 (poolLaunch.sceneAt rayRec.scene))).isSome = true
    ∧ (treelet (rayS 0) = some none ∧ (treelet (poke (rayS 0) 0x50200 8 0x40000000)).map (·.isSome) = some true ∧ (treelet (poke (rayS 0) 0x50208 1 2)).isSome = true)
    ∧ (rayS 0).poolHeld 0 2 < poolLaunch.poolCap 2 ∧ (stepLaunch.coverage = true ∧ covUpd4k stepLaunch.cov = true ∧ 4096 ≤ stepLaunch.covcnt) := by decide +kernel

end Sys2Proof.Tests
end

