-- ==== Sys2Proof/Tests/Devices.lean ====
section
/-! SUPPORT. Witnesses of the statements about the front end, Norem, interfaces, pre-emption, the debugger, the clocks, the links and the registers. -/

set_option maxRecDepth 100000
-- Each theorem is elaborated and checked before the next one starts.
set_option Elab.async false

namespace Sys2Proof.Tests

open Sys2Proof Sys2Proof.Machine Sys2Proof.Claims

/-! ## The front end -/

/-- Queue 5 of interface 0 at 0x60000, enabled: a ring of 16 records at 0x1000, the address space of root 1, and two records written. -/
def qcbBits : Nat := 0x1000 * 2 ^ 64 + 4 * 2 ^ 128 + 2 ^ 146 + 5 * 2 ^ 148 + 2 ^ 208
def bare : State := { State.reset.withFetchWord 0 0 with warps := [], groups := [], launches := [], focus := none }
def qs : State :=
  let s := poke (poke (poke bare 0x60000 64 qcbBits) 0x60044 60 (qcbBits / 2 ^ 32)) 0x60080 4 2
  ({ s with queues := [{ qid := 5, qcb := 0x60000 }] }.setPkgReg (.vifcfg 0) 0xFFFFFFFF0001).setDieReg 0 .dready (-1)
/-- A launch of two workgroups of one warp, with a dependence on the word at `dep`, which is to be 1, and a completion record. -/
def recordBits (dep done : Nat) : Nat :=
  1 + 4 * 2 ^ 44 + (2 + 2 ^ 16 + 2 ^ 32) * 2 ^ 128 + (32 + 2 ^ 11 + 2 ^ 22) * 2 ^ 192 + (64 + 2 ^ 32) * 2 ^ 256 + 2 ^ 320 + 2 ^ 1088 + dep * 2 ^ 1344 + 2 ^ 1408 + 2 ^ 1472 + done * 2 ^ 1600
def ringOf (dep done : Nat) : State := poke qs 0x51000 256 (recordBits dep done)
/-- What an event leaves. -/
def after (o : Host.Outcome State Fault Refusal) : State := match o with
  | .next t => t
  | _ => State.reset
def slotted (s : State) : State := after (execSlotqValidLoad 0 0 5 0x60000 s)
/-- Shares and blocks on a die. -/
def shared (d : Nat) (s : State) : State := ((s.setDieReg d (.vifshare 0) (-1)).setDieReg d .ctxaring (0x70000 + 4)).setDieReg d .ctxatail 4

theorem witness_slotRegisters : qs.memOk = true ∧ (qs.slot 0 0).st = .unloaded ∧ inHole 0x60000 = false ∧ ((slotted qs).slot 0 0).st = .idle
    ∧ (((slotted qs).modSlot 0 0 (fun x => { x with retry := true })).slot 0 0).retry = true ∧ (((slotted qs).modSlot 0 0 (fun x => { x with st := .fetch })).slot 0 0).st = .fetch := by decide +kernel

theorem witness_kicksServed : (slotted qs).ownQueue 0 5 = some { qid := 5, qcb := 0x60000 } ∧ (slotted qs).slotOf 5 = some (0, 0) ∧ (slotted qs).feReady 0 = true ∧ qs.slotOf 5 = none
    ∧ (qs.dirEnt 0x60090).st ≠ .u ∧ qs.ownQueue 0 6 = none := by decide +kernel

/-- The record that the slot of a state is to fetch, where it reads it. -/
def recordIn (s : State) : Option (State × List Byte) :=
  match (s.slot 0 0).shadow with
  | some sh => match (fetched s 0 0).readVa 0 (shadowBits sh 239 208) (BitVec.ofNat 64 (shadowBits sh 127 64)) false 256 with
    | (s1, .ok b) => some (s1, b)
    | (_, .error _) => none
  | none => none
def launchIn (s : State) : Option Launch := (s.slot 0 0).shadow.bind (fun sh => (recordIn s).map (fun p => newLaunch 0 0 5 (s.slotQcb 0 0) sh (dwords p.2 32) 0))
theorem witness_recordsFetched : ((((slotted (ringOf 0 0)).slot 0 0).retry = false ∧ ((slotted (ringOf 0 0)).slot 0 0).kicked = false ∧ (slotted (ringOf 0 0)).slotHalted 0 0 = false ∧ (slotted (ringOf 0 0)).feReady 0 = true)
      ∧ ((slotted (ringOf 0 0)).cursorOf 5).isNone = true ∧ ((slotted (ringOf 0 0)).slot 0 0).rd ≠ ((slotted (ringOf 0 0)).slot 0 0).wr ∧ (slotted (ringOf 0 0)).freeLidx 0 = some 0
      ∧ (recordIn (slotted (ringOf 0 0))).map (fun p => p.2.length) = some 256)
    ∧ (launchIn (slotted (ringOf 0 0))).map (fun l => (l.recordOk, l.kind, l.depAddr)) = some (true, 1, 0)
    ∧ ((recordIn (slotted (ringOf 0 0))).bind (fun p => (launchIn (slotted (ringOf 0 0))).bind (fun l => ((p.1.setLaunch 0 l).checkLaunch 0 l).2))).isSome = true
    ∧ (launchIn (slotted qs)).map Launch.recordOk = some false
    ∧ (launchIn (slotted (poke qs 0x51000 1 1))).map (fun l => (l.recordOk, l.kind)) = some (true, 1)
    ∧ ((recordIn (slotted (poke qs 0x51000 1 1))).bind (fun p => (launchIn (slotted (poke qs 0x51000 1 1))).bind (fun l => ((p.1.setLaunch 0 l).checkLaunch 0 l).2))).isNone = true := by decide +kernel

/-- The launch that depends on a word in its slot, with its entry fired, or without an entry, the word still 0, 1 or in a page that is not mapped. -/
def depS : State := after (execRecordFetch 0 0 (slotted (ringOf 0x800 0)))
def unarmed (s : State) : State := { s with dies := s.dies.map (fun p => (p.1, { p.2 with watches := [], tlb := [], walks := [] })) }
def firedDep : State := { depS with dies := depS.dies.map (fun p => (p.1, { p.2 with watches := p.2.watches.map (fun e => (e.1, { e.2 with fired := true })) })) }
def depOf (s : State) (l : Launch) : Nat := match s.depTest 0 l with
  | .pass _ => 0
  | .no _ _ => 1
  | .bad _ => 2
theorem witness_dependencesPass : ((depS.slot 0 0).st = .depend 0 ∧ ((depS.launch? 0).map Launch.kind = some 1) ∧ depS.slotHalted 0 0 = false) ∧ (firedDep.dependWatch 0 0).map (fun e => e.2.2.fired) = some true
    ∧ (unarmed depS).dependWatch 0 0 = none ∧ (depS.launch? 0).map (depOf (unarmed depS)) = some 1 ∧ (depS.launch? 0).map (depOf (poke (unarmed depS) 0x50800 1 1)) = some 0
    ∧ (depS.launch? 0).map (depOf (poke (unarmed depS) 0x40000 8 0)) = some 2 := by decide +kernel

/-- A launch that is over, with a completion record at 0x800 and without one; one over its time. -/
def overL (done : Nat) : Launch := { probeLaunch with record := List.replicate 25 0 ++ [BitVec.ofNat 64 done] ++ List.replicate 6 0, live := 0, nextWg := 1, started := some 0, timeout := 1 }
def overS (done : Nat) : State := { qs with launches := [(0, { overL done with record := [1, 0, 1 + 2 ^ 16 + 2 ^ 32] ++ (overL done).record.drop 3 })], rtime := 2 ^ 20 }
def doneAt (s : State) : Option (Nat × Nat) := match s.feOpen 0 1 0x800 with
  | (.ok _, pa, scope) => some (pa, scope)
  | _ => none
theorem witness_launchesEnd : (∀ d ∈ [0, 0x800], (overS d).launchOver 0 ((overS d).launches.headD (0, probeLaunch)).2 = true ∧ (((overS d).launches.headD (0, probeLaunch)).2).doneRec = d ∧ (((overS d).launches.headD (0, probeLaunch)).2).irq = false
      ∧ (((overS d).launches.headD (0, probeLaunch)).2).chain = false ∧ (overS d).slotOf 0 = none ∧ ((overS d).dirEnt 0x60088).st ≠ .u)
    ∧ doneAt (overS 0x800) = some (0x50800, 1) ∧ 0x50800 + 32 ≤ 0x60000 + 136 ∧ (overS 0x800).ltabAddr 0 + 281 ≤ 0x50800 ∧ (0 : Nat) + 1 * 2 ^ 20 ≤ (overS 0).rtime ∧ (overS 0).groups = [] := by
  refine ⟨?_, ?_, ?_, ?_, ?_, ?_⟩ <;> decide +kernel

/-- The launch in Dispatch on a die with shares and blocks. -/
def disp : State := after (execRecordFetch 0 0 (slotted (shared 0 (ringOf 0 0))))
theorem witness_workgroupsPlaced : (disp.dieReg 0 .dready).getLsbD 23 = true ∧ disp.fatal = false ∧ (disp.served 0).map (·.1) = [0]
    ∧ (disp.launch? 0).map (fun l => l.die = 0 ∧ l.affinity = false ∧ l.nbN = 0 ∧ l.coverage = false ∧ l.iterate = false ∧ l.groups = [] ∧ l.pooled = false ∧ l.placed = [] ∧ l.sent = none : Launch → Bool) = some true
    ∧ (disp.launch? 0).map (fun l => (disp.corePick 0 (l.ask 0 (disp.plans l 0 l.nextWg)) 1, (l.ask 0 (disp.plans l 0 l.nextWg)).count)) = some (some (0, 1), 1) := by decide +kernel

/-- A loose launch that die 0 has refused, and die 1 would take; the same with a gang due. Ready records for one warp. -/
def affL : Launch := { probeLaunch with record := [2 ^ 12 + 1, 0, 4 + 2 ^ 16 + 2 ^ 32, 32 + 2 ^ 11 + 2 ^ 22] ++ List.replicate 28 0, sent := some 0, refused := some 0, placing := true, live := 0, nextWg := 0 }
def affS (l : Launch) : State := shared 0 (shared 1 { qs.setDieReg 1 .dready (-1) with launches := [(0, l)], rtime := 1000000 })
def gangL : Launch := { affL with groups := [[0, 1]] }
theorem witness_lateStarts : ((affL.affinity = true ∧ affL.strict = false ∧ affL.gangDue = false ∧ gangL.gangDue = true) ∧ 0 + 4096 ≤ (affS affL).clk 0 ∧ 1 ∈ edgeDies 0 ∧ ((affS affL).placeUnit 0 0 1 0 []).isSome = true ∧ (∀ x ∈ edgeDies 0, ¬ x < 1))
    ∧ 0 + 2 ^ 20 ≤ (affS affL).clk 0 ∧ (affS affL).couldAdmit 0 0 affL = true := by
  refine ⟨?_, ?_, ?_⟩ <;> decide +kernel
def readyRay : Ray := { rayRec with ready := true, live := [7] }
def readyS : State := shared 0 { (qs.setPkgReg (.vifcfg 0) 0xFFFFFFFF0001) with launches := [(0, { affL with record := (2 ^ 56 : W64) :: affL.record.drop 1 })], rays := [(4, readyRay)], rtime := 1000000 }
theorem witness_lateStarts_ray : ((readyS.readyRays 0 0 0).take 32).map (·.1) = [4] ∧ readyRay.stamp + 256 ≤ readyS.clk 0
    ∧ (readyS.launch? 0).map (fun l => readyS.corePick 0 { key := 0, l := l, plans := [{ exec := 1, helpers := 0, probes := 0 }], scratch := 0, tiles := 0, acc := 0, regs := (readyS.rayRegs [readyRay]).length } 1) = some (some (0, 1)) := by decide +kernel

/-! ## Norem and the interfaces -/

/-- Queue 5 waits to be mapped, at a tick of the leader; its interface has slot 3 of die 1. -/
def mapS : State := ({ (poke qs 0x60090 4 1).setDieReg 1 (.vifshare 0) 8 with rtime := 1000000 }.modDie 0 (fun x => { x with role := .leader })).setPkgReg .lease 4
theorem witness_queuesMapped : (mapS.leader = some 0 ∧ mapS.pendingQueue { qid := 5, qcb := 0x60000 } = true ∧ mapS.tickDue = true ∧ mapS.cut = none ∧ qs.tickDue = false) ∧ mapS.qcbVif { qid := 5, qcb := 0x60000 } = 0
    ∧ (mapS.dieReg 1 (.vifshare 0)).getLsbD 3 = true ∧ (∀ y, y < 3 → (mapS.dieReg 1 (.vifshare 0)).getLsbD y = false) ∧ (∀ y, y < 32 → (mapS.dieReg 0 (.vifshare 0)).getLsbD y = false)
    ∧ ((mapS.setDieReg 0 .mbox (2 ^ 32)).dieReg 0 .mbox).getLsbD 32 = true ∧ (∀ p ∈ mapS.dies, ∀ x ∈ p.2.slots, x.2.st = .unloaded) := by decide +kernel

/-- A new leader that finds an update cut short. -/
def cutS : State := poke (mapS.modDie 0 (fun x => { x with role := .taking })) 0x60000 4 7
theorem witness_leasesHeld : ((qs.pkgReg .lease).getLsbD 2 = false ∧ (mapS.pkgReg .lease).getLsbD 2 = true ∧ bitsOf (mapS.pkgReg .lease) 1 0 ≠ 2 ∧ ¬ 5000000 < (mapS.rtime + 2 ^ 56 - bitsOf (mapS.pkgReg .lease) 63 8) % 2 ^ 56)
    ∧ ((cutS.die 0).role = .taking ∧ (cutS.dieReg 0 .dready).getLsbD 24 = true ∧ word4 cutS 0x60000 % 2 = 1) ∧ Store.item qs.mem (0x60000 + 18) 2 / 16 = 5 ∧ isHbm 0x60000 = true
    ∧ ({ qs with queues := [] } : State).queue? 5 = none := by decide +kernel

/-- An interrupt table of four entries at 0x72000, whose entry 1 was raised while it was masked. -/
def imtS : State := poke (qs.setPkgReg (.vifimt 0) (4 * 2 ^ 48 + 0x72000)) 0x72010 16 (2 ^ 47 + 7 * 2 ^ 64 + 2 * 2 ^ 96)
theorem witness_interruptsDelivered : (imtS.vifState 0 = 1 ∧ (imtS.dirEnt 0x50040).st ≠ .u ∧ watchPass 0 64 (Store.item imtS.mem 0x50040 8) (2 ^ 64 - 1) 0 = true ∧ watchPass 0 64 (Store.item imtS.mem 0x50040 8) (2 ^ 64 - 1) 5 = false)
    ∧ (imtS.die (imtS.homeDie 0x50040)).watches.find? 0 = none ∧ imtS.entryReadable 0x72010 = true ∧ word4 imtS (0x72010 + 12) = 2 ∧ isSystem (word8 imtS 0x72010) = true ∧ (imtS.dirEnt (word8 imtS 0x72010)).st ≠ .u
    ∧ 1 < bitsOf (imtS.pkgReg (.vifimt 0)) 63 48 ∧ bitsOf (imtS.pkgReg (.vifimt 0)) 47 12 * 4096 + 16 * 1 = 0x72010 := by decide +kernel

/-- A teardown at each of its steps. -/
def tornS (n : Nat) (a : Option Nat) : State := { qs.setPkgReg (.vifcfg 0) 0xFFFFFFFF0002 with teardowns := [{ vif := 0, step := n, addr := a }] }
theorem witness_interfacesChange : bitsOf (qs.pkgReg (.vifcfg 1)) 1 0 = 0 ∧ bitsOf (qs.pkgReg (.vifcfg 0)) 1 0 = 1 ∧ (∀ n ∈ [0, 1, 2, 3, 4], ∀ a ∈ [none, some 0x73000], (tornS n a).teardowns.map (fun x => (x.vif, x.step)) = [(0, n)])
    ∧ (tornS 0 none).slotsGone 0 = true ∧ (tornS 2 none).warps = [] ∧ ((tornS 4 none).dirEnt 0x73000).st ≠ .u := by decide +kernel

/-! ## Pre-emption, the debugger, the clocks -/

/-- The probe's workgroup in a state of pre-emption, at rest, with a leave ring of eight entries at 0x72000. -/
def restW : Warp := { one (idle .ready) with block := 0x200000 }
def preS (p : Preempt) : State := { ((idleS restW).setDieReg 0 .ctxsring (0x72000 + 3)) with groups := [(0, { probeGroup with pre := p })] }
theorem witness_preemptionStarts : (2 ^ 12 + 2 ^ 13 + 5 * 2 ^ 24 : W64).getLsbD 12 = true ∧ ((preS .running).group? 0).map (fun k => (k.core / 48, k.pre, k.ending)) = some (0, .running, false)
    ∧ ((preS .running).warp? 0).map (·.strokes) = some 1 ∧ 4 * 1 < bitsOf (5 * 2 ^ 24) 37 24 * 64 ∧ ((preS (.draining 0 0)).group? 0).map (·.pre) = some (.draining 0 0) := by decide +kernel

theorem witness_workgroupsLeave : ((preS .stopping).memOk = true ∧ (∀ u ∈ restW.units, u.st ≠ .issuing) ∧ (preS .stopping).engines = [] ∧ ((preS .stopping).dieReg 0 .ctxsring).toNat = 0x72003 ∧ ((preS .stopping).die 0).leaving = [])
    ∧ ((preS .stopping).dieReg 0 .ctxstail).toNat + 8 - ((preS .stopping).dieReg 0 .ctxshead).toNat ≤ 2 ^ 3 ∧ restW.stack = [] ∧ restW.regsMax + restW.nsaved ≤ 3072 ∧ (preS .stopping).splits 0 = [] ∧ restW.mops = []
    ∧ restW.block + 2 ^ 21 ≤ 2 ^ 40 ∧ 0x72000 + 2 ^ 3 * 16 ≤ restW.block ∧ restW.stackUsed ≤ 131072 ∧ (((restW.units.foldl (fun s _ => s) (preS .stopping)).writeImage { probeGroup with pre := .stopping }).usedStack 0 restW).isSome = true := by
  refine ⟨?_, ?_, ?_, ?_, ?_, ?_, ?_, ?_, ?_, ?_⟩ <;> decide +kernel

/-- The workgroup away, saved or to be re-primed, on a die that can take it back, and on one that cannot. -/
def saved : State := after (execWorkgroupSave 0 (preS .stopping))
def flushed : State :=
  let t := after (execReprimeFlushDone 0 (preS .flushing))
  { t with launches := t.launches.map (fun p => (p.1, { p.2 with record := [1, 0, 1 + 2 ^ 16 + 2 ^ 32, 32 + 2 ^ 11 + 2 ^ 22, 32 + 2 ^ 32, 1] ++ List.replicate 26 0 })) }
def savedWith (b : Nat) (s : State) : Option (Nat × Launch × Away) := s.findAway 0 0 0 (fun y => y.saved && (y.warps.head?).any (fun p => p.2.block = b))
theorem witness_workgroupsReturn : (savedWith 0x200000 (shared 0 saved)).map (fun x => (x.1, (shared 0 saved).takesBack x.1 x.2.1 x.2.2, x.2.2.warps.map (·.1))) = some (0, true, [0])
    ∧ (savedWith 0x200000 saved).map (fun x => saved.takesBack x.1 x.2.1 x.2.2) = some false
    ∧ ((shared 0 flushed).findAway 0 0 0 (fun y => !y.saved)).map (fun x => (x.2.2.group.nbH, x.2.2.group.seed, (shared 0 flushed).corePick 0 (x.2.1.ask x.1 ((shared 0 flushed).plans x.2.1 0 0)) 1)) = some (0, none, some (0, 1))
    ∧ (flushed.findAway 0 0 0 (fun y => !y.saved)).map (fun x => flushed.corePick 0 (x.2.1.ask x.1 (flushed.plans x.2.1 0 0)) 1) = some none := by decide +kernel

def fullRing : State := ((preS .running).setDieReg 0 .ctxstail 8).modDie 0 (fun x => { x with leaving := [leaveEntry 0x200000 0 0 1] })
theorem witness_blockRings : (fullRing.die 0).leaving = [leaveEntry 0x200000 0 0 1] ∧ (1 : W32).toNat ≤ (fullRing.dieReg 0 .ctxstail).toNat ∧ (fullRing.dieReg 0 .ctxstail).toNat < (1 : W32).toNat + 2 ^ bitsOf (fullRing.dieReg 0 .ctxsring) 4 0
    ∧ inHole (0x72000 + 8 % 8 * 16) = false := by decide +kernel

/-- A Faulted warp, parked or not. -/
def faultW (p : Bool) : Warp := { one (idle .faulted) with faulted := true, parked := p }
theorem witness_faultedWarpsEnd : (∀ p, (idleS (faultW p)).warp? 0 = some (faultW p) ∧ (faultW p).lseq = 0) ∧ (faultW false).units.filter (fun u => u.st = .faulted) = [idle .faulted]
    ∧ unitOf (faultW false).units 0 = some (idle .faulted) ∧ ((idleS (faultW false)).launch? probeGroup.launch).map (·.status) = some 0 := by decide +kernel

/-- The warp under a debugger, stopped or not; with no unit in its stroke, or one. -/
def dbgS (h : Bool) (st : USt) : State := poke (idleS { one (idle st) with halted := h }) (0x60000 + 82) 1 8
theorem witness_debugCommands : ∀ h, ∀ st ∈ [USt.ready, .issuing], bitsOf ((dbgS h st).dieReg 0 .dbgsel) 5 0 < 48 ∧ (dbgS h st).warp? ((0 * 48 + bitsOf ((dbgS h st).dieReg 0 .dbgsel) 5 0) * 128 + bitsOf ((dbgS h st).dieReg 0 .dbgsel) 12 6) = some { one (idle st) with halted := h }
    ∧ pw.lseq = bitsOf ((dbgS h st).dieReg 0 .dbgsel) 47 16 ∧ (dbgS h st).launchOf 0 = some (0, probeLaunch) ∧ (dbgS h st).peekN (probeLaunch.qcb + 82) 1 / 8 % 2 = 1 ∧ ((dbgS h st).die 0).dbg = none := by
  intro h st hs
  fin_cases hs <;> cases h <;> decide +kernel

/-- A spilled register, one that is held, one that is not mapped, in the warp that the debugger reads. -/
theorem witness_debugAccess : (dbgS true .ready).memOk = true ∧ pw.preds.length = 8 ∧ (pw.names.find? 5).map (·.held) = some true ∧ pw.names.find? 50 = none ∧ pw.held + 1 ≤ pw.regsMax ∧ (dbgS true .ready).poolFree (quadOf 0) ≠ 0
    ∧ atMax.regsMax < atMax.held + 1 ∧ (spilled.names.find? 5).map (·.st) = some (.spilled 3 true) ∧ inHole (spilled.slotAddr 3) = false ∧ (bitsOf (5 * 8 + 3 * 2 ^ 14) 2 0 = 0 ∧ bitsOf (5 * 8 + 3 * 2 ^ 14) 13 3 = 5)
    ∧ (Special.ofCode 1023).isNone = true := by
  refine ⟨?_, ?_, ?_, ?_, ?_, ?_, ?_, ?_, ?_, ?_, ?_⟩ <;> decide +kernel

theorem witness_clocksAndTrace : (1 : W64).getLsbD 0 = true ∧ (ps.coreReg 0 .trctl).getLsbD 0 = false ∧ ((ps.setCoreReg 0 .trctl 1).coreReg 0 .trctl).getLsbD 0 = true ∧ freqOf ps 0 = 1400 ∧ Legal 1350 ∧ ¬ Legal 1360
    ∧ (({ ps with rtime := 2000 } : State).modDie 0 (fun x => { x with stall := some (0, 1350) })).rtime = 2000 := by unfold Legal; decide +kernel

/-! ## Links and registers -/

/-- Port 0 of die 0, up, with source 7 mapped to root 1, whose page 0 is held by the die's TLB with its marks set; and the same with the port down. -/
def linkS : State :=
  let s := poke ((qs.setDieReg 0 (.ulmap 0 0) (1 + 7 * 2 + 2 ^ 32))) 0x40000 8 0x50617
  (s.xlatDie 0 1 0x800 .write true).1
def portDown : State := linkS.setDieReg 0 .dready 0
theorem witness_linkRequests : linkS.memOk = true ∧ (linkS.dieReg 0 .dready).getLsbD (13 + 0) = true ∧ (portDown.dieReg 0 .dready).getLsbD (13 + 0) = false ∧ MapsTo linkS 0 0 7 1
    ∧ (linkS.xlatDie 0 1 0x20000 .read true).2 = .fail 1 1
    ∧ (∀ i < 4, linkS.xlatDie 0 1 (0x800 + BitVec.ofNat 64 i) .read true = (linkS, .ok (0x50800 + i) 0x50617 0x40000)) ∧ linkS.xlatDie 0 1 0x800 .write true = (linkS, .ok 0x50800 0x50617 0x40000)
    ∧ linkS.linkReady 0 1 0x800 4 = true ∧ linkS.touch 0x40000 true = linkS ∧ linkS.touch 0x40000 false = linkS ∧ (pteVS (linkS.leaf 0x40000) && pteCW (linkS.leaf 0x40000)) = false
    ∧ linkS.cows = [] ∧ (linkS.dirEnt 0x50800).st ≠ .u := by
  refine ⟨?_, ?_, ?_, ⟨0, ?_, ?_, ?_, ?_⟩, ?_, ?_, ?_, ?_, ?_, ?_, ?_, ?_, ?_⟩ <;> decide +kernel

/-- No entry names source 8. -/
theorem witness_linkRequests_unmapped : ∀ root, ¬ MapsTo linkS 0 0 8 root := by
  rintro root ⟨k, hk, hit, -⟩
  exact absurd hit (by revert k; decide +kernel)

theorem witness_linkMessages : (linkS.dieReg 0 .dready).getLsbD (13 + 0) = true ∧ (portDown.dieReg 0 .dready).getLsbD (13 + 0) = false ∧ linkS.allreds = [] ∧ linkS.lost = [] ∧ linkS.engines = [] := by
  decide +kernel

/-- The three writes of VIFCFG, and values that start no action, or the action of each clause. -/
theorem witness_registersWritten : bitsOf (qs.pkgReg (.vifcfg 1)) 1 0 = 0 ∧ bitsOf (qs.pkgReg (.vifcfg 0)) 1 0 = 1 ∧ (8 : W64).getLsbD 3 = true ∧ (4 : W64).getLsbD 2 = true
    ∧ (qs.dieReg 0 .dfreq).getLsbD 13 = false ∧ (qs.die 0).dbg = none ∧ bitsOf (13 : W64) 2 0 = 5 ∧ (13 : W64).getLsbD 3 = true ∧ (2 ^ 32 : W64).getLsbD 32 = true
    ∧ ∀ n ∈ [12, 33, 20, 32], (0x1 : W64).getLsbD n = false := by decide +kernel

end Sys2Proof.Tests
end

section
/-! SUPPORT. The machine right after reset (R7, R365, R373, R390, R415): the maps of `State.reset` list nothing, so a register reads as the default of its table. -/

namespace Sys2Proof.Machine
open Sys2Proof.Claims

@[simp] theorem dieReg_reset (d : Nat) (r : DieReg) : State.reset.dieReg d r = Reset.dieReg r := rfl

@[simp] theorem die_reset (d : Nat) : State.reset.die d = Reset.die := rfl

/-- The epoch in force at reset is epoch 0 at RTIME 0 and CLK 0. -/
theorem epoch_reset (d : Nat) : State.reset.epoch d = (0, 0, 1400) := rfl

/-- No nanosecond has passed since the epoch, so CLK stands at its start. -/
theorem clk_reset (d : Nat) : State.reset.clk d = 0 := by
  simp [State.clk, epoch_reset, die_reset, Reset.die, show State.reset.rtime = 0 from rfl]

/-- Settles O26: no map of the reset state lists anything, so each register reads as its default, which is its reset value. -/
theorem resetState : Obligations.ResetState := by
  unfold Obligations.ResetState
  refine ⟨rfl, rfl, rfl, rfl, rfl, rfl, rfl, rfl, fun _ => rfl, fun d => ⟨clk_reset d, rfl, fun _ => rfl, rfl, rfl, fun _ => rfl, ?_, fun _ _ => rfl, fun _ => rfl,
    fun _ _ => rfl, rfl, rfl, fun _ => ⟨rfl, rfl, rfl⟩⟩⟩
  intro r hr
  fin_cases hr <;> rfl

end Sys2Proof.Machine
end

section
/-! SUPPORT. Fields of device registers (R7, R10): which bits `setFld` and `storeBits` leave, and what a field reads afterwards. -/

namespace Sys2Proof.Machine
open Sys2Proof.Claims

theorem fld_eq_bitsOf (r : W64) (h l : Nat) : fld r h l = bitsOf r h l := by
  simp [fld, bits, bitsOf, Nat.shiftRight_eq_div_pow]

theorem testBit_bitsOf (r : W64) (h l i : Nat) : (bitsOf r h l).testBit i = (decide (i < h + 1 - l) && r.getLsbD (l + i)) := by
  simp [bitsOf, Nat.testBit_mod_two_pow, Nat.testBit_div_two_pow, BitVec.getLsbD, Nat.add_comm]

/-- A field depends on its own bits only. -/
theorem bitsOf_congr {r r' : W64} {h l : Nat} (e : ∀ i, l ≤ i → i ≤ h → r.getLsbD i = r'.getLsbD i) : bitsOf r h l = bitsOf r' h l := by
  apply Nat.eq_of_testBit_eq
  intro i
  rw [testBit_bitsOf, testBit_bitsOf]
  by_cases hi : i < h + 1 - l
  · rw [e (l + i) (by omega) (by omega)]
  · simp [hi]

/-- A field that fits in `n` bits, given bit by bit. -/
theorem bitsOf_eq_of_testBit {r : W64} {h l v : Nat} (hv : v < 2 ^ (h + 1 - l)) (e : ∀ i, i < h + 1 - l → r.getLsbD (l + i) = v.testBit i) :
    bitsOf r h l = v := by
  apply Nat.eq_of_testBit_eq
  intro i
  rw [testBit_bitsOf]
  by_cases hi : i < h + 1 - l
  · simp [hi, e i hi]
  · have : v < 2 ^ i := lt_of_lt_of_le hv (Nat.pow_le_pow_right (by omega) (by omega))
    simp [hi, Nat.testBit_lt_two_pow this]

theorem getLsbD_fieldMask {h l i : Nat} (hh : h < 64) (hl : l ≤ h) :
    ((BitVec.ofNat 64 (2 ^ (h + 1 - l) - 1)) <<< l : W64).getLsbD i = decide (l ≤ i ∧ i ≤ h) := by
  rw [Bool.eq_iff_iff]
  simp only [BitVec.getLsbD_shiftLeft, BitVec.getLsbD_ofNat, Nat.testBit_two_pow_sub_one, Bool.and_eq_true, Bool.not_eq_true',
    decide_eq_true_eq, decide_eq_false_iff_not]
  omega

/-- Bit `i` after a field is replaced: the new value's inside the field, the old bit outside it. -/
theorem getLsbD_setFld (r : W64) {h l : Nat} (v i : Nat) (hh : h < 64) (hl : l ≤ h) :
    (setFld r h l v).getLsbD i = if l ≤ i ∧ i ≤ h then v.testBit (i - l) else r.getLsbD i := by
  simp only [setFld, BitVec.getLsbD_or, BitVec.getLsbD_and, BitVec.getLsbD_not, getLsbD_fieldMask hh hl, BitVec.getLsbD_shiftLeft, BitVec.getLsbD_ofNat]
  by_cases hi : l ≤ i ∧ i ≤ h
  · simp [hi, show i < 64 by omega, show ¬ i < l by omega, show i - l < 64 by omega]
  · by_cases h64 : i < 64
    · simp [hi, h64]
    · simp [hi, h64, BitVec.getLsbD_of_ge _ _ (Nat.le_of_not_lt h64)]

/-- A field that another field's bits do not meet is as it was. -/
theorem bitsOf_setFld_other (r : W64) {h l h' l' : Nat} (v : Nat) (hh : h < 64) (hl : l ≤ h) (ho : h' < l ∨ h < l') :
    bitsOf (setFld r h l v) h' l' = bitsOf r h' l' := by
  apply bitsOf_congr
  intro i h1 h2
  rw [getLsbD_setFld r v i hh hl, if_neg (by omega)]

theorem bitsOf_setFld_same (r : W64) {h l v : Nat} (hh : h < 64) (hl : l ≤ h) (hv : v < 2 ^ (h + 1 - l)) : bitsOf (setFld r h l v) h l = v := by
  apply bitsOf_eq_of_testBit hv
  intro i hi
  rw [getLsbD_setFld r v _ hh hl, if_pos (by omega), Nat.add_sub_cancel_left]

/-- Without bits that clear, a write stores the writable bits and leaves the rest. -/
theorem storeBits_noClear (old val m c : W64) (h : val &&& c = 0) : storeBits old val m c = (old &&& ~~~m) ||| (val &&& m) := by
  have all : ~~~(0 : W64) = BitVec.allOnes 64 := rfl
  rw [storeBits, h, all, BitVec.and_allOnes]

end Sys2Proof.Machine
end

section
/-! SUPPORT. Writes to device registers (R7): what a write leaves, register by register. -/

namespace Sys2Proof.Machine
open Sys2Proof.Claims

/-- A write that only stores leaves value `v` in register `r` of die `d` and everything else as it was. -/
def Stored (s t : State) (d : Nat) (r : DieReg) (v : W64) : Prop :=
  t = { s with dies := t.dies } ∧ t.dieReg d r = v ∧ (∀ q, q ≠ r → t.dieReg d q = s.dieReg d q) ∧ ∀ d', d' ≠ d → t.die d' = s.die d'

theorem stored_setDieReg (s : State) (d : Nat) (r : DieReg) (v : W64) : Stored s (s.setDieReg d r v) d r v :=
  ⟨rfl, dieReg_setDieReg s d r v, fun _ h => dieReg_setDieReg_other s v (Or.inr h.symm), fun _ h => die_setDie_other s _ h.symm⟩

/-- The value of a write acts in no way: it sets no bit that acts or clears, starts no command of WARPCTL, and meets no frequency step. -/
structure PlainWrite (s : State) (d : Nat) (r : DieReg) (val : W64) : Prop where
  known : regKnown r = true
  noSlot : ∀ n, r ≠ .slotq n
  noDebug : r ≠ .dbgctl
  noAct : val &&& regActMask r = 0
  noClear : val &&& regClearMask r = 0
  noWarp : r = .warpctl → bitsOf val 46 45 = 0 ∨ bitsOf val 46 45 = 3
  noStep : r = .dfreq → (s.dieReg d .dfreq).getLsbD 13 = false

theorem writeDieReg_plain {s : State} {d : Nat} {r : DieReg} {val : W64} (hd : d < 4) (h : PlainWrite s d r val) :
    s.writeDieReg d r val = s.setDieReg d r ((s.dieReg d r &&& ~~~(regStoreMask r)) ||| (val &&& regStoreMask r)) := by
  obtain ⟨known, noSlot, noDebug, noAct, noClear, noWarp, noStep⟩ := h
  have hw : ¬ (r = .warpctl ∧ (fld val 46 45 = 1 ∨ fld val 46 45 = 2)) := by
    rintro ⟨e, h⟩
    have := noWarp e
    rw [fld_eq_bitsOf] at h
    omega
  have hf : ¬ (r = .dfreq ∧ (s.dieReg d .dfreq).getLsbD 13 = true) := fun ⟨e, h⟩ => Bool.false_ne_true ((noStep e).symm.trans h)
  have ha : ¬ (val &&& regActMask r ≠ 0 ∨ r = .warpctl ∧ (fld val 46 45 = 1 ∨ fld val 46 45 = 2) ∨ r = .dfreq ∧ (s.dieReg d .dfreq).getLsbD 13 = true) := by
    tauto
  have hs : s.writeDieReg d r val = s.setDieReg d r (storeBits (s.dieReg d r) val (regStoreMask r) (regClearMask r)) := by
    unfold State.writeDieReg
    rw [if_neg (by simp [known, hd]), if_neg (by simp [noDebug]), if_neg (by simpa [or_assoc] using ha)]
    split
    · exact absurd rfl (noSlot _)
    · rfl
  rw [hs, storeBits_noClear _ _ _ _ noClear]

/-- A write of `val` stores its bits of `m` into register `r` of die `d`, and does nothing else. -/
def Stores (s : State) (d : Nat) (val : W64) (r : DieReg) (m : W64) : Prop :=
  ∃ t, exec (.registerWrite (.die d r) val) s = .next t ∧ Stored s t d r ((s.dieReg d r &&& ~~~m) ||| (val &&& m))

theorem stores_of_plain {s : State} {d : Nat} {r : DieReg} {val m : W64} (hd : d < 4) (hm : regStoreMask r = m) (h : PlainWrite s d r val) :
    Stores s d val r m := by
  subst hm
  exact ⟨_, congrArg Host.Outcome.next (writeDieReg_plain hd h), stored_setDieReg s d r _⟩

/-- A register of which no bit acts and none clears takes any value plainly. -/
theorem plainWrite_of_inert {s : State} {d : Nat} {r : DieReg} {val : W64} (known : regKnown r = true) (noSlot : ∀ n, r ≠ .slotq n) (noDebug : r ≠ .dbgctl)
    (noAct : regActMask r = 0) (noClear : regClearMask r = 0) (noWarp : r ≠ .warpctl) (noStep : r ≠ .dfreq) : PlainWrite s d r val :=
  ⟨known, noSlot, noDebug, by simp [noAct], by simp [noClear], fun e => absurd e noWarp, fun e => absurd e noStep⟩

/-- A mask of one bit selects nothing of a value whose bit is clear. -/
theorem and_twoPow_of_clear {x : W64} {n : Nat} (h : x.getLsbD n = false) : x &&& BitVec.twoPow 64 n = 0 := by
  rw [BitVec.and_twoPow, h]; rfl

theorem stores_of_inert {s : State} {d : Nat} {r : DieReg} {val m : W64} (hd : d < 4) (hm : regStoreMask r = m) (known : regKnown r = true)
    (noSlot : ∀ n, r ≠ .slotq n) (noDebug : r ≠ .dbgctl) (noAct : regActMask r = 0) (noClear : regClearMask r = 0) (noWarp : r ≠ .warpctl)
    (noStep : r ≠ .dfreq) : Stores s d val r m :=
  stores_of_plain hd hm (plainWrite_of_inert known noSlot noDebug noAct noClear noWarp noStep)

theorem stores_storedRegs {s : State} {d : Nat} {val : W64} (hd : d < 4) {x : DieReg × W64} (h : x ∈ storedRegs) : Stores s d val x.1 x.2 := by
  fin_cases h <;> exact stores_of_inert hd rfl rfl (by simp) (by simp) rfl rfl (by simp) (by simp)

theorem stores_readOnlyRegs {s : State} {d : Nat} {val : W64} (hd : d < 4) {r : DieReg} (h : r ∈ readOnlyRegs) : Stores s d val r 0 := by
  fin_cases h <;> exact stores_of_inert hd rfl rfl (by simp) (by simp) rfl rfl (by simp) (by simp)

/-- Writing 1 to the valid bit of DSYND clears it. -/
theorem dsynd_clears {s : State} {d : Nat} {val : W64} (hd : d < 4) (h : val.getLsbD 32 = true) :
    ((s.writeDieReg d .dsynd val).dieReg d .dsynd).getLsbD 32 = false := by
  have e : s.writeDieReg d .dsynd val = s.setDieReg d .dsynd (storeBits (s.dieReg d .dsynd) val 0xFFFF 0x1_0000_0000) := by
    unfold State.writeDieReg
    rw [if_neg (by simp [regKnown, hd]), if_neg (by simp), if_neg (by simp [regActMask])]
    rfl
  rw [e, dieReg_setDieReg]
  simp [storeBits, h]

/-- A command that DBGCTL does not know ends at once with BADCMD. -/
theorem dbgctl_badCommand {s : State} {d : Nat} {val : W64} (hd : d < 4) (hg : val.getLsbD 3 = true) (hi : (s.die d).dbg = none)
    (hc : bitsOf val 2 0 = 0 ∨ 5 ≤ bitsOf val 2 0) : s.writeDieReg d .dbgctl val = (s.dbgStart d (bitsOf val 2 0)).dbgEnd d 7 0 := by
  unfold State.writeDieReg
  rw [if_neg (by simp [regKnown, hd]), if_pos (by simp [hg]), fld_eq_bitsOf, if_pos (by simp [State.dbgIdle, hd, hi, hc])]

theorem dbgEnd_reg (s : State) (d status steps : Nat) : (s.dbgEnd d status steps).dieReg d .dbgctl =
    BitVec.ofNat 64 (fld (s.dieReg d .dbgctl) 2 0 + status * 2 ^ 4 + (if (s.dbgWarp d).any (fun p => p.2.isStopped) then 2 ^ 8 else 0) + s.dbgSub d * 2 ^ 9 + steps * 2 ^ 12) := by
  simp [State.dbgEnd, State.dieReg, State.setDieReg, State.modDie]

/-- What DBGCTL reads once a command `c` that it does not know has ended: the command, GO clear, and the status 7. -/
theorem dbgctl_after_badCommand (s : State) (d : Nat) {c : Nat} (hc : c < 8) :
    let r := ((s.dbgStart d c).dbgEnd d 7 0).dieReg d .dbgctl
    bitsOf r 7 4 = 7 ∧ bitsOf r 2 0 = c ∧ bitsOf r 3 3 = 0 := by
  have hcmd : fld ((s.dbgStart d c).dieReg d .dbgctl) 2 0 = c := by
    rw [State.dbgStart, dieReg_setDieReg, fld_eq_bitsOf, bitsOf_setFld_other _ _ (by decide) (by decide) (by decide), bitsOf_setFld_same _ (by decide) (by decide) hc]
  have hsub : (s.dbgStart d c).dbgSub d < 8 := Nat.mod_lt _ (by decide)
  simp only [dbgEnd_reg, hcmd, bitsOf, BitVec.toNat_ofNat]
  split <;> omega

/-! ## VIFCFG (R373) -/

theorem bits1_0_store (old val : W64) : bitsOf (storeBits old val 0x0000_FFFF_FFFF_0000 0) 1 0 = bitsOf old 1 0 := by
  apply bitsOf_congr
  intro i _ h
  interval_cases i <;> simp [storeBits]

theorem bits47_16_store (old val : W64) : bitsOf (storeBits old val 0x0000_FFFF_FFFF_0000 0) 47 16 = bitsOf val 47 16 := by
  apply bitsOf_congr
  intro i h1 h2
  interval_cases i <;> simp [storeBits]

/-- What a write of VIFCFG stores before it acts. -/
def vifStored (s : State) (i : Nat) (val : W64) : State := s.setPkgReg (.vifcfg i) (storeBits (s.pkgReg (.vifcfg i)) val 0x0000_FFFF_FFFF_0000 0)

theorem vifState_vifStored (s : State) (i : Nat) (val : W64) : (vifStored s i val).vifState i = bitsOf (s.pkgReg (.vifcfg i)) 1 0 := by
  rw [State.vifState, vifStored, pkgReg_setPkgReg, fld_eq_bitsOf, bits1_0_store]

theorem vifcfg_setVifState (s : State) (i v : Nat) : (s.setVifState i v).pkgReg (.vifcfg i) = setFld (s.pkgReg (.vifcfg i)) 1 0 v :=
  pkgReg_setPkgReg s _ _

/-- The vectors a write of VIFCFG stores stay where the state changes. -/
theorem vectors_setVifState (s : State) (i v : Nat) (val : W64) : bitsOf (((vifStored s i val).setVifState i v).pkgReg (.vifcfg i)) 47 16 = bitsOf val 47 16 := by
  rw [vifcfg_setVifState, bitsOf_setFld_other _ _ (by decide) (by decide) (by decide), vifStored, pkgReg_setPkgReg, bits47_16_store]

theorem state_setVifState (s : State) (i : Nat) {v : Nat} (hv : v < 4) : bitsOf ((s.setVifState i v).pkgReg (.vifcfg i)) 1 0 = v := by
  rw [vifcfg_setVifState, bitsOf_setFld_same _ (by decide) (by decide) hv]

/-- Clearing PEND of every entry of a message table changes memory and what the watch tables see of it, and nothing else. -/
theorem clearPends_same (es : List Nat) (i : Nat) (s : State) :
    let t := es.foldl (fun s v => if inHole (s.imtEntry i v) then s else s.clearPend (s.imtEntry i v)) s
    t = { s with mem := t.mem, dies := t.dies } := by
  induction es generalizing s with
  | nil => rfl
  | cons v es ih =>
    simp only [List.foldl_cons]
    rw [ih]
    split
    · rfl
    · simp only [State.clearPend, State.pokeN, State.poke]
      split <;> rfl

theorem writeVifcfg_store {s : State} {i : Nat} {val : W64} (h : val &&& 0xC = 0) : s.writeVifcfg i val = vifStored s i val := by
  have h2 : val.getLsbD 2 = false := by simpa using congrArg (BitVec.getLsbD · 2) h
  have h3 : val.getLsbD 3 = false := by simpa using congrArg (BitVec.getLsbD · 3) h
  unfold State.writeVifcfg
  simp only [h2, h3, Bool.false_and, Bool.false_eq_true, if_false]
  rfl

theorem writeVifcfg_act {s : State} {i : Nat} {val : W64} (hi : i < 64) (h : val.getLsbD 3 = true) (hs : bitsOf (s.pkgReg (.vifcfg i)) 1 0 = 0) :
    s.writeVifcfg i val = ((vifStored s i val).setVifState i vifActive).setPkgReg (.vifcnt i) 0 := by
  have hf : s.vifState i = vifFree := by rw [State.vifState, fld_eq_bitsOf, hs]; rfl
  have hf' : (vifStored s i val).vifState i = vifFree := by rw [vifState_vifStored, hs]; rfl
  have e : s.writeVifcfg i val = (vifStored s i val).activate i := by
    unfold State.writeVifcfg
    rw [if_pos (by simp [h, hf])]
    rfl
  rw [e, State.activate, if_pos (by simp [hi, hf'])]

/-- The state of a teardown that a write of VIFCFG begins, before PEND is cleared in the table. -/
theorem writeVifcfg_tear {s : State} {i : Nat} {val : W64} (hi : i < 64) (h : val.getLsbD 2 = true) (hs : bitsOf (s.pkgReg (.vifcfg i)) 1 0 = 1) :
    ∃ mem dies, s.writeVifcfg i val = { (vifStored s i val).setVifState i vifTearing with
      mem := mem, dies := dies, teardowns := s.teardowns ++ [{ vif := i, step := 0, addr := none }] } := by
  have hf : s.vifState i = vifActive := by rw [State.vifState, fld_eq_bitsOf, hs]; rfl
  have hf' : (vifStored s i val).vifState i = vifActive := by rw [vifState_vifStored, hs]; rfl
  have e : s.writeVifcfg i val = (vifStored s i val).tear i none := by
    unfold State.writeVifcfg
    rw [if_neg (by simp [hf, vifFree, vifActive]), if_pos (by simp [h, hf, vifFree, vifActive])]
    rfl
  rw [e, State.tear, if_pos (by simp [hi, hf'])]
  simp only
  rw [clearPends_same]
  exact ⟨_, _, rfl⟩

theorem exec_write_vifcfg {s : State} {i : Nat} (val : W64) (hi : i < 64) : exec (.registerWrite (.pkg (.vifcfg i)) val) s = .next (s.writeVifcfg i val) := by
  simp [exec, execRegisterWrite, State.writePkgReg, Nat.not_le.2 hi]

/-- A write to a register of a die, of a core or of the interposer does what R7 and R373 say. -/
theorem registersWritten_holds : registersWritten := by
  intro s d val hd stores
  refine ⟨fun x hx => stores_storedRegs hd hx, fun p k hp hk => ?_, fun i hi => ?_, fun h => ?_, fun h hs => ?_, fun h => ?_, fun h => ?_,
    fun h => ?_, fun h => ?_, fun r hr => stores_readOnlyRegs hd hr, fun h => ⟨_, rfl, dsynd_clears hd h⟩, fun hg hi hc => ?_,
    fun c hc => ?_, fun c hc => ?_, ?_, fun i hi h => ?_, fun i hi h hs => ?_, fun i hi h hs => ?_, fun i hi => ?_⟩
  · exact stores_of_inert hd rfl (by simp [regKnown, hp, hk]) (by simp) (by simp) rfl rfl (by simp) (by simp)
  · exact stores_of_inert hd rfl (by simp [regKnown, hi]) (by simp) (by simp) rfl rfl (by simp) (by simp)
  · exact stores_of_plain hd rfl ⟨rfl, by simp, by simp, and_twoPow_of_clear h, BitVec.and_zero, by simp, by simp⟩
  · exact stores_of_plain hd rfl ⟨rfl, by simp, by simp, and_twoPow_of_clear h, BitVec.and_zero, by simp, fun _ => hs⟩
  · exact stores_of_plain hd rfl ⟨rfl, by simp, by simp, BitVec.and_zero, BitVec.and_zero, fun _ => h, by simp⟩
  · exact stores_of_plain hd rfl ⟨rfl, by simp, by simp, and_twoPow_of_clear h, BitVec.and_zero, by simp, by simp⟩
  · exact stores_of_plain hd rfl ⟨rfl, by simp, by simp, and_twoPow_of_clear h, BitVec.and_zero, by simp, by simp⟩
  · exact stores_of_plain hd rfl ⟨rfl, by simp, by simp, BitVec.and_zero, and_twoPow_of_clear h, by simp, by simp⟩
  · refine ⟨_, congrArg Host.Outcome.next (dbgctl_badCommand hd hg hi hc), rfl, ?_⟩
    exact dbgctl_after_badCommand s d (Nat.mod_lt _ (by decide))
  · refine ⟨s.setCoreReg c .trbase (val &&& 0xFFFF_FFFF_FF80), ?_, rfl, coreReg_setCoreReg s c _ _⟩
    simp [exec, execRegisterWrite, State.writeCoreReg, Nat.not_le.2 hc]
  · refine ⟨s.setCoreReg c .trrp val, ?_, rfl, coreReg_setCoreReg s c _ _, ?_⟩
    · simp [exec, execRegisterWrite, State.writeCoreReg, Nat.not_le.2 hc]
    · simp [State.coreReg, State.setCoreReg, State.modCore, get_put_other]
  · exact ⟨_, rfl, rfl, pkgReg_setPkgReg s _ _⟩
  · refine ⟨vifStored s i val, ?_, rfl, ?_, ?_⟩
    · rw [exec_write_vifcfg val hi, writeVifcfg_store h]
    · rw [vifStored, pkgReg_setPkgReg, bits47_16_store]
    · rw [vifStored, pkgReg_setPkgReg, bits1_0_store]
  · refine ⟨((vifStored s i val).setVifState i vifActive).setPkgReg (.vifcnt i) 0, ?_, rfl, ?_, ?_, pkgReg_setPkgReg _ _ _⟩
    · rw [exec_write_vifcfg val hi, writeVifcfg_act hi h hs]
    · rw [pkgReg_setPkgReg_other _ _ (by simp), vectors_setVifState]
    · rw [pkgReg_setPkgReg_other _ _ (by simp), state_setVifState _ _ (by decide : vifActive < 4)]; rfl
  · obtain ⟨mem, dies, e⟩ := writeVifcfg_tear hi h hs
    refine ⟨_, (exec_write_vifcfg val hi).trans (congrArg _ e), ?_⟩
    exact ⟨vectors_setVifState s i vifTearing val, state_setVifState (vifStored s i val) i (by decide : vifTearing < 4), rfl⟩
  · refine ⟨s.setPkgReg (.vifimt i) (val &&& 0xFFFF_FFFF_FFFF_F000), ?_, rfl, pkgReg_setPkgReg s _ _⟩
    simp [exec, execRegisterWrite, State.writePkgReg, Nat.not_le.2 hi]

end Sys2Proof.Machine
end

section
/-! SUPPORT. Messages from a link, and the loss of a link (R427 to R431). -/

namespace Sys2Proof.Machine
open Sys2Proof.Claims

theorem portUp_iff {s : State} {d p : Nat} (hd : d < 4) (hp : p < 4) : s.portUp d p = (s.dieReg d .dready).getLsbD (13 + p) := by
  simp [State.portUp, hd, hp]

/-! ## What the end of a command leaves of the dies -/

@[simp] theorem endEng_dies (s : State) (id : Nat) (c : EngCmd) (code sub detail : Nat) : (s.endEng id c code sub detail).dies = s.dies := rfl

@[simp] theorem ringLeave_dies (s : State) (tag : W64) (ring : List (Nat × Nat)) (p : Nat) : (s.ringLeave tag ring p).dies = s.dies := by
  unfold State.ringLeave
  dsimp only
  split <;> rfl

/-- A fold whose every step leaves the dies leaves them. -/
theorem foldl_dies {α : Type} (xs : List α) (f : State → α → State) (hf : ∀ s x, (f s x).dies = s.dies) (s : State) : (xs.foldl f s).dies = s.dies := by
  induction xs generalizing s with
  | nil => rfl
  | cons x xs ih => rw [List.foldl_cons, ih, hf]

@[simp] theorem loseColl_dies (s : State) (c : EngCmd) : (s.loseColl c).dies = s.dies := by
  unfold State.loseColl
  dsimp only
  split
  · rfl
  · split
    · apply foldl_dies
      intro s p
      split <;> rfl
    · rw [ringLeave_dies]
      split <;> rfl
    · rfl

/-! ## The messages -/

theorem vendorMessage_relay {s : State} {d p : Nat} (h : s.portUp d p = true) (c : MgmtCmd) :
    exec (.ualinkVendorMessage d p (.relay c)) s = .next (s.relayed c) := by
  simp [exec, execUalinkVendorMessage, h]

theorem vendorMessage_down {s : State} {d p : Nat} (h : s.portUp d p = false) (m : VMsg) : exec (.ualinkVendorMessage d p m) s = .next s := by
  simp [exec, execUalinkVendorMessage, h]

/-! ## The loss of a link -/

/-- The state a link's loss leaves: the port's ready bit is clear, and then the collectives beyond the port end. -/
def linkLost (s : State) (d p : Nat) : State :=
  let s := s.setDieReg d .dready (setFld (s.dieReg d .dready) (13 + p) (13 + p) 0)
  s.engines.foldl (fun s x => if s.usesPort x.2 d p then (s.loseColl x.2).endEng x.1 x.2 stCONTEXT_LOST 0 0 else s) s

theorem exec_linkDown_up {s : State} {d p : Nat} (h : s.portUp d p = true) : exec (.ualinkLinkDown d p) s = .next (linkLost s d p) := by
  simp [exec, execUalinkLinkDown, linkLost, h]

theorem linkLost_dies (s : State) (d p : Nat) :
    (linkLost s d p).dies = (s.setDieReg d .dready (setFld (s.dieReg d .dready) (13 + p) (13 + p) 0)).dies := by
  unfold linkLost
  apply foldl_dies
  intro s x
  split
  · rw [endEng_dies, loseColl_dies]
  · rfl

theorem linkLost_dready (s : State) (d : Nat) {p : Nat} (hp : p < 4) (i : Nat) :
    ((linkLost s d p).dieReg d .dready).getLsbD i = (decide (i ≠ 13 + p) && (s.dieReg d .dready).getLsbD i) := by
  have e : (linkLost s d p).dieReg d .dready = setFld (s.dieReg d .dready) (13 + p) (13 + p) 0 := by
    rw [State.dieReg, State.die, linkLost_dies]
    exact dieReg_setDieReg s d .dready _
  rw [e, getLsbD_setFld _ _ _ (by omega) (le_refl _)]
  by_cases h : i = 13 + p
  · simp [h]
  · rw [if_neg (by omega)]
    simp [h]

/-- Messages and the loss of a link do what R427 to R431 say. -/
theorem linkMessages_holds : linkMessages := by
  intro s d p hd hp up
  have hup : s.portUp d p = true ↔ up := by rw [portUp_iff hd hp]
  refine ⟨fun h => ?_, fun h => ?_⟩
  · have hdown : s.portUp d p = false := by rwa [← hup, Bool.not_eq_true] at h
    exact ⟨vendorMessage_down hdown, by simp [exec, execUalinkLinkDown, hdown]⟩
  have h := hup.2 h
  refine ⟨fun tag pos data hn => ?_, fun a b c tag off data => ?_, fun x hx => ?_, fun _ _ => vendorMessage_relay h _, fun _ => vendorMessage_relay h _,
    fun _ _ => vendorMessage_relay h _, fun _ => vendorMessage_relay h _, vendorMessage_relay h _, linkLost s d p, exec_linkDown_up h, linkLost_dready s d hp, fun he => ?_⟩
  · have hn' : s.allreds.any (fun a => a.1 = tag && a.2.1 = pos) = false := by simpa using hn
    simp [exec, execUalinkVendorMessage, h, hn']
  · refine ⟨_, { srcAcc := a, srcDie := b, dstAcc := s.accid, dstDie := c, tag := tag, off := off, data := data }, ?_, rfl, rfl, rfl, rfl, rfl, rfl, rfl, fld_eq_bitsOf _ _ _⟩
    simp [exec, execUalinkVendorMessage, h]
  · simp [exec, execUalinkVendorMessage, h, hx]
  · have e : linkLost s d p = s.setDieReg d .dready (setFld (s.dieReg d .dready) (13 + p) (13 + p) 0) := by
      have he' : (s.setDieReg d .dready (setFld (s.dieReg d .dready) (13 + p) (13 + p) 0)).engines = [] := he
      rw [linkLost]
      rw [he', List.foldl_nil]
    rw [e]
    rfl

end Sys2Proof.Machine
end

section
/-! SUPPORT. Items of memory read back as they were written (R6); translation does not look at the handles given out; and a leaf entry whose A and D
are set is to be copied on write where it was before (R77, R98). -/

namespace Sys2Proof.Machine
open Sys2Proof.Claims

/-! ## Items of memory -/

@[simp] theorem length_leBytes (n x : Nat) : (leBytes n x).length = n := by
  induction n generalizing x with
  | zero => rfl
  | succ n ih => simp [leBytes, ih]

theorem leNat_leBytes (n x : Nat) : leNat (leBytes n x) = x % 256 ^ n := by
  induction n generalizing x with
  | zero => simp [leBytes, leNat, Nat.mod_one]
  | succ n ih =>
    have h8 : x % 2 ^ 8 = x % 256 := rfl
    rw [leBytes, leNat, ih, BitVec.toNat_ofNat, h8, Nat.pow_succ', Nat.mod_mul]

theorem leNat_lt (bs : List Byte) : leNat bs < 256 ^ bs.length := by
  induction bs with
  | nil => simp [leNat]
  | cons b bs ih =>
    have := b.isLt
    rw [leNat, List.length_cons, Nat.pow_succ']
    omega

theorem bytes_setBytes (m : Store) (a : Nat) (bs : List Byte) (hw : m.wf = true) : (m.setBytes a bs).bytes a bs.length = bs := by
  apply List.ext_getElem
  · simp [Store.bytes]
  · intro i h1 h2
    rw [← List.getD_eq_getElem _ 0 h2, ← get_setBytes m a i bs hw h2]
    simp [Store.bytes]

/-- An item reads back as it was written, modulo its width. -/
theorem item_setBytes (m : Store) (a n x : Nat) (hw : m.wf = true) : Store.item (m.setBytes a (leBytes n x)) a n = x % 256 ^ n := by
  have h := bytes_setBytes m a (leBytes n x) hw
  rw [length_leBytes] at h
  rw [Store.item, h, leNat_leBytes]

theorem item_lt (m : Store) (a n : Nat) : Store.item m a n < 256 ^ n := by
  have h := leNat_lt (m.bytes a n)
  rwa [show (m.bytes a n).length = n by simp [Store.bytes]] at h

theorem poke_hole {s : State} {pa : Nat} (h : inHole pa = true) (bs : List Byte) : s.poke pa bs = s := if_pos h

theorem poke_mem {s : State} {pa : Nat} (h : inHole pa = false) (bs : List Byte) : (s.poke pa bs).mem = Store.setBytes s.mem pa bs := by
  simp [State.poke, h, State.seeWatches]

theorem peekN_mem {s : State} {pa : Nat} (h : inHole pa = false) (n : Nat) : s.peekN pa n = Store.item s.mem pa n := by
  simp [State.peekN, State.peek, h, Store.item]

theorem poke_same (s : State) (pa : Nat) (bs : List Byte) : s.poke pa bs = { s with mem := (s.poke pa bs).mem, dies := (s.poke pa bs).dies } := by
  unfold State.poke
  split <;> rfl

/-! ## Handles -/

theorem walkFrom_handles (s : State) (d root va h n table : Nat) (bad : Bool) :
    walkFrom { s with handles := h } d root va n table bad = walkFrom s d root va n table bad := by
  induction n generalizing table bad with
  | zero => rfl
  | succ n ih => simp only [walkFrom, ih]; rfl

theorem walkFill_handles (s : State) (root va h n table : Nat) (m : AMap (Nat × Nat × Nat) W64) :
    walkFill { s with handles := h } root va n table m = walkFill s root va n table m := by
  induction n generalizing table m with
  | zero => rfl
  | succ n ih => simp only [walkFill, ih]; rfl

theorem fillDie_handles (s : State) (d root va : Nat) (pte : W64) (addr h : Nat) :
    ({ s with handles := h } : State).fillDie d root va pte addr = { s.fillDie d root va pte addr with handles := h } := by
  simp only [State.fillDie, walkFill_handles]
  rfl

theorem dieLeaf_handles (s : State) (d root va h : Nat) :
    ({ s with handles := h } : State).dieLeaf d root va = ({ (s.dieLeaf d root va).1 with handles := h }, (s.dieLeaf d root va).2) := by
  have hw : ({ s with handles := h } : State).walk d root va = s.walk d root va := walkFrom_handles s d root va h 3 _ _
  have hd : ({ s with handles := h } : State).die d = s.die d := rfl
  unfold State.dieLeaf
  rw [hw, hd]
  cases tlbFind (s.die d).tlb root (va / 65536) with
  | some e => rfl
  | none =>
    cases s.walk d root va with
    | fail c k => rfl
    | leaf pte addr =>
      have hh : ({ s with handles := h } : State).holdable pte addr = s.holdable pte addr := rfl
      simp only [hh, fillDie_handles]
      cases s.holdable pte addr <;> rfl

/-- A translation does the same whatever handles have been given out. -/
theorem xlatDie_handles (s : State) (d root : Nat) (va : W64) (want : Want) (bound : Bool) (h : Nat) :
    ({ s with handles := h } : State).xlatDie d root va want bound =
      ({ (s.xlatDie d root va want bound).1 with handles := h }, (s.xlatDie d root va want bound).2) := by
  unfold State.xlatDie
  rw [dieLeaf_handles]
  split <;> rfl

theorem poke_handles (s : State) (pa : Nat) (bs : List Byte) (h : Nat) : ({ s with handles := h } : State).poke pa bs = { s.poke pa bs with handles := h } := by
  unfold State.poke
  split <;> rfl

theorem touch_handles (s : State) (a : Nat) (w : Bool) (h : Nat) : ({ s with handles := h } : State).touch a w = { s.touch a w with handles := h } := by
  have hp : ({ s with handles := h } : State).peekN a 8 = s.peekN a 8 := rfl
  unfold State.touch
  by_cases e : s.peekN a 8 ||| (if w then 0x600 else 0x200) = s.peekN a 8
  · simp only [hp, e, if_true]
  · simp only [hp, e, if_false, State.pokeN, poke_handles]

/-! ## The A and D bits of a leaf entry -/

/-- What setting A, or A and D, does to an entry. -/
theorem touch_cases (s : State) (a : Nat) (w : Bool) :
    s.touch a w = s ∨ s.touch a w = s.poke a (leBytes 8 (s.peekN a 8 ||| (if w then 0x600 else 0x200))) := by
  by_cases e : s.peekN a 8 ||| (if w then 0x600 else 0x200) = s.peekN a 8
  · exact Or.inl (if_pos e)
  · exact Or.inr (if_neg e)

theorem touch_same (s : State) (a : Nat) (w : Bool) : s.touch a w = { s with mem := (s.touch a w).mem, dies := (s.touch a w).dies } := by
  rcases touch_cases s a w with h | h <;> rw [h]
  exact poke_same s a _

theorem touch_wf {s : State} (hm : Store.wf s.mem = true) (a : Nat) (w : Bool) : Store.wf (s.touch a w).mem = true := by
  rcases touch_cases s a w with h | h <;> rw [h]
  · exact hm
  · cases hh : inHole a with
    | true => rwa [poke_hole hh]
    | false => rw [poke_mem hh]; exact setBytes_wf _ _ _ hm

/-- Only the eight bytes of the entry change. -/
theorem touch_get {s : State} (hm : Store.wf s.mem = true) {a b : Nat} (w : Bool) (hb : ¬ within b a 8) : Store.get (s.touch a w).mem b = Store.get s.mem b := by
  rcases touch_cases s a w with h | h <;> rw [h]
  cases hh : inHole a with
  | true => rw [poke_hole hh]
  | false =>
    rw [poke_mem hh]
    refine get_setBytes_other _ _ _ _ hm ?_
    rw [length_leBytes]
    unfold within at hb
    omega

/-- The other bits of the entry are as they were. -/
theorem leaf_touch {s : State} (hm : Store.wf s.mem = true) (a : Nat) (w : Bool) {i : Nat} (hi : i < 9) :
    ((s.touch a w).leaf a).getLsbD i = (s.leaf a).getLsbD i := by
  rcases touch_cases s a w with h | h <;> rw [h]
  cases hh : inHole a with
  | true => rw [poke_hole hh]
  | false =>
    have hp : (s.poke a (leBytes 8 (s.peekN a 8 ||| (if w then 0x600 else 0x200)))).peekN a 8 = (s.peekN a 8 ||| (if w then 0x600 else 0x200)) % 256 ^ 8 := by
      rw [peekN_mem hh, poke_mem hh, item_setBytes _ _ _ _ hm]
    have h64 : i < 64 := by omega
    simp only [State.leaf, hp, BitVec.getLsbD_ofNat, show (256 : Nat) ^ 8 = 2 ^ 64 by norm_num, Nat.testBit_mod_two_pow, Nat.testBit_or, h64]
    interval_cases i <;> cases w <;> simp [Nat.testBit]

/-- A page that no copy-on-write meets is still one after A and D are set. -/
theorem cowTouch_touch {s : State} (hm : Store.wf s.mem = true) {a : Nat} (h : (pteVS (s.leaf a) && pteCW (s.leaf a)) = false) :
    (s.touch a true).cowTouch a = (s.touch a true, .clear) := by
  have e : (pteVS ((s.touch a true).leaf a) && pteCW ((s.touch a true).leaf a)) = false := by
    rw [pteVS, pteCW, leaf_touch hm a true (by omega), leaf_touch hm a true (by omega)]
    exact h
  simp [State.cowTouch, e]

theorem cowTouch_clear {s : State} {a : Nat} (h : (pteVS (s.leaf a) && pteCW (s.leaf a)) = false) : s.cowTouch a = (s, .clear) := by
  simp [State.cowTouch, h]

/-- A translation that succeeds names memory: its address lies outside the hole (R78). -/
theorem inHole_of_xlatDie {s s' : State} {d root : Nat} {va : W64} {want : Want} {bound : Bool} {pa leaf : Nat} {pte : W64}
    (h : s.xlatDie d root va want bound = (s', .ok pa pte leaf)) : inHole pa = false := by
  unfold State.xlatDie at h
  split at h
  · simp at h
  · simp only [Prod.mk.injEq] at h
    obtain ⟨-, h⟩ := h
    generalize (s.dieLeaf d root va.toNat).1 = s1 at h
    cases hw : (s.dieLeaf d root va.toNat).2 with
    | fail c k => simp [hw, State.finish] at h
    | leaf p a =>
      rw [hw, State.finish] at h
      split at h
      · simp at h
      · rename_i hc
        simp only [Xlat.ok.injEq] at h
        obtain ⟨rfl, -, -⟩ := h
        have hh : pteHole p = false := by
          unfold State.pteCheck at hc
          split at hc
          · simp at hc
          · split at hc
            · simp at hc
            · simp_all
        simp only [pteHole, inHole, Bool.or_eq_false_iff, Bool.and_eq_false_iff, decide_eq_false_iff_not] at hh ⊢
        omega

end Sys2Proof.Machine
end

section
/-! SUPPORT. Inbound UALink requests (R110, R258, R425, R426). -/

namespace Sys2Proof.Machine
open Sys2Proof.Claims

/-! ## The address space of a source (R426) -/

theorem linkRoot_of_mapsTo {s : State} {d p src root : Nat} (h : MapsTo s d p src root) : s.linkRoot d p src = some root := by
  obtain ⟨k, hk, ⟨hv, hs⟩, rfl, hj⟩ := h
  have hf : (List.range 64).find? (fun k => (s.dieReg d (.ulmap p k)).getLsbD 0 && fld (s.dieReg d (.ulmap p k)) 10 1 = src) = some k := by
    rw [List.find?_range_eq_some]
    refine ⟨by simp only [fld_eq_bitsOf, hv, hs]; rfl, List.mem_range.2 hk, fun j hlt => ?_⟩
    simpa only [fld_eq_bitsOf, Bool.not_eq_true', Bool.and_eq_false_iff, decide_eq_false_iff_not, not_and_or, Bool.not_eq_true] using hj j hlt
  rw [State.linkRoot, hf, Option.map_some, fld_eq_bitsOf]

theorem linkRoot_none {s : State} {d p src : Nat} (h : ∀ root, ¬ MapsTo s d p src root) : s.linkRoot d p src = none := by
  rw [State.linkRoot, Option.map_eq_none_iff, List.find?_range_eq_none]
  intro k
  induction k using Nat.strong_induction_on with
  | _ k ih =>
    intro hk
    by_contra hit
    refine h _ ⟨k, hk, ?_, rfl, fun j hj => ?_⟩
    · simpa only [fld_eq_bitsOf, Bool.not_eq_true', Bool.not_eq_false, Bool.and_eq_true, decide_eq_true_eq] using hit
    · simpa only [fld_eq_bitsOf, Bool.not_eq_true', Bool.and_eq_false_iff, decide_eq_false_iff_not, not_and_or, Bool.not_eq_true] using ih j hj (by omega)

/-! ## The pages a request touches -/

theorem pageRun_pos {va : W64} {n : Nat} (h : 0 < n) : 0 < pageRun va n := by
  rw [pageRun, if_neg (by omega)]
  omega

theorem pageRun_one {va : W64} {n : Nat} (h : 0 < n) (hp : va.toNat % 65536 + n ≤ 65536) : pageRun va n = 1 := by
  rw [pageRun, if_neg (by omega)]
  omega

theorem linkReady_fail {s s1 : State} {d root c k n : Nat} {va : W64} (hn : 0 < n) (h : s.xlatDie d root va .read true = (s1, .fail c k)) :
    s.linkReady d root va n = false := by
  rw [State.linkReady, List.all_eq_false]
  refine ⟨0, List.mem_range.2 (pageRun_pos hn), ?_⟩
  simp [h]

theorem linkOpen_one {s : State} {d root pa leaf n : Nat} {va : W64} {pte : W64} (hn : 0 < n) (hp : va.toNat % 65536 + n ≤ 65536)
    (h : s.xlatDie d root va .write true = (s, .ok pa pte leaf)) (hc : (pteVS (s.leaf leaf) && pteCW (s.leaf leaf)) = false) : s.linkOpen d root va n = true := by
  simp [State.linkOpen, pageRun_one hn hp, h, cowTouch_clear hc]

/-! ## UALINK_READ -/

/-- Bytes that translate without a change of the state are read as memory holds them. -/
theorem readVa_plain {s : State} {d root pa leaf : Nat} {va pte : W64} (n : Nat)
    (hx : ∀ i, i < n → s.xlatDie d root (va + BitVec.ofNat 64 i) .read true = (s, .ok (pa + i) pte leaf))
    (hu : ∀ i, i < n → pteScope pte = 1 → (s.dirEnt (pa + i)).st ≠ .u) (ht : s.touch leaf false = s) :
    s.readVa d root va true n = (s, .ok ((List.range n).map (fun i => Store.get s.mem (pa + i)))) := by
  induction n with
  | zero => rfl
  | succ n ih =>
    have hr := ih (fun i hi => hx i (by omega)) (fun i hi => hu i (by omega))
    have hm : (pteScope pte = 1 && (s.dirEnt (pa + n)).st = .u) = false := by
      simpa using hu n (Nat.lt_succ_self n)
    simp only [State.readVa, hr, hx n (Nat.lt_succ_self n), ht, hm, Bool.false_eq_true, if_false, List.range_succ, List.map_append, List.map_cons, List.map_nil]

/-! ## UALINK_WRITE -/

/-- A write that stays within eight bytes is one piece. -/
theorem piecesOf_one {va : W64} {bs : List Byte} (h0 : 0 < bs.length) (h : va.toNat % 8 + bs.length ≤ 8) : piecesOf va bs = [(va, bs)] := by
  obtain ⟨n, hn⟩ := Nat.exists_eq_succ_of_ne_zero (Nat.pos_iff_ne_zero.1 h0)
  have hne : bs.isEmpty = false := by simpa [List.isEmpty_eq_false_iff, ← List.length_pos_iff] using h0
  have htake : bs.take (8 - va.toNat % 8) = bs := List.take_of_length_le (by omega)
  have hdrop : bs.drop (8 - va.toNat % 8) = [] := List.drop_of_length_le (by omega)
  rw [piecesOf, hn]
  simp [pieces, hne, htake, hdrop]

theorem dirWrite_plain {s : State} {d pa : Nat} (h : (s.dirEnt pa).st ≠ .u) : s.dirWrite d pa = s.setDir pa { st := .m, owner := d, sharers := [d] } := by
  simp [State.dirWrite, h]

/-- A write of an item that no state U holds changes memory at the item, the directory, and what the dies' watch tables and copies hold. -/
theorem writeMem_plain {s : State} {d scope pa : Nat} {bs : List Byte} (h : scope = 1 → (s.dirEnt pa).st ≠ .u) (hh : inHole pa = false) :
    s.writeMem d scope pa bs = { s with mem := Store.setBytes s.mem pa bs, dies := (s.writeMem d scope pa bs).dies, dir := (s.writeMem d scope pa bs).dir } := by
  by_cases h1 : scope = 1
  · simp [State.writeMem, h1, dirWrite_plain (h h1), State.setDir, State.poke, hh, State.seeWatches]
  · by_cases h2 : scope = 2
    · simp [State.writeMem, h2, State.modDie, State.setDie, State.poke, hh, State.seeWatches]
    · simp [State.writeMem, h1, h2, State.poke, hh, State.seeWatches]

/-- A piece that meets no copy-on-write is written at once. -/
theorem writePiece_clear {s : State} {who : Writer} {d root pa leaf : Nat} {va pte : W64} {bs : List Byte} (hm : Store.wf s.mem = true)
    (hx : s.xlatDie d root va .write true = (s, .ok pa pte leaf)) (hc : (pteVS (s.leaf leaf) && pteCW (s.leaf leaf)) = false) :
    s.writePiece who d root va bs = ((s.touch leaf true).writeMem d (pteScope pte) pa bs, none) := by
  simp [State.writePiece, hx, cowTouch_touch hm hc]

/-! ## UALINK_ATOMIC -/

/-- `t` differs from `s` in the directory only, and does not hold the line of `pa` in state U. -/
def DirOnly (s t : State) (pa : Nat) : Prop := t = { s with dir := t.dir } ∧ (t.dirEnt pa).st ≠ .u

theorem dirOnly_refl {s : State} {pa : Nat} (h : (s.dirEnt pa).st ≠ .u) : DirOnly s s pa := ⟨rfl, h⟩

theorem dirOnly_setDir (s : State) (pa : Nat) {e : DirEnt} (he : e.st ≠ .u) : DirOnly s (s.setDir pa e) pa :=
  ⟨rfl, by simpa [State.dirEnt, State.setDir] using he⟩

theorem dirRead_plain {s : State} {d pa : Nat} (h : (s.dirEnt pa).st ≠ .u) : DirOnly s (s.dirRead d pa) pa := by
  unfold State.dirRead
  dsimp only
  split
  case h_1 => exact dirOnly_setDir s pa (by simp)
  case h_2 e => exact absurd e h
  case h_3 | h_4 =>
    split
    · exact dirOnly_refl h
    · exact dirOnly_setDir s pa (by simp)
  case h_5 | h_6 => exact dirOnly_setDir s pa h

theorem homeRead_plain {s : State} {d scope pa n : Nat} (h : scope = 1 → (s.dirEnt pa).st ≠ .u) (hh : inHole pa = false) :
    (s.homeRead d scope pa n).2 = Store.item s.mem pa n ∧ (s.homeRead d scope pa n).1 = { s with dir := (s.homeRead d scope pa n).1.dir }
      ∧ (scope = 1 → ((s.homeRead d scope pa n).1.dirEnt pa).st ≠ .u) := by
  by_cases h1 : scope = 1
  · obtain ⟨e, hd⟩ := dirRead_plain (d := d) (h h1)
    simp only [State.homeRead, h1, if_true, peekN_mem hh]
    exact ⟨by rw [e], e, fun _ => hd⟩
  · simp [State.homeRead, h1, peekN_mem hh]

/-- An atomic on an item that no state U holds: the old value, the memory it leaves, and that no answer is given yet. -/
theorem atomic_plain {s : State} {core d scope pa op ty n : Nat} {cmp v : W64} (hn : atomWidth ty / 8 = n) (h : scope = 1 → (s.dirEnt pa).st ≠ .u)
    (hh : inHole pa = false) :
    let old := Store.item s.mem pa n
    let r := s.atomic core d scope pa op ty cmp v
    r.2.1 = old ∧ r.1.replies = s.replies ∧ r.1.mem = if casWrites op n old cmp then Store.setBytes s.mem pa (leBytes n (atomNew op ty old v.toNat)) else s.mem := by
  subst hn
  obtain ⟨hold, e, hd⟩ := homeRead_plain (d := d) (n := atomWidth ty / 8) h hh
  have hm : (s.homeRead d scope pa (atomWidth ty / 8)).1.mem = s.mem := by rw [e]
  have hr : (s.homeRead d scope pa (atomWidth ty / 8)).1.replies = s.replies := by rw [e]
  simp only [State.atomic, hold]
  by_cases hw : casWrites op (atomWidth ty / 8) (Store.item s.mem pa (atomWidth ty / 8)) cmp = true
  · simp only [hw, if_true]
    rw [writeMem_plain hd hh, ← hm, ← hr]
    exact ⟨trivial, rfl, rfl⟩
  · by_cases h1 : scope = 1
    · simp only [hw, h1, if_true, Bool.false_eq_true, if_false] at hm hr hd ⊢
      rw [dirWrite_plain (hd trivial)]
      exact ⟨trivial, hr, hm⟩
    · simp only [hw, h1, Bool.false_eq_true, if_false]
      exact ⟨trivial, hr, hm⟩

/-- An unsigned operation of R258 is the one on bit vectors of the item's width. -/
theorem atomNew_unsigned {ty : Nat} (hty : 8 ≤ ty) (op old : Nat) (x : W64) :
    atomNew op ty old x.toNat = (atomOn (atomWidth ty) op none false (BitVec.ofNat (atomWidth ty) old) (x.setWidth (atomWidth ty))).toNat := by
  have hf : ¬ ty < 4 := by omega
  have hs : tySigned ty = false := by simp [tySigned]; omega
  generalize hw : atomWidth ty = w
  match op with
  | 0 => simp [atomNew, atomOn, hf, hw, Nat.add_mod]
  | 1 | 2 =>
    simp only [atomNew, atomOn, hf, hs, hw, BitVec.ult, BitVec.toNat_ofNat, BitVec.toNat_setWidth, Bool.false_eq_true, if_false, decide_eq_true_eq, decide_false]
    split <;> simp
  | 3 => simp [atomNew, atomOn, hw, Nat.and_mod_two_pow]
  | 4 => simp [atomNew, atomOn, hw, Nat.or_mod_two_pow]
  | 5 => simp [atomNew, atomOn, hw, Nat.xor_mod_two_pow]
  | n + 6 => simp [atomNew, atomOn, hw]

/-- An atomic that meets no copy-on-write is performed at once, and its old value answers the request. -/
theorem exec_ualinkAtomic_clear {s : State} {d p src root pa leaf op : Nat} {addr pte x y : W64} {w : Bool} (hup : s.portUp d p = true)
    (hr : s.linkRoot d p src = some root) (hop : op < 8) (hal : addr.toNat % (if w then 8 else 4) = 0) (hrd : s.linkReady d root addr (if w then 8 else 4) = true)
    (hx : s.xlatDie d root addr .write true = (s, .ok pa pte leaf)) (ht : s.touch leaf true = s) (hc : (pteVS (s.leaf leaf) && pteCW (s.leaf leaf)) = false) :
    let r := ({ s with handles := s.handles + 1 } : State).atomic 0 d (pteScope pte) pa op (if w then 11 else 10) y x
    exec (.ualinkAtomic d p src addr op w x y) s = .next { r.1 with replies := r.1.replies ++ [(d, p, some (leBytes (atomWidth (if w then 11 else 10) / 8) r.2.1))] } := by
  have hop' : ¬ 8 ≤ op := by omega
  have hc' : ({ s with handles := s.handles + 1 } : State).cowTouch leaf = ({ s with handles := s.handles + 1 }, .clear) := cowTouch_clear hc
  simp only [exec, execUalinkAtomic, hup, hr, hop', hal, hrd, hx, State.newHandle, touch_handles, ht, hc', LateWrite.land, Bool.not_true, Bool.false_eq_true, if_false,
    ne_eq, not_true_eq_false, decide_false, Bool.or_self, Option.getD_none]

theorem answerLink_done {s : State} {d p id : Nat} (h : s.cows.any (fun q => q.2.late.any (fun y => y.who = .link d p id)) = false) :
    s.answerLink (.link d p id) = { s with replies := s.replies ++ [(d, p, some [])] } := by
  rw [State.answerLink, h, if_neg Bool.false_ne_true]

/-- What a link write that meets no copy-on-write leaves in memory and answers (R426). -/
theorem exec_ualinkWrite_clear {s : State} {d p src root pa leaf : Nat} {addr pte : W64} {bs : List Byte} (hm : Store.wf s.mem = true) (hup : s.portUp d p = true)
    (hr : s.linkRoot d p src = some root) (h0 : 0 < bs.length) (h8 : addr.toNat % 8 + bs.length ≤ 8) (hrd : s.linkReady d root addr bs.length = true)
    (hx : s.xlatDie d root addr .write true = (s, .ok pa pte leaf)) (hc : (pteVS (s.leaf leaf) && pteCW (s.leaf leaf)) = false)
    (hu : pteScope pte = 1 → (s.dirEnt pa).st ≠ .u) (hl : ∀ q ∈ s.cows, ∀ y ∈ q.2.late, y.who ≠ .link d p s.handles) :
    ∃ t, exec (.ualinkWrite d p src addr bs) s = .next t ∧ t.replies = s.replies ++ [(d, p, some [])] ∧ t.mem = Store.setBytes (s.touch leaf true).mem pa bs
      ∧ t = { s with mem := t.mem, dies := t.dies, dir := t.dir, replies := t.replies, handles := t.handles } := by
  have hne : bs.isEmpty = false := by simpa [List.isEmpty_eq_false_iff, ← List.length_pos_iff] using h0
  have hlen : ¬ 256 < bs.length := by omega
  have hop : s.linkOpen d root addr bs.length = true := linkOpen_one h0 (by omega) hx hc
  let s1 : State := { s with handles := s.handles + 1 }
  have hx1 : s1.xlatDie d root addr .write true = (s1, .ok pa pte leaf) := by rw [xlatDie_handles, hx]
  have hp : s1.writePiece (.link d p s.handles) d root addr bs = ((s1.touch leaf true).writeMem d (pteScope pte) pa bs, none) := writePiece_clear hm hx1 hc
  have hhole := inHole_of_xlatDie hx
  have hu1 : pteScope pte = 1 → ((s1.touch leaf true).dirEnt pa).st ≠ .u := by
    rw [touch_same s1 leaf true]
    exact hu
  let t1 : State := (s1.touch leaf true).writeMem d (pteScope pte) pa bs
  have ht1 : t1 = { s1 with mem := Store.setBytes (s.touch leaf true).mem pa bs, dies := t1.dies, dir := t1.dir } := by
    simp only [t1]
    rw [writeMem_plain hu1 hhole, touch_handles, touch_same s leaf true]
  have hcows : t1.cows.any (fun q => q.2.late.any (fun y => y.who = .link d p s.handles)) = false := by
    rw [ht1]
    simpa using hl
  refine ⟨{ t1 with replies := t1.replies ++ [(d, p, some [])] }, ?_, ?_, ?_, ?_⟩
  · have he : exec (.ualinkWrite d p src addr bs) s = .next ((s1.writePiece (.link d p s.handles) d root addr bs).1.answerLink (.link d p s.handles)) := by
      simp only [exec, execUalinkWrite, hup, hr, hne, hlen, hrd, hop, Bool.not_true, Bool.false_eq_true, if_false, decide_false, Bool.or_self, State.newHandle,
        piecesOf_one h0 h8, List.foldl_cons, List.foldl_nil]
      rfl
    rw [he, hp, answerLink_done hcows]
  · rw [ht1]
  · rw [ht1]
  · rw [ht1]

/-! ## The claim -/

/-- A request of a port. -/
def IsRequest (d p src : Nat) (addr : W64) (i : Instr) : Prop :=
  (∃ n, i = .ualinkRead d p src addr n) ∨ (∃ bs, i = .ualinkWrite d p src addr bs) ∨ ∃ op w x y, i = .ualinkAtomic d p src addr op w x y

theorem exec_request_down {s : State} {d p src : Nat} {addr : W64} {i : Instr} (hi : IsRequest d p src addr i) (h : s.portUp d p = false) : exec i s = .next s := by
  obtain ⟨n, rfl⟩ | ⟨bs, rfl⟩ | ⟨op, w, x, y, rfl⟩ := hi
  · simp [exec, execUalinkRead, h]
  · simp [exec, execUalinkWrite, h]
  · simp [exec, execUalinkAtomic, h]

theorem exec_request_unmapped {s : State} {d p src : Nat} {addr : W64} {i : Instr} (hi : IsRequest d p src addr i) (h : s.portUp d p = true)
    (hr : s.linkRoot d p src = none) : exec i s = .next (answered s d p none) := by
  obtain ⟨n, rfl⟩ | ⟨bs, rfl⟩ | ⟨op, w, x, y, rfl⟩ := hi
  · simp [exec, execUalinkRead, h, hr, State.answer, answered]
  · simp [exec, execUalinkWrite, h, hr, State.answer, answered]
  · simp [exec, execUalinkAtomic, h, hr, State.answer, answered]

section Mapped

variable {s : State} {d p src root : Nat} {addr : W64} (h : s.portUp d p = true) (hr : s.linkRoot d p src = some root)

include h hr

theorem exec_ualinkRead_refused {n : Nat} (hn : (n = 0 ∨ 256 < n) ∨ s.linkReady d root addr n = false) :
    exec (.ualinkRead d p src addr n) s = .next (answered s d p none) := by
  have hbad : (n = 0 || 256 < n || !s.linkReady d root addr n) = true := by simpa using hn
  simp only [exec, execUalinkRead, h, hr, hbad, Bool.not_true, Bool.false_eq_true, if_false, if_true, State.answer, answered]

theorem exec_ualinkWrite_refused {bs : List Byte} (hb : bs = [] ∨ 256 < bs.length) : exec (.ualinkWrite d p src addr bs) s = .next (answered s d p none) := by
  have hbad : (bs.isEmpty || 256 < bs.length) = true := by simpa using hb
  simp only [exec, execUalinkWrite, h, hr, hbad, Bool.true_or, Bool.not_true, Bool.false_eq_true, if_false, if_true, State.answer, answered]

theorem exec_ualinkAtomic_refused {op : Nat} {w : Bool} {x y : W64} (ho : 8 ≤ op ∨ addr.toNat % (if w then 8 else 4) ≠ 0) :
    exec (.ualinkAtomic d p src addr op w x y) s = .next (answered s d p none) := by
  have hbad : (8 ≤ op || addr.toNat % (if w then 8 else 4) ≠ 0) = true := by simpa only [Bool.or_eq_true, decide_eq_true_eq] using ho
  simp only [exec, execUalinkAtomic, h, hr, hbad, Bool.true_or, Bool.not_true, Bool.false_eq_true, if_false, if_true, State.answer, answered]

theorem exec_ualinkRead_plain {n pa leaf : Nat} {pte : W64} (h0 : 0 < n) (h256 : n ≤ 256) (hrd : s.linkReady d root addr n = true)
    (hx : ∀ i, i < n → s.xlatDie d root (addr + BitVec.ofNat 64 i) .read true = (s, .ok (pa + i) pte leaf))
    (hu : ∀ i, i < n → pteScope pte = 1 → (s.dirEnt (pa + i)).st ≠ .u) (ht : s.touch leaf false = s) :
    exec (.ualinkRead d p src addr n) s = .next (answered s d p (some ((List.range n).map (fun i => Store.get s.mem (pa + i))))) := by
  have hgood : (n = 0 || 256 < n || !s.linkReady d root addr n) = false := by
    simp [hrd]
    omega
  simp only [exec, execUalinkRead, h, hr, hgood, readVa_plain n hx hu ht, Bool.not_true, Bool.false_eq_true, if_false, State.answer, answered]

/-- What an atomic that meets no copy-on-write answers, and what it leaves in memory: the new value, or, where a comparison fails, the old one. -/
theorem exec_ualinkAtomic_plain {op pa leaf : Nat} {w : Bool} {x y pte : W64} (hm : Store.wf s.mem = true) (hop : op < 8)
    (hal : addr.toNat % (if w then 8 else 4) = 0) (hrd : s.linkReady d root addr (if w then 8 else 4) = true)
    (hx : s.xlatDie d root addr .write true = (s, .ok pa pte leaf)) (ht : s.touch leaf true = s) (hc : (pteVS (s.leaf leaf) && pteCW (s.leaf leaf)) = false)
    (hu : pteScope pte = 1 → (s.dirEnt pa).st ≠ .u) :
    let n := if w then 8 else 4
    let old := Store.item s.mem pa n
    let new := if w then (atomOn 64 op none false (BitVec.ofNat 64 old) x).toNat else (atomOn 32 op none false (BitVec.ofNat 32 old) (x.setWidth 32)).toNat
    ∃ t, exec (.ualinkAtomic d p src addr op w x y) s = .next t ∧ t.replies = s.replies ++ [(d, p, some (leBytes n old))]
      ∧ Store.item t.mem pa n = (if op = 7 ∧ old ≠ y.toNat % 2 ^ (8 * n) then old else new) ∧ memOutside s t pa n := by
  intro n old new
  have hty : 8 ≤ (if w then 11 else 10) := by cases w <;> decide
  have hn : atomWidth (if w then 11 else 10) / 8 = n := by cases w <;> decide
  have hnew : atomNew op (if w then 11 else 10) old x.toNat = new := by
    rw [atomNew_unsigned hty]
    cases w
    · rfl
    · exact congrArg (fun c => (atomOn 64 op none false (BitVec.ofNat 64 old) c).toNat) (BitVec.setWidth_eq x)
  have hlt : new < 256 ^ n := by cases w <;> exact BitVec.isLt _
  let r := ({ s with handles := s.handles + 1 } : State).atomic 0 d (pteScope pte) pa op (if w then 11 else 10) y x
  obtain ⟨hold, hrep, hmem⟩ : r.2.1 = old ∧ r.1.replies = s.replies
      ∧ r.1.mem = if casWrites op n old y then Store.setBytes s.mem pa (leBytes n (atomNew op (if w then 11 else 10) old x.toNat)) else s.mem :=
    atomic_plain (s := { s with handles := s.handles + 1 }) hn hu (inHole_of_xlatDie hx)
  refine ⟨_, exec_ualinkAtomic_clear h hr hop hal hrd hx ht hc, ?_, ?_⟩
  · simp only [r] at hold hrep
    simp only [hrep, hold, hn]
  · by_cases hw : op = 7 ∧ old ≠ y.toNat % 2 ^ (8 * n)
    · have hcas : casWrites op n old y = false := by simpa [casWrites] using hw
      rw [hcas, if_neg Bool.false_ne_true] at hmem
      simp only [r] at hmem
      simp only [hmem, if_pos hw, memOutside]
      exact ⟨rfl, fun _ _ => trivial⟩
    · have hcas : casWrites op n old y = true := by simpa [casWrites, or_iff_not_imp_left] using hw
      rw [if_pos hcas, hnew] at hmem
      simp only [r] at hmem
      simp only [hmem, if_neg hw, memOutside]
      refine ⟨?_, fun b hb => get_setBytes_other _ _ _ _ hm ?_⟩
      · rw [item_setBytes _ _ _ _ hm, Nat.mod_eq_of_lt hlt]
      · rw [length_leBytes]
        unfold within at hb
        omega

end Mapped

/-- Inbound requests do what R110, R258, R425 and R426 say. -/
theorem linkRequests_holds : linkRequests := by
  intro s d p src addr hmem hd hp up req
  have hm : Store.wf s.mem = true := (Bool.and_eq_true _ _ ▸ hmem).1
  have hup : s.portUp d p = true ↔ up := by rw [portUp_iff hd hp]
  refine ⟨fun i hi h => exec_request_down hi (by rwa [← hup, Bool.not_eq_true] at h), fun i hi h hn => exec_request_unmapped hi (hup.2 h) (linkRoot_none hn), fun root h hmap => ?_⟩
  rw [← hup] at h
  have hr := linkRoot_of_mapsTo hmap
  refine ⟨fun n hn => exec_ualinkRead_refused h hr (Or.inl hn), fun bs hb => exec_ualinkWrite_refused h hr hb, fun op w x y ho => exec_ualinkAtomic_refused h hr ho,
    fun n s1 c k h0 _ hx => exec_ualinkRead_refused h hr (Or.inr (linkReady_fail h0 hx)), fun n pa pte leaf h0 h256 _ hrd hx hu ht => ?_,
    fun pa pte leaf hx hc _ hu => ⟨fun bs h0 h8 hrd _ hl => ?_, fun op w x y hop hal hrd ht => exec_ualinkAtomic_plain h hr hm hop hal hrd hx ht hc hu⟩⟩
  · exact ⟨_, exec_ualinkRead_plain h hr h0 h256 hrd hx hu ht, by simp, fun i hi => by simp [hi]⟩
  · obtain ⟨t, he, hrep, htm, hsame⟩ := exec_ualinkWrite_clear hm h hr h0 h8 hrd hx hc hu hl
    refine ⟨t, he, hrep, fun i hi => ?_, fun b hb hbl => ?_, hsame⟩
    · rw [htm, get_setBytes _ _ _ _ (touch_wf hm leaf true) hi, List.getD_eq_getElem _ _ hi, List.getElem?_eq_getElem hi]
    · rw [htm, get_setBytes_other _ _ _ _ (touch_wf hm leaf true) (by unfold within at hb; omega), touch_get hm true hbl]

/-- Settles O60: each request, message and write is run through the branch of its event that its case names. -/
theorem linksAndRegisters : Obligations.LinksAndRegisters := ⟨linkRequests_holds, linkMessages_holds, registersWritten_holds⟩

end Sys2Proof.Machine
end

section
namespace Sys2Proof.Machine

/-! ## O25: canonical form

Every function of the model that answers a state, or an effect, a job or an outcome that holds one, has one lemma: where the state it is
given is in canonical form, so is what it answers. A lemma follows its function's branches and cites the lemmas of the functions that are
called there; `exec_outOk` and `nextAct_actOk` join them to the step.

Where a branch is taken on the answer of a long function, the kernel would run that function to compare the two sides of an equation.
There the proof first gives the function a name of its own (`obtain ⟨f, d⟩ : ∃ f, F = f`), so that only the lemma about it is known.

### What canonical form asks of each kind of outcome -/

/-- The scratchpad of every core listed is in canonical form. -/
def CoresOk (m : AMap Nat Core) : Prop := m.all (fun p => Store.wf p.2.scratch) = true

/-- An outcome keeps the canonical form: its next state, where it has one, is in it. -/
def OutOk (o : Out) : Prop := ∀ t, o = .next t → t.memOk

/-- An effect keeps the canonical form: its state is in it, and what is done after the stroke leaves it so. -/
def FinOk (f : Fin) : Prop := f.s.memOk ∧ ∀ t : State, t.memOk → (f.post t).memOk

/-- How an instruction goes at issue keeps the canonical form. -/
def RunOk : Run → Prop
  | .trap _ => True
  | .block s _ => s.memOk
  | .go f => FinOk f

/-- A job keeps the canonical form of the state its context holds. -/
def JobOk (j : Job) : Prop := ∀ c : Ctx, c.s.memOk → RunOk (j.run c)

theorem outOk_next {s : State} (h : s.memOk) : OutOk (.next s) := by
  intro t e
  cases e
  exact h

/-! ## Combinators -/

section Combinators

variable {s t a b : State} {α β : Type}

theorem memOk_iff : s.memOk ↔ Store.wf s.mem = true ∧ CoresOk s.cores := by
  rw [State.memOk, Bool.and_eq_true]
  rfl

theorem mem_wf (h : s.memOk) : Store.wf s.mem = true := (memOk_iff.1 h).1

theorem coresOk (h : s.memOk) : CoresOk s.cores := (memOk_iff.1 h).2

theorem memOk_withMem {m : Store} (h : s.memOk) (hm : m.wf = true) : ({ s with mem := m } : State).memOk := memOk_iff.2 ⟨hm, (memOk_iff.1 h).2⟩

theorem memOk_withCores {m : AMap Nat Core} (h : s.memOk) (hc : CoresOk m) : ({ s with cores := m } : State).memOk := memOk_iff.2 ⟨(memOk_iff.1 h).1, hc⟩

theorem ite_memOk {c : Prop} [Decidable c] (ha : a.memOk) (hb : b.memOk) : (if c then a else b).memOk := by
  split
  · exact ha
  · exact hb

theorem fst_ite_memOk {c : Prop} [Decidable c] {p q : State × α} (hp : p.1.memOk) (hq : q.1.memOk) : (if c then p else q).1.memOk := by
  split
  · exact hp
  · exact hq

/-- The state of a pair that a match has taken apart. -/
theorem memOk_of_fst {p : State × α} {x : α} (e : p = (t, x)) (h : p.1.memOk) : t.memOk := by
  rw [e] at h
  exact h

theorem memOk_of_snd {p : α × State} {x : α} (e : p = (x, t)) (h : p.2.memOk) : t.memOk := by
  rw [e] at h
  exact h

theorem foldl_memOk {xs : List α} {f : State → α → State} (h : s.memOk) (hf : ∀ s x, s.memOk → (f s x).memOk) : (xs.foldl f s).memOk := by
  induction xs generalizing s with
  | nil => exact h
  | cons x xs ih => exact ih (hf s x h)

end Combinators

/-! ## Cores -/

theorem coresOk_find {m : AMap Nat Core} (h : CoresOk m) {k : Nat} {c : Core} (e : m.find? k = some c) : Store.wf c.scratch = true := by
  induction m with
  | nil => simp [AMap.find?] at e
  | cons p m ih =>
    obtain ⟨k', c'⟩ := p
    rw [CoresOk, List.all_cons, Bool.and_eq_true] at h
    rw [AMap.find?] at e
    split at e
    · cases e
      exact h.1
    · exact ih h.2 e

theorem coresOk_put {m : AMap Nat Core} (h : CoresOk m) {k : Nat} {c : Core} (hc : Store.wf c.scratch = true) : CoresOk (m.put k c) := by
  induction m with
  | nil => simpa [CoresOk, AMap.put] using hc
  | cons p m ih =>
    obtain ⟨k', c'⟩ := p
    rw [CoresOk, List.all_cons, Bool.and_eq_true] at h
    rw [AMap.put, CoresOk]
    split
    · rw [List.all_cons, Bool.and_eq_true]
      exact ⟨hc, h.2⟩
    · rw [List.all_cons, Bool.and_eq_true]
      exact ⟨h.1, ih h.2⟩

theorem coresOk_map {m : AMap Nat Core} {f : Nat × Core → Nat × Core} (h : CoresOk m)
    (hf : ∀ p, Store.wf p.2.scratch = true → Store.wf (f p).2.scratch = true) :
    CoresOk (m.map f) := by
  rw [CoresOk, List.all_map, List.all_eq_true]
  rw [CoresOk, List.all_eq_true] at h
  exact fun p hp => hf p (h p hp)

variable {s : State}

theorem core_wf (h : s.memOk) {c : Nat} : Store.wf (s.core c).scratch = true := by
  rw [State.core, AMap.get]
  cases e : s.cores.find? c with
  | none => rfl
  | some x => exact coresOk_find (coresOk h) e

theorem setCore_memOk (h : s.memOk) {k : Nat} {c : Core} (hc : Store.wf c.scratch = true) : (s.setCore k c).memOk :=
  memOk_withCores h (coresOk_put (coresOk h) hc)

theorem modCore_memOk (h : s.memOk) {k : Nat} {f : Core → Core} (hf : ∀ c, Store.wf c.scratch = true → Store.wf (f c).scratch = true) :
    (s.modCore k f).memOk :=
  setCore_memOk h (hf _ (core_wf h))

/-! ## Stores -/

theorem foldl_wf {α : Type} {xs : List α} {f : Store → α → Store} {m : Store} (h : m.wf = true) (hf : ∀ m x, Store.wf m = true → (f m x).wf = true) :
    Store.wf (xs.foldl f m) = true := by
  induction xs generalizing m with
  | nil => exact h
  | cons x xs ih => exact ih (hf m x h)

theorem copyPage_wf {m : Store} (h : m.wf = true) {src dst : Nat} : (m.copyPage src dst).wf = true :=
  foldl_wf (clear_wf m _ _ h) (fun m _ hm => set_wf m _ _ hm)

theorem move_wf {src dst : Store} (h : dst.wf = true) {a b n : Nat} : (src.move a dst b n).wf = true :=
  foldl_wf (clear_wf dst _ _ h) (fun m _ hm => set_wf m _ _ hm)

theorem setCache_wf {c : Core} (h : Store.wf c.scratch = true) {p : Path} {m : AMap Nat (List Byte)} : Store.wf (c.setCache p m).scratch = true := by
  cases p <;> exact h

theorem set_wf' {m : Store} (h : m.wf = true) {a : Nat} {b : Byte} : (m.set a b).wf = true := set_wf m a b h
theorem setBytes_wf' {m : Store} (h : m.wf = true) {a : Nat} {bs : List Byte} : (m.setBytes a bs).wf = true := setBytes_wf m a bs h
theorem setItem_wf {m : Store} (h : m.wf = true) {a n x : Nat} : (m.setItem a n x).wf = true := setBytes_wf m a _ h
theorem clear_wf' {m : Store} (h : m.wf = true) {a n : Nat} : (m.clear a n).wf = true := clear_wf m a n h

end Sys2Proof.Machine
end

section
namespace Sys2Proof.Machine

/-! ## Outcomes that carry a state -/

def WordTestOk : WordTest → Prop
  | .trap _ => True
  | .pass s => s.memOk
  | .no s _ => s.memOk

def CheckedOk : Checked → Prop
  | .trap _ => True
  | .ok s _ => s.memOk

def VaOutOk : VaOut → Prop
  | .ok s => s.memOk
  | .fail s _ _ => s.memOk
  | .wait s => s.memOk
  | .noFrame s => s.memOk

def DepLookOk : DepLook → Prop
  | .bad s => s.memOk
  | .pass s => s.memOk
  | .no s _ => s.memOk

def OfferOk : Offer → Prop
  | .placed s => s.memOk
  | .refused s => s.memOk

def ActOk : Act → Prop
  | .run _ s => s.memOk
  | .done o => OutOk o

/-- The state that there may be is in canonical form. -/
def OptOk : Option State → Prop
  | some s => s.memOk
  | none => True

section Carried

variable {s : State} {p : Prop} [Decidable p]

theorem memOk_of_testPass {r : WordTest} (e : r = .pass s) (h : WordTestOk r) : s.memOk := by
  rw [e] at h
  exact h

theorem memOk_of_testNo {r : WordTest} {pa} (e : r = .no s pa) (h : WordTestOk r) : s.memOk := by
  rw [e] at h
  exact h

theorem memOk_of_checked {r : Checked} {as} (e : r = .ok s as) (h : CheckedOk r) : s.memOk := by
  rw [e] at h
  exact h

theorem memOk_of_fst_vaOk {α : Type} {r : VaOut × α} {x} (e : r = (.ok s, x)) (h : VaOutOk r.1) : s.memOk := by
  rw [e] at h
  exact h

theorem memOk_of_fst_vaFail {α : Type} {r : VaOut × α} {k j} {x} (e : r = (.fail s k j, x)) (h : VaOutOk r.1) : s.memOk := by
  rw [e] at h
  exact h

theorem memOk_of_fst_vaWait {α : Type} {r : VaOut × α} {x} (e : r = (.wait s, x)) (h : VaOutOk r.1) : s.memOk := by
  rw [e] at h
  exact h

theorem memOk_of_fst_vaNoFrame {α : Type} {r : VaOut × α} {x} (e : r = (.noFrame s, x)) (h : VaOutOk r.1) : s.memOk := by
  rw [e] at h
  exact h

theorem memOk_of_depBad {r : DepLook} (e : r = .bad s) (h : DepLookOk r) : s.memOk := by
  rw [e] at h
  exact h

theorem memOk_of_depPass {r : DepLook} (e : r = .pass s) (h : DepLookOk r) : s.memOk := by
  rw [e] at h
  exact h

theorem memOk_of_depNo {r : DepLook} {pa} (e : r = .no s pa) (h : DepLookOk r) : s.memOk := by
  rw [e] at h
  exact h

theorem memOk_of_placed {r : Offer} (e : r = .placed s) (h : OfferOk r) : s.memOk := by
  rw [e] at h
  exact h

theorem memOk_of_refused {r : Offer} (e : r = .refused s) (h : OfferOk r) : s.memOk := by
  rw [e] at h
  exact h

theorem memOk_of_some {r : Option State} (e : r = some s) (h : OptOk r) : s.memOk := by
  rw [e] at h
  exact h

theorem ite_wordTestOk {q r : WordTest} (hq : WordTestOk q) (hr : WordTestOk r) : WordTestOk (if p then q else r) := by
  split
  · exact hq
  · exact hr

theorem ite_checkedOk {q r : Checked} (hq : CheckedOk q) (hr : CheckedOk r) : CheckedOk (if p then q else r) := by
  split
  · exact hq
  · exact hr

theorem ite_depLookOk {q r : DepLook} (hq : DepLookOk q) (hr : DepLookOk r) : DepLookOk (if p then q else r) := by
  split
  · exact hq
  · exact hr

theorem ite_offerOk {q r : Offer} (hq : OfferOk q) (hr : OfferOk r) : OfferOk (if p then q else r) := by
  split
  · exact hq
  · exact hr

theorem ite_actOk {q r : Act} (hq : ActOk q) (hr : ActOk r) : ActOk (if p then q else r) := by
  split
  · exact hq
  · exact hr

theorem ite_optOk {q r : Option State} (hq : OptOk q) (hr : OptOk r) : OptOk (if p then q else r) := by
  split
  · exact hq
  · exact hr

theorem getD_memOk {o : Option State} (ho : OptOk o) (h : s.memOk) : (o.getD s).memOk := by
  cases o with
  | none => exact h
  | some t => exact ho

theorem map_optOk {o : Option State} {f : State → State} (ho : OptOk o) (hf : ∀ s, s.memOk → (f s).memOk) : OptOk (o.map f) := by
  cases o with
  | none => trivial
  | some t => exact hf t ho

theorem optOk_map {α : Type} {o : Option α} {f : α → State} (hf : ∀ x, (f x).memOk) : OptOk (o.map f) := by
  cases o with
  | none => trivial
  | some x => exact hf x

theorem foldl_apply_memOk {fs : List (State → State)} (h : s.memOk) (hf : ∀ f ∈ fs, ∀ s, s.memOk → (f s).memOk) :
    (fs.foldl (fun s f => f s) s).memOk := by
  induction fs generalizing s with
  | nil => exact h
  | cons f fs ih => exact ih (hf f List.mem_cons_self s h) (fun g hg => hf g (List.mem_cons_of_mem f hg))

theorem moveIn_wf {pa n b : Nat} {m : Store} (h : m.wf = true) : (s.moveIn pa m b n).wf = true := by
  unfold State.moveIn
  split
  · exact foldl_wf h (fun _ _ hm => set_wf' hm)
  · exact move_wf h

theorem findSome?_optOk {α : Type} {xs : List α} {f : α → Option State} (h : ∀ x, OptOk (f x)) : OptOk (xs.findSome? f) := by
  induction xs with
  | nil => trivial
  | cons x xs ih =>
    rw [List.findSome?_cons]
    have hx := h x
    generalize f x = o at hx
    cases o with
    | some t => exact hx
    | none => exact ih

end Carried

section Outcomes

variable {s t : State} {c : Ctx} {f g : Fin} {q r : Run} {o o' : Out}

/-- Only memory and the cores count. -/
theorem memOk_congr (s : State) (h : s.memOk) (hm : t.mem = s.mem) (hc : t.cores = s.cores) : t.memOk := by
  rw [memOk_iff, hm, hc]
  exact memOk_iff.1 h

/-- Only the state and what is done after the stroke count. -/
theorem finOk_congr (f : Fin) (h : FinOk f) (hs : g.s = f.s) (hp : g.post = f.post) : FinOk g := by
  rw [FinOk, hs, hp]
  exact h

theorem finOk_of_post (f : Fin) (h : FinOk f) (hs : g.s = f.s) (hp : ∀ t, t.memOk → (g.post t).memOk) : FinOk g := by
  refine ⟨?_, hp⟩
  rw [hs]
  exact h.1

theorem finOk_of_s (f : Fin) (h : FinOk f) (hp : g.post = f.post) (hs : g.s.memOk) : FinOk g := by
  refine ⟨hs, ?_⟩
  rw [hp]
  exact h.2

/-- Only how the instruction goes at issue counts. -/
theorem jobOk_congr (j : Job) {k : Job} (h : JobOk j) (e : k.run = j.run) : JobOk k := by
  rw [JobOk, e]
  exact h

theorem ite_runOk {p : Prop} [Decidable p] (hq : RunOk q) (hr : RunOk r) : RunOk (if p then q else r) := by
  split
  · exact hq
  · exact hr

theorem ite_finOk {p : Prop} [Decidable p] (hf : FinOk f) (hg : FinOk g) : FinOk (if p then f else g) := by
  split
  · exact hf
  · exact hg

theorem ite_outOk {p : Prop} [Decidable p] (ho : OutOk o) (ho' : OutOk o') : OutOk (if p then o else o') := by
  split
  · exact ho
  · exact ho'

theorem finOk_s (h : FinOk f) : f.s.memOk := h.1

theorem finOk_post (h : FinOk f) (ht : t.memOk) : (f.post t).memOk := h.2 t ht

theorem finOk_of_go (e : r = .go f) (h : RunOk r) : FinOk f := by
  rw [e] at h
  exact h

theorem memOk_of_block {w : Wait} (e : r = .block s w) (h : RunOk r) : s.memOk := by
  rw [e] at h
  exact h

end Outcomes

end Sys2Proof.Machine
end

section
/-! ## Canonical form: the functions of Sys2Proof/Machine/Access.lean -/

namespace Sys2Proof.Machine

variable {s : State} {c : Ctx}

theorem setDie_memOk {d v} (h : s.memOk) : (s.setDie d v).memOk :=
  memOk_congr _ h rfl rfl

theorem modDie_memOk {d f} (h : s.memOk) : (s.modDie d f).memOk :=
  setDie_memOk h

theorem setWarp_memOk {g w} (h : s.memOk) : (s.setWarp g w).memOk :=
  memOk_congr _ h rfl rfl

theorem modWarp_memOk {g f} (h : s.memOk) : (s.modWarp g f).memOk := by
  unfold State.modWarp
  split
  · exact setWarp_memOk h
  · exact h

theorem setGroup_memOk {k v} (h : s.memOk) : (s.setGroup k v).memOk :=
  memOk_congr _ h rfl rfl

theorem modGroup_memOk {k f} (h : s.memOk) : (s.modGroup k f).memOk := by
  unfold State.modGroup
  split
  · exact setGroup_memOk h
  · exact h

theorem modUnit_memOk {g sub f} (h : s.memOk) : (s.modUnit g sub f).memOk :=
  modWarp_memOk h

theorem setDieReg_memOk {d r v} (h : s.memOk) : (s.setDieReg d r v).memOk :=
  modDie_memOk h

theorem setCoreReg_memOk {c' r v} (h : s.memOk) : (s.setCoreReg c' r v).memOk :=
  modCore_memOk h (fun _ h1 => h1)

theorem setPkgReg_memOk {r v} (h : s.memOk) : (s.setPkgReg r v).memOk :=
  memOk_congr _ h rfl rfl

theorem tickFree_memOk (h : s.memOk) : (s.tickFree).memOk :=
  memOk_congr _ h rfl rfl

theorem newHandle_memOk (h : s.memOk) : (s.newHandle).2.memOk :=
  memOk_congr _ h rfl rfl

end Sys2Proof.Machine
end

section
/-! ## Canonical form: the functions of Sys2Proof/Machine/Mem.lean -/

namespace Sys2Proof.Machine

variable {s : State} {c : Ctx}

theorem seeWatches_memOk {pa n} (h : s.memOk) : (s.seeWatches pa n).memOk :=
  memOk_congr _ h rfl rfl

theorem poke_memOk {pa bs} (h : s.memOk) : (s.poke pa bs).memOk :=
  ite_memOk h (seeWatches_memOk (memOk_withMem h (setBytes_wf' (mem_wf h))))

theorem pokeN_memOk {pa n x} (h : s.memOk) : (s.pokeN pa n x).memOk :=
  poke_memOk h

theorem setDir_memOk {pa e} (h : s.memOk) : (s.setDir pa e).memOk :=
  memOk_congr _ h rfl rfl

theorem mergeDie_memOk {line d} (h : s.memOk) : (mergeDie s line d).memOk :=
  foldl_memOk h (fun _ _ h1 => pokeN_memOk h1)

theorem mergeLine_memOk {line} (h : s.memOk) : (s.mergeLine line).memOk :=
  memOk_congr _ (foldl_memOk h (fun _ _ h1 => mergeDie_memOk h1)) rfl rfl

theorem dirRead_memOk {d pa} (h : s.memOk) : (s.dirRead d pa).memOk := by
  unfold State.dirRead
  extract_lets
  split
  · exact setDir_memOk h
  · exact setDir_memOk (mergeLine_memOk h)
  · exact ite_memOk h (setDir_memOk h)
  · exact ite_memOk h (setDir_memOk h)
  · exact setDir_memOk h
  · exact setDir_memOk h

theorem dirWrite_memOk {d pa} (h : s.memOk) : (s.dirWrite d pa).memOk :=
  setDir_memOk (ite_memOk (mergeLine_memOk h) h)

theorem dirReduce_memOk {d pa op ty v} (h : s.memOk) : (s.dirReduce d pa op ty v).memOk := by
  unfold State.dirReduce
  extract_lets _ _ s1 _ s2
  have h1 : s1.memOk := dirWrite_memOk h
  have h2 : s2.memOk := ite_memOk (mergeLine_memOk h) h
  exact ite_memOk (pokeN_memOk h1) (setDir_memOk (memOk_congr _ h2 rfl rfl))

theorem dirEvict_memOk {d pa} (h : s.memOk) : (s.dirEvict d pa).memOk := by
  unfold State.dirEvict
  extract_lets
  split
  · exact ite_memOk (setDir_memOk h) (setDir_memOk h)
  · exact ite_memOk (setDir_memOk h) (setDir_memOk h)
  · exact setDir_memOk h
  · exact setDir_memOk h
  · exact h
  · exact h

theorem fillDie_memOk {d root va pte addr} (h : s.memOk) : (s.fillDie d root va pte addr).memOk :=
  modDie_memOk h

theorem dieLeaf_memOk {d root va} (h : s.memOk) : (s.dieLeaf d root va).1.memOk := by
  unfold State.dieLeaf
  split
  · exact h
  · split
    · exact fst_ite_memOk (fillDie_memOk h) h
    · exact h

theorem xlatDie_memOk {d root va want bound} (h : s.memOk) : (s.xlatDie d root va want bound).1.memOk :=
  fst_ite_memOk h (dieLeaf_memOk h)

theorem xlatCore_memOk {core root va want} (h : s.memOk) : (s.xlatCore core root va want).1.memOk := by
  unfold State.xlatCore
  extract_lets
  refine fst_ite_memOk h ?_
  split
  · exact h
  · split
    · rename_i e3
      have m3 := memOk_of_fst e3 (dieLeaf_memOk h)
      extract_lets
      split
      · exact fst_ite_memOk (modCore_memOk m3 (fun _ h1 => h1)) m3
      · exact memOk_of_fst e3 (dieLeaf_memOk h)

theorem touch_memOk {addr write} (h : s.memOk) : (s.touch addr write).memOk :=
  ite_memOk h (pokeN_memOk h)

theorem invalidate_memOk {root hit all} (h : s.memOk) : (s.invalidate root hit all).memOk :=
  memOk_withCores h (coresOk_map (coresOk h) (fun _ h1 => h1))

theorem invalidateLeaf_memOk {addr} (h : s.memOk) : (s.invalidateLeaf addr).memOk :=
  memOk_withCores h (coresOk_map (coresOk h) (fun _ h1 => h1))

theorem l2Line_memOk {d scope pa} (h : s.memOk) : (s.l2Line d scope pa).1.memOk := by
  unfold State.l2Line
  extract_lets _ s1
  have h1 : s1.memOk := dirRead_memOk h
  split
  · exact h1
  · split
    · exact h
    · exact modDie_memOk h
  · exact h

theorem readLine_memOk {core p scope pa n} (h : s.memOk) : (s.readLine core p scope pa n).1.memOk := by
  unfold State.readLine
  split
  · exact h
  · exact modCore_memOk (l2Line_memOk h) (fun _ h1 => setCache_wf h1)

theorem writeMem_memOk {d scope pa bs} (h : s.memOk) : (s.writeMem d scope pa bs).memOk :=
  poke_memOk (ite_memOk (modDie_memOk (ite_memOk (dirWrite_memOk h) h)) (ite_memOk (dirWrite_memOk h) h))

theorem storeItem_memOk {core scope pa bs} (h : s.memOk) : (s.storeItem core scope pa bs).memOk := by
  unfold State.storeItem
  extract_lets s1
  have h1 : s1.memOk := writeMem_memOk h
  split
  · exact modCore_memOk h1 (fun _ h2 => h2)
  · exact h1

theorem dropL1_memOk {core pa} (h : s.memOk) : (s.dropL1 core pa).memOk :=
  modCore_memOk h (fun _ h1 => h1)

theorem dropCopy_memOk {d pa} (h : s.memOk) : (s.dropCopy d pa).memOk :=
  modDie_memOk h

theorem dropFrame_memOk {f} (h : s.memOk) : (s.dropFrame f).memOk :=
  memOk_withCores h (coresOk_map (coresOk h) (fun _ h1 => h1))

theorem reduce_memOk {d scope pa op ty v} (h : s.memOk) : (s.reduce d scope pa op ty v).memOk :=
  ite_memOk (dirReduce_memOk h) (writeMem_memOk h)

theorem homeRead_memOk {d scope pa n} (h : s.memOk) : (s.homeRead d scope pa n).1.memOk :=
  ite_memOk (dirRead_memOk h) h

theorem acquire_memOk {core} (h : s.memOk) : (s.acquire core).memOk :=
  modDie_memOk (modCore_memOk h (fun _ h1 => h1))

theorem readVa_memOk {d root va bound n} (h : s.memOk) : (s.readVa d root va bound n).1.memOk := by
  induction n with
  | zero => exact h
  | succ n ih =>
    rw [State.readVa]
    split
    · rename_i e
      exact memOk_of_fst e ih
    · rename_i e
      have h1 := memOk_of_fst e ih
      split
      · rename_i e'
        exact memOk_of_fst e' (xlatDie_memOk h1)
      · rename_i e'
        have h2 := memOk_of_fst e' (xlatDie_memOk h1)
        exact ite_memOk (dirRead_memOk (touch_memOk h2)) (touch_memOk h2)

theorem writeVrec_memOk {a v} (h : s.memOk) : (s.writeVrec a v).memOk :=
  poke_memOk h

end Sys2Proof.Machine
end

section
/-! ## Canonical form: the functions of Sys2Proof/Machine/Version.lean -/

namespace Sys2Proof.Machine

variable {s : State} {c : Ctx}

theorem bump_memOk {d r} (h : s.memOk) : (s.bump d r).memOk :=
  setDieReg_memOk h

theorem callNorem_memOk {d i} (h : s.memOk) : (s.callNorem d i).memOk :=
  modDie_memOk h

theorem ringFrame_memOk {d n} (h : s.memOk) : (takeFrame d n s).1.memOk := by
  induction n generalizing s with
  | zero => exact h
  | succ n ih =>
    rw [takeFrame]
    exact fst_ite_memOk h (fst_ite_memOk (bump_memOk h) (ih (callNorem_memOk (setDieReg_memOk (bump_memOk h)))))

theorem takeFrame_memOk {d} (h : s.memOk) : (s.takeFrame d).1.memOk :=
  ringFrame_memOk h

theorem mergePage_memOk {frame scope} (h : s.memOk) : (s.mergePage frame scope).memOk :=
  ite_memOk (foldl_memOk h (fun _ _ h1 => dirRead_memOk h1)) h

theorem cowTouch_memOk {addr} (h : s.memOk) : (s.cowTouch addr).1.memOk := by
  unfold State.cowTouch
  extract_lets _ _ _ _ s1
  have h1 : s1.memOk := writeVrec_memOk h
  refine fst_ite_memOk h ?_
  split
  · exact h
  · refine fst_ite_memOk h ?_
    split
    rename_i e
    have h2 := memOk_of_fst e (takeFrame_memOk h1)
    exact memOk_congr _ (ite_memOk (callNorem_memOk h2) h2) rfl rfl

theorem repoint_memOk {pte old f} (h : s.memOk) : (s.repoint pte old f).memOk :=
  memOk_congr _ h rfl rfl

theorem cowFinish_memOk {c' f} (h : s.memOk) : (s.cowFinish c' f).memOk := by
  unfold State.cowFinish
  extract_lets _ s1 s2 s3 s4 _ s5
  have h1 : s1.memOk := mergePage_memOk h
  have h2 : s2.memOk := repoint_memOk (dropFrame_memOk (memOk_withMem h1 (copyPage_wf (mem_wf h1))))
  have h3 : s3.memOk := pokeN_memOk h2
  have h4 : s4.memOk := invalidateLeaf_memOk h3
  have h5 : s5.memOk := writeVrec_memOk h4
  exact memOk_congr _ h5 rfl rfl

theorem feedCows_memOk {d} (h : s.memOk) : (s.feedCows d).memOk := by
  unfold State.feedCows
  refine foldl_memOk h ?_
  intro _ _ h1
  refine ite_memOk ?_ h1
  split
  · rename_i e1
    exact memOk_congr _ (memOk_of_fst e1 (takeFrame_memOk h1)) rfl rfl
  · rename_i e2
    exact memOk_of_fst e2 (takeFrame_memOk h1)

theorem queueLate_memOk {addr w} (h : s.memOk) : (s.queueLate addr w).memOk :=
  memOk_congr _ h rfl rfl

theorem settleLate_memOk {g p} (h : s.memOk) : (s.settleLate g p).memOk :=
  memOk_congr _ h rfl rfl

theorem retireSlot_memOk {addr a k v} (h : s.memOk) : (s.retireSlot addr a k v).1.memOk :=
  writeVrec_memOk (ite_memOk (pokeN_memOk (ite_memOk (modDie_memOk h) h)) (ite_memOk (modDie_memOk h) h))

theorem waitReturn_memOk {d} (h : s.memOk) : (s.waitReturn d).memOk :=
  ite_memOk h (callNorem_memOk h)

theorem publish_memOk {addr n} (h : s.memOk) : (s.publish addr n).1.memOk := by
  unfold State.publish
  extract_lets _ _ _ _ s1
  have h1 : s1.memOk := mergePage_memOk h
  exact fst_ite_memOk h (fst_ite_memOk h (fst_ite_memOk h (fst_ite_memOk (waitReturn_memOk h) (pokeN_memOk (writeVrec_memOk (fst_ite_memOk
      (retireSlot_memOk h1) h1))))))

theorem retire_memOk {addr ver} (h : s.memOk) : (s.retire addr ver).1.memOk := by
  unfold State.retire
  extract_lets
  refine fst_ite_memOk h ?_
  refine fst_ite_memOk h ?_
  refine fst_ite_memOk h ?_
  split
  · exact h
  · exact fst_ite_memOk (waitReturn_memOk h) (retireSlot_memOk h)

end Sys2Proof.Machine
end

section
/-! ## Canonical form: the functions of Sys2Proof/Machine/Regs.lean -/

namespace Sys2Proof.Machine

variable {s : State} {c : Ctx}

theorem spillOne_memOk {g} (h : s.memOk) : (spillOne s g).memOk := by
  unfold spillOne
  split
  · exact h
  · extract_lets
    split
    · exact setWarp_memOk (poke_memOk h)
    · split
      · exact h
      · split
        · exact setWarp_memOk (poke_memOk h)
        · exact h

theorem spillN_memOk {n g} (h : s.memOk) : (spillN n s g).memOk := by
  induction n generalizing s with
  | zero => exact h
  | succ n ih => exact ih (spillOne_memOk h)

theorem reload_memOk {g} (h : s.memOk) : (s.reload g).memOk :=
  modWarp_memOk h

theorem setWreg_memOk {g sub n v} (h : s.memOk) : (s.setWreg g sub n v).memOk := by
  unfold State.setWreg
  split
  · exact h
  · exact modUnit_memOk (modGroup_memOk h)

end Sys2Proof.Machine
end

section
/-! ## Canonical form: the functions of Sys2Proof/Machine/TraceUnit.lean -/

namespace Sys2Proof.Machine

variable {s : State} {c : Ctx}

theorem traceWrite_memOk {c' bs} (h : s.memOk) : (s.traceWrite c' bs).memOk :=
  setCoreReg_memOk (foldl_memOk h (fun _ _ h1 => poke_memOk h1))

theorem traceStroke_memOk {g sub n u e} (h : s.memOk) : (s.traceStroke g sub n u e).memOk := by
  unfold State.traceStroke
  extract_lets _ _ _ _ s1
  have h1 : s1.memOk := ite_memOk (memOk_congr _ h rfl rfl) h
  exact ite_memOk (ite_memOk (setCoreReg_memOk (modCore_memOk (traceWrite_memOk h1) (fun _ h2 => h2))) (modCore_memOk h1 (fun _ h2 => h2)))
      (ite_memOk (modCore_memOk (traceWrite_memOk h1) (fun _ h2 => h2)) (setCoreReg_memOk (modCore_memOk h1 (fun _ h2 => h2))))

theorem unsync_memOk {g sub} (h : s.memOk) : (s.unsync g sub).memOk :=
  modCore_memOk h (fun _ h1 => h1)

theorem syncChild_memOk {g sub child} (h : s.memOk) : (s.syncChild g sub child).memOk := by
  unfold State.syncChild
  refine modCore_memOk h ?_
  intro _ h1
  extract_lets
  split
  · exact h1
  · exact h1

end Sys2Proof.Machine
end

section
/-! ## Canonical form: the functions of Sys2Proof/Machine/Stack.lean -/

namespace Sys2Proof.Machine

variable {s : State} {c : Ctx}

theorem stackFill_memOk {g line} (h : s.memOk) : (s.stackFill g line).1.memOk := by
  unfold State.stackFill
  split
  · exact h
  · extract_lets
    split
    · exact h
    · rename_i e4
      exact fst_ite_memOk h (modWarp_memOk (l2Line_memOk (touch_memOk (memOk_of_fst e4 (xlatCore_memOk h)))))

theorem stackGet_memOk {g a} (h : s.memOk) : (s.stackGet g a).1.memOk := by
  unfold State.stackGet
  split
  · exact h
  · split
    · exact h
    · split
      · rename_i e5
        exact memOk_of_fst e5 (stackFill_memOk h)
      · rename_i e6
        exact memOk_of_fst e6 (stackFill_memOk h)

theorem stackOpen_memOk {g a} (h : s.memOk) : (s.stackOpen g a).1.memOk := by
  unfold State.stackOpen
  split
  · exact h
  · refine fst_ite_memOk h ?_
    split
    · exact h
    · rename_i e4
      exact fst_ite_memOk (memOk_of_fst e4 (xlatCore_memOk h)) h

theorem stackReach_memOk {g as} (h : s.memOk) : (s.stackReach g as).1.memOk := by
  induction as generalizing s with
  | nil => exact h
  | cons a as ih =>
    rw [State.stackReach]
    split
    · rename_i e
      exact ih (memOk_of_fst e (stackOpen_memOk h))
    · rename_i e
      exact memOk_of_fst e (stackOpen_memOk h)

theorem stackFlush_memOk {g line} (h : s.memOk) : (s.stackFlush g line).1.memOk := by
  unfold State.stackFlush
  split
  · exact h
  · extract_lets
    refine fst_ite_memOk (modWarp_memOk h) ?_
    split
    · exact h
    · rename_i e4
      have h1 := memOk_of_fst e4 (xlatCore_memOk h)
      refine fst_ite_memOk h ?_
      split
      · rename_i e5
        exact memOk_of_fst e5 (cowTouch_memOk h1)
      · exact h
      · exact h
      · rename_i e8
        extract_lets s1 s2
        have h3 : s1.memOk := touch_memOk (memOk_of_fst e8 (cowTouch_memOk h1))
        have h4 : s2.memOk := by
          dsimp only [s2]
          refine foldl_memOk h3 ?_
          intro _ _ h4
          split
          · exact writeMem_memOk h4
          · exact h4
        exact modWarp_memOk h4

theorem stackFlushAll_memOk {g} (h : s.memOk) : (s.stackFlushAll g).memOk := by
  unfold State.stackFlushAll
  split
  · exact h
  · exact foldl_memOk h (fun _ _ h1 => stackFlush_memOk h1)

theorem stackLeave_memOk {g line} (h : s.memOk) : (s.stackLeave g line).memOk := by
  unfold State.stackLeave
  extract_lets
  split
  · rename_i e1
    split
    · exact foldl_memOk (memOk_of_fst e1 (stackFlush_memOk h)) (fun _ _ h1 => queueLate_memOk h1)
    · exact memOk_of_fst e1 (stackFlush_memOk h)
  · rename_i e4
    exact memOk_of_fst e4 (stackFlush_memOk h)

theorem stackLeaveAll_memOk {g} (h : s.memOk) : (s.stackLeaveAll g).memOk := by
  unfold State.stackLeaveAll
  split
  · exact h
  · exact foldl_memOk h (fun _ _ h1 => stackLeave_memOk h1)

end Sys2Proof.Machine
end

section
/-! ## Canonical form: the functions of Sys2Proof/Machine/Ops.lean -/

namespace Sys2Proof.Machine

variable {s : State} {c : Ctx}

theorem unU_memOk {pa} (h : s.memOk) : (s.unU pa).memOk :=
  ite_memOk (setDir_memOk (mergeLine_memOk h)) h

theorem addWord_memOk {pa n} (h : s.memOk) : (s.addWord pa n).memOk :=
  pokeN_memOk (unU_memOk h)

theorem orWord_memOk {pa n} (h : s.memOk) : (s.orWord pa n).memOk :=
  pokeN_memOk (unU_memOk h)

theorem wakeDrop_memOk {i} (h : s.memOk) : (s.wakeDrop i).memOk :=
  setPkgReg_memOk h

theorem irqDrop_memOk {i} (h : s.memOk) : (s.irqDrop i).memOk :=
  setPkgReg_memOk h

theorem sendMessage_memOk {e} (h : s.memOk) : (s.sendMessage e).memOk :=
  pokeN_memOk (unU_memOk h)

theorem raise_memOk {i v} (h : s.memOk) : (s.raise i v).memOk :=
  ite_memOk (irqDrop_memOk h) (ite_memOk (irqDrop_memOk h) (ite_memOk (poke_memOk h) (sendMessage_memOk h)))

theorem raiseUnless_memOk {i v} (h : s.memOk) : (s.raiseUnless i v).memOk :=
  ite_memOk h (raise_memOk h)

theorem kickQueue_memOk {q} (h : s.memOk) : (s.kickQueue q).memOk := by
  unfold State.kickQueue
  split
  · exact ite_memOk (modDie_memOk h) (modDie_memOk (orWord_memOk h))
  · exact ite_memOk (setDieReg_memOk (orWord_memOk h)) (orWord_memOk h)

theorem countFault_memOk {l} (h : s.memOk) : (s.countFault l).memOk :=
  raiseUnless_memOk (addWord_memOk h)

theorem postFault_memOk {d l bs} (h : s.memOk) : (s.postFault d l bs).memOk := by
  unfold State.postFault
  extract_lets
  split
  · exact countFault_memOk h
  · rename_i e2
    have h1 := memOk_of_fst e2 (xlatDie_memOk h)
    split
    · rename_i e3
      exact countFault_memOk (writeMem_memOk (touch_memOk (memOk_of_fst e3 (cowTouch_memOk h1))))
    · rename_i e4
      exact queueLate_memOk (memOk_of_fst e4 (cowTouch_memOk h1))
    · exact countFault_memOk h
    · exact countFault_memOk h

theorem postTrap_memOk {g w u t flags} (h : s.memOk) : (s.postTrap g w u t flags).memOk := by
  unfold State.postTrap
  split
  · exact postFault_memOk h
  · exact h

theorem setLaunch_memOk {k l} (h : s.memOk) : (s.setLaunch k l).memOk :=
  poke_memOk (memOk_congr _ h rfl rfl)

theorem modLaunch_memOk {k f} (h : s.memOk) : (s.modLaunch k f).memOk := by
  unfold State.modLaunch
  split
  · exact ite_memOk (memOk_congr _ h rfl rfl) (setLaunch_memOk h)
  · exact h

theorem dropLaunch_memOk {k} (h : s.memOk) : (s.dropLaunch k).memOk :=
  poke_memOk (memOk_congr _ h rfl rfl)

theorem writeResult_memOk {g sub k d v} (h : s.memOk) : (writeResult s g sub k d v).memOk := by
  unfold writeResult
  extract_lets
  split
  · exact modWarp_memOk h
  · exact ite_memOk h (modWarp_memOk h)
  · exact ite_memOk h (setWreg_memOk h)

theorem dropLook_memOk {g id} (h : s.memOk) : (s.dropLook g id).memOk :=
  modCore_memOk (modWarp_memOk h) (fun _ h1 => h1)

theorem writeLook_memOk {g sub k} (h : s.memOk) : (s.writeLook g sub k).memOk := by
  unfold State.writeLook
  extract_lets _ _ s1
  have h1 : s1.memOk := modWarp_memOk (foldl_memOk h (fun _ _ h1 => writeResult_memOk h1))
  exact ite_memOk h (dropLook_memOk (ite_memOk h1 (tickFree_memOk h1)))

theorem writeLooks_memOk {g sub p} (h : s.memOk) : (s.writeLooks g sub p).memOk := by
  unfold State.writeLooks
  split
  · exact h
  · exact foldl_memOk h (fun _ _ h1 => writeLook_memOk h1)

theorem forceLooks_memOk {g sub} (h : s.memOk) : (s.forceLooks g sub).memOk :=
  writeLooks_memOk h

theorem holdLooks_memOk {g sub} (h : s.memOk) : (s.holdLooks g sub).memOk :=
  modUnit_memOk h

theorem noteStep_memOk {g sub e st} (h : s.memOk) : (s.noteStep g sub e st).memOk :=
  ite_memOk (modDie_memOk h) h

theorem endStroke_memOk {g sub e st} (h : s.memOk) : (s.endStroke g sub e st).memOk := by
  unfold State.endStroke
  split
  · exact h
  · extract_lets _ s1 s2 s3
    have h1 : s1.memOk := noteStep_memOk h
    have h2 : s2.memOk := ite_memOk (traceStroke_memOk h1) h1
    have h3 : s3.memOk := modUnit_memOk h2
    exact ite_memOk (memOk_congr _ h3 rfl rfl) h3

theorem beginStroke_memOk {g sub} (h : s.memOk) : (s.beginStroke g sub).memOk := by
  unfold State.beginStroke
  split
  · exact h
  · exact memOk_congr _ (modUnit_memOk (modWarp_memOk h)) rfl rfl

theorem checkBars_memOk {wg} (h : s.memOk) : (s.checkBars wg).memOk := by
  unfold State.checkBars
  split
  · exact h
  · exact setGroup_memOk h

theorem checkEntry_memOk {launch e} (h : s.memOk) : (s.checkEntry launch e).memOk := by
  unfold State.checkEntry
  split
  · exact h
  · extract_lets _ s1 _ _ s2
    have h1 : s1.memOk := by
      dsimp only [s1]
      refine foldl_memOk h ?_
      intro _ _ h1
      split
      · exact setGroup_memOk h1
      · exact h1
    have h2 : s2.memOk := by
      dsimp only [s2]
      refine foldl_memOk h1 ?_
      intro _ _ h2
      split
      · exact setGroup_memOk h2
      · exact h2
    exact ite_memOk (modLaunch_memOk h2) h1

theorem checkGbars_memOk {launch lin} (h : s.memOk) : (s.checkGbars launch lin).memOk := by
  unfold State.checkGbars
  split
  · exact h
  · exact foldl_memOk h (fun _ _ h1 => ite_memOk (checkEntry_memOk h1) h1)

theorem checkGroup_memOk {wg} (h : s.memOk) : (s.checkGroup wg).memOk := by
  unfold State.checkGroup
  split
  · exact h
  · exact checkGbars_memOk (checkBars_memOk h)

theorem postLeave_memOk {d e} (h : s.memOk) : (s.postLeave d e).memOk :=
  ite_memOk (bump_memOk (poke_memOk h)) (callNorem_memOk (modDie_memOk h))

theorem settlePreq_memOk {d} (h : s.memOk) : (s.settlePreq d).memOk :=
  ite_memOk (setDieReg_memOk h) h

theorem reapGroup_memOk {wg} (h : s.memOk) : (s.reapGroup wg).memOk := by
  unfold State.reapGroup
  split
  · exact h
  · refine ite_memOk h ?_
    extract_lets s1 s2 s3
    have h1 : s1.memOk := modCore_memOk h (fun _ h1 => clear_wf' h1)
    have h2 : s2.memOk := settlePreq_memOk (memOk_congr _ h1 rfl rfl)
    have h3 : s3.memOk := modLaunch_memOk h2
    exact ite_memOk h2 (checkGbars_memOk h3)

theorem reapWarp_memOk {g} (h : s.memOk) : (s.reapWarp g).memOk := by
  unfold State.reapWarp
  split
  · exact h
  · refine ite_memOk h ?_
    extract_lets s1 _ s2 s3
    have h1 : s1.memOk := settleLate_memOk (stackLeaveAll_memOk h)
    have h2 : s2.memOk := memOk_congr _ h1 rfl rfl
    have h3 : s3.memOk := modCore_memOk h2 (fun _ h3 => h3)
    exact reapGroup_memOk (checkGroup_memOk (modGroup_memOk (memOk_congr _ (postLeave_memOk h3) rfl rfl)))

theorem dropUnits_memOk {g p} (h : s.memOk) : (s.dropUnits g p).memOk := by
  unfold State.dropUnits
  split
  · exact h
  · extract_lets _ s1 s2
    have h1 : s1.memOk := setWarp_memOk h
    have h2 : s2.memOk := by
      dsimp only [s2]
      split
      · exact ite_memOk (memOk_congr _ h1 rfl rfl) h1
      · exact h1
    exact ite_memOk (reapWarp_memOk (modCore_memOk h2 (fun _ h3 => h3))) h2

theorem endGroup_memOk {wg} (h : s.memOk) : (s.endGroup wg).memOk := by
  unfold State.endGroup
  split
  · exact h
  · exact reapGroup_memOk (checkGroup_memOk (foldl_memOk (setGroup_memOk h) (fun _ _ h1 => dropUnits_memOk h1)))

theorem haltWarp_memOk {g code} (h : s.memOk) : (s.haltWarp g code).memOk := by
  unfold State.haltWarp
  split
  · exact h
  · extract_lets s1
    have h1 : s1.memOk := by
      dsimp only [s1]
      split
      · exact modLaunch_memOk h
      · exact h
    exact endGroup_memOk (dropUnits_memOk h1)

theorem undiverge_memOk {g} (h : s.memOk) : (s.undiverge g).memOk :=
  ite_memOk h (modWarp_memOk h)

theorem splitUnit_memOk {g sub e k taken target other join} (h : s.memOk) : (s.splitUnit g sub e k taken target other join).memOk := by
  unfold State.splitUnit
  split
  · exact h
  · exact syncChild_memOk (modWarp_memOk (modCore_memOk h (fun _ h1 => h1)))

theorem forgetSub_memOk {g sub} (h : s.memOk) : (s.forgetSub g sub).memOk := by
  unfold State.forgetSub
  split
  · exact settleLate_memOk (modGroup_memOk h)
  · exact h

theorem popSerial_memOk {g serial} (h : s.memOk) : (s.popSerial g serial).memOk := by
  unfold State.popSerial
  split
  · exact modWarp_memOk h
  · exact h

theorem resolveSplit_memOk {n g e} (h : s.memOk) : (resolveSplit n s g e).memOk := by
  induction n generalizing s g e with
  | zero => exact h
  | succ n ih =>
    rw [resolveSplit]
    split
    · exact h
    · extract_lets s1 s2 s3 s4 s5
      have h1 : s1.memOk := modCore_memOk h (fun _ h => h)
      have h3 : s3.memOk := forgetSub_memOk (modWarp_memOk h1)
      have h5 : s5.memOk := popSerial_memOk h3
      refine ite_memOk h (ite_memOk (undiverge_memOk (modWarp_memOk h3)) ?_)
      split
      · exact undiverge_memOk h5
      · exact ih (modCore_memOk h5 (fun _ h => h))

theorem arrive_memOk {g sub e} (h : s.memOk) : (s.arrive g sub e).memOk := by
  unfold State.arrive
  split
  · exact h
  · extract_lets s1 s2 s3
    have h1 : s1.memOk := by
      dsimp only [s1]
      refine modCore_memOk h ?_
      intro _ h1
      split
      · exact h1
      · exact h1
    have h2 : s2.memOk := settleLate_memOk (modUnit_memOk h1)
    have h3 : s3.memOk := resolveSplit_memOk h2
    split
    · exact checkGroup_memOk h3
    · exact h3

theorem lastExit_memOk {g w u} (h : s.memOk) : (s.lastExit g w u).memOk := by
  unfold State.lastExit
  split
  · exact ite_memOk (dropUnits_memOk h) (haltWarp_memOk (postTrap_memOk h))
  · exact dropUnits_memOk h

theorem exitUnit_memOk {g sub} (h : s.memOk) : (s.exitUnit g sub).memOk := by
  unfold State.exitUnit
  split
  · exact h
  · extract_lets s1 s2 s3
    have h1 : s1.memOk := forceLooks_memOk (popSerial_memOk h)
    have h2 : s2.memOk := forgetSub_memOk (modWarp_memOk h1)
    have h3 : s3.memOk := by
      dsimp only [s3]
      split
      · refine resolveSplit_memOk ?_
        refine modCore_memOk h2 ?_
        intro _ h3
        split
        · exact h3
        · exact h3
      · exact undiverge_memOk h2
    split
    · exact ite_memOk (lastExit_memOk h3) (checkGroup_memOk h3)
    · exact h3

theorem haltTrap_memOk {g sub t flags} (h : s.memOk) : (s.haltTrap g sub t flags).memOk := by
  unfold State.haltTrap
  split
  · exact haltWarp_memOk (postTrap_memOk h)
  · exact h

theorem faultWarp_memOk {g sub t} (h : s.memOk) : (s.faultWarp g sub t).memOk := by
  unfold State.faultWarp
  split
  · exact modUnit_memOk (modWarp_memOk (postTrap_memOk h))
  · exact h

theorem enterHandler_memOk {g sub t} (h : s.memOk) : (s.enterHandler g sub t).memOk := by
  unfold State.enterHandler
  split
  · refine ite_memOk (haltTrap_memOk h) ?_
    extract_lets
    split
    · rename_i e3
      have m3 := memOk_of_fst e3 (stackReach_memOk h)
      split
      · exact haltTrap_memOk m3
      · exact unsync_memOk (setWarp_memOk m3)
  · exact h

theorem afterStroke_memOk {g} (h : s.memOk) : (s.afterStroke g).memOk := by
  unfold State.afterStroke
  split
  · exact h
  · split
    · exact ite_memOk (dropUnits_memOk h) h
    · exact h

theorem takeTrap_memOk {g sub t} (h : s.memOk) : (s.takeTrap g sub t).memOk := by
  unfold State.takeTrap
  refine ite_memOk (holdLooks_memOk h) ?_
  extract_lets s1 s2
  have h1 : s1.memOk := forceLooks_memOk h
  have h2 : s2.memOk := endStroke_memOk h1
  split
  · exact h2
  · exact ite_memOk (afterStroke_memOk h2) (ite_memOk (faultWarp_memOk h2) (ite_memOk (enterHandler_memOk h2) (haltTrap_memOk h2)))

theorem leaveHandler_memOk {g} (h : s.memOk) : (s.leaveHandler g).memOk :=
  modWarp_memOk h

theorem replayUnit_memOk {g sub} (h : s.memOk) : (s.replayUnit g sub).memOk := by
  unfold State.replayUnit
  split
  · exact h
  · exact modUnit_memOk (modWarp_memOk h)

end Sys2Proof.Machine
end

section
/-! ## Canonical form: the functions of Sys2Proof/Machine/Operands.lean -/

namespace Sys2Proof.Machine

variable {s : State} {c : Ctx}

theorem nil_finOk (h : s.memOk) : FinOk (Fin.nil s) :=
  ⟨h, fun _ h1 => h1⟩

theorem commitUnit_memOk {g sub} (h : s.memOk) : (s.commitUnit g sub).memOk := by
  unfold State.commitUnit
  extract_lets s1
  have h1 : s1.memOk := settleLate_memOk (modWarp_memOk h)
  split
  · exact h1
  · exact modUnit_memOk h1

theorem blockUnit_memOk {g sub w} (h : s.memOk) : (s.blockUnit g sub w).memOk :=
  endStroke_memOk h

theorem writeScalar_memOk {g sub d v} (h : s.memOk) : (s.writeScalar g sub d v).memOk := by
  unfold State.writeScalar
  split
  · exact modWarp_memOk h
  · exact setWreg_memOk h
  · exact h

theorem writeFin_memOk {j : Job} {f : Fin} (h : s.memOk) : (s.writeFin c j f).memOk := by
  unfold State.writeFin
  extract_lets _ s1 s2 _ s3
  have h4 : s1.memOk := modUnit_memOk h
  have h5 : s2.memOk := ite_memOk h4 (modWarp_memOk h4)
  have h6 : s3.memOk := modWarp_memOk h5
  exact ite_memOk (modWarp_memOk h5) (ite_memOk (modUnit_memOk (newHandle_memOk h5)) (foldl_memOk h6 (fun _ _ h7 => writeScalar_memOk h7)))

theorem finish_memOk {j : Job} {f : Fin} (h2 : FinOk f) : (c.finish j f).memOk := by
  unfold Ctx.finish
  extract_lets s1 _ _ s2 s3 s4 _ s5 s6
  have h3 : s1.memOk := writeFin_memOk (finOk_s h2)
  have h4 : s2.memOk := modWarp_memOk h3
  have h5 : s3.memOk := ite_memOk h4 (tickFree_memOk h4)
  have h6 : s4.memOk := modUnit_memOk h5
  have h7 : s5.memOk := ite_memOk (endStroke_memOk h6) h6
  have h8 : s6.memOk := finOk_post h2 h7
  exact ite_memOk (afterStroke_memOk h8) h8

theorem allocate_memOk {k : State} {names} (h : c.s.memOk) (h1 : k.memOk) : (c.allocate names k).memOk :=
  ite_memOk (takeTrap_memOk h) (ite_memOk (afterStroke_memOk (blockUnit_memOk (newHandle_memOk h))) h1)

theorem perform_memOk {j : Job} (h : c.s.memOk) (hj : JobOk j) : (c.perform j).memOk := by
  unfold Ctx.perform
  split
  · exact takeTrap_memOk h
  · rename_i e
    exact afterStroke_memOk (blockUnit_memOk (memOk_of_block e (hj c h)))
  · rename_i e
    exact allocate_memOk h (finish_memOk (finOk_of_go e (hj c h)))

theorem reading_runOk {r : Run} {names} (h : RunOk r) : RunOk (c.reading names r) := by
  unfold Ctx.reading
  split
  · trivial
  · cases r with
    | trap t => trivial
    | block s w => exact h
    | go f => exact finOk_congr f h rfl rfl

theorem execute_memOk {j : Job} (h : c.s.memOk) (h1 : JobOk j) : (c.execute j).memOk := by
  unfold Ctx.execute
  split
  · exact takeTrap_memOk h
  · split
    · exact takeTrap_memOk h
    · exact ite_memOk (allocate_memOk h (perform_memOk h h1)) (perform_memOk h h1)

theorem ctx_memOk {g sub x} (h : s.memOk) (e : s.ctx g sub x = some c) : c.s.memOk := by
  rw [State.ctx] at e
  split at e
  · cases e
    exact h
  · cases e

theorem issue_memOk {j : Job} (h : s.memOk) (h1 : JobOk j) : (s.issue j).memOk := by
  unfold State.issue
  split
  · exact h
  · split
    · exact h
    · refine ite_memOk h ?_
      extract_lets s1 s2
      have h2 : s1.memOk := writeLooks_memOk h
      have h3 : s2.memOk := ite_memOk (commitUnit_memOk h2) h2
      split
      · exact takeTrap_memOk h2
      · split
        · rename_i e7
          exact execute_memOk (ctx_memOk h3 e7) h1
        · exact h3

theorem issue_outOk {j : Job} (h : JobOk j) (h1 : s.memOk) : OutOk (issue j s) :=
  outOk_next (issue_memOk h1 h)

theorem jobOf_jobOk {run : Ctx → Run} {x len} (h : ∀ d, d.s.memOk → RunOk (run d)) : JobOk (jobOf x len run) :=
  fun _ h1 => h _ h1

theorem put_finOk {d v flags} (h : c.s.memOk) : FinOk (c.put d v flags) := by
  unfold Ctx.put
  extract_lets
  split
  · exact finOk_congr _ (nil_finOk h) rfl rfl
  · exact finOk_congr _ (nil_finOk h) rfl rfl
  · exact finOk_congr _ (nil_finOk h) rfl rfl
  · exact finOk_congr _ (nil_finOk h) rfl rfl

theorem putRun_finOk {d vs flags} (h : c.s.memOk) : FinOk (c.putRun d vs flags) := by
  unfold Ctx.putRun
  extract_lets
  split
  · exact finOk_congr _ (nil_finOk h) rfl rfl
  · exact finOk_congr _ (nil_finOk h) rfl rfl
  · exact finOk_congr _ (nil_finOk h) rfl rfl
  · exact finOk_congr _ (nil_finOk h) rfl rfl

end Sys2Proof.Machine
end

section
/-! ## Canonical form: the functions of Sys2Proof/Machine/Fetch.lean -/

namespace Sys2Proof.Machine

variable {s : State} {c : Ctx}

theorem fetchWord_memOk {g a} (h : s.memOk) : (s.fetchWord g a).1.memOk := by
  unfold State.fetchWord
  split
  · rename_i e1
    exact memOk_of_fst e1 (xlatCore_memOk h)
  · rename_i e2
    extract_lets s1
    have h1 : s1.memOk := touch_memOk (memOk_of_fst e2 (xlatCore_memOk h))
    split
    · exact h1
    · exact readLine_memOk h1

theorem fetchWords_memOk {g n a} (h : s.memOk) : (fetchWords g n s a).1.memOk := by
  induction n generalizing s a with
  | zero => exact h
  | succ n ih =>
    rw [fetchWords]
    split
    · rename_i e
      exact memOk_of_fst e (fetchWord_memOk h)
    · rename_i e
      have h1 := memOk_of_fst e (fetchWord_memOk h)
      split
      · rename_i e'
        exact memOk_of_fst e' (ih h1)
      · rename_i e'
        exact memOk_of_fst e' (ih h1)

theorem fetch_memOk {g a} (h : s.memOk) : (s.fetch g a).1.memOk := by
  unfold State.fetch
  split
  · rename_i e1
    exact memOk_of_fst e1 (fetchWord_memOk h)
  · rename_i e2
    have h1 := memOk_of_fst e2 (fetchWord_memOk h)
    split
    · rename_i e3
      exact memOk_of_fst e3 (fetchWords_memOk h1)
    · rename_i e4
      exact memOk_of_fst e4 (fetchWords_memOk h1)

theorem illegal_memOk {sub} (h : s.memOk) : (s.illegal sub).memOk := by
  unfold State.illegal
  split
  · exact h
  · exact takeTrap_memOk h

theorem atPc_memOk (h : s.memOk) : (s.atPc).1.memOk := by
  unfold State.atPc
  split
  · exact h
  · split
    · rename_i e3
      exact memOk_of_fst e3 (fetch_memOk h)
    · rename_i e4
      exact memOk_of_fst e4 (fetch_memOk h)

theorem execUnassignedOpcode_outOk (h : s.memOk) : OutOk (execUnassignedOpcode s) := by
  unfold execUnassignedOpcode
  refine outOk_next ?_
  split
  · rename_i e1
    exact illegal_memOk (memOk_of_fst e1 (atPc_memOk h))
  · exact h

theorem fetchTrap_memOk {g sub u f} (h : s.memOk) : (s.fetchTrap g sub u f).memOk :=
  takeTrap_memOk (ite_memOk (commitUnit_memOk h) h)

theorem execInstructionFetchFault_outOk (h : s.memOk) : OutOk (execInstructionFetchFault s) := by
  unfold execInstructionFetchFault
  refine outOk_next ?_
  split
  · rename_i e1
    split
    · exact fetchTrap_memOk (memOk_of_fst e1 (atPc_memOk h))
    · exact h
  · exact h

end Sys2Proof.Machine
end

section
/-! ## Canonical form: the functions of Sys2Proof/Machine/IntAlu.lean -/

namespace Sys2Proof.Machine

variable {s : State} {c : Ctx}

theorem laneJob_jobOk {x len f}  : JobOk (laneJob x len f) :=
  jobOf_jobOk (fun _ h => put_finOk h)

theorem intJob_jobOk {x len f}  : JobOk (intJob x len f) := by
  unfold intJob
  exact laneJob_jobOk

theorem bitJob_jobOk {x len f}  : JobOk (bitJob x len f) := by
  unfold bitJob
  exact laneJob_jobOk

theorem movJob_jobOk {x len}  : JobOk (movJob x len) :=
  laneJob_jobOk

theorem moviJob_jobOk {x len}  : JobOk (moviJob x len) :=
  laneJob_jobOk

theorem leaJob_jobOk {x len}  : JobOk (leaJob x len) := by
  unfold leaJob
  exact laneJob_jobOk

theorem selJob_jobOk {x}  : JobOk (selJob x) :=
  jobOf_jobOk (fun _ h => put_finOk h)

theorem pushed_finOk {bit flags} (h : c.s.memOk) : FinOk (c.pushed bit flags) :=
  finOk_congr _ (nil_finOk (modWarp_memOk h)) rfl rfl

theorem icmpJob_jobOk {k x len}  : JobOk (icmpJob k x len) :=
  jobOf_jobOk (fun _ h => pushed_finOk h)

theorem execIadd_outOk {x} (h : s.memOk) : OutOk (execIadd x s) :=
  issue_outOk intJob_jobOk h

theorem execIaddV_outOk {b} (h : s.memOk) : OutOk (execIaddV b s) :=
  issue_outOk intJob_jobOk h

theorem execIaddS_outOk {b} (h : s.memOk) : OutOk (execIaddS b s) :=
  issue_outOk intJob_jobOk h

theorem execIsub_outOk {x} (h : s.memOk) : OutOk (execIsub x s) :=
  issue_outOk intJob_jobOk h

theorem execIsubV_outOk {b} (h : s.memOk) : OutOk (execIsubV b s) :=
  issue_outOk intJob_jobOk h

theorem execIsubS_outOk {b} (h : s.memOk) : OutOk (execIsubS b s) :=
  issue_outOk intJob_jobOk h

theorem execImul_outOk {x} (h : s.memOk) : OutOk (execImul x s) :=
  issue_outOk intJob_jobOk h

theorem execImulV_outOk {b} (h : s.memOk) : OutOk (execImulV b s) :=
  issue_outOk intJob_jobOk h

theorem execImulS_outOk {b} (h : s.memOk) : OutOk (execImulS b s) :=
  issue_outOk intJob_jobOk h

theorem execImulh_outOk {x} (h : s.memOk) : OutOk (execImulh x s) :=
  issue_outOk intJob_jobOk h

theorem execImulhV_outOk {b} (h : s.memOk) : OutOk (execImulhV b s) :=
  issue_outOk intJob_jobOk h

theorem execImulhS_outOk {b} (h : s.memOk) : OutOk (execImulhS b s) :=
  issue_outOk intJob_jobOk h

theorem execImad_outOk {x} (h : s.memOk) : OutOk (execImad x s) :=
  issue_outOk intJob_jobOk h

theorem execImadV_outOk {b} (h : s.memOk) : OutOk (execImadV b s) :=
  issue_outOk intJob_jobOk h

theorem execImadS_outOk {b} (h : s.memOk) : OutOk (execImadS b s) :=
  issue_outOk intJob_jobOk h

theorem execImin_outOk {x} (h : s.memOk) : OutOk (execImin x s) :=
  issue_outOk intJob_jobOk h

theorem execIminV_outOk {b} (h : s.memOk) : OutOk (execIminV b s) :=
  issue_outOk intJob_jobOk h

theorem execIminS_outOk {b} (h : s.memOk) : OutOk (execIminS b s) :=
  issue_outOk intJob_jobOk h

theorem execImax_outOk {x} (h : s.memOk) : OutOk (execImax x s) :=
  issue_outOk intJob_jobOk h

theorem execImaxV_outOk {b} (h : s.memOk) : OutOk (execImaxV b s) :=
  issue_outOk intJob_jobOk h

theorem execImaxS_outOk {b} (h : s.memOk) : OutOk (execImaxS b s) :=
  issue_outOk intJob_jobOk h

theorem execIabs_outOk {x} (h : s.memOk) : OutOk (execIabs x s) :=
  issue_outOk intJob_jobOk h

theorem execIabsV_outOk {b} (h : s.memOk) : OutOk (execIabsV b s) :=
  issue_outOk intJob_jobOk h

theorem execIabsS_outOk {b} (h : s.memOk) : OutOk (execIabsS b s) :=
  issue_outOk intJob_jobOk h

theorem execAnd_outOk {x} (h : s.memOk) : OutOk (execAnd x s) :=
  issue_outOk bitJob_jobOk h

theorem execAndV_outOk {b} (h : s.memOk) : OutOk (execAndV b s) :=
  issue_outOk bitJob_jobOk h

theorem execAndS_outOk {b} (h : s.memOk) : OutOk (execAndS b s) :=
  issue_outOk bitJob_jobOk h

theorem execOr_outOk {x} (h : s.memOk) : OutOk (execOr x s) :=
  issue_outOk bitJob_jobOk h

theorem execOrV_outOk {b} (h : s.memOk) : OutOk (execOrV b s) :=
  issue_outOk bitJob_jobOk h

theorem execOrS_outOk {b} (h : s.memOk) : OutOk (execOrS b s) :=
  issue_outOk bitJob_jobOk h

theorem execXor_outOk {x} (h : s.memOk) : OutOk (execXor x s) :=
  issue_outOk bitJob_jobOk h

theorem execXorV_outOk {b} (h : s.memOk) : OutOk (execXorV b s) :=
  issue_outOk bitJob_jobOk h

theorem execXorS_outOk {b} (h : s.memOk) : OutOk (execXorS b s) :=
  issue_outOk bitJob_jobOk h

theorem execNot_outOk {x} (h : s.memOk) : OutOk (execNot x s) :=
  issue_outOk bitJob_jobOk h

theorem execNotV_outOk {b} (h : s.memOk) : OutOk (execNotV b s) :=
  issue_outOk bitJob_jobOk h

theorem execNotS_outOk {b} (h : s.memOk) : OutOk (execNotS b s) :=
  issue_outOk bitJob_jobOk h

theorem execShl_outOk {x} (h : s.memOk) : OutOk (execShl x s) :=
  issue_outOk bitJob_jobOk h

theorem execShlV_outOk {b} (h : s.memOk) : OutOk (execShlV b s) :=
  issue_outOk bitJob_jobOk h

theorem execShlS_outOk {b} (h : s.memOk) : OutOk (execShlS b s) :=
  issue_outOk bitJob_jobOk h

theorem execShr_outOk {x} (h : s.memOk) : OutOk (execShr x s) :=
  issue_outOk bitJob_jobOk h

theorem execShrV_outOk {b} (h : s.memOk) : OutOk (execShrV b s) :=
  issue_outOk bitJob_jobOk h

theorem execShrS_outOk {b} (h : s.memOk) : OutOk (execShrS b s) :=
  issue_outOk bitJob_jobOk h

theorem execSar_outOk {x} (h : s.memOk) : OutOk (execSar x s) :=
  issue_outOk bitJob_jobOk h

theorem execSarV_outOk {b} (h : s.memOk) : OutOk (execSarV b s) :=
  issue_outOk bitJob_jobOk h

theorem execSarS_outOk {b} (h : s.memOk) : OutOk (execSarS b s) :=
  issue_outOk bitJob_jobOk h

theorem execRot_outOk {x} (h : s.memOk) : OutOk (execRot x s) :=
  issue_outOk bitJob_jobOk h

theorem execRotV_outOk {b} (h : s.memOk) : OutOk (execRotV b s) :=
  issue_outOk bitJob_jobOk h

theorem execRotS_outOk {b} (h : s.memOk) : OutOk (execRotS b s) :=
  issue_outOk bitJob_jobOk h

theorem execPopc_outOk {x} (h : s.memOk) : OutOk (execPopc x s) :=
  issue_outOk bitJob_jobOk h

theorem execPopcV_outOk {b} (h : s.memOk) : OutOk (execPopcV b s) :=
  issue_outOk bitJob_jobOk h

theorem execPopcS_outOk {b} (h : s.memOk) : OutOk (execPopcS b s) :=
  issue_outOk bitJob_jobOk h

theorem execClz_outOk {x} (h : s.memOk) : OutOk (execClz x s) :=
  issue_outOk bitJob_jobOk h

theorem execClzV_outOk {b} (h : s.memOk) : OutOk (execClzV b s) :=
  issue_outOk bitJob_jobOk h

theorem execClzS_outOk {b} (h : s.memOk) : OutOk (execClzS b s) :=
  issue_outOk bitJob_jobOk h

theorem execBrev_outOk {x} (h : s.memOk) : OutOk (execBrev x s) :=
  issue_outOk bitJob_jobOk h

theorem execBrevV_outOk {b} (h : s.memOk) : OutOk (execBrevV b s) :=
  issue_outOk bitJob_jobOk h

theorem execBrevS_outOk {b} (h : s.memOk) : OutOk (execBrevS b s) :=
  issue_outOk bitJob_jobOk h

theorem execMov_outOk {x} (h : s.memOk) : OutOk (execMov x s) :=
  issue_outOk movJob_jobOk h

theorem execMovV_outOk {b} (h : s.memOk) : OutOk (execMovV b s) :=
  issue_outOk movJob_jobOk h

theorem execMovS_outOk {b} (h : s.memOk) : OutOk (execMovS b s) :=
  issue_outOk movJob_jobOk h

theorem execMovi_outOk {x} (h : s.memOk) : OutOk (execMovi x s) :=
  issue_outOk moviJob_jobOk h

theorem execMoviV_outOk {b} (h : s.memOk) : OutOk (execMoviV b s) :=
  issue_outOk moviJob_jobOk h

theorem execMoviS_outOk {b} (h : s.memOk) : OutOk (execMoviS b s) :=
  issue_outOk moviJob_jobOk h

theorem execLea_outOk {x} (h : s.memOk) : OutOk (execLea x s) :=
  issue_outOk leaJob_jobOk h

theorem execLeaV_outOk {b} (h : s.memOk) : OutOk (execLeaV b s) :=
  issue_outOk leaJob_jobOk h

theorem execLeaS_outOk {b} (h : s.memOk) : OutOk (execLeaS b s) :=
  issue_outOk leaJob_jobOk h

theorem execBfe_outOk {x} (h : s.memOk) : OutOk (execBfe x s) :=
  issue_outOk laneJob_jobOk h

theorem execBfi_outOk {x} (h : s.memOk) : OutOk (execBfi x s) :=
  issue_outOk laneJob_jobOk h

theorem execSel_outOk {x} (h : s.memOk) : OutOk (execSel x s) :=
  issue_outOk selJob_jobOk h

theorem execIcmp_outOk {k x} (h : s.memOk) : OutOk (execIcmp k x s) :=
  issue_outOk icmpJob_jobOk h

theorem execIcmpEqV_outOk {b} (h : s.memOk) : OutOk (execIcmpEqV b s) :=
  issue_outOk icmpJob_jobOk h

theorem execIcmpNeV_outOk {b} (h : s.memOk) : OutOk (execIcmpNeV b s) :=
  issue_outOk icmpJob_jobOk h

theorem execIcmpLtV_outOk {b} (h : s.memOk) : OutOk (execIcmpLtV b s) :=
  issue_outOk icmpJob_jobOk h

theorem execIcmpLeV_outOk {b} (h : s.memOk) : OutOk (execIcmpLeV b s) :=
  issue_outOk icmpJob_jobOk h

theorem execIcmpGtV_outOk {b} (h : s.memOk) : OutOk (execIcmpGtV b s) :=
  issue_outOk icmpJob_jobOk h

theorem execIcmpGeV_outOk {b} (h : s.memOk) : OutOk (execIcmpGeV b s) :=
  issue_outOk icmpJob_jobOk h

end Sys2Proof.Machine
end

section
/-! ## Canonical form: the functions of Sys2Proof/Machine/Control.lean -/

namespace Sys2Proof.Machine

variable {s : State} {c : Ctx}

theorem jump_finOk {pc e} (h : c.s.memOk) : FinOk (c.jump pc e) :=
  finOk_congr _ (nil_finOk h) rfl rfl

theorem serialPush_memOk {g sub taken target other join} (h : s.memOk) : (s.serialPush g sub taken target other join).memOk := by
  unfold State.serialPush
  split
  · exact modUnit_memOk (setWarp_memOk h)
  · exact h

theorem divide_runOk {ser taken target other join mk} (h : c.s.memOk) : RunOk (c.divide ser taken target other join mk) := by
  unfold Ctx.divide
  split
  · exact finOk_of_post _ (nil_finOk h) rfl (fun _ h1 => splitUnit_memOk h1)
  · refine ite_runOk trivial ?_
    split
    · exact trivial
    · rename_i e4
      exact finOk_of_post _ (nil_finOk (memOk_of_fst e4 (stackOpen_memOk h))) rfl (fun _ h1 => serialPush_memOk h1)

theorem serialRec_memOk {g a} (h : s.memOk) : (s.serialRec g a).1.memOk := by
  unfold State.serialRec
  split
  · rename_i e1
    have h1 := memOk_of_fst e1 (stackGet_memOk h)
    split
    · rename_i e2
      have h2 := memOk_of_fst e2 (stackGet_memOk h1)
      split
      · rename_i e3
        have h3 := memOk_of_fst e3 (stackGet_memOk h2)
        split
        · rename_i e4
          have h4 := memOk_of_fst e4 (stackGet_memOk h3)
          extract_lets
          refine fst_ite_memOk h4 ?_
          split
          · rename_i e5
            exact memOk_of_fst e5 (stackOpen_memOk h4)
          · rename_i e6
            exact memOk_of_fst e6 (stackOpen_memOk h4)
        · rename_i e7
          exact memOk_of_fst e7 (stackGet_memOk h3)
      · rename_i e8
        exact memOk_of_fst e8 (stackGet_memOk h2)
    · rename_i e9
      exact memOk_of_fst e9 (stackGet_memOk h1)
  · rename_i e10
    exact memOk_of_fst e10 (stackGet_memOk h)

theorem serialReach_memOk {g sub a r} (h : s.memOk) : (s.serialReach g sub a r).memOk :=
  ite_memOk (undiverge_memOk (modWarp_memOk (modUnit_memOk h))) (modUnit_memOk (modWarp_memOk h))

theorem braJob_jobOk {x len}  : JobOk (braJob x len) :=
  jobOf_jobOk (fun _ h => jump_finOk h)

theorem braPkJob_jobOk {k x len}  : JobOk (braPkJob k x len) :=
  jobOf_jobOk (fun _ h => ite_runOk (jump_finOk h) (ite_runOk (jump_finOk h) (divide_runOk h)))

theorem execBraBase_outOk {b} (h : s.memOk) : OutOk (execBraBase b s) :=
  issue_outOk braJob_jobOk h

theorem execBra_outOk {x} (h : s.memOk) : OutOk (execBra x s) :=
  issue_outOk braJob_jobOk h

theorem execBraPkBase_outOk {k b} (h : s.memOk) : OutOk (execBraPkBase k b s) :=
  issue_outOk braPkJob_jobOk h

theorem execBraPk_outOk {k x} (h : s.memOk) : OutOk (execBraPk k x s) :=
  issue_outOk braPkJob_jobOk h

theorem brxTargets_memOk {g pc table next n idx xs} (h : s.memOk) : (brxTargets g pc table next n idx xs s).1.memOk := by
  induction xs generalizing s with
  | nil => exact h
  | cons x xs ih =>
    rw [brxTargets]
    split
    · rename_i e1
      refine memOk_of_fst e1 ?_
      refine fst_ite_memOk ?_ h
      split
      · rename_i e2
        exact memOk_of_fst e2 (fetchWord_memOk h)
      · rename_i e3
        exact memOk_of_fst e3 (fetchWord_memOk h)
    · rename_i e4
      split
      · rename_i e5
        refine memOk_of_fst e5 ?_
        refine ih ?_
        refine memOk_of_fst e4 ?_
        refine fst_ite_memOk ?_ h
        split
        · rename_i e6
          exact memOk_of_fst e6 (fetchWord_memOk h)
        · rename_i e7
          exact memOk_of_fst e7 (fetchWord_memOk h)
      · rename_i e8
        refine memOk_of_fst e8 ?_
        refine ih ?_
        refine memOk_of_fst e4 ?_
        refine fst_ite_memOk ?_ h
        split
        · rename_i e9
          exact memOk_of_fst e9 (fetchWord_memOk h)
        · rename_i e10
          exact memOk_of_fst e10 (fetchWord_memOk h)

theorem brxJob_jobOk {x}  : JobOk (brxJob x) := by
  unfold brxJob
  refine jobOf_jobOk ?_
  intro _ h
  extract_lets
  split
  · exact trivial
  · rename_i e2
    have m2 := memOk_of_fst e2 (brxTargets_memOk h)
    extract_lets
    split
    · exact jump_finOk m2
    · exact ite_runOk (jump_finOk m2) (divide_runOk m2)

theorem execBrx_outOk {x} (h : s.memOk) : OutOk (execBrx x s) :=
  issue_outOk brxJob_jobOk h

theorem callJob_jobOk {x len} : JobOk (callJob x len) :=
  jobOf_jobOk (fun c h => finOk_congr (c.jump (c.target x) .taken) (jump_finOk h) rfl rfl)

theorem goto_runOk {f : Fin → Fin} {pc} (h : c.s.memOk) (h1 : ∀ g, FinOk g → FinOk (f g)) : RunOk (c.goto pc f) :=
  ite_runOk trivial (h1 _ (jump_finOk h))

theorem callxJob_jobOk {x}  : JobOk (callxJob x) :=
  jobOf_jobOk (fun _ h => goto_runOk h (fun _ h1 => finOk_congr _ h1 rfl rfl))

theorem retJob_jobOk {x}  : JobOk (retJob x) :=
  jobOf_jobOk (fun _ h => goto_runOk h (fun _ h1 => h1))

theorem execCallBase_outOk {b} (h : s.memOk) : OutOk (execCallBase b s) :=
  issue_outOk callJob_jobOk h

theorem execCall_outOk {x} (h : s.memOk) : OutOk (execCall x s) :=
  issue_outOk callJob_jobOk h

theorem execCallx_outOk {x} (h : s.memOk) : OutOk (execCallx x s) :=
  issue_outOk callxJob_jobOk h

theorem execRet_outOk {x} (h : s.memOk) : OutOk (execRet x s) :=
  issue_outOk retJob_jobOk h

theorem dropHelpers_memOk {g} (h : s.memOk) : (s.dropHelpers g).memOk := by
  unfold State.dropHelpers
  split
  · exact h
  · exact ite_memOk (dropUnits_memOk (foldl_memOk h (fun _ _ h1 => forceLooks_memOk h1))) h

theorem endLanes_memOk {g sub gone} (h : s.memOk) : (s.endLanes g sub gone).memOk := by
  unfold State.endLanes
  extract_lets s1 s2
  have h1 : s1.memOk := modUnit_memOk h
  have h2 : s2.memOk := by
    dsimp only [s2]
    split
    · exact ite_memOk (exitUnit_memOk h1) h1
    · exact h1
  exact dropHelpers_memOk h2

theorem ending_finOk {f : Fin} {gone} (h1 : FinOk f) : FinOk (c.ending f gone) :=
  finOk_of_post _ h1 rfl (fun _ h2 => endLanes_memOk (finOk_post h1 h2))

theorem exitJob_jobOk {x}  : JobOk (exitJob x) :=
  jobOf_jobOk (fun _ h => ending_finOk (nil_finOk h))

theorem execExit_outOk {x} (h : s.memOk) : OutOk (execExit x s) :=
  issue_outOk exitJob_jobOk h

theorem nopJob_jobOk {x len}  : JobOk (nopJob x len) :=
  jobOf_jobOk (fun _ h => nil_finOk h)

theorem execNopBase_outOk {b} (h : s.memOk) : OutOk (execNopBase b s) :=
  issue_outOk nopJob_jobOk h

theorem execNop_outOk {x} (h : s.memOk) : OutOk (execNop x s) :=
  issue_outOk nopJob_jobOk h

theorem execRgn_outOk {x} (h : s.memOk) : OutOk (execRgn x s) :=
  issue_outOk (jobOk_congr (nopJob x x.bytes) nopJob_jobOk rfl) h

theorem yieldUnit_memOk {g sub} (h : s.memOk) : (s.yieldUnit g sub).memOk :=
  modUnit_memOk h

theorem yielding_finOk (h : c.s.memOk) : FinOk (c.yielding) :=
  finOk_of_post _ (nil_finOk h) rfl (fun _ h1 => yieldUnit_memOk h1)

theorem execYield_outOk {x} (h : s.memOk) : OutOk (execYield x s) :=
  issue_outOk (jobOf_jobOk (fun _ h1 => yielding_finOk h1)) h

theorem fuseJob_jobOk {x}  : JobOk (fuseJob x) := by
  unfold fuseJob
  refine jobOf_jobOk ?_
  intro _ h
  split
  · split
    · exact trivial
    · rename_i e3
      exact finOk_of_post _ (nil_finOk (memOk_of_fst e3 (serialRec_memOk h))) rfl (fun _ h1 => serialReach_memOk h1)
  · split
    · exact finOk_of_post _ (nil_finOk h) rfl (fun _ h1 => arrive_memOk h1)
    · exact finOk_congr _ (nil_finOk h) rfl rfl

theorem execFuse_outOk {x} (h : s.memOk) : OutOk (execFuse x s) :=
  issue_outOk fuseJob_jobOk h

theorem predsBy_finOk {f} (h : c.s.memOk) : FinOk (c.predsBy f) :=
  nil_finOk (modWarp_memOk h)

theorem ppopJob_jobOk {x len}  : JobOk (ppopJob x len) :=
  jobOf_jobOk (fun _ h => predsBy_finOk h)

theorem protJob_jobOk {x}  : JobOk (protJob x) :=
  jobOf_jobOk (fun _ h => predsBy_finOk h)

theorem plogJob_jobOk {x}  : JobOk (plogJob x) :=
  jobOf_jobOk (fun _ h => pushed_finOk h)

theorem execPpopBase_outOk {b} (h : s.memOk) : OutOk (execPpopBase b s) :=
  issue_outOk ppopJob_jobOk h

theorem execPpop_outOk {x} (h : s.memOk) : OutOk (execPpop x s) :=
  issue_outOk ppopJob_jobOk h

theorem execProt_outOk {x} (h : s.memOk) : OutOk (execProt x s) :=
  issue_outOk protJob_jobOk h

theorem execPlog_outOk {x} (h : s.memOk) : OutOk (execPlog x s) :=
  issue_outOk plogJob_jobOk h

theorem setExec_finOk {m} (h : c.s.memOk) : FinOk (c.setExec m) :=
  finOk_congr _ (nil_finOk h) rfl rfl

theorem ptoxJob_jobOk {x}  : JobOk (ptoxJob x) :=
  jobOf_jobOk (fun _ h => setExec_finOk h)

theorem xtopJob_jobOk {x}  : JobOk (xtopJob x) :=
  jobOf_jobOk (fun _ h => nil_finOk (modWarp_memOk h))

theorem always_finOk {d v} (h : c.s.memOk) : FinOk (c.always d v) := by
  unfold Ctx.always
  split
  · exact finOk_congr _ (nil_finOk h) rfl rfl
  · exact nil_finOk h

theorem xrdJob_jobOk {x len}  : JobOk (xrdJob x len) :=
  jobOf_jobOk (fun _ h => always_finOk h)

theorem xwrJob_jobOk {x len}  : JobOk (xwrJob x len) :=
  jobOf_jobOk (fun _ h => setExec_finOk h)

theorem execPtox_outOk {x} (h : s.memOk) : OutOk (execPtox x s) :=
  issue_outOk ptoxJob_jobOk h

theorem execXtop_outOk {x} (h : s.memOk) : OutOk (execXtop x s) :=
  issue_outOk xtopJob_jobOk h

theorem execXrdBase_outOk {b} (h : s.memOk) : OutOk (execXrdBase b s) :=
  issue_outOk xrdJob_jobOk h

theorem execXrd_outOk {x} (h : s.memOk) : OutOk (execXrd x s) :=
  issue_outOk xrdJob_jobOk h

theorem execXwrBase_outOk {b} (h : s.memOk) : OutOk (execXwrBase b s) :=
  issue_outOk xwrJob_jobOk h

theorem execXwr_outOk {x} (h : s.memOk) : OutOk (execXwr x s) :=
  issue_outOk xwrJob_jobOk h

theorem trapJob_jobOk {x}  : JobOk (trapJob x) :=
  jobOf_jobOk (fun _ h => ite_runOk (nil_finOk h) trivial)

theorem execTrap_outOk {x} (h : s.memOk) : OutOk (execTrap x s) :=
  issue_outOk trapJob_jobOk h

theorem tretJob_jobOk {x}  : JobOk (tretJob x) :=
  jobOf_jobOk (fun _ h => goto_runOk h (fun _ h1 => finOk_of_post _ h1 rfl (fun _ h2 => leaveHandler_memOk h2)))

theorem execTret_outOk {x} (h : s.memOk) : OutOk (execTret x s) :=
  issue_outOk tretJob_jobOk h

theorem brkJob_jobOk {x}  : JobOk (brkJob x) :=
  jobOf_jobOk (fun _ h => ite_runOk (nil_finOk h) (finOk_of_post _ (nil_finOk h) rfl (fun _ h1 => modWarp_memOk h1)))

theorem execBrk_outOk {x} (h : s.memOk) : OutOk (execBrk x s) :=
  issue_outOk brkJob_jobOk h

theorem srdJob_jobOk {x}  : JobOk (srdJob x) := by
  unfold srdJob
  refine jobOf_jobOk ?_
  intro _ h
  split
  · extract_lets
    split
    · exact put_finOk h
    · exact always_finOk h
  · exact nil_finOk h

theorem execSrd_outOk {x} (h : s.memOk) : OutOk (execSrd x s) :=
  issue_outOk srdJob_jobOk h

theorem swrJob_jobOk {x}  : JobOk (swrJob x) := by
  unfold swrJob
  refine jobOf_jobOk ?_
  intro _ h
  extract_lets
  split
  · exact setExec_finOk h
  · exact ite_runOk trivial (ite_runOk trivial (nil_finOk (modWarp_memOk h)))
  · exact nil_finOk (modWarp_memOk h)
  · exact nil_finOk h

theorem execSwr_outOk {x} (h : s.memOk) : OutOk (execSwr x s) :=
  issue_outOk swrJob_jobOk h

theorem getworkJob_jobOk {x} : JobOk (getworkJob x) := by
  refine jobOk_congr (jobOf x x.bytes _) (jobOf_jobOk (fun c h => ?_)) rfl
  exact ite_runOk (nil_finOk h) (putRun_finOk (modWarp_memOk h))

theorem execGetwork_outOk {x} (h : s.memOk) : OutOk (execGetwork x s) :=
  issue_outOk getworkJob_jobOk h

end Sys2Proof.Machine
end

section
/-! ## Canonical form: the functions of Sys2Proof/Machine/Sync.lean -/

namespace Sys2Proof.Machine

variable {s : State} {c : Ctx}

theorem syncJob_jobOk {run : Ctx → Run} {x} (h : ∀ d, d.s.memOk → RunOk (run d)) : JobOk (syncJob x run) :=
  jobOk_congr (jobOf x x.bytes run) (jobOf_jobOk (fun _ h1 => h _ h1)) rfl

theorem modBar_memOk {wg b f} (h : s.memOk) : (s.modBar wg b f).memOk :=
  modGroup_memOk h

theorem barWait_runOk {b p} (h1 : s.memOk) : RunOk (c.barWait s b p) :=
  ite_runOk (nil_finOk (acquire_memOk h1)) (finOk_congr _ (nil_finOk h1) rfl rfl)

theorem barRun_runOk {b} (h : c.s.memOk) : RunOk (c.barRun b) :=
  ite_runOk h (barWait_runOk (checkBars_memOk (modBar_memOk h)))

theorem baraRun_runOk {b} (h : c.s.memOk) : RunOk (baraRun c b) :=
  ite_runOk h (nil_finOk (checkBars_memOk (modBar_memOk h)))

theorem barwRun_runOk {b} (h : c.s.memOk) : RunOk (barwRun c b) := by
  unfold barwRun
  extract_lets
  split
  · exact nil_finOk (acquire_memOk (modBar_memOk h))
  · exact ite_runOk (barWait_runOk (modBar_memOk h)) (ite_runOk (barRun_runOk (modBar_memOk h)) (barRun_runOk h))

theorem execBar_outOk {x} (h : s.memOk) : OutOk (execBar x s) :=
  issue_outOk (syncJob_jobOk (fun _ h1 => barRun_runOk h1)) h

theorem execBara_outOk {x} (h : s.memOk) : OutOk (execBara x s) :=
  issue_outOk (syncJob_jobOk (fun _ h1 => baraRun_runOk h1)) h

theorem execBarw_outOk {x} (h : s.memOk) : OutOk (execBarw x s) :=
  issue_outOk (syncJob_jobOk (fun _ h1 => barwRun_runOk h1)) h

theorem gbarRun_runOk {x} (h : c.s.memOk) : RunOk (gbarRun x c) := by
  unfold gbarRun
  extract_lets _ s1
  have h1 : s1.memOk := modGroup_memOk h
  split
  · exact nil_finOk h
  · exact ite_runOk (nil_finOk (acquire_memOk (checkEntry_memOk h1))) (finOk_congr _ (nil_finOk (checkEntry_memOk h1)) rfl rfl)

theorem execGbar_outOk {x} (h : s.memOk) : OutOk (execGbar x s) :=
  issue_outOk (jobOk_congr (syncJob x (gbarRun x)) (syncJob_jobOk (fun _ h1 => gbarRun_runOk h1)) rfl) h

theorem testWord_wordTestOk {x} (h : c.s.memOk) : WordTestOk (c.testWord x) := by
  unfold Ctx.testWord
  extract_lets
  refine ite_wordTestOk trivial ?_
  split
  · trivial
  · rename_i e
    refine ite_wordTestOk trivial ?_
    split
    rename_i e'
    have h1 := memOk_of_fst e' (homeRead_memOk (touch_memOk (memOk_of_fst e (xlatCore_memOk h))))
    exact ite_wordTestOk (acquire_memOk h1) h1

theorem armWatch_memOk {e d i t} (h : s.memOk) (x : s.armWatch e = some (d, i, t)) : t.memOk := by
  rw [State.armWatch, Option.map_eq_some_iff] at x
  obtain ⟨i, -, y⟩ := x
  injection y with _ y
  injection y with _ y
  rw [← y]
  exact modDie_memOk h

theorem watchRun_runOk {x} (h : c.s.memOk) : RunOk (watchRun x c) := by
  unfold watchRun
  extract_lets
  refine ite_runOk (nil_finOk h) ?_
  split
  · trivial
  · rename_i s1 e
    have h1 := memOk_of_testPass e (testWord_wordTestOk h)
    exact finOk_of_s (Ctx.put { c with s := s1 } x.d _ _) (put_finOk h1) rfl h1
  · rename_i e
    have h1 := memOk_of_testNo e (testWord_wordTestOk h)
    extract_lets
    split
    · exact put_finOk h1
    · rename_i e'
      have h2 := newHandle_memOk (armWatch_memOk h1 e')
      exact finOk_congr _ (put_finOk h2) rfl rfl

theorem execWatch_outOk {x} (h : s.memOk) : OutOk (execWatch x s) :=
  issue_outOk (jobOk_congr (jobOf x x.bytes (watchRun x)) (jobOf_jobOk (fun _ h1 => watchRun_runOk h1)) rfl) h

theorem waitwRun_runOk {x} (h : c.s.memOk) : RunOk (waitwRun x c) := by
  unfold waitwRun
  refine ite_runOk (nil_finOk h) ?_
  split
  · exact trivial
  · rename_i e2
    exact put_finOk (memOk_of_testPass e2 (testWord_wordTestOk h))
  · rename_i e3
    exact put_finOk (memOk_of_testNo e3 (testWord_wordTestOk h))

theorem execWaitw_outOk {x} (h : s.memOk) : OutOk (execWaitw x s) :=
  issue_outOk (jobOk_congr (jobOf x x.bytes (waitwRun x)) (jobOf_jobOk (fun _ h1 => waitwRun_runOk h1)) rfl) h

theorem freeWatch_memOk {d i} (h : s.memOk) : (s.freeWatch d i).memOk :=
  modDie_memOk h

theorem wake_memOk {g sub} (h : s.memOk) : (s.wake g sub).memOk :=
  modUnit_memOk h

theorem execWatchFire_outOk {die idx} (h : s.memOk) : OutOk (execWatchFire die idx s) := by
  unfold execWatchFire
  refine outOk_next ?_
  split
  · exact h
  · refine ite_memOk h ?_
    extract_lets s1
    have h1 : s1.memOk := freeWatch_memOk h
    refine ite_memOk (raise_memOk h1) ?_
    split
    · exact acquire_memOk (wake_memOk (modUnit_memOk h1))
    · exact h1

theorem sleepJob_jobOk {x}  : JobOk (sleepJob x) :=
  jobOf_jobOk (fun _ h => ite_runOk (yielding_finOk h) (finOk_congr _ (nil_finOk h) rfl rfl))

theorem execSleep_outOk {x} (h : s.memOk) : OutOk (execSleep x s) :=
  issue_outOk sleepJob_jobOk h

theorem execSleepExpiry_outOk {g sub} (h : s.memOk) : OutOk (execSleepExpiry g sub s) := by
  unfold execSleepExpiry
  refine outOk_next ?_
  split
  · split
    · exact ite_memOk (wake_memOk h) h
    · exact h
  · exact h

theorem swi_memOk {g l a v} (h : s.memOk) : (s.swi g l a v).memOk := by
  unfold State.swi
  refine ite_memOk (ite_memOk (wakeDrop_memOk h) (setDieReg_memOk h)) ?_
  split
  · exact wakeDrop_memOk h
  · exact kickQueue_memOk (orWord_memOk h)

theorem swiRun_runOk {x} (h : c.s.memOk) : RunOk (swiRun x c) := by
  unfold swiRun
  split
  · exact ite_runOk (nil_finOk h) (nil_finOk (swi_memOk h))
  · exact nil_finOk h

theorem execSwi_outOk {x} (h : s.memOk) : OutOk (execSwi x s) :=
  issue_outOk (syncJob_jobOk (fun _ h1 => swiRun_runOk h1)) h

end Sys2Proof.Machine
end

section
/-! ## Canonical form: the functions of Sys2Proof/Machine/Shape.lean -/

namespace Sys2Proof.Machine

variable {s : State} {c : Ctx}

theorem spoilTiles_memOk {g lo len} (h : s.memOk) : (s.spoilTiles g lo len).memOk :=
  modWarp_memOk h

end Sys2Proof.Machine
end

section
/-! ## Canonical form: the functions of Sys2Proof/Machine/MemI.lean -/

namespace Sys2Proof.Machine

variable {s : State} {c : Ctx}

theorem xlatItems_memOk {core root want lane xs} (h : s.memOk) : (xlatItems core root want lane xs s).1.memOk := by
  induction xs generalizing s with
  | nil => exact h
  | cons x xs ih =>
    rw [xlatItems]
    split
    · rename_i e1
      exact memOk_of_fst e1 (xlatCore_memOk h)
    · rename_i e2
      have h1 := memOk_of_fst e2 (xlatCore_memOk h)
      refine fst_ite_memOk h1 ?_
      split
      · rename_i e3
        exact memOk_of_fst e3 (ih h1)
      · rename_i e4
        exact memOk_of_fst e4 (ih h1)

theorem xlatLanes_memOk {core root want item x4} (h : s.memOk) : (xlatLanes core root want item x4 s).1.memOk := by
  induction x4 generalizing s with
  | nil => exact h
  | cons a x4 ih =>
    rw [xlatLanes]
    split
    · rename_i e1
      exact ih (memOk_of_fst e1 (xlatItems_memOk h))
    · rename_i e2
      exact ih (memOk_of_fst e2 (xlatItems_memOk h))

theorem checkMem_checkedOk {lanes ea align n size want} (h : c.s.memOk) : CheckedOk (c.checkMem lanes ea align n size want) :=
  ite_checkedOk trivial (ite_checkedOk (xlatLanes_memOk h) trivial)

theorem mapLooks_memOk {g f} (h : s.memOk) : (s.mapLooks g f).memOk :=
  modCore_memOk (modWarp_memOk h) (fun _ h1 => h1)

theorem atomic_memOk {core d scope pa op ty cmp v} (h : s.memOk) : (s.atomic core d scope pa op ty cmp v).1.memOk := by
  unfold State.atomic
  exact dropCopy_memOk (dropL1_memOk (ite_memOk (writeMem_memOk (homeRead_memOk h)) (ite_memOk (dirWrite_memOk (homeRead_memOk h)) (homeRead_memOk h))))

theorem land_memOk {x : LateWrite} {scope : ℕ} {pa : ℕ} (h : s.memOk) : (x.land s scope pa).memOk := by
  unfold LateWrite.land
  split
  · split
    · exact storeItem_memOk h
    · exact writeMem_memOk h
  · extract_lets s1
    have h1 : s1.memOk := reduce_memOk h
    split
    · exact dropL1_memOk h1
    · exact h1
  · split
    · rename_i e8
      have m8 := memOk_of_fst e8 (atomic_memOk h)
      split
      · exact mapLooks_memOk m8
      · exact memOk_congr _ m8 rfl rfl
      · exact memOk_of_fst e8 (atomic_memOk h)
  · exact postFault_memOk h

theorem put_memOk {x : LateWrite} {a : Acc} (h : s.memOk) : (x.put s a).memOk := by
  unfold LateWrite.put
  split
  · rename_i e1
    exact land_memOk (memOk_of_fst e1 (cowTouch_memOk (touch_memOk h)))
  · rename_i e2
    exact queueLate_memOk (memOk_of_fst e2 (cowTouch_memOk (touch_memOk h)))

theorem afterCow_runOk {k : State → Run} {ea as} (h : s.memOk) (h1 : ∀ t, t.memOk → RunOk (k t)) : RunOk (Ctx.afterCow ea s as k) :=
  ite_runOk (h1 _ h) trivial

theorem readItems_memOk {core p size ext x4} (h : s.memOk) : (readItems core p size ext x4 s).1.memOk := by
  induction x4 generalizing s with
  | nil => exact h
  | cons a x4 ih =>
    rw [readItems]
    exact ih (readLine_memOk (touch_memOk h))

theorem loadJob_jobOk {run : Ctx → Run} {x} (h : ∀ d, d.s.memOk → RunOk (run d)) : JobOk (loadJob x run) :=
  jobOk_congr (jobOf x x.bytes run) (jobOf_jobOk (fun _ h1 => h _ h1)) rfl

theorem ldRun_runOk {p x} (h : c.s.memOk) : RunOk (ldRun p x c) := by
  unfold ldRun
  extract_lets
  split
  · exact trivial
  · rename_i e2
    have m2 := memOk_of_checked e2 (checkMem_checkedOk h)
    exact putRun_finOk (readItems_memOk (ite_memOk (acquire_memOk m2) m2))

theorem execLd_outOk {x} (h : s.memOk) : OutOk (execLd x s) :=
  issue_outOk (loadJob_jobOk (fun _ h1 => ldRun_runOk h1)) h

theorem execLdc_outOk {x} (h : s.memOk) : OutOk (execLdc x s) :=
  issue_outOk (loadJob_jobOk (fun _ h1 => ldRun_runOk h1)) h

theorem readVersions_memOk {core ver size ext x4} (h : s.memOk) : (readVersions core ver size ext x4 s).1.memOk := by
  induction x4 generalizing s with
  | nil => exact h
  | cons a x4 ih =>
    rw [readVersions]
    exact ih (fst_ite_memOk (homeRead_memOk (touch_memOk h)) (readLine_memOk (touch_memOk h)))

theorem ldvRun_runOk {x} (h : c.s.memOk) : RunOk (ldvRun x c) := by
  unfold ldvRun
  extract_lets
  split
  · exact trivial
  · rename_i e2
    have m2 := memOk_of_checked e2 (checkMem_checkedOk h)
    split
    · extract_lets _ _ s1
      have h1 : s1.memOk := ite_memOk (acquire_memOk m2) m2
      exact ite_runOk trivial (putRun_finOk (readVersions_memOk h1))

theorem execLdv_outOk {x} (h : s.memOk) : OutOk (execLdv x s) :=
  issue_outOk (loadJob_jobOk (fun _ h1 => ldvRun_runOk h1)) h

theorem tickIf_memOk {b} (h : s.memOk) : (s.tickIf b).memOk :=
  ite_memOk (tickFree_memOk h) h

theorem stRun_runOk {x} (h : c.s.memOk) : RunOk (stRun x c) := by
  unfold stRun
  extract_lets
  split
  · exact trivial
  · rename_i e2
    exact afterCow_runOk (memOk_of_checked e2 (checkMem_checkedOk h)) (fun _ h1 => nil_finOk (tickIf_memOk (foldl_memOk h1 (fun _ _ h2 => put_memOk h2))))

theorem storeJob_jobOk {run : Ctx → Run} {x n} (h : ∀ d, d.s.memOk → RunOk (run d)) : JobOk (storeJob x n run) :=
  jobOk_congr (jobOf x x.bytes run) (jobOf_jobOk (fun _ h1 => h _ h1)) rfl

theorem execSt_outOk {x} (h : s.memOk) : OutOk (execSt x s) :=
  issue_outOk (storeJob_jobOk (fun _ h1 => stRun_runOk h1)) h

theorem prefLines_memOk {core root l1 x3} (h : s.memOk) : (prefLines core root l1 x3 s).memOk := by
  induction x3 generalizing s with
  | nil => exact h
  | cons a x3 ih =>
    rw [prefLines]
    refine ih ?_
    split
    · rename_i e1
      have m1 := memOk_of_fst e1 (xlatCore_memOk h)
      exact ite_memOk m1 (ite_memOk (readLine_memOk m1) (l2Line_memOk m1))
    · exact h

theorem prefRun_runOk {x} (h : c.s.memOk) : RunOk (prefRun x c) :=
  nil_finOk (prefLines_memOk h)

theorem execPref_outOk {x} (h : s.memOk) : OutOk (execPref x s) :=
  issue_outOk (jobOf_jobOk (fun _ h1 => prefRun_runOk h1)) h

theorem scrPut_memOk {k o n v} (h : s.memOk) : (s.scrPut k o n v).memOk :=
  foldl_memOk h (fun _ _ h1 => modCore_memOk h1 (fun _ h2 => set_wf' h2))

theorem stageAt_memOk {core who off} (h : s.memOk) : (s.stageAt core who off).memOk :=
  modCore_memOk h (fun _ h1 => h1)

theorem stage_memOk {k who o n} (h : s.memOk) : (s.stage k who o n).memOk :=
  ite_memOk h (foldl_memOk h (fun _ _ h1 => stageAt_memOk h1))

theorem scrStore_memOk {k g o n v} (h : s.memOk) : (s.scrStore k g o n v).memOk :=
  spoilTiles_memOk (scrPut_memOk (stage_memOk h))

theorem ldsRun_runOk {x} (h : c.s.memOk) : RunOk (ldsRun x c) := by
  unfold ldsRun
  split
  · exact nil_finOk h
  · extract_lets
    split
    · exact trivial
    · exact putRun_finOk h

theorem execLds_outOk {x} (h : s.memOk) : OutOk (execLds x s) :=
  issue_outOk (loadJob_jobOk (fun _ h1 => ldsRun_runOk h1)) h

theorem stsRun_runOk {x} (h : c.s.memOk) : RunOk (stsRun x c) := by
  unfold stsRun
  split
  · exact nil_finOk h
  · extract_lets
    split
    · exact trivial
    · exact nil_finOk (tickIf_memOk (foldl_memOk h (fun _ _ h1 => scrStore_memOk h1)))

theorem execSts_outOk {x} (h : s.memOk) : OutOk (execSts x s) :=
  issue_outOk (storeJob_jobOk (fun _ h1 => stsRun_runOk h1)) h

theorem atomApply_memOk {op ty look cmp val x6} (h1 : s.memOk) : (atomApply c op ty look cmp val x6 s).1.memOk := by
  induction x6 generalizing s with
  | nil => exact h1
  | cons a x6 ih =>
    rw [atomApply]
    split
    · rename_i e1
      have m1 := memOk_of_fst e1 (atomic_memOk (touch_memOk h1))
      split
      · rename_i e2
        exact ih (queueLate_memOk (memOk_of_fst e2 (cowTouch_memOk (touch_memOk (touch_memOk h1)))))
      · exact ih (touch_memOk m1)
      · exact ih m1

theorem atomRun_runOk {x} (h : c.s.memOk) : RunOk (atomRun x c) := by
  unfold atomRun
  extract_lets
  split
  · exact trivial
  · rename_i e2
    have h1 := memOk_of_checked e2 (checkMem_checkedOk h)
    extract_lets
    split
    · rename_i e3
      have h2 := memOk_of_fst e3 (atomApply_memOk h1)
      refine afterCow_runOk h1 ?_
      intro _ h3
      extract_lets s1 s2
      have h4 : s1.memOk := ite_memOk (acquire_memOk h2) h2
      have h5 : s2.memOk := tickIf_memOk h4
      exact ite_runOk (putRun_finOk h5) (finOk_congr _ (putRun_finOk (newHandle_memOk h5)) rfl rfl)

theorem execAtom_outOk {x} (h : s.memOk) : OutOk (execAtom x s) :=
  issue_outOk (jobOk_congr (storeJob x 1 (atomRun x)) (storeJob_jobOk (fun _ h1 => atomRun_runOk h1)) rfl) h

theorem redRun_runOk {x} (h : c.s.memOk) : RunOk (redRun x c) := by
  unfold redRun
  extract_lets
  split
  · exact trivial
  · rename_i e2
    exact afterCow_runOk (memOk_of_checked e2 (checkMem_checkedOk h)) (fun _ h1 => nil_finOk (tickIf_memOk (foldl_memOk h1 (fun _ _ h2 => put_memOk h2))))

theorem execRed_outOk {x} (h : s.memOk) : OutOk (execRed x s) :=
  issue_outOk (storeJob_jobOk (fun _ h1 => redRun_runOk h1)) h

theorem fenceRun_runOk {x} (h : c.s.memOk) : RunOk (fenceRun x c) :=
  nil_finOk (ite_memOk (acquire_memOk h) h)

theorem execFence_outOk {x} (h : s.memOk) : OutOk (execFence x s) :=
  issue_outOk (jobOf_jobOk (fun _ h1 => fenceRun_runOk h1)) h

theorem pfenceRun_runOk {x} (h : c.s.memOk) : RunOk (pfenceRun x c) :=
  nil_finOk (modCore_memOk h (fun _ h1 => h1))

theorem execPfence_outOk {x} (h : s.memOk) : OutOk (execPfence x s) :=
  issue_outOk (jobOf_jobOk (fun _ h1 => pfenceRun_runOk h1)) h

theorem pushfRun_runOk {x} (h : c.s.memOk) : RunOk (pushfRun x c) := by
  unfold pushfRun
  extract_lets
  refine ite_runOk trivial ?_
  split
  · exact trivial
  · rename_i e2
    exact nil_finOk (modWarp_memOk (memOk_of_fst e2 (stackReach_memOk h)))

theorem execPushf_outOk {x} (h : s.memOk) : OutOk (execPushf x s) :=
  issue_outOk (jobOk_congr (jobOf x x.bytes (pushfRun x)) (jobOf_jobOk (fun _ h1 => pushfRun_runOk h1)) rfl) h

theorem frameRead_memOk {g f quiet xs} (h : s.memOk) : (frameRead g f quiet xs s).1.memOk := by
  induction xs generalizing s with
  | nil => exact h
  | cons x xs ih =>
    rw [frameRead]
    split
    · rename_i e1 _
      exact memOk_of_fst e1 (stackGet_memOk h)
    · rename_i e3 _
      have h1 := memOk_of_fst e3 (stackGet_memOk h)
      split
      · rename_i e4
        exact memOk_of_fst e4 (ih h1)
      · rename_i e5
        exact memOk_of_fst e5 (ih h1)

theorem popfRun_runOk {x} (h : c.s.memOk) : RunOk (popfRun x c) := by
  unfold popfRun
  extract_lets
  refine ite_runOk trivial ?_
  split
  · exact trivial
  · rename_i e2
    exact putRun_finOk (modWarp_memOk (memOk_of_fst e2 (frameRead_memOk h)))

theorem execPopf_outOk {x} (h : s.memOk) : OutOk (execPopf x s) :=
  issue_outOk (jobOk_congr (jobOf x x.bytes (popfRun x)) (jobOf_jobOk (fun _ h1 => popfRun_runOk h1)) rfl) h

end Sys2Proof.Machine
end

section
/-! ## Canonical form: the functions of Sys2Proof/Machine/Fp.lean -/

namespace Sys2Proof.Machine

variable {s : State} {c : Ctx}

theorem fpJob_jobOk {code x len f}  : JobOk (fpJob code x len f) :=
  jobOf_jobOk (fun _ h => put_finOk h)

theorem faddJob_jobOk {code x len}  : JobOk (faddJob code x len) :=
  fpJob_jobOk

theorem fsubJob_jobOk {code x len}  : JobOk (fsubJob code x len) :=
  fpJob_jobOk

theorem fmulJob_jobOk {code x len}  : JobOk (fmulJob code x len) :=
  fpJob_jobOk

theorem ffmaJob_jobOk {code x len}  : JobOk (ffmaJob code x len) :=
  fpJob_jobOk

theorem fminJob_jobOk {code x len}  : JobOk (fminJob code x len) :=
  fpJob_jobOk

theorem fmaxJob_jobOk {code x len}  : JobOk (fmaxJob code x len) :=
  fpJob_jobOk

theorem fcmpJob_jobOk {k x len}  : JobOk (fcmpJob k x len) :=
  jobOf_jobOk (fun _ h => pushed_finOk h)

theorem fclassJob_jobOk {code x}  : JobOk (fclassJob code x) :=
  laneJob_jobOk

theorem frndJob_jobOk {code x}  : JobOk (frndJob code x) :=
  fpJob_jobOk

theorem cvtJob_jobOk {x}  : JobOk (cvtJob x) :=
  jobOf_jobOk (fun _ h => put_finOk h)

theorem execFadd_outOk {f x} (h : s.memOk) : OutOk (execFadd f x s) :=
  issue_outOk faddJob_jobOk h

theorem execFsub_outOk {f x} (h : s.memOk) : OutOk (execFsub f x s) :=
  issue_outOk fsubJob_jobOk h

theorem execFmul_outOk {f x} (h : s.memOk) : OutOk (execFmul f x s) :=
  issue_outOk fmulJob_jobOk h

theorem execFfma_outOk {f x} (h : s.memOk) : OutOk (execFfma f x s) :=
  issue_outOk ffmaJob_jobOk h

theorem execFmin_outOk {f x} (h : s.memOk) : OutOk (execFmin f x s) :=
  issue_outOk fminJob_jobOk h

theorem execFmax_outOk {f x} (h : s.memOk) : OutOk (execFmax f x s) :=
  issue_outOk fmaxJob_jobOk h

theorem execFaddF64V_outOk {b} (h : s.memOk) : OutOk (execFaddF64V b s) :=
  issue_outOk faddJob_jobOk h

theorem execFsubF64V_outOk {b} (h : s.memOk) : OutOk (execFsubF64V b s) :=
  issue_outOk fsubJob_jobOk h

theorem execFmulF64V_outOk {b} (h : s.memOk) : OutOk (execFmulF64V b s) :=
  issue_outOk fmulJob_jobOk h

theorem execFfmaF64V_outOk {b} (h : s.memOk) : OutOk (execFfmaF64V b s) :=
  issue_outOk ffmaJob_jobOk h

theorem execFminF64V_outOk {b} (h : s.memOk) : OutOk (execFminF64V b s) :=
  issue_outOk fminJob_jobOk h

theorem execFmaxF64V_outOk {b} (h : s.memOk) : OutOk (execFmaxF64V b s) :=
  issue_outOk fmaxJob_jobOk h

theorem execFaddF64S_outOk {b} (h : s.memOk) : OutOk (execFaddF64S b s) :=
  issue_outOk faddJob_jobOk h

theorem execFsubF64S_outOk {b} (h : s.memOk) : OutOk (execFsubF64S b s) :=
  issue_outOk fsubJob_jobOk h

theorem execFmulF64S_outOk {b} (h : s.memOk) : OutOk (execFmulF64S b s) :=
  issue_outOk fmulJob_jobOk h

theorem execFfmaF64S_outOk {b} (h : s.memOk) : OutOk (execFfmaF64S b s) :=
  issue_outOk ffmaJob_jobOk h

theorem execFminF64S_outOk {b} (h : s.memOk) : OutOk (execFminF64S b s) :=
  issue_outOk fminJob_jobOk h

theorem execFmaxF64S_outOk {b} (h : s.memOk) : OutOk (execFmaxF64S b s) :=
  issue_outOk fmaxJob_jobOk h

theorem execFaddF32V_outOk {b} (h : s.memOk) : OutOk (execFaddF32V b s) :=
  issue_outOk faddJob_jobOk h

theorem execFsubF32V_outOk {b} (h : s.memOk) : OutOk (execFsubF32V b s) :=
  issue_outOk fsubJob_jobOk h

theorem execFmulF32V_outOk {b} (h : s.memOk) : OutOk (execFmulF32V b s) :=
  issue_outOk fmulJob_jobOk h

theorem execFfmaF32V_outOk {b} (h : s.memOk) : OutOk (execFfmaF32V b s) :=
  issue_outOk ffmaJob_jobOk h

theorem execFminF32V_outOk {b} (h : s.memOk) : OutOk (execFminF32V b s) :=
  issue_outOk fminJob_jobOk h

theorem execFmaxF32V_outOk {b} (h : s.memOk) : OutOk (execFmaxF32V b s) :=
  issue_outOk fmaxJob_jobOk h

theorem execFaddF32S_outOk {b} (h : s.memOk) : OutOk (execFaddF32S b s) :=
  issue_outOk faddJob_jobOk h

theorem execFsubF32S_outOk {b} (h : s.memOk) : OutOk (execFsubF32S b s) :=
  issue_outOk fsubJob_jobOk h

theorem execFmulF32S_outOk {b} (h : s.memOk) : OutOk (execFmulF32S b s) :=
  issue_outOk fmulJob_jobOk h

theorem execFfmaF32S_outOk {b} (h : s.memOk) : OutOk (execFfmaF32S b s) :=
  issue_outOk ffmaJob_jobOk h

theorem execFminF32S_outOk {b} (h : s.memOk) : OutOk (execFminF32S b s) :=
  issue_outOk fminJob_jobOk h

theorem execFmaxF32S_outOk {b} (h : s.memOk) : OutOk (execFmaxF32S b s) :=
  issue_outOk fmaxJob_jobOk h

theorem execFcmpEqV_outOk {b} (h : s.memOk) : OutOk (execFcmpEqV b s) :=
  issue_outOk fcmpJob_jobOk h

theorem execFcmpNeV_outOk {b} (h : s.memOk) : OutOk (execFcmpNeV b s) :=
  issue_outOk fcmpJob_jobOk h

theorem execFcmpLtV_outOk {b} (h : s.memOk) : OutOk (execFcmpLtV b s) :=
  issue_outOk fcmpJob_jobOk h

theorem execFcmpLeV_outOk {b} (h : s.memOk) : OutOk (execFcmpLeV b s) :=
  issue_outOk fcmpJob_jobOk h

theorem execFcmpGtV_outOk {b} (h : s.memOk) : OutOk (execFcmpGtV b s) :=
  issue_outOk fcmpJob_jobOk h

theorem execFcmpGeV_outOk {b} (h : s.memOk) : OutOk (execFcmpGeV b s) :=
  issue_outOk fcmpJob_jobOk h

theorem execFcmp_outOk {k x} (h : s.memOk) : OutOk (execFcmp k x s) :=
  issue_outOk fcmpJob_jobOk h

theorem execFclass_outOk {f x} (h : s.memOk) : OutOk (execFclass f x s) :=
  issue_outOk fclassJob_jobOk h

theorem execFrnd_outOk {f x} (h : s.memOk) : OutOk (execFrnd f x s) :=
  issue_outOk frndJob_jobOk h

theorem execCvt_outOk {x} (h : s.memOk) : OutOk (execCvt x s) :=
  issue_outOk cvtJob_jobOk h

end Sys2Proof.Machine
end

section
/-! ## Canonical form: the functions of Sys2Proof/Machine/Narrow.lean -/

namespace Sys2Proof.Machine

variable {s : State} {c : Ctx}

theorem fmtcvtJob_jobOk {x} : JobOk (fmtcvtJob x) := by
  refine jobOk_congr (jobOf x x.bytes _) (jobOf_jobOk (fun c h => ?_)) rfl
  have put : ∀ v flags, FinOk { c.put x.d v flags with s := c.s.tickFree } := fun v flags =>
      finOk_of_s (c.put x.d v flags) (put_finOk h) rfl (tickFree_memOk h)
  exact ite_runOk (finOk_of_s _ (put _ _) rfl (newHandle_memOk (tickFree_memOk h))) (put _ _)

theorem packJob_jobOk {x} : JobOk (packJob x) := by
  refine jobOk_congr (jobOf x x.bytes _) (jobOf_jobOk (fun c h => ?_)) rfl
  exact putRun_finOk h

theorem unpackJob_jobOk {x} : JobOk (unpackJob x) := by
  refine jobOk_congr (jobOf x x.bytes _) (jobOf_jobOk (fun c h => ?_)) rfl
  exact putRun_finOk h

theorem execFmtcvt_outOk {x} (h : s.memOk) : OutOk (execFmtcvt x s) :=
  issue_outOk fmtcvtJob_jobOk h

theorem execPack_outOk {x} (h : s.memOk) : OutOk (execPack x s) :=
  issue_outOk packJob_jobOk h

theorem execUnpack_outOk {x} (h : s.memOk) : OutOk (execUnpack x s) :=
  issue_outOk unpackJob_jobOk h

end Sys2Proof.Machine
end

section
/-! ## Canonical form: the functions of Sys2Proof/Machine/TileI.lean -/

namespace Sys2Proof.Machine

variable {s : State} {c : Ctx}

theorem tilePut_memOk {k h' i j v} (h : s.memOk) : (s.tilePut k h' i j v).memOk :=
  ite_memOk h (ite_memOk (scrPut_memOk h) (scrPut_memOk h))

theorem setTile_memOk {core i t} (h : s.memOk) : (s.setTile core i t).memOk :=
  modCore_memOk h (fun _ h1 => h1)

theorem modTile_memOk {core i f} (h : s.memOk) : (s.modTile core i f).memOk :=
  setTile_memOk h

theorem withTile_runOk {f : Group → ℕ → Tile → Run} {x u} (h : c.s.memOk) (h1 : ∀ a0 a1 a2, RunOk (f a0 a1 a2)) : RunOk (c.withTile x u f) := by
  unfold Ctx.withTile
  split
  · exact trivial
  · exact ite_runOk (h1 _ _ _) h

theorem tcfgRun_runOk {x} (h : c.s.memOk) : RunOk (tcfgRun x c) :=
  ite_runOk (nil_finOk h) (withTile_runOk h (fun _ _ _ => nil_finOk (setTile_memOk h)))

theorem tacqRun_runOk {x} (h : c.s.memOk) : RunOk (tacqRun x c) :=
  ite_runOk (nil_finOk h) (withTile_runOk h (fun _ _ _ => nil_finOk (setTile_memOk h)))

theorem trelRun_runOk {x} (h : c.s.memOk) : RunOk (trelRun x c) :=
  ite_runOk (nil_finOk h) (withTile_runOk h (fun _ _ _ => nil_finOk (setTile_memOk h)))

theorem tstatRun_runOk {x} (h : c.s.memOk) : RunOk (tstatRun x c) := by
  unfold tstatRun
  split
  · exact finOk_congr _ (nil_finOk h) rfl rfl
  · exact nil_finOk h

theorem execTcfg_outOk {x} (h : s.memOk) : OutOk (execTcfg x s) :=
  issue_outOk (jobOk_congr (jobOf x x.bytes (tcfgRun x)) (jobOf_jobOk (fun _ h1 => tcfgRun_runOk h1)) rfl) h

theorem execTacq_outOk {x} (h : s.memOk) : OutOk (execTacq x s) :=
  issue_outOk (jobOk_congr (jobOf x x.bytes (tacqRun x)) (jobOf_jobOk (fun _ h1 => tacqRun_runOk h1)) rfl) h

theorem execTrel_outOk {x} (h : s.memOk) : OutOk (execTrel x s) :=
  issue_outOk (jobOk_congr (jobOf x x.bytes (trelRun x)) (jobOf_jobOk (fun _ h1 => trelRun_runOk h1)) rfl) h

theorem execTstat_outOk {x} (h : s.memOk) : OutOk (execTstat x s) :=
  issue_outOk (jobOk_congr (jobOf x x.bytes (tstatRun x)) (jobOf_jobOk (fun _ h1 => tstatRun_runOk h1)) rfl) h

theorem ldtRun_runOk {x} (h : c.s.memOk) : RunOk (ldtRun x c) := by
  unfold ldtRun
  refine ite_runOk (finOk_congr _ (nil_finOk h) rfl rfl) ?_
  refine withTile_runOk h ?_
  intro _ _ _
  extract_lets
  split
  · exact trivial
  · exact putRun_finOk h

theorem execLdt_outOk {x} (h : s.memOk) : OutOk (execLdt x s) :=
  issue_outOk (jobOk_congr (jobOf x x.bytes (ldtRun x)) (jobOf_jobOk (fun _ h1 => ldtRun_runOk h1)) rfl) h

theorem sttWrite_runOk {x} (h : c.s.memOk) : RunOk (sttWrite x c) := by
  unfold sttWrite
  refine ite_runOk (nil_finOk h) ?_
  refine withTile_runOk h ?_
  intro _ _ _
  extract_lets
  split
  · exact trivial
  · exact nil_finOk (tickIf_memOk (foldl_memOk h (fun _ _ h1 => spoilTiles_memOk (tilePut_memOk (stage_memOk h1)))))

theorem sttRun_runOk {x} (h : c.s.memOk) : RunOk (sttRun x c) := by
  unfold sttRun
  split
  · rename_i e1
    exact finOk_congr _ (finOk_of_go e1 (reading_runOk (sttWrite_runOk h))) rfl rfl
  · exact reading_runOk (sttWrite_runOk h)

theorem execStt_outOk {x} (h : s.memOk) : OutOk (execStt x s) :=
  issue_outOk (jobOk_congr (jobOf x x.bytes (sttRun x)) (jobOf_jobOk (fun _ h1 => sttRun_runOk h1)) rfl) h

theorem samplerBytes_memOk {core root n a3} (h : s.memOk) : (samplerBytes core root n a3 s).1.memOk := by
  induction n generalizing s core root a3 with
  | zero => exact h
  | succ n ih =>
    rw [samplerBytes]
    split
    · rename_i e1
      exact memOk_of_fst e1 (xlatCore_memOk h)
    · rename_i e2
      have h1 := memOk_of_fst e2 (xlatCore_memOk h)
      refine fst_ite_memOk h1 ?_
      split
      · rename_i e3
        have h2 := memOk_of_fst e3 (readLine_memOk (touch_memOk h1))
        split
        · rename_i e4
          exact memOk_of_fst e4 (ih h2)
        · rename_i e5
          exact memOk_of_fst e5 (ih h2)

theorem texRec_memOk {x} (h : c.s.memOk) : (c.texRec x).1.memOk := by
  unfold Ctx.texRec
  extract_lets
  refine fst_ite_memOk h ?_
  split
  · rename_i e1
    exact memOk_of_fst e1 (samplerBytes_memOk h)
  · rename_i e2
    have h1 := memOk_of_fst e2 (samplerBytes_memOk h)
    exact fst_ite_memOk h1 (fst_ite_memOk h1 h1)

theorem texRead_memOk {core root r taps} (h : s.memOk) : (texRead core root r taps s).1.memOk := by
  induction taps generalizing s with
  | nil => exact h
  | cons t taps ih =>
    unfold texRead
    extract_lets _ here
    have h1 : here.1.memOk := by
      dsimp only [here]
      split
      · exact h
      · split
        · rename_i e
          exact memOk_of_fst e (samplerBytes_memOk h)
        · rename_i e
          exact memOk_of_fst e (samplerBytes_memOk h)
    generalize here = q at h1
    split
    · exact h1
    · split
      · rename_i e'
        exact memOk_of_fst e' (ih h1)
      · rename_i e'
        exact memOk_of_fst e' (ih h1)

theorem texLanes_memOk {core root r fz n coord x6} (h : s.memOk) : (texLanes core root r fz n coord x6 s).1.memOk := by
  induction x6 generalizing s with
  | nil => exact h
  | cons a x6 ih =>
    rw [texLanes]
    split
    · rename_i e1
      exact ih (memOk_of_fst e1 (texRead_memOk h))
    · rename_i e2
      exact ih (memOk_of_fst e2 (texRead_memOk h))

theorem sampRun_runOk {x} (h : c.s.memOk) : RunOk (sampRun x c) := by
  unfold sampRun
  split
  · exact trivial
  · rename_i e2
    exact reading_runOk (ite_runOk trivial (putRun_finOk (texLanes_memOk (memOk_of_fst e2 (texRec_memOk h)))))

theorem execSamp_outOk {x} (h : s.memOk) : OutOk (execSamp x s) :=
  issue_outOk (jobOk_congr (jobOf x x.bytes (sampRun x)) (jobOf_jobOk (fun _ h1 => sampRun_runOk h1)) rfl) h

theorem sendRun_runOk {x} (h : c.s.memOk) : RunOk (sendRun x c) := by
  unfold sendRun
  split
  · extract_lets
    refine ite_runOk trivial ?_
    split
    · exact ite_runOk trivial (nil_finOk (memOk_congr _ (newHandle_memOk h) rfl rfl))
    · refine ite_runOk trivial ?_
      refine ite_runOk trivial ?_
      split
      · exact trivial
      · rename_i e6
        exact ite_runOk (nil_finOk (memOk_congr _ (newHandle_memOk (memOk_of_fst e6 (xlatCore_memOk h))) rfl rfl)) trivial
  · exact nil_finOk h

theorem execSend_outOk {x} (h : s.memOk) : OutOk (execSend x s) :=
  issue_outOk (jobOk_congr (jobOf x x.bytes (sendRun x)) (jobOf_jobOk (fun _ h1 => sendRun_runOk h1)) rfl) h

theorem addVa_optOk {d root va n} (h : s.memOk) : OptOk (s.addVa d root va n) := by
  dsimp only [State.addVa]
  split
  · exact h
  · rename_i e2
    split
    · rename_i e3
      exact writeMem_memOk (homeRead_memOk (touch_memOk (memOk_of_fst e3 (cowTouch_memOk (memOk_of_fst e2 (xlatDie_memOk h))))))
    · exact memOk_of_fst e2 (xlatDie_memOk h)
    · exact trivial

theorem execSendDelivery_outOk {idx} (h : s.memOk) : OutOk (execSendDelivery idx s) := by
  unfold execSendDelivery
  refine outOk_next ?_
  split
  · exact h
  · refine ite_memOk h ?_
    extract_lets _ s1 s2 s3
    have h1 : s1.memOk := by
      dsimp only [s1]
      split
      · exact ite_memOk h (foldl_memOk h (fun _ _ h1 => stageAt_memOk h1))
      · exact h
    have h2 : s2.memOk := ite_memOk (foldl_memOk h1 (fun _ _ h2 => modCore_memOk h2 (fun _ h3 => setItem_wf h3))) h1
    have h3 : s3.memOk := memOk_congr _ h2 rfl rfl
    split
    · exact h3
    · split
      · rename_i e7
        exact memOk_of_some e7 (addVa_optOk h3)
      · split
        · rename_i e9
          exact cowTouch_memOk (memOk_of_fst e9 (xlatDie_memOk h1))
        · exact h1

end Sys2Proof.Machine
end

section
/-! ## Canonical form: the functions of Sys2Proof/Machine/Coverage.lean -/

namespace Sys2Proof.Machine

variable {s : State} {c : Ctx}

theorem covqRun_runOk {x} (h : c.s.memOk) : RunOk (covqRun x c) := by
  unfold covqRun
  split
  · exact put_finOk h
  · exact put_finOk h

theorem execCovq_outOk {x} (h : s.memOk) : OutOk (execCovq x s) :=
  issue_outOk (jobOf_jobOk (fun _ h1 => covqRun_runOk h1)) h

theorem covReads_memOk {core root n xs} (h : s.memOk) : (covReads core root n xs s).1.memOk := by
  induction xs generalizing s with
  | nil => exact h
  | cons x xs ih =>
    rw [covReads]
    split
    · rename_i e1
      exact memOk_of_fst e1 (xlatCore_memOk h)
    · rename_i e2
      have h1 := memOk_of_fst e2 (xlatCore_memOk h)
      refine fst_ite_memOk h1 ?_
      split
      · rename_i e3
        have h2 := memOk_of_fst e3 (readLine_memOk (touch_memOk h1))
        split
        · rename_i e4
          exact memOk_of_fst e4 (ih h2)
        · rename_i e5
          exact memOk_of_fst e5 (ih h2)

theorem covLanes_memOk {core root n srcs x4} (h : s.memOk) : (covLanes core root n srcs x4 s).1.memOk := by
  induction x4 generalizing s with
  | nil => exact h
  | cons a x4 ih =>
    rw [covLanes]
    split
    · rename_i e1
      exact ih (memOk_of_fst e1 (covReads_memOk h))
    · rename_i e2
      exact ih (memOk_of_fst e2 (covReads_memOk h))

theorem covReport_memOk {qcb err} (h : s.memOk) : (s.covReport qcb err).memOk :=
  pokeN_memOk (pokeN_memOk (unU_memOk h))

theorem covpRun_runOk {x} (h : c.s.memOk) : RunOk (covpRun x c) := by
  unfold covpRun
  extract_lets
  split
  · exact put_finOk h
  · exact ite_runOk trivial (ite_runOk trivial (put_finOk (foldl_memOk (covLanes_memOk h) (fun _ _ h1 => covReport_memOk h1))))

theorem execCovp_outOk {x} (h : s.memOk) : OutOk (execCovp x s) :=
  issue_outOk (jobOk_congr (jobOf x x.bytes (covpRun x)) (jobOf_jobOk (fun _ h1 => covpRun_runOk h1)) rfl) h

theorem covStep_memOk {qcb r} (h : s.memOk) : (s.covStep qcb r).memOk :=
  ite_memOk (unU_memOk h) (poke_memOk (unU_memOk h))

theorem stepDue_memOk {launch} (h : s.memOk) : (s.stepDue launch).memOk := by
  unfold State.stepDue
  split
  · exact ite_memOk (modLaunch_memOk (covStep_memOk h)) h
  · exact h

theorem execCoverageUpdate4k_outOk {launch} (h : s.memOk) : OutOk (execCoverageUpdate4k launch s) :=
  outOk_next (stepDue_memOk h)

end Sys2Proof.Machine
end

section
/-! ## Canonical form: the functions of Sys2Proof/Machine/Engine.lean -/

namespace Sys2Proof.Machine

variable {s : State} {c : Ctx}

theorem writePiece_memOk {who d root va bs} (h : s.memOk) : (s.writePiece who d root va bs).1.memOk := by
  unfold State.writePiece
  split
  · rename_i e1
    exact memOk_of_fst e1 (xlatDie_memOk h)
  · rename_i e2
    have h1 := memOk_of_fst e2 (xlatDie_memOk h)
    extract_lets
    split
    · rename_i e3
      exact writeMem_memOk (memOk_of_fst e3 (cowTouch_memOk (touch_memOk h1)))
    · rename_i e4
      exact queueLate_memOk (memOk_of_fst e4 (cowTouch_memOk (touch_memOk h1)))
    · rename_i e5
      exact memOk_of_fst e5 (cowTouch_memOk (touch_memOk h1))
    · rename_i e6
      have h2 := memOk_of_fst e6 (cowTouch_memOk (touch_memOk h1))
      split
      · exact h2
      · exact queueLate_memOk h2

theorem readPages_memOk {d root x2 x3} (h : s.memOk) : (readPages d root x2 x3 s).1.memOk := by
  induction x2 generalizing s d root x3 with
  | zero => exact h
  | succ x2 ih =>
    rw [readPages]
    split
    · rename_i e1
      exact memOk_of_fst e1 (xlatDie_memOk h)
    · rename_i e2
      exact ih (touch_memOk (memOk_of_fst e2 (xlatDie_memOk h)))

theorem genRecord_memOk {core root va} (h : s.memOk) : (s.genRecord core root va).1.memOk := by
  unfold State.genRecord
  refine fst_ite_memOk h ?_
  split
  · rename_i e1
    exact memOk_of_fst e1 (xlatCore_memOk h)
  · rename_i e2
    have m2 := memOk_of_fst e2 (xlatCore_memOk h)
    exact fst_ite_memOk m2 (readLine_memOk (readLine_memOk (touch_memOk m2)))

theorem engRead_memOk {kind x} (h : c.s.memOk) : (c.engRead kind x).1.memOk := by
  unfold Ctx.engRead
  extract_lets
  split
  · rename_i e1
    exact memOk_of_fst e1 (genRecord_memOk h)
  · rename_i e2
    have h1 := memOk_of_fst e2 (genRecord_memOk h)
    split
    · rename_i e3
      have h2 := memOk_of_fst e3 (fst_ite_memOk (genRecord_memOk h1) h1)
      split
      · exact h2
      · exact fst_ite_memOk h2 (fst_ite_memOk h2 (fst_ite_memOk h2 h2))

theorem engRun_runOk {kind x} (h : c.s.memOk) : RunOk (engRun kind x c) := by
  unfold engRun
  extract_lets
  split
  · exact trivial
  · rename_i e2 _ _ _
    have h1 := memOk_of_fst e2 (engRead_memOk h)
    extract_lets
    refine ite_runOk ?_ (ite_runOk trivial (nil_finOk (memOk_congr _ (newHandle_memOk h1) rfl rfl)))
    split
    · exact trivial
    · exact ite_runOk trivial (ite_runOk h1 (nil_finOk (memOk_congr _ (newHandle_memOk (setTile_memOk h1)) rfl rfl)))
  · rename_i e8 _
    exact nil_finOk (memOk_of_fst e8 (engRead_memOk h))

theorem engJob_jobOk {kind x}  : JobOk (engJob kind x) :=
  jobOk_congr (jobOf x x.bytes (engRun kind x)) (jobOf_jobOk (fun _ h => engRun_runOk h)) rfl

theorem execEngcmdCopyin_outOk {x} (h : s.memOk) : OutOk (execEngcmdCopyin x s) :=
  issue_outOk engJob_jobOk h

theorem execEngcmdCopyout_outOk {x} (h : s.memOk) : OutOk (execEngcmdCopyout x s) :=
  issue_outOk engJob_jobOk h

theorem execEngcmdPublish_outOk {x} (h : s.memOk) : OutOk (execEngcmdPublish x s) :=
  issue_outOk engJob_jobOk h

theorem execEngcmdRetire_outOk {x} (h : s.memOk) : OutOk (execEngcmdRetire x s) :=
  issue_outOk engJob_jobOk h

theorem execEngcmdAsbuild_outOk {x} (h : s.memOk) : OutOk (execEngcmdAsbuild x s) :=
  issue_outOk engJob_jobOk h

theorem execEngcmdHalo_outOk {x} (h : s.memOk) : OutOk (execEngcmdHalo x s) :=
  issue_outOk engJob_jobOk h

theorem execEngcmdAllred_outOk {x} (h : s.memOk) : OutOk (execEngcmdAllred x s) :=
  issue_outOk engJob_jobOk h

theorem execEngcmdRecon_outOk {x} (h : s.memOk) : OutOk (execEngcmdRecon x s) :=
  issue_outOk engJob_jobOk h

theorem setEng_memOk {id c'} (h : s.memOk) : (s.setEng id c').memOk :=
  memOk_congr _ h rfl rfl

theorem endEng_memOk {id c' code sub detail} (h : s.memOk) : (s.endEng id c' code sub detail).memOk :=
  setEng_memOk h

theorem failEng_memOk {id c' e} (h : s.memOk) : (s.failEng id c' e).memOk :=
  endEng_memOk h

theorem planWrites_memOk {id c' ws detail} (h : s.memOk) : (s.planWrites id c' ws detail).memOk :=
  setEng_memOk h

theorem copyinUnit_memOk {id c'} (h : s.memOk) : (copyinUnit id c' s).memOk := by
  unfold copyinUnit
  split
  · extract_lets
    refine ite_memOk (endEng_memOk h) ?_
    split
    · split
      · rename_i e4
        exact failEng_memOk (memOk_of_fst e4 (readVa_memOk h))
      · rename_i e5
        exact setEng_memOk (foldl_memOk (memOk_of_fst e5 (readVa_memOk h)) (fun _ _ h1 => tilePut_memOk (stage_memOk h1)))
  · exact endEng_memOk h

theorem execCopyoutReadsEnd_outOk {id} (h : s.memOk) : OutOk (execCopyoutReadsEnd id s) := by
  unfold execCopyoutReadsEnd
  refine outOk_next ?_
  split
  · exact h
  · split
    · exact ite_memOk h (modTile_memOk (setEng_memOk h))
    · exact h

theorem copyoutUnit_memOk {id c'} (h : s.memOk) : (copyoutUnit id c' s).memOk := by
  unfold copyoutUnit
  split
  · exact ite_memOk (setEng_memOk h) (planWrites_memOk h)
  · exact endEng_memOk h

theorem pageStep_memOk {act : State → ℕ → ℕ → State × PageOut} {id kind} (h : s.memOk) (h1 : ∀ t a1 a2, t.memOk → (act t a1 a2).1.memOk) :
    (s.pageStep id kind act).memOk := by
  unfold State.pageStep
  split
  · exact h
  · refine ite_memOk h ?_
    extract_lets
    split
    · rename_i e3
      exact endEng_memOk (memOk_of_fst e3 (xlatDie_memOk h))
    · rename_i e4
      have h2 := memOk_of_fst e4 (xlatDie_memOk h)
      refine ite_memOk (endEng_memOk h2) ?_
      split
      · rename_i e5
        exact setEng_memOk (memOk_of_fst e5 (h1 _ _ _ h2))
      · rename_i e6
        exact setEng_memOk (memOk_of_fst e6 (h1 _ _ _ h2))
      · rename_i e7
        exact setEng_memOk (memOk_of_fst e7 (h1 _ _ _ h2))
      · rename_i e8
        exact endEng_memOk (memOk_of_fst e8 (h1 _ _ _ h2))

theorem execPublishPoint_outOk {id} (h : s.memOk) : OutOk (execPublishPoint id s) :=
  outOk_next (pageStep_memOk h (fun _ _ _ h1 => publish_memOk h1))

theorem execRetirePage_outOk {id} (h : s.memOk) : OutOk (execRetirePage id s) :=
  outOk_next (pageStep_memOk h (fun _ _ _ h1 => retire_memOk h1))

theorem pagesEffect_memOk {id c'} (h : s.memOk) : (pagesEffect id c' s).memOk :=
  ite_memOk h (endEng_memOk h)

theorem execFrameReturn_outOk {d} (h : s.memOk) : OutOk (execFrameReturn d s) := by
  unfold execFrameReturn
  refine outOk_next ?_
  split
  · exact h
  · exact ite_memOk h (modDie_memOk (bump_memOk (poke_memOk h)))

theorem settleLook_memOk {x} (h : s.memOk) : (s.settleLook x).memOk := by
  unfold State.settleLook
  split
  · exact ite_memOk h (mapLooks_memOk h)
  · exact h

theorem answerLink_memOk {w} (h : s.memOk) : (s.answerLink w).memOk := by
  unfold State.answerLink
  split
  · exact ite_memOk h (memOk_congr _ h rfl rfl)
  · exact h
  · exact h
  · exact h

theorem releaseWrite_memOk {pte f x} (h : s.memOk) : (releaseWrite pte f s x).memOk :=
  land_memOk (touch_memOk h)

theorem execCopyOnWriteEnd_outOk {idx} (h : s.memOk) : OutOk (execCopyOnWriteEnd idx s) := by
  unfold execCopyOnWriteEnd
  refine outOk_next ?_
  split
  · exact h
  · split
    · exact h
    · exact foldl_memOk (foldl_memOk (foldl_memOk (cowFinish_memOk h) (fun _ _ h1 => releaseWrite_memOk h1)) (fun _ _ h1 => settleLook_memOk h1))
        (fun _ _ h1 => answerLink_memOk h1)

theorem failUnit_memOk {idx g sub xs} (h : s.memOk) : (s.failUnit idx g sub xs).memOk := by
  unfold State.failUnit
  split
  · exact ite_memOk h (takeTrap_memOk (modUnit_memOk (foldl_memOk (memOk_congr _ h rfl rfl) (fun _ _ h1 => dropLook_memOk h1))))
  · exact h

theorem failLate_memOk {idx x} (h : s.memOk) : (s.failLate idx x).memOk := by
  unfold State.failLate
  extract_lets
  split
  · split
    · exact endEng_memOk (memOk_congr _ h rfl rfl)
    · exact memOk_congr _ h rfl rfl
  · exact countFault_memOk (memOk_congr _ h rfl rfl)
  · exact h

theorem execAllocationRingTimeout_outOk {idx} (h : s.memOk) : OutOk (execAllocationRingTimeout idx s) := by
  unfold execAllocationRingTimeout
  refine outOk_next ?_
  split
  · exact h
  · split
    · exact ite_memOk h (foldl_memOk (foldl_memOk (memOk_congr _ h rfl rfl) (fun _ _ h1 => failLate_memOk h1)) (fun _ _ h1 => failUnit_memOk h1))
    · exact h

theorem asbuildEffect_memOk {id c'} (h : s.memOk) : (asbuildEffect id c' s).memOk := by
  obtain ⟨g, dg⟩ : ∃ f, readPages = f := ⟨_, rfl⟩
  have hg := @readPages_memOk
  obtain ⟨f, d⟩ : ∃ f, asbuildEffect = f := ⟨_, rfl⟩
  rw [d]
  delta asbuildEffect at d
  rw [dg] at d hg
  subst d
  beta_reduce
  extract_lets
  split
  · rename_i e1
    exact failEng_memOk (memOk_of_fst e1 (hg h))
  · rename_i e2
    have m2 := memOk_of_fst e2 (hg h)
    exact ite_memOk (endEng_memOk m2) (planWrites_memOk (tickFree_memOk m2))

theorem ringLeave_memOk {tag ring p} (h : s.memOk) : (s.ringLeave tag ring p).memOk :=
  ite_memOk (memOk_congr _ (memOk_congr _ h rfl rfl) rfl rfl) (memOk_congr _ h rfl rfl)

theorem allredBegin_memOk {id c'} (h : s.memOk) : (allredBegin id c' s).memOk := by
  obtain ⟨f, d⟩ : ∃ f, allredBegin = f := ⟨_, rfl⟩
  rw [d]
  delta allredBegin at d
  subst d
  beta_reduce
  extract_lets
  split
  · rename_i e1
    exact failEng_memOk (memOk_of_fst e1 (readVa_memOk h))
  · rename_i e2
    have m2 := memOk_of_fst e2 (readVa_memOk h)
    extract_lets
    refine ite_memOk (endEng_memOk m2) ?_
    split
    · rename_i e3
      exact failEng_memOk (memOk_of_fst e3 (readVa_memOk m2))
    · rename_i e4
      have m4 := memOk_of_fst e4 (readVa_memOk m2)
      extract_lets
      exact ite_memOk (endEng_memOk m4) (ite_memOk (endEng_memOk m4) (setEng_memOk m4))

theorem allredSend_memOk {id c'} (h : s.memOk) : (allredSend id c' s).memOk :=
  setEng_memOk (memOk_congr _ h rfl rfl)

theorem readSome_memOk {id c' va n} (h : s.memOk) : (s.readSome id c' va n).memOk := by
  unfold State.readSome
  split
  · rename_i e1
    exact failEng_memOk (memOk_of_fst e1 (readVa_memOk h))
  · rename_i e2
    exact setEng_memOk (memOk_of_fst e2 (readVa_memOk h))

theorem allredUnit_memOk {id c'} (h : s.memOk) : (allredUnit id c' s).memOk := by
  unfold allredUnit
  extract_lets
  exact ite_memOk (allredBegin_memOk h) (ite_memOk (readSome_memOk h) (ite_memOk (allredSend_memOk h) (ite_memOk (endEng_memOk (ringLeave_memOk h))
      (ite_memOk h (planWrites_memOk (ringLeave_memOk h))))))

theorem haloBegin_memOk {id c'} (h : s.memOk) : (haloBegin id c' s).memOk := by
  obtain ⟨f, d⟩ : ∃ f, haloBegin = f := ⟨_, rfl⟩
  rw [d]
  delta haloBegin at d
  subst d
  beta_reduce
  extract_lets
  split
  · rename_i e1
    exact failEng_memOk (memOk_of_fst e1 (readVa_memOk h))
  · rename_i e2
    have m2 := memOk_of_fst e2 (readVa_memOk h)
    exact ite_memOk (endEng_memOk m2) (ite_memOk (endEng_memOk m2) (setEng_memOk m2))

theorem haloSend_memOk {id c'} (h : s.memOk) : (haloSend id c' s).memOk :=
  setEng_memOk (memOk_congr _ h rfl rfl)

theorem haloUnit_memOk {id c'} (h : s.memOk) : (haloUnit id c' s).memOk := by
  unfold haloUnit
  refine ite_memOk (haloBegin_memOk h) ?_
  split
  · exact readSome_memOk h
  · refine ite_memOk (haloSend_memOk h) ?_
    split
    · exact endEng_memOk (memOk_congr _ h rfl rfl)
    · exact ite_memOk h (setEng_memOk (memOk_congr _ h rfl rfl))
    · split
      · exact setEng_memOk h
      · exact ite_memOk (endEng_memOk h) h

theorem reconLevels_memOk {cmd bs} (h : s.memOk) : (reconLevels cmd bs s).1.memOk := by
  obtain ⟨f, e⟩ : ∃ f, State.readVa = f := ⟨_, rfl⟩
  have read := @readVa_memOk
  rw [e] at read
  have cons : ∀ b bs s, reconLevels cmd (b :: bs) s =
      match f s cmd.die cmd.area.root (descW cmd.desc 383 320 + BitVec.ofNat 64 b) true 1 with
      | (s, .error e) => (s, .error e)
      | (s, .ok v) =>
        match reconLevels cmd bs s with
        | (s, .ok m) => (s, .ok (if s.levelOpen cmd.area.root (descW cmd.desc 383 320) b then m else m.put b (leNat v)))
        | (s, .error e) => (s, .error e) := by
    intro b bs s
    obtain ⟨r, d⟩ : ∃ r, reconLevels = r := ⟨_, rfl⟩
    rw [d]
    delta reconLevels reconLevels._f at d
    rw [e] at d
    subst d
    rfl
  induction bs generalizing s with
  | nil => exact h
  | cons b bs ih =>
    rw [cons]
    split
    · rename_i e
      exact memOk_of_fst e (read h)
    · rename_i e
      split
      · rename_i e'
        exact memOk_of_fst e' (ih (memOk_of_fst e (read h)))
      · rename_i e'
        exact memOk_of_fst e' (ih (memOk_of_fst e (read h)))

theorem reconReads_memOk {c' n xs} (h : s.memOk) : (reconReads c' n xs s).1.memOk := by
  induction xs generalizing s with
  | nil => exact h
  | cons x xs ih =>
    rw [reconReads]
    split
    · rename_i e1
      exact memOk_of_fst e1 (readVa_memOk h)
    · rename_i e2
      have h1 := memOk_of_fst e2 (readVa_memOk h)
      split
      · rename_i e3
        exact memOk_of_fst e3 (ih h1)
      · rename_i e4
        exact memOk_of_fst e4 (ih h1)

theorem reconBlue_memOk {c'} (h : s.memOk) : (reconBlue c' s).1.memOk :=
  fst_ite_memOk (readVa_memOk h) h

theorem reconBegin_memOk {id c'} (h : s.memOk) : (reconBegin id c' s).memOk := by
  obtain ⟨g, dg⟩ : ∃ f, reconBlue = f := ⟨_, rfl⟩
  have hg := @reconBlue_memOk
  obtain ⟨f, d⟩ : ∃ f, reconBegin = f := ⟨_, rfl⟩
  rw [d]
  delta reconBegin at d
  rw [dg] at d hg
  subst d
  beta_reduce
  extract_lets
  split
  · rename_i e1
    exact failEng_memOk (memOk_of_fst e1 (hg h))
  · rename_i e2
    have m2 := memOk_of_fst e2 (hg h)
    extract_lets
    split
    · rename_i e3
      exact failEng_memOk (memOk_of_fst e3 (reconLevels_memOk m2))
    · rename_i e4
      exact setEng_memOk (memOk_of_fst e4 (reconLevels_memOk m2))

theorem reconUnit_memOk {id c' p} (h : s.memOk) : (reconUnit id c' p s).memOk := by
  unfold reconUnit
  extract_lets
  split
  · rename_i e1
    exact failEng_memOk (memOk_of_fst e1 (reconReads_memOk h))
  · rename_i e2
    exact setEng_memOk (memOk_of_fst e2 (reconReads_memOk h))

theorem dropEng_memOk {id c'} (h : s.memOk) : (s.dropEng id c').memOk := by
  unfold State.dropEng
  extract_lets s1
  have h1 : s1.memOk := by
    dsimp only [s1]
    split
    · exact ite_memOk (modTile_memOk h) (ite_memOk h (modTile_memOk h))
    · exact h
  exact reapGroup_memOk (memOk_congr _ h1 rfl rfl)

theorem completeEng_memOk {id cmd code sub detail} (h : s.memOk) : (s.completeEng id cmd code sub detail).memOk := by
  unfold State.completeEng
  refine ite_memOk (dropEng_memOk h) (ite_memOk h ?_)
  split
  · rename_i e
    exact dropEng_memOk (postFault_memOk (memOk_of_fst e (xlatDie_memOk h)))
  · rename_i e
    have h1 := memOk_of_fst e (xlatDie_memOk h)
    split
    · rename_i e'
      exact memOk_of_fst e' (cowTouch_memOk h1)
    · rename_i e'
      exact memOk_of_fst e' (cowTouch_memOk h1)
    · rename_i e'
      exact dropEng_memOk (postFault_memOk (memOk_of_fst e' (cowTouch_memOk h1)))
    · rename_i e'
      extract_lets s1 s2
      have h2 : s1.memOk := touch_memOk (memOk_of_fst e' (cowTouch_memOk h1))
      have h3 : s2.memOk := ite_memOk h2 (writeMem_memOk h2)
      split
      rename_i e''
      exact dropEng_memOk (writeMem_memOk (memOk_of_fst e'' (homeRead_memOk h3)))

theorem engEffect_memOk {id c'} (h : s.memOk) : (engEffect id c' s).memOk := by
  unfold engEffect
  split
  · exact copyinUnit_memOk h
  · exact copyoutUnit_memOk h
  · exact pagesEffect_memOk h
  · exact pagesEffect_memOk h
  · exact asbuildEffect_memOk h
  · exact haloUnit_memOk h
  · exact allredUnit_memOk h
  · exact reconBegin_memOk h

theorem engUnit_memOk {id k} (h : s.memOk) : (s.engUnit id k).memOk := by
  unfold State.engUnit
  split
  · exact h
  · refine ite_memOk h ?_
    extract_lets
    split
    · exact reconUnit_memOk h
    · split
      · rename_i e6
        exact setEng_memOk (memOk_of_fst e6 (writePiece_memOk h))
      · rename_i e7
        exact failEng_memOk (memOk_of_fst e7 (writePiece_memOk h))
    · exact endEng_memOk h
    · exact engEffect_memOk h

theorem engTransfers_memOk {id n} (h : s.memOk) : (engTransfers id n s).memOk := by
  induction n generalizing s with
  | zero => exact h
  | succ n ih =>
    rw [engTransfers]
    exact ih (engUnit_memOk h)

theorem engStage_memOk {id} (h : s.memOk) : (s.engStage id).memOk := by
  unfold State.engStage
  split
  · exact engTransfers_memOk h
  · exact h

theorem execEngineCommandComplete_outOk {id} (h : s.memOk) : OutOk (execEngineCommandComplete id s) := by
  unfold execEngineCommandComplete
  refine outOk_next ?_
  extract_lets s1
  have h1 : s1.memOk := engStage_memOk (engStage_memOk (engStage_memOk (engStage_memOk h)))
  split
  · split
    · exact completeEng_memOk h1
    · exact h1
  · exact h1

end Sys2Proof.Machine
end

section
/-! ## Canonical form: the functions of Sys2Proof/Machine/Place.lean -/

namespace Sys2Proof.Machine

variable {s : State} {c : Ctx}

theorem takeBlock_memOk {d} (h : s.memOk) : (s.takeBlock d).2.memOk :=
  bump_memOk h

theorem seqStart_memOk {d n} (h : s.memOk) : (s.seqStart d n).memOk :=
  ite_memOk h (modDie_memOk h)

theorem startWarp_memOk {c' q0 wg l pc pick wgw p} (h : s.memOk) : (s.startWarp c' q0 wg l pc pick wgw p).memOk :=
  modGroup_memOk (setWarp_memOk (modDie_memOk (takeBlock_memOk h)))

theorem takeStores_memOk {k} (h : s.memOk) : (s.takeStores k).memOk :=
  modCore_memOk h (fun _ h1 => clear_wf' h1)

theorem beginOn_memOk {core key} (h : s.memOk) : (s.beginOn core key).memOk :=
  ite_memOk h (modCore_memOk h (fun _ h1 => h1))

theorem forgetLaunch_memOk {key} (h : s.memOk) : (s.forgetLaunch key).memOk :=
  memOk_withCores (dropLaunch_memOk h) (coresOk_map (coresOk h) (fun _ h1 => h1))

theorem place_memOk {k a q0 pick pc} (h : s.memOk) : (s.place k a q0 pick pc).2.memOk :=
  foldl_memOk (setGroup_memOk (takeStores_memOk (beginOn_memOk (seqStart_memOk (newHandle_memOk h))))) (fun _ _ h1 => ite_memOk (startWarp_memOk h1) h1)

theorem startSeed_optOk {d key l x q0 slot} (h : s.memOk) : OptOk (s.startSeed d key l x q0 slot) := by
  unfold State.startSeed
  extract_lets a
  cases s.corePick d a q0 with
  | none => trivial
  | some p => exact foldl_memOk (place_memOk (acquire_memOk h)) (fun _ _ h1 => modWarp_memOk h1)

theorem relaunch_memOk {d launch rpc slot} (h : s.memOk) : (s.relaunch d launch rpc slot).memOk := by
  unfold State.relaunch
  extract_lets
  split
  · exact h
  · exact h
  · extract_lets
    split
    · rename_i e5
      exact memOk_congr _ (memOk_of_some e5 (startSeed_optOk (tickFree_memOk h))) rfl rfl
    · exact h

theorem relaunchFull_memOk {d launch rpc} (h : s.memOk) : (s.relaunchFull d launch rpc).memOk :=
  ite_memOk (relaunch_memOk h) h

end Sys2Proof.Machine
end

section
/-! ## Canonical form: the functions of Sys2Proof/Machine/Ray.lean -/

namespace Sys2Proof.Machine

variable {s : State} {c : Ctx}

theorem genBytes_memOk {core root n a3} (h : s.memOk) : (genBytes core root n a3 s).1.memOk := by
  induction n generalizing s core root a3 with
  | zero => exact h
  | succ n ih =>
    rw [genBytes]
    split
    · rename_i e1
      exact memOk_of_fst e1 (xlatCore_memOk h)
    · rename_i e2
      have h1 := memOk_of_fst e2 (xlatCore_memOk h)
      refine fst_ite_memOk h1 ?_
      split
      · rename_i e3
        have h2 := memOk_of_fst e3 (readLine_memOk (touch_memOk h1))
        split
        · rename_i e4
          exact memOk_of_fst e4 (ih h2)
        · rename_i e5
          exact memOk_of_fst e5 (ih h2)

theorem scene_memOk {va} (h : c.s.memOk) : (c.scene va).1.memOk := by
  obtain ⟨g, dg⟩ : ∃ f, sceneBad = f := ⟨_, rfl⟩
  obtain ⟨f, d⟩ : ∃ f, Ctx.scene = f := ⟨_, rfl⟩
  rw [d]
  delta Ctx.scene at d
  rw [dg] at d
  subst d
  beta_reduce
  split
  · rename_i e1
    exact memOk_of_fst e1 (genRecord_memOk h)
  · rename_i e2
    split
    · exact memOk_of_fst e2 (genRecord_memOk h)
    · exact memOk_of_fst e2 (genRecord_memOk h)

theorem readScene_memOk {core root r} (h : s.memOk) : (readScene core root r s).1.memOk := by
  obtain ⟨g, dg⟩ : ∃ f, genBytes = f := ⟨_, rfl⟩
  have hg := @genBytes_memOk
  obtain ⟨f, d⟩ : ∃ f, readScene = f := ⟨_, rfl⟩
  rw [d]
  delta readScene at d
  rw [dg] at d hg
  subst d
  beta_reduce
  split
  · rename_i e1
    exact memOk_of_fst e1 (hg h)
  · rename_i e2
    have m2 := memOk_of_fst e2 (hg h)
    split
    · rename_i e3
      exact memOk_of_fst e3 (hg m2)
    · rename_i e4
      have m4 := memOk_of_fst e4 (hg m2)
      extract_lets
      split
      · rename_i e5
        exact memOk_of_fst e5 (hg m4)
      · rename_i e6
        exact memOk_of_fst e6 (hg m4)

theorem rqRun_runOk {x} (h : c.s.memOk) : RunOk (rqRun x c) := by
  obtain ⟨g, dg⟩ : ∃ f, readScene = f := ⟨_, rfl⟩
  have hg := @readScene_memOk
  obtain ⟨f, d⟩ : ∃ f, rqRun = f := ⟨_, rfl⟩
  rw [d]
  delta rqRun at d
  rw [dg] at d hg
  subst d
  beta_reduce
  refine ite_runOk (nil_finOk h) ?_
  extract_lets
  split
  · exact trivial
  · rename_i e2
    have m2 := memOk_of_fst e2 (scene_memOk h)
    extract_lets
    refine ite_runOk (putRun_finOk (tickFree_memOk m2)) ?_
    split
    · exact trivial
    · rename_i e4
      exact putRun_finOk (tickFree_memOk (memOk_of_fst e4 (hg m2)))

theorem execRq_outOk {x} (h : s.memOk) : OutOk (execRq x s) :=
  issue_outOk (jobOk_congr (jobOf x x.bytes (rqRun x)) (jobOf_jobOk (fun _ h1 => rqRun_runOk h1)) rfl) h

theorem castInto_runOk {x key l die scene ray ready} (h : s.memOk) : RunOk (c.castInto x s key l die scene ray ready) := by
  unfold Ctx.castInto
  extract_lets ls one f rpc
  have hf : FinOk f := ending_finOk (nil_finOk (foldl_memOk h (fun _ _ h1 => memOk_congr _ (newHandle_memOk h1) rfl rfl)))
  exact ite_runOk h (ite_finOk (finOk_of_post f hf rfl (fun _ h1 => relaunchFull_memOk (finOk_post hf h1))) hf)

theorem castJob_jobOk {scene : Ctx → Option ℕ} {run : Ctx → Run} {x na} (h : ∀ d, d.s.memOk → RunOk (run d)) : JobOk (castJob x na scene run) :=
  jobOk_congr (jobOf x x.bytes run) (jobOf_jobOk (fun _ h1 => h _ h1)) rfl

theorem rcastRun_runOk {x} (h : c.s.memOk) : RunOk (rcastRun x c) := by
  obtain ⟨g, dg⟩ : ∃ f, genBytes = f := ⟨_, rfl⟩
  have hg := @genBytes_memOk
  obtain ⟨f, d⟩ : ∃ f, rcastRun = f := ⟨_, rfl⟩
  rw [d]
  delta rcastRun at d
  rw [dg] at d hg
  subst d
  beta_reduce
  refine ite_runOk (ending_finOk (nil_finOk h)) ?_
  split
  · split
    · rename_i e3
      split
      · rename_i e4
        exact castInto_runOk (memOk_of_fst e4 (hg (memOk_of_fst e3 (scene_memOk h))))
      · exact trivial
    · exact trivial
  · exact nil_finOk h

theorem contRun_runOk {x} (h : c.s.memOk) : RunOk (contRun x c) := by
  unfold contRun
  refine ite_runOk (ending_finOk (nil_finOk h)) ?_
  split
  · exact castInto_runOk h
  · exact nil_finOk h

theorem execRcast_outOk {x} (h : s.memOk) : OutOk (execRcast x s) :=
  issue_outOk (castJob_jobOk (fun _ h1 => rcastRun_runOk h1)) h

theorem execCont_outOk {x} (h : s.memOk) : OutOk (execCont x s) :=
  issue_outOk (castJob_jobOk (fun _ h1 => contRun_runOk h1)) h

theorem unitScene_memOk {d root va} (h : s.memOk) : (s.unitScene d root va).1.memOk := by
  obtain ⟨g, dg⟩ : ∃ f, State.readVa = f := ⟨_, rfl⟩
  have hg := @readVa_memOk
  obtain ⟨f, d⟩ : ∃ f, State.unitScene = f := ⟨_, rfl⟩
  rw [d]
  delta State.unitScene at d
  rw [dg] at d hg
  subst d
  beta_reduce
  split
  · rename_i e1
    exact memOk_of_fst e1 (hg h)
  · rename_i e2
    have m2 := memOk_of_fst e2 (hg h)
    extract_lets
    split
    · rename_i e3
      exact memOk_of_fst e3 (hg m2)
    · rename_i e4
      exact memOk_of_fst e4 (hg m2)

theorem execRayMigration_outOk {idx die} (h : s.memOk) : OutOk (execRayMigration idx die s) := by
  unfold execRayMigration
  refine outOk_next ?_
  split
  · exact h
  · split
    · exact h
    · refine ite_memOk h ?_
      split
      · exact h
      · rename_i e6
        exact ite_memOk (memOk_congr _ (newHandle_memOk (memOk_of_fst e6 (unitScene_memOk h))) rfl rfl) h

theorem readTreelets_memOk {d root own xs} (h : s.memOk) : (s.readTreelets d root own xs).1.memOk := by
  induction xs generalizing s with
  | nil => exact h
  | cons x xs ih =>
    rw [State.readTreelets]
    split
    · rename_i e1
      exact memOk_of_fst e1 (readVa_memOk h)
    · rename_i e2
      exact ih (memOk_of_fst e2 (readVa_memOk h))

theorem execRayTraversalEnd_outOk {idx pick} (h : s.memOk) : OutOk (execRayTraversalEnd idx pick s) := by
  obtain ⟨g1, dg1⟩ : ∃ f, State.readTreelets = f := ⟨_, rfl⟩
  have hg1 := @readTreelets_memOk
  obtain ⟨g2, dg2⟩ : ∃ f, State.readVa = f := ⟨_, rfl⟩
  have hg2 := @readVa_memOk
  obtain ⟨f, d⟩ : ∃ f, execRayTraversalEnd = f := ⟨_, rfl⟩
  rw [d]
  delta execRayTraversalEnd at d
  rw [dg1] at d hg1
  rw [dg2] at d hg2
  subst d
  beta_reduce
  refine outOk_next ?_
  split
  · exact h
  · split
    · exact h
    · refine ite_memOk h ?_
      extract_lets
      split
      · rename_i e5
        exact modLaunch_memOk (memOk_congr _ (postFault_memOk (memOk_of_fst e5 (unitScene_memOk h))) rfl rfl)
      · rename_i e6
        have m6 := memOk_of_fst e6 (unitScene_memOk h)
        extract_lets
        split
        · rename_i e7
          exact modLaunch_memOk (memOk_congr _ (postFault_memOk (memOk_of_fst e7 (hg1 m6))) rfl rfl)
        · rename_i e8
          have m8 := memOk_of_fst e8 (hg1 m6)
          split
          · rename_i e9
            exact modLaunch_memOk (memOk_congr _ (postFault_memOk (memOk_of_fst e9 (hg2 m8))) rfl rfl)
          · rename_i e10
            exact relaunchFull_memOk (memOk_congr _ (newHandle_memOk (tickFree_memOk (memOk_of_fst e10 (hg2 m8)))) rfl rfl)

theorem triRec_memOk {va} (h : c.s.memOk) : (c.triRec va).1.memOk := by
  unfold Ctx.triRec
  split
  · rename_i e1
    exact memOk_of_fst e1 (genRecord_memOk h)
  · rename_i e2
    have m2 := memOk_of_fst e2 (genRecord_memOk h)
    exact fst_ite_memOk m2 (fst_ite_memOk m2 m2)

theorem rastRun_runOk {x} (h : c.s.memOk) : RunOk (rastRun x c) := by
  unfold rastRun
  extract_lets a
  have h1 : (c.triRec a).1.memOk := triRec_memOk h
  refine ite_runOk (nil_finOk h) ?_
  generalize c.triRec a = p at h1
  split
  · trivial
  · extract_lets n tri
    have h2 : tri.1.memOk := fst_ite_memOk h1 (genBytes_memOk h1)
    generalize tri = q at h2
    split
    · trivial
    · exact putRun_finOk (modUnit_memOk (modWarp_memOk (tickFree_memOk h2)))
  · exact nil_finOk h1

theorem execRast_outOk {x} (h : s.memOk) : OutOk (execRast x s) :=
  issue_outOk (jobOk_congr (jobOf x x.bytes (rastRun x)) (jobOf_jobOk (fun _ h1 => rastRun_runOk h1)) rfl) h

end Sys2Proof.Machine
end

section
/-! ## Canonical form: the functions of Sys2Proof/Machine/Field.lean -/

namespace Sys2Proof.Machine

variable {s : State} {c : Ctx}

theorem grid_memOk {x run} (h : c.s.memOk) : (c.grid x run).1.memOk := by
  obtain ⟨g, dg⟩ : ∃ f, gridBad = f := ⟨_, rfl⟩
  obtain ⟨f, d⟩ : ∃ f, Ctx.grid = f := ⟨_, rfl⟩
  rw [d]
  delta Ctx.grid at d
  rw [dg] at d
  subst d
  beta_reduce
  split
  · rename_i e1
    exact memOk_of_fst e1 (genRecord_memOk h)
  · rename_i e2
    split
    · exact memOk_of_fst e2 (genRecord_memOk h)
    · exact memOk_of_fst e2 (genRecord_memOk h)

theorem featReads_memOk {core root vas} (h : s.memOk) : (featReads core root vas s).1.memOk := by
  obtain ⟨f, e⟩ : ∃ f, samplerBytes = f := ⟨_, rfl⟩
  have read := @samplerBytes_memOk
  rw [e] at read
  have cons : ∀ va vas s, featReads core root (va :: vas) s =
      match f core root 2 va s with
      | (s, .error (c, k)) => (s, .error (c, k, va))
      | (s, .ok b) =>
        match featReads core root vas s with
        | (s, .ok vs) => (s, .ok (leNat b :: vs))
        | (s, .error e) => (s, .error e) := by
    intro va vas s
    obtain ⟨r, d⟩ : ∃ r, featReads = r := ⟨_, rfl⟩
    rw [d]
    delta featReads featReads._f at d
    rw [e] at d
    subst d
    rfl
  induction vas generalizing s with
  | nil => exact h
  | cons va vas ih =>
    rw [cons]
    split
    · rename_i e
      exact memOk_of_fst e (read h)
    · rename_i e
      split
      · rename_i e'
        exact memOk_of_fst e' (ih (memOk_of_fst e (read h)))
      · rename_i e'
        exact memOk_of_fst e' (ih (memOk_of_fst e (read h)))

theorem featLane_memOk {core root r fz cs slots} (h : s.memOk) : (featLane core root r fz cs slots s).1.memOk := by
  obtain ⟨f, e⟩ : ∃ f, featReads = f := ⟨_, rfl⟩
  have read := @featReads_memOk
  rw [e] at read
  have cons : ∀ p rest s, featLane core root r fz cs (p :: rest) s =
      match f core root ((gridCorners (gridN r p.1) (gridT r) cs).map (fun k => featAddr r p.1 k.1 p.2)) s with
      | (s, .error e) => (s, .error e)
      | (s, .ok vs) =>
        match featLane core root r fz cs rest s with
        | (s, .ok out) => (s, .ok ((sumRound 1 false .rne (((gridCorners (gridN r p.1) (gridT r) cs).zip vs).map
            (fun p => (fval (gridFmt r) fz p.2).mul (weightVal p.1.2)))).1 :: out))
        | (s, .error e) => (s, .error e) := by
    intro p rest s
    obtain ⟨r, d⟩ : ∃ r, featLane = r := ⟨_, rfl⟩
    rw [d]
    delta featLane featLane._f at d
    rw [e] at d
    subst d
    rfl
  induction slots generalizing s with
  | nil => exact h
  | cons p rest ih =>
    rw [cons]
    split
    · rename_i e
      exact memOk_of_fst e (read h)
    · rename_i e
      split
      · rename_i e'
        exact memOk_of_fst e' (ih (memOk_of_fst e (read h)))
      · rename_i e'
        exact memOk_of_fst e' (ih (memOk_of_fst e (read h)))

theorem featLanes_memOk {core root r fz cs ls} (h : s.memOk) : (featLanes core root r fz cs ls s).1.memOk := by
  obtain ⟨f, e⟩ : ∃ f, featLane = f := ⟨_, rfl⟩
  have read := @featLane_memOk
  rw [e] at read
  have cons : ∀ l ls s, featLanes core root r fz cs (l :: ls) s =
      match f core root r fz (cs l) ((List.range (gridL r)).flatMap (fun v => (List.range (gridF r)).map (fun f => (v, f)))) s with
      | (s, .error e) => let (s, vs, fs) := featLanes core root r fz cs ls s; (s, vs, (l, e) :: fs)
      | (s, .ok v) => let (s, vs, fs) := featLanes core root r fz cs ls s; (s, (l, v) :: vs, fs) := by
    intro l ls s
    obtain ⟨r, d⟩ : ∃ r, featLanes = r := ⟨_, rfl⟩
    rw [d]
    delta featLanes featLanes._f at d
    rw [e] at d
    subst d
    rfl
  induction ls generalizing s with
  | nil => exact h
  | cons l ls ih =>
    rw [cons]
    split
    · rename_i e
      exact ih (memOk_of_fst e (read h))
    · rename_i e
      exact ih (memOk_of_fst e (read h))

theorem hgfRun_runOk {x} (h : c.s.memOk) : RunOk (hgfRun x c) := by
  unfold hgfRun
  split
  · exact trivial
  · rename_i e2
    have m2 := memOk_of_fst e2 (grid_memOk h)
    exact ite_runOk (finOk_congr _ (nil_finOk m2) rfl rfl) (ite_runOk trivial (putRun_finOk (featLanes_memOk m2)))

theorem execHgf_outOk {x} (h : s.memOk) : OutOk (execHgf x s) :=
  issue_outOk (jobOk_congr (jobOf x x.bytes (hgfRun x)) (jobOf_jobOk (fun _ h1 => hgfRun_runOk h1)) rfl) h

theorem xlatFirst_memOk {core root want lane xs} (h : s.memOk) : (xlatFirst core root want lane xs s).1.memOk := by
  induction xs generalizing s with
  | nil => exact h
  | cons x xs ih =>
    rw [xlatFirst]
    split
    · rename_i e1
      exact memOk_of_fst e1 (xlatCore_memOk h)
    · rename_i e2
      have h1 := memOk_of_fst e2 (xlatCore_memOk h)
      refine fst_ite_memOk h1 ?_
      split
      · rename_i e3
        exact memOk_of_fst e3 (ih h1)
      · rename_i e4
        exact memOk_of_fst e4 (ih h1)

theorem xlatEach_memOk {core root want item xs} (h : s.memOk) : (xlatEach core root want item xs s).1.memOk := by
  induction xs generalizing s with
  | nil => exact h
  | cons x xs ih =>
    rw [xlatEach]
    split
    · rename_i e1
      exact ih (memOk_of_fst e1 (xlatFirst_memOk h))
    · rename_i e2
      exact ih (memOk_of_fst e2 (xlatFirst_memOk h))

theorem hgsRun_runOk {x} (h : c.s.memOk) : RunOk (hgsRun x c) := by
  unfold hgsRun
  split
  · exact trivial
  · rename_i e2
    extract_lets
    exact ite_runOk trivial (ite_runOk trivial (afterCow_runOk (xlatEach_memOk (memOk_of_fst e2 (grid_memOk h))) (fun _ h1 => nil_finOk
        (tickIf_memOk (foldl_memOk h1 (fun _ _ h2 => put_memOk h2))))))

theorem hgsJob_jobOk {x n}  : JobOk (hgsJob x n) :=
  jobOk_congr (jobOf x x.bytes (hgsRun x)) (jobOf_jobOk (fun _ h => hgsRun_runOk h)) rfl

theorem execHgs_outOk {x} (h : s.memOk) : OutOk (execHgs x s) :=
  issue_outOk hgsJob_jobOk h

end Sys2Proof.Machine
end

section
/-! ## Canonical form: the functions of Sys2Proof/Machine/Matrix.lean -/

namespace Sys2Proof.Machine

variable {s : State} {c : Ctx}

theorem setCell_memOk {k row col v} (h : s.memOk) : (s.setCell k row col v).memOk :=
  modCore_memOk h (fun _ h1 => h1)

theorem drainTile_memOk {g o h' i0 j0 xs} (h : s.memOk) : (drainTile g o h' i0 j0 xs s).1.memOk := by
  induction xs generalizing s with
  | nil => exact h
  | cons x xs ih =>
    rw [drainTile]
    exact ih (tilePut_memOk (stage_memOk h))

theorem drainPlace_memOk {d root o va} (h : s.memOk) : (drainPlace s d root o va).1.memOk := by
  unfold drainPlace
  extract_lets
  split
  · rename_i e1
    exact memOk_of_fst e1 (xlatDie_memOk h)
  · exact h

theorem drainMem_memOk {g d root o addr xs} (h : s.memOk) : (drainMem g d root o addr xs s).1.memOk := by
  induction xs generalizing s with
  | nil => exact h
  | cons x xs ih =>
    rw [drainMem]
    split
    · rename_i e1
      exact ih (memOk_of_fst e1 (drainPlace_memOk h))
    · rename_i e2
      have h1 := memOk_of_fst e2 (drainPlace_memOk h)
      exact fst_ite_memOk (ih h1) (ih (writeMem_memOk (homeRead_memOk (ite_memOk (touch_memOk h1) h1))))

theorem drainReady_memOk {d root o addr xs} (h : s.memOk) : (drainReady d root o addr xs s).1.memOk := by
  induction xs generalizing s with
  | nil => exact h
  | cons x xs ih =>
    rw [drainReady]
    refine ih ?_
    split
    · rename_i e1
      exact cowTouch_memOk (memOk_of_fst e1 (drainPlace_memOk h))
    · rename_i e2
      exact memOk_of_fst e2 (drainPlace_memOk h)

theorem opDone_memOk {g o own flags} (h : s.memOk) : (s.opDone g o own flags).memOk := by
  unfold State.opDone
  extract_lets _ s1 s2
  have h1 : s1.memOk := by
    dsimp only [s1]
    refine ite_memOk h ?_
    split
    · exact modTile_memOk h
    · exact h
  have h2 : s2.memOk := by
    dsimp only [s2]
    refine ite_memOk h1 ?_
    split
    · exact modTile_memOk h1
    · exact h1
  exact modWarp_memOk h2

theorem fillLook_memOk {g id vs} (h : s.memOk) : (s.fillLook g id vs).memOk :=
  modCore_memOk (modWarp_memOk h) (fun _ h1 => h1)

theorem setCells_memOk {k cs} (h : s.memOk) : (s.setCells k cs).memOk :=
  foldl_memOk h (fun _ _ h1 => setCell_memOk h1)

theorem drainFault_memOk {g addr rows} (h : s.memOk) : (s.drainFault g addr rows).memOk := by
  unfold State.drainFault
  split
  · split
    · exact h
    · exact h
    · exact takeTrap_memOk h
  · exact h

theorem performOp_memOk {s0 : State} {g k o b bs} (h1 : s.memOk) : (s0.performOp s g k o b bs).memOk := by
  unfold State.performOp
  split
  · exact opDone_memOk (setCells_memOk h1)
  · exact opDone_memOk (setCells_memOk h1)
  · exact opDone_memOk (setCells_memOk h1)
  · exact opDone_memOk (setCells_memOk h1)
  · exact opDone_memOk (setCells_memOk h1)
  · split
    · exact opDone_memOk (fillLook_memOk h1)
    · exact opDone_memOk h1
  · split
    · exact opDone_memOk (drainTile_memOk h1)
    · split
      · rename_i e12
        exact memOk_of_fst e12 (drainReady_memOk h1)
      · rename_i e13
        exact drainFault_memOk (opDone_memOk (drainMem_memOk (memOk_of_fst e13 (drainReady_memOk h1))))
    · exact opDone_memOk h1

theorem unresult_memOk {g k o rows} (h : s.memOk) : (s.unresult g k o rows).memOk := by
  unfold State.unresult
  extract_lets
  split
  · exact setCells_memOk h
  · exact setCells_memOk h
  · exact setCells_memOk h
  · exact setCells_memOk h
  · split
    · exact drainTile_memOk h
    · exact drainMem_memOk h
    · exact h
  · exact h
  · exact h

theorem settleStale_memOk (h : s.memOk) : (s.settleStale).memOk := by
  unfold State.settleStale
  extract_lets s1
  have h1 : s1.memOk := by
    dsimp only [s1]
    refine foldl_memOk h ?_
    intro _ _ h1
    split
    · exact h1
    · exact foldl_memOk h1 (fun _ _ h2 => foldl_memOk h2 (fun _ _ h3 => unresult_memOk h3))
  exact tickFree_memOk (memOk_congr _ h1 rfl rfl)

theorem performNext_memOk {g emul} (h : s.memOk) : (s.performNext g emul).memOk := by
  unfold State.performNext
  split
  · exact h
  · split
    · split
      · exact h
      · exact ite_memOk h (foldl_memOk (tickFree_memOk (foldl_memOk h (fun _ _ h1 => performOp_memOk h1))) (fun _ _ h1 => reapWarp_memOk h1))
    · exact h

theorem execMatrixOperationPerform_outOk {g} (h : s.memOk) : OutOk (execMatrixOperationPerform g s) :=
  outOk_next (performNext_memOk h)

theorem execFormatEmulationDone_outOk {g} (h : s.memOk) : OutOk (execFormatEmulationDone g s) :=
  outOk_next (performNext_memOk h)

theorem execFmtcvtEmulationResume_outOk {g sub} (h : s.memOk) : OutOk (execFmtcvtEmulationResume g sub s) := by
  unfold execFmtcvtEmulationResume
  refine outOk_next ?_
  split
  · exact ite_memOk (wake_memOk (modUnit_memOk h)) h
  · exact h

theorem enqueue_memOk {o uses} (h1 : s.memOk) : (c.enqueue s o uses).memOk :=
  modWarp_memOk h1

theorem useTile_runOk {k : State → Shape → ℕ → Run} {t u} (h : c.s.memOk) (h1 : s.memOk) (h2 : ∀ t a1 a2, t.memOk → RunOk (k t a1 a2)) :
    RunOk (c.useTile t u s k) := by
  unfold Ctx.useTile
  split
  · exact trivial
  · exact ite_runOk (h2 _ _ _ h1) (ite_runOk h (h2 _ _ _ (setTile_memOk h1)))

theorem mulRun_runOk {kind x} (h : c.s.memOk) : RunOk (mulRun kind x c) := by
  unfold mulRun
  extract_lets
  exact reading_runOk (ite_runOk trivial (ite_runOk h (ite_runOk (nil_finOk (enqueue_memOk (newHandle_memOk h))) (useTile_runOk h
      (newHandle_memOk h) (fun _ _ _ h1 => nil_finOk (enqueue_memOk h1))))))

theorem matJob_jobOk {run : Ctx → Run} {x reads} (h : ∀ d, d.s.memOk → RunOk (run d)) : JobOk (matJob x reads run) :=
  jobOk_congr (jobOf x x.bytes run) (jobOf_jobOk (fun _ h1 => h _ h1)) rfl

theorem execMma_outOk {x} (h : s.memOk) : OutOk (execMma x s) :=
  issue_outOk (jobOk_congr (matJob x [] (mulRun MKind.mma x)) (matJob_jobOk (fun _ h1 => mulRun_runOk h1)) rfl) h

theorem execMmas_outOk {x} (h : s.memOk) : OutOk (execMmas x s) :=
  issue_outOk (jobOk_congr (matJob x [] (mulRun MKind.mmas x)) (matJob_jobOk (fun _ h1 => mulRun_runOk h1)) rfl) h

theorem execMmac_outOk {x} (h : s.memOk) : OutOk (execMmac x s) :=
  issue_outOk (jobOk_congr (matJob x [] (mulRun MKind.mmac x)) (matJob_jobOk (fun _ h1 => mulRun_runOk h1)) rfl) h

theorem accldRun_runOk {x} (h : c.s.memOk) : RunOk (accldRun x c) :=
  ite_runOk h (nil_finOk (enqueue_memOk (newHandle_memOk h)))

theorem acczRun_runOk {x} (h : c.s.memOk) : RunOk (acczRun x c) :=
  ite_runOk h (nil_finOk (enqueue_memOk (newHandle_memOk h)))

theorem accstRun_runOk {x} (h : c.s.memOk) : RunOk (accstRun x c) :=
  ite_runOk (nil_finOk h) (ite_runOk h (finOk_congr _ (putRun_finOk (enqueue_memOk (newHandle_memOk h))) rfl rfl))

theorem execAccld_outOk {x} (h : s.memOk) : OutOk (execAccld x s) :=
  issue_outOk (jobOk_congr (matJob x (x.a.run (accRegs x)) (accldRun x)) (matJob_jobOk (fun _ h1 => accldRun_runOk h1)) rfl) h

theorem execAccst_outOk {x} (h : s.memOk) : OutOk (execAccst x s) :=
  issue_outOk (jobOk_congr (matJob x [] (accstRun x)) (matJob_jobOk (fun _ h1 => accstRun_runOk h1)) rfl) h

theorem execAccz_outOk {x} (h : s.memOk) : OutOk (execAccz x s) :=
  issue_outOk (jobOk_congr (matJob x [] (acczRun x)) (matJob_jobOk (fun _ h1 => acczRun_runOk h1)) rfl) h

theorem mdrainRun_runOk {x} (h : c.s.memOk) : RunOk (mdrainRun x c) := by
  unfold mdrainRun
  extract_lets
  split
  · rename_i e1
    extract_lets
    refine ite_runOk trivial ?_
    refine ite_runOk ?_ (ite_runOk h (useTile_runOk h (memOk_of_snd e1 (newHandle_memOk h)) (fun _ _ _ h1 => nil_finOk (enqueue_memOk h1))))
    split
    · exact trivial
    · rename_i e3
      split
      · exact trivial
      · exact ite_runOk h (nil_finOk (enqueue_memOk (newHandle_memOk (memOk_of_checked e3 (checkMem_checkedOk h)))))

theorem execMdrain_outOk {x} (h : s.memOk) : OutOk (execMdrain x s) :=
  issue_outOk (fun _ h1 => mdrainRun_runOk h1) h

theorem mbatchRun_runOk {x} (h : c.s.memOk) : RunOk (mbatchRun x c) :=
  ite_runOk h (finOk_of_s _ (always_finOk (modWarp_memOk h)) rfl (modWarp_memOk h))

theorem execMbatch_outOk {x} (h : s.memOk) : OutOk (execMbatch x s) :=
  issue_outOk (matJob_jobOk (fun _ h1 => mbatchRun_runOk h1)) h

theorem mwaitRun_runOk {x} (h : c.s.memOk) : RunOk (mwaitRun x c) := by
  unfold mwaitRun
  split
  · exact nil_finOk h
  · exact ite_runOk (nil_finOk (modWarp_memOk h)) (finOk_congr _ (nil_finOk (modWarp_memOk h)) rfl rfl)

theorem execMwait_outOk {x} (h : s.memOk) : OutOk (execMwait x s) :=
  issue_outOk (jobOf_jobOk (fun _ h1 => mwaitRun_runOk h1)) h

theorem ofenceRun_runOk (h : c.s.memOk) : RunOk (ofenceRun c) :=
  nil_finOk (modWarp_memOk (newHandle_memOk h))

theorem execOfence_outOk {x} (h : s.memOk) : OutOk (execOfence x s) :=
  issue_outOk (jobOf_jobOk (fun _ h1 => ofenceRun_runOk h1)) h

theorem mcfgRun_runOk {x} (h : c.s.memOk) : RunOk (mcfgRun x c) :=
  nil_finOk (modWarp_memOk h)

theorem execMcfg_outOk {x} (h : s.memOk) : OutOk (execMcfg x s) :=
  issue_outOk (jobOk_congr (jobOf x x.bytes (mcfgRun x)) (jobOf_jobOk (fun _ h1 => mcfgRun_runOk h1)) rfl) h

end Sys2Proof.Machine
end

section
/-! ## Canonical form: the functions of Sys2Proof/Machine/Sched.lean -/

namespace Sys2Proof.Machine

variable {s : State} {c : Ctx}

theorem wakeUnit_memOk {g w u} (h : s.memOk) : (s.wakeUnit g w u).memOk := by
  unfold State.wakeUnit
  split
  · split
    · exact h
    · exact wake_memOk h
    · exact acquire_memOk (wake_memOk h)
  · exact h

theorem wakeQuad_memOk {q} (h : s.memOk) : (s.wakeQuad q).memOk :=
  foldl_memOk h (fun _ _ h1 => ite_memOk h1 (foldl_memOk h1 (fun _ _ h2 => wakeUnit_memOk h2)))

theorem joinOf_memOk {g u} (h : s.memOk) : (s.joinOf g u).1.memOk := by
  unfold State.joinOf
  extract_lets
  split
  · exact h
  · split
    · rename_i e3
      exact memOk_of_fst e3 (serialRec_memOk h)
    · rename_i e4
      exact memOk_of_fst e4 (serialRec_memOk h)

theorem settleUnit_memOk {n g sub} (h : s.memOk) : (settleUnit n s g sub).memOk := by
  induction n generalizing s g sub with
  | zero => exact h
  | succ n ih =>
    rw [settleUnit]
    split
    · exact h
    · refine ite_memOk h ?_
      split
      · rename_i e
        exact memOk_of_fst e (joinOf_memOk h)
      · rename_i e
        exact ih (serialReach_memOk (memOk_of_fst e (joinOf_memOk h)))
      · rename_i e
        exact ih (arrive_memOk (memOk_of_fst e (joinOf_memOk h)))
      · rename_i e
        exact takeTrap_memOk (memOk_of_fst e (joinOf_memOk h))

theorem settleWarp_memOk {g} (h : s.memOk) : (s.settleWarp g).memOk := by
  unfold State.settleWarp
  split
  · exact ite_memOk h (foldl_memOk h (fun _ _ h1 => settleUnit_memOk h1))
  · exact h

theorem settleQuad_memOk {q} (h : s.memOk) : (s.settleQuad q).memOk :=
  foldl_memOk h (fun _ _ h1 => settleWarp_memOk h1)

theorem grant_memOk {q} (h : s.memOk) : (s.grant q).memOk := by
  unfold State.grant
  extract_lets
  split
  · exact h
  · exact beginStroke_memOk (foldl_memOk h (fun _ _ h1 => ite_memOk h1 (modUnit_memOk h1)))

theorem execStrokeBoundary_outOk {core quad} (h : s.memOk) : OutOk (execStrokeBoundary core quad s) :=
  outOk_next (ite_memOk h (grant_memOk (settleQuad_memOk (wakeQuad_memOk h))))

theorem execLongLatencyResult_outOk {g sub idx} (h : s.memOk) : OutOk (execLongLatencyResult g sub idx s) := by
  unfold execLongLatencyResult
  refine outOk_next ?_
  split
  · split
    · exact ite_memOk (writeLook_memOk h) h
    · exact h
  · exact h

theorem resumeWarp_memOk {g w} (h : s.memOk) : (s.resumeWarp g w).memOk :=
  foldl_memOk (modWarp_memOk h) (fun _ _ h1 => replayUnit_memOk h1)

theorem grantRegs_memOk {g sub} (h : s.memOk) : (s.grantRegs g sub).memOk := by
  unfold State.grantRegs
  split
  · extract_lets s1
    have h1 : s1.memOk := modWarp_memOk (reload_memOk h)
    split
    · exact ite_memOk (resumeWarp_memOk h1) h1
    · exact h1
  · split
    · split
      · exact wake_memOk (modWarp_memOk h)
      · exact h
    · exact h

theorem execAllocationGrant_outOk {core quad} (h : s.memOk) : OutOk (execAllocationGrant core quad s) := by
  unfold execAllocationGrant
  extract_lets
  refine outOk_next ?_
  split
  · exact grantRegs_memOk h
  · exact h

theorem execRegisterSpill_outOk {core quad} (h : s.memOk) : OutOk (execRegisterSpill core quad s) := by
  unfold execRegisterSpill
  extract_lets _ s1
  have h1 : s1.memOk := wakeQuad_memOk h
  refine outOk_next ?_
  refine ite_memOk ?_ h1
  split
  · exact modWarp_memOk (spillN_memOk (modWarp_memOk h1))
  · exact h1

theorem execStackLineFill_outOk {g line} (h : s.memOk) : OutOk (execStackLineFill g line s) := by
  unfold execStackLineFill
  refine outOk_next ?_
  split
  · refine ite_memOk ?_ h
    split
    · rename_i e2
      exact memOk_of_fst e2 (stackFill_memOk h)
    · exact h
  · exact h

theorem execStackLineWriteback_outOk {g line} (h : s.memOk) : OutOk (execStackLineWriteback g line s) := by
  unfold execStackLineWriteback
  refine outOk_next ?_
  split
  · refine ite_memOk h ?_
    split
    · rename_i e2
      exact memOk_of_fst e2 (stackFlush_memOk h)
    · rename_i e3
      exact memOk_of_fst e3 (stackFlush_memOk h)
    · split
      · exact takeTrap_memOk h
      · exact h
  · exact h

theorem wdogUnit_memOk {g sub} (h : s.memOk) : (s.wdogUnit g sub).memOk := by
  unfold State.wdogUnit
  extract_lets _ s1
  have h1 : s1.memOk := takeTrap_memOk h
  split
  · exact modWarp_memOk h1
  · exact h1

theorem wdog_memOk {g} (h : s.memOk) : (s.wdog g).memOk := by
  unfold State.wdog
  extract_lets s1
  have h1 : s1.memOk := settleWarp_memOk h
  split
  · exact wdogUnit_memOk h1
  · exact h1

theorem execStrokeWatchdog_outOk {g} (h : s.memOk) : OutOk (execStrokeWatchdog g s) :=
  outOk_next (ite_memOk (wdog_memOk h) h)

theorem execWatchdogGraceExpiry_outOk {g} (h : s.memOk) : OutOk (execWatchdogGraceExpiry g s) :=
  outOk_next (ite_memOk (wdog_memOk h) h)

end Sys2Proof.Machine
end

section
/-! ## Canonical form: the functions of Sys2Proof/Machine/Front.lean -/

namespace Sys2Proof.Machine

variable {s : State} {c : Ctx}

theorem modSlot_memOk {d k f} (h : s.memOk) : (s.modSlot d k f).memOk :=
  setDieReg_memOk (modDie_memOk h)

theorem readShadow_memOk {d k} (h : s.memOk) : (s.readShadow d k).memOk :=
  ite_memOk (modSlot_memOk h) (modSlot_memOk h)

theorem loadSlot_memOk {d k qid qcb} (h : s.memOk) : (s.loadSlot d k qid qcb).memOk :=
  readShadow_memOk (modSlot_memOk (setDieReg_memOk h))

theorem keepCursor_memOk {d k} (h : s.memOk) : (s.keepCursor d k).memOk := by
  unfold State.keepCursor
  split
  · exact modSlot_memOk (modLaunch_memOk h)
  · exact h

theorem haltSlot_memOk {d k} (h : s.memOk) : (s.haltSlot d k).memOk :=
  keepCursor_memOk (ite_memOk (modSlot_memOk (setDieReg_memOk h)) (setDieReg_memOk h))

theorem dropDepend_memOk {d k} (h : s.memOk) : (s.dropDepend d k).memOk :=
  memOk_congr _ h rfl rfl

theorem unloadSlot_memOk {d k} (h : s.memOk) : (s.unloadSlot d k).memOk := by
  unfold State.unloadSlot
  extract_lets _ s1 s2 s3 s4
  have h1 : s1.memOk := keepCursor_memOk h
  have h2 : s2.memOk := by
    dsimp only [s2]
    split
    · exact modLaunch_memOk (dropDepend_memOk h1)
    · exact h1
  have h3 : s3.memOk := pokeN_memOk h2
  have h4 : s4.memOk := setDieReg_memOk h3
  exact ite_memOk h (modSlot_memOk h4)

theorem execSlotqValidLoad_outOk {die slot qid qcb} (h : s.memOk) : OutOk (execSlotqValidLoad die slot qid qcb s) :=
  outOk_next (ite_memOk (loadSlot_memOk (unloadSlot_memOk h)) h)

theorem execSlotqUnload_outOk {die slot} (h : s.memOk) : OutOk (execSlotqUnload die slot s) :=
  outOk_next (ite_memOk (unloadSlot_memOk h) h)

theorem execSlotqHalt_outOk {die slot} (h : s.memOk) : OutOk (execSlotqHalt die slot s) :=
  outOk_next (ite_memOk (haltSlot_memOk h) h)

theorem execSlotqReload_outOk {die slot} (h : s.memOk) : OutOk (execSlotqReload die slot s) :=
  outOk_next (ite_memOk (readShadow_memOk h) h)

theorem execShadowRetry_outOk {die slot} (h : s.memOk) : OutOk (execShadowRetry die slot s) :=
  outOk_next (ite_memOk (readShadow_memOk h) h)

theorem execKick_outOk {vif qid} (h : s.memOk) : OutOk (execKick vif qid s) := by
  unfold execKick
  refine outOk_next ?_
  split
  · exact kickQueue_memOk h
  · exact ite_memOk (wakeDrop_memOk h) h

theorem feOpen_vaOutOk {d root va} (h : s.memOk) : VaOutOk (s.feOpen d root va).1 := by
  unfold State.feOpen
  split
  · rename_i e1
    exact memOk_of_fst e1 (xlatDie_memOk h)
  · rename_i e2
    have h1 := memOk_of_fst e2 (xlatDie_memOk h)
    split
    · rename_i e3
      exact touch_memOk (memOk_of_fst e3 (cowTouch_memOk h1))
    · rename_i e4
      exact memOk_of_fst e4 (cowTouch_memOk h1)
    · rename_i e5
      exact memOk_of_fst e5 (cowTouch_memOk h1)
    · rename_i e6
      exact memOk_of_fst e6 (cowTouch_memOk h1)

theorem readGroups_memOk {d root n xs} (h : s.memOk) : (readGroups d root n xs s).1.memOk := by
  induction n generalizing s d root xs with
  | zero => exact h
  | succ n ih =>
    rw [readGroups]
    refine fst_ite_memOk h ?_
    split
    · rename_i e1
      exact memOk_of_fst e1 (readVa_memOk h)
    · rename_i e2
      have h1 := memOk_of_fst e2 (readVa_memOk h)
      split
      · rename_i e3
        exact memOk_of_fst e3 (ih h1)
      · rename_i e4
        exact memOk_of_fst e4 (ih h1)

theorem writeDone_memOk {l} (h : s.memOk) : (s.writeDone l).1.memOk := by
  unfold State.writeDone
  refine fst_ite_memOk h ?_
  split
  · rename_i e1
    exact memOk_of_fst_vaFail e1 (feOpen_vaOutOk h)
  · rename_i e2
    exact memOk_of_fst_vaWait e2 (feOpen_vaOutOk h)
  · rename_i e3
    exact memOk_of_fst_vaNoFrame e3 (feOpen_vaOutOk h)
  · rename_i e4
    have h1 := memOk_of_fst_vaOk e4 (feOpen_vaOutOk h)
    exact fst_ite_memOk h1 (writeMem_memOk (homeRead_memOk (writeMem_memOk (writeMem_memOk (ite_memOk h1 (writeMem_memOk h1))))))

theorem rereadWr_memOk {qid} (h : s.memOk) : (s.rereadWr qid).memOk := by
  unfold State.rereadWr
  split
  · exact modSlot_memOk h
  · exact h

theorem completeLaunch_memOk {key} (h : s.memOk) : (s.completeLaunch key).memOk := by
  obtain ⟨g, dg⟩ : ∃ f, State.writeDone = f := ⟨_, rfl⟩
  have hg := @writeDone_memOk
  obtain ⟨f, d⟩ : ∃ f, State.completeLaunch = f := ⟨_, rfl⟩
  rw [d]
  delta State.completeLaunch at d
  rw [dg] at d hg
  subst d
  beta_reduce
  split
  · exact h
  · refine ite_memOk (forgetLaunch_memOk h) ?_
    extract_lets s1
    have h1 : s1.memOk := ite_memOk (covStep_memOk h) h
    split
    · exact hg h
    · rename_i e4
      have m4 := memOk_of_fst e4 (hg h1)
      exact rereadWr_memOk (forgetLaunch_memOk (ite_memOk (raiseUnless_memOk (addWord_memOk m4)) (addWord_memOk m4)))

theorem execLaunchComplete_outOk {launch} (h : s.memOk) : OutOk (execLaunchComplete launch s) := by
  unfold execLaunchComplete
  refine outOk_next ?_
  split
  · exact ite_memOk (completeLaunch_memOk h) h
  · exact h

theorem dropAway_memOk {key} (h : s.memOk) : (s.dropAway key).memOk := by
  unfold State.dropAway
  split
  · exact h
  · exact foldl_memOk (setLaunch_memOk h) (fun _ _ h1 => foldl_memOk h1 (fun _ _ h2 => postLeave_memOk h2))

theorem endLaunch_memOk {key} (h : s.memOk) : (s.endLaunch key).memOk := by
  unfold State.endLaunch
  extract_lets s1 s2 s3
  have h1 : s1.memOk := modLaunch_memOk (dropAway_memOk h)
  have h2 : s2.memOk := memOk_congr _ h1 rfl rfl
  have h3 : s3.memOk := foldl_memOk h2 (fun _ _ h3 => foldl_memOk h3 (fun _ _ h4 => ite_memOk (modSlot_memOk h4) (ite_memOk (modSlot_memOk
      (dropDepend_memOk h4)) h4)))
  exact foldl_memOk h3 (fun _ _ h4 => endGroup_memOk h4)

theorem execLaunchTimeout_outOk {launch} (h : s.memOk) : OutOk (execLaunchTimeout launch s) := by
  unfold execLaunchTimeout
  refine outOk_next ?_
  split
  · split
    · exact ite_memOk (endLaunch_memOk (modLaunch_memOk h)) h
    · exact h
  · exact h

theorem badRecord_memOk {d k key} (h : s.memOk) : (s.badRecord d k key).memOk :=
  completeLaunch_memOk (modSlot_memOk (modLaunch_memOk h))

theorem enterDispatch_memOk {d k key} (h : s.memOk) : (s.enterDispatch d k key).memOk := by
  unfold State.enterDispatch
  split
  · exact h
  · exact ite_memOk (completeLaunch_memOk (modSlot_memOk (modLaunch_memOk h))) (ite_memOk (keepCursor_memOk (modSlot_memOk (modLaunch_memOk h)))
      (modSlot_memOk (modLaunch_memOk h)))

theorem dependPassed_memOk {d k key} (h : s.memOk) : (s.dependPassed d k key).memOk :=
  enterDispatch_memOk (memOk_withCores h (coresOk_map (coresOk h) (fun _ h1 => h1)))

theorem depTest_depLookOk {d l} (h : s.memOk) : DepLookOk (s.depTest d l) := by
  obtain ⟨f, e1⟩ : ∃ f, State.xlatDie = f := ⟨_, rfl⟩
  obtain ⟨g, e2⟩ : ∃ f, State.homeRead = f := ⟨_, rfl⟩
  have xlat := @xlatDie_memOk
  have read := @homeRead_memOk
  obtain ⟨r, e3⟩ : ∃ f, State.depTest = f := ⟨_, rfl⟩
  rw [e3]
  delta State.depTest at e3
  rw [e1] at e3 xlat
  rw [e2] at e3 read
  subst e3
  beta_reduce
  extract_lets
  split
  · rename_i e
    exact memOk_of_fst e (xlat h)
  · rename_i e
    have h1 := memOk_of_fst e (xlat h)
    refine ite_depLookOk h1 ?_
    split
    rename_i e'
    have h2 := memOk_of_fst e' (read (touch_memOk h1))
    exact ite_depLookOk h2 h2

theorem armDepend_memOk {d k key l} (h : s.memOk) : (s.armDepend d k key l).memOk := by
  obtain ⟨f, e1⟩ : ∃ f, State.depTest = f := ⟨_, rfl⟩
  obtain ⟨g, e2⟩ : ∃ f, State.armWatch = f := ⟨_, rfl⟩
  have test := @depTest_depLookOk
  have arm := @armWatch_memOk
  obtain ⟨r, e3⟩ : ∃ f, State.armDepend = f := ⟨_, rfl⟩
  rw [e3]
  delta State.armDepend at e3
  rw [e1] at e3 test
  rw [e2] at e3 arm
  subst e3
  beta_reduce
  split
  · rename_i e
    exact badRecord_memOk (memOk_of_depBad e (test h))
  · rename_i e
    exact dependPassed_memOk (memOk_of_depPass e (test h))
  · rename_i e
    extract_lets _ _ _ s1
    have h1 : s1.memOk := modSlot_memOk (memOk_of_depNo e (test h))
    split
    · rename_i e'
      exact arm h1 e'
    · exact h1

theorem startRecord_memOk {d k key} (h : s.memOk) : (s.startRecord d k key).memOk := by
  unfold State.startRecord
  split
  · exact h
  · exact ite_memOk (armDepend_memOk h) (enterDispatch_memOk h)

theorem execDependenceFire_outOk {die slot} (h : s.memOk) : OutOk (execDependenceFire die slot s) := by
  unfold execDependenceFire
  refine outOk_next ?_
  split
  · exact ite_memOk (dependPassed_memOk (freeWatch_memOk h)) h
  · exact h

theorem execDependencePoll_outOk {die slot} (h : s.memOk) : OutOk (execDependencePoll die slot s) := by
  obtain ⟨g, dg⟩ : ∃ f, State.depTest = f := ⟨_, rfl⟩
  have hg := @depTest_depLookOk
  obtain ⟨f, d⟩ : ∃ f, execDependencePoll = f := ⟨_, rfl⟩
  rw [d]
  delta execDependencePoll at d
  rw [dg] at d hg
  subst d
  beta_reduce
  refine outOk_next ?_
  split
  · split
    · split
      · rename_i e4
        exact badRecord_memOk (memOk_of_depBad e4 (hg h))
      · rename_i e5
        exact dependPassed_memOk (memOk_of_depPass e5 (hg h))
      · rename_i e6
        exact memOk_of_depNo e6 (hg h)
    · exact h
  · exact h

theorem mapLevel_memOk {l lin level} (h : s.memOk) : (s.mapLevel l lin level).1.memOk := by
  unfold State.mapLevel
  refine fst_ite_memOk h ?_
  split
  · rename_i e1
    exact writeMem_memOk (memOk_of_fst_vaOk e1 (feOpen_vaOutOk h))
  · rename_i e2
    exact memOk_of_fst_vaWait e2 (feOpen_vaOutOk h)
  · rename_i e3
    exact memOk_of_fst_vaNoFrame e3 (feOpen_vaOutOk h)
  · rename_i e4
    exact memOk_of_fst_vaFail e4 (feOpen_vaOutOk h)

theorem passGroup_memOk {key lin placed} (h : s.memOk) : (s.passGroup key lin placed).memOk :=
  stepDue_memOk (modLaunch_memOk h)

theorem placeOne_optOk {key lin d q0 pick} (h : s.memOk) : OptOk (s.placeOne key lin d q0 pick) := by
  obtain ⟨g, dg⟩ : ∃ f, State.mapLevel = f := ⟨_, rfl⟩
  have hg := @mapLevel_memOk
  obtain ⟨f, d⟩ : ∃ f, State.placeOne = f := ⟨_, rfl⟩
  rw [d]
  delta State.placeOne at d
  rw [dg] at d hg
  subst d
  beta_reduce
  split
  · exact trivial
  · extract_lets
    refine ite_optOk ?_ ?_
    · split
      · rename_i e3
        exact checkGbars_memOk (passGroup_memOk (memOk_of_fst e3 (hg h)))
      · rename_i e4
        exact memOk_of_fst e4 (hg h)
    · split
      · exact trivial
      · split
        · rename_i e7
          exact passGroup_memOk (place_memOk (memOk_of_fst e7 (hg h)))
        · rename_i e8
          exact memOk_of_fst e8 (hg h)

theorem placeNb_optOk {key k d q0 pick} (h : s.memOk) : OptOk (s.placeNb key k d q0 pick) := by
  unfold State.placeNb
  split
  · exact trivial
  · extract_lets _ _ _ s1
    have h1 : s1.memOk := seqStart_memOk h
    split
    · exact trivial
    · exact foldl_memOk h1 (fun _ _ h2 => ite_memOk (checkGbars_memOk (passGroup_memOk h2)) (passGroup_memOk (place_memOk h2)))

theorem placeUnit_optOk {key lin d q0 pick} (h : s.memOk) : OptOk (s.placeUnit key lin d q0 pick) := by
  unfold State.placeUnit
  split
  · trivial
  · extract_lets on
    have h1 : ∀ d, OptOk (on d) := fun _ => ite_optOk trivial (ite_optOk (placeOne_optOk h) (placeNb_optOk h))
    exact ite_optOk (h1 d) (findSome?_optOk h1)

theorem placeGang_optOk {key loose lins q0 pick} (h : s.memOk) : OptOk (placeGang key loose lins q0 pick s) := by
  obtain ⟨f, e⟩ : ∃ f, State.placeUnit = f := ⟨_, rfl⟩
  have unit := @placeUnit_optOk
  rw [e] at unit
  obtain ⟨target, e2⟩ : ∃ f, State.targetOf = f := ⟨_, rfl⟩
  have cons : ∀ lin rest q0 pick s, placeGang key loose (lin :: rest) q0 pick s =
      match s.launch? key with
      | none => none
      | some l =>
        let (d, miss) := target s key l lin
        let s := if miss then s.modLaunch key (fun l => { l with affmiss := l.affmiss + 1 }) else s
        let n := max 1 l.nbN
        match (if loose then d :: edgeDies d else [d]).findSome? (fun d => f s key lin d q0 pick) with
        | some s => placeGang key loose rest (q0 / 4 ^ n) (pick.drop (n * l.warps)) s
        | none => none := by
    intro lin rest q0 pick s
    obtain ⟨r, d⟩ : ∃ r, placeGang = r := ⟨_, rfl⟩
    rw [d]
    delta placeGang placeGang._f at d
    rw [e, e2] at d
    subst d
    rfl
  induction lins generalizing s q0 pick with
  | nil => exact h
  | cons lin lins ih =>
    rw [cons]
    split
    · trivial
    · split
      extract_lets s1 n
      have h1 : s1.memOk := ite_memOk (modLaunch_memOk h) h
      have h2 : ∀ ds : List Nat, OptOk (ds.findSome? (fun d => f s1 key lin d q0 pick)) := fun _ => findSome?_optOk (fun _ => unit h1)
      split
      · rename_i e'
        exact ih (memOk_of_some e' (h2 _))
      · trivial

theorem openMaps_memOk {l lins} (h : s.memOk) : (openMaps l lins s).1.memOk := by
  obtain ⟨f, e⟩ : ∃ f, State.feOpen = f := ⟨_, rfl⟩
  have opened := @feOpen_vaOutOk
  rw [e] at opened
  have cons : ∀ lin rest s, openMaps l (lin :: rest) s =
      match f s l.die l.root (BitVec.ofNat 64 (l.covmap + lin)) with
      | (.wait s, _) | (.noFrame s, _) => ((openMaps l rest s).1, false)
      | (.ok s, _) | (.fail s _ _, _) => openMaps l rest s := by
    intro lin rest s
    obtain ⟨r, d⟩ : ∃ r, openMaps = r := ⟨_, rfl⟩
    rw [d]
    delta openMaps openMaps._f at d
    rw [e] at d
    subst d
    rfl
  induction lins generalizing s with
  | nil => exact h
  | cons lin lins ih =>
    rw [cons]
    have h1 : VaOutOk (f s l.die l.root (BitVec.ofNat 64 (l.covmap + lin))).1 := opened h
    generalize f s l.die l.root (BitVec.ofNat 64 (l.covmap + lin)) = p at h1
    split
    · exact ih h1
    · exact ih h1
    · exact ih h1
    · exact ih h1

theorem finishPlacing_memOk {key} (h : s.memOk) : (s.finishPlacing key).memOk := by
  unfold State.finishPlacing
  split
  · exact ite_memOk (rereadWr_memOk (ite_memOk (modSlot_memOk (setLaunch_memOk h)) (setLaunch_memOk h))) (modLaunch_memOk h)
  · exact h

theorem markRefused_memOk {key d} (h : s.memOk) : (s.markRefused key d).memOk :=
  modLaunch_memOk h

theorem noHome_memOk {key} (h : s.memOk) : (s.noHome key).memOk :=
  finishPlacing_memOk (modLaunch_memOk h)

theorem offerGang_offerOk {key d q0 pick l} (h : s.memOk) : OfferOk (s.offerGang key d q0 pick l) := by
  obtain ⟨g, dg⟩ : ∃ f, placeGang = f := ⟨_, rfl⟩
  have hg := @placeGang_optOk
  obtain ⟨f, d⟩ : ∃ f, State.offerGang = f := ⟨_, rfl⟩
  rw [d]
  delta State.offerGang at d
  rw [dg] at d hg
  subst d
  beta_reduce
  refine ite_offerOk (noHome_memOk h) ?_
  split
  · rename_i e1
    exact memOk_of_fst e1 (openMaps_memOk h)
  · rename_i e2
    have m2 := memOk_of_fst e2 (openMaps_memOk h)
    split
    · rename_i e3
      exact finishPlacing_memOk (memOk_of_some e3 (hg m2))
    · exact markRefused_memOk m2

theorem offer_offerOk {key d q0 pick} (h : s.memOk) : OfferOk (s.offer key d q0 pick) := by
  unfold State.offer
  split
  · exact h
  · refine ite_offerOk (offerGang_offerOk h) ?_
    extract_lets
    split
    · extract_lets s1
      have h1 : s1.memOk := ite_memOk (modLaunch_memOk h) h
      refine ite_offerOk (noHome_memOk h1) ?_
      refine ite_offerOk h1 ?_
      split
      · rename_i e4
        exact finishPlacing_memOk (memOk_of_some e4 (placeUnit_optOk h1))
      · exact markRefused_memOk h1

theorem checkLaunch_memOk {d l} (h : s.memOk) : (s.checkLaunch d l).1.memOk := by
  obtain ⟨f, e1⟩ : ∃ f, State.readVa = f := ⟨_, rfl⟩
  obtain ⟨g, e2⟩ : ∃ f, readGroups = f := ⟨_, rfl⟩
  have read := @readVa_memOk
  have groups := @readGroups_memOk
  obtain ⟨r, e3⟩ : ∃ f, State.checkLaunch = f := ⟨_, rfl⟩
  obtain ⟨p, e⟩ : ∃ p, s.checkLaunch d l = p := ⟨_, rfl⟩
  rw [e]
  rw [e3] at e
  delta State.checkLaunch at e3
  rw [e1] at e3 read
  rw [e2] at e3 groups
  subst e3
  beta_reduce at e
  split at e
  · subst e
    exact h
  extract_lets va rd at e
  have hrd : ∀ s on a n, s.memOk → (rd s on a n).1.memOk := by
    intro s on a n hs
    refine fst_ite_memOk ?_ hs
    split
    · rename_i e
      exact memOk_of_fst e (read hs)
    · rename_i e
      exact memOk_of_fst e (read hs)
  obtain ⟨rd', e', hrd'⟩ : ∃ r, rd = r ∧ ∀ {s on a n}, s.memOk → (r s on a n).1.memOk := ⟨rd, rfl, hrd _ _ _ _⟩
  rw [e'] at e
  split at e
  · rename_i q
    subst e
    exact memOk_of_fst q (hrd' h)
  · rename_i q
    have h1 := memOk_of_fst q (hrd' h)
    split at e
    · rename_i q
      subst e
      exact memOk_of_fst q (hrd' h1)
    · rename_i q
      have h2 := memOk_of_fst q (hrd' h1)
      split at e
      · rename_i q
        subst e
        exact memOk_of_fst q (groups h2)
      · rename_i q
        have h3 := memOk_of_fst q (groups h2)
        split at e
        · rename_i q
          subst e
          exact memOk_of_fst q (hrd' h3)
        · rename_i q
          subst e
          exact memOk_of_fst q (hrd' h3)

theorem fetchRecord_memOk {d k sh} (h : s.memOk) : (s.fetchRecord d k sh).memOk := by
  unfold State.fetchRecord
  extract_lets _ _ _ s1
  have h1 : s1.memOk := pokeN_memOk (modSlot_memOk h)
  split
  · exact modSlot_memOk h
  · extract_lets
    split
    · rename_i e3
      exact badRecord_memOk (setLaunch_memOk (memOk_of_fst e3 (readVa_memOk h1)))
    · rename_i e4
      extract_lets _ s2
      have h3 : s2.memOk := setLaunch_memOk (memOk_of_fst e4 (readVa_memOk h1))
      refine ite_memOk (badRecord_memOk h3) ?_
      refine ite_memOk (startRecord_memOk h3) ?_
      split
      · rename_i e5
        exact badRecord_memOk (memOk_of_fst e5 (checkLaunch_memOk h3))
      · rename_i e6
        exact startRecord_memOk (setLaunch_memOk (memOk_of_fst e6 (checkLaunch_memOk h3)))

theorem execRecordFetch_outOk {die slot} (h : s.memOk) : OutOk (execRecordFetch die slot s) := by
  unfold execRecordFetch
  refine outOk_next ?_
  extract_lets _ _ s1
  have h1 : s1.memOk := ite_memOk (modSlot_memOk h) h
  refine ite_memOk h ?_
  split
  · exact h
  · split
    · exact startRecord_memOk (modLaunch_memOk h)
    · exact ite_memOk h1 (fetchRecord_memOk h1)

theorem offerAll_memOk {d q0 pick xs} (h : s.memOk) : (offerAll d q0 pick xs s).memOk := by
  induction xs generalizing s with
  | nil => exact h
  | cons x xs ih =>
    rw [offerAll]
    split
    · rename_i e1
      split
      · exact modDie_memOk (memOk_of_placed e1 (offer_offerOk h))
      · exact memOk_of_placed e1 (offer_offerOk h)
    · rename_i e4
      exact ih (memOk_of_refused e4 (offer_offerOk h))

theorem execWorkgroupDispatch_outOk {die q0 pick} (h : s.memOk) : OutOk (execWorkgroupDispatch die q0 pick s) :=
  outOk_next (ite_memOk (offerAll_memOk h) h)

theorem execAffinityTimeout_outOk {launch} (h : s.memOk) : OutOk (execAffinityTimeout launch s) := by
  unfold execAffinityTimeout
  refine outOk_next ?_
  split
  · split
    · extract_lets
      refine ite_memOk h ?_
      refine ite_memOk (modLaunch_memOk h) ?_
      split
      · exact modLaunch_memOk h
      · exact h
    · exact h
  · exact h

theorem execDispatchReservation_outOk {launch} (h : s.memOk) : OutOk (execDispatchReservation launch s) := by
  unfold execDispatchReservation
  refine outOk_next ?_
  split
  · extract_lets
    split
    · refine ite_memOk h ?_
      split
      · exact modLaunch_memOk h
      · exact h
    · exact h
  · exact h

theorem execRelaunchTimeout_outOk {die launch rpc slot} (h : s.memOk) : OutOk (execRelaunchTimeout die launch rpc slot s) :=
  outOk_next (ite_memOk h (relaunch_memOk h))

end Sys2Proof.Machine
end

section
/-! ## Canonical form: the functions of Sys2Proof/Machine/Norem.lean -/

namespace Sys2Proof.Machine

variable {s : State} {c : Ctx}

theorem setPend_memOk {q pend age} (h : s.memOk) : (s.setPend q pend age).memOk :=
  pokeN_memOk h

theorem hang_memOk {d} (h : s.memOk) : (s.hang d).memOk :=
  modDie_memOk (memOk_congr _ h rfl rfl)

theorem qcbWrites_memOk {q seq change} (hc : ∀ s : State, s.memOk → (change s).memOk) :
    ∀ f ∈ qcbWrites q seq change, ∀ s : State, s.memOk → (f s).memOk := by
  intro f hf s h
  simp only [qcbWrites, List.mem_cons, List.not_mem_nil, or_false] at hf
  rcases hf with rfl | rfl | rfl | rfl | rfl | rfl
  · exact pokeN_memOk h
  · exact hc s h
  · exact pokeN_memOk h
  · exact pokeN_memOk h
  · exact poke_memOk h
  · exact pokeN_memOk h

theorem updateQcb_memOk {q change} (h : s.memOk) (hc : ∀ s : State, s.memOk → (change s).memOk) : (s.updateQcb q change).1.memOk := by
  unfold State.updateQcb
  extract_lets ws
  have hw := @qcbWrites_memOk q (s.peekN (q.qcb + qcbSEQ) 4) change hc
  split
  · exact fst_ite_memOk (hang_memOk (foldl_apply_memOk h (fun f hf => hw f (List.mem_of_mem_take hf)))) (foldl_apply_memOk h hw)
  · exact foldl_apply_memOk h hw

theorem writeMapped_memOk {q mapped d k} (h : s.memOk) : (s.writeMapped q mapped d k).memOk :=
  pokeN_memOk h

theorem mapQueue_memOk {q d k} (h : s.memOk) : (s.mapQueue q d k).memOk := by
  unfold State.mapQueue
  split
  · rename_i e1
    exact setPend_memOk (loadSlot_memOk (memOk_of_fst e1 (updateQcb_memOk h (fun _ h1 => writeMapped_memOk h1))))
  · rename_i e2
    exact memOk_of_fst e2 (updateQcb_memOk h (fun _ h1 => writeMapped_memOk h1))

theorem unmapSlot_memOk {d k} (h : s.memOk) : (s.unmapSlot d k).memOk := by
  unfold State.unmapSlot
  extract_lets s1 _ s2
  have h1 : s1.memOk := haltSlot_memOk h
  have h2 : s2.memOk := unloadSlot_memOk h1
  refine ite_memOk h1 ?_
  split
  · exact h2
  · split
    · rename_i e3
      have m3 := memOk_of_fst e3 (updateQcb_memOk h2 (fun _ h3 => writeMapped_memOk h3))
      exact ite_memOk (setPend_memOk m3) m3
    · rename_i e4
      exact memOk_of_fst e4 (updateQcb_memOk h2 (fun _ h3 => writeMapped_memOk h3))

theorem mapShare_memOk {d vif n} (h : s.memOk) : (mapShare d vif n s).memOk := by
  induction n generalizing s with
  | zero => exact h
  | succ n ih =>
    rw [mapShare]
    split
    · exact h
    · exact h
    · split
      · exact ih (mapQueue_memOk h)
      · extract_lets _ _ victim
        clear_value victim
        split
        · exact h
        · extract_lets s1
          have h1 : s1.memOk := unmapSlot_memOk h
          exact ite_memOk (ih (mapQueue_memOk h1)) h1

theorem finishUnmaps_memOk (h : s.memOk) : (s.finishUnmaps).memOk :=
  foldl_memOk h (fun _ _ h1 => foldl_memOk h1 (fun _ _ h2 => ite_memOk (unmapSlot_memOk h2) h2))

theorem mappingPass_memOk (h : s.memOk) : (s.mappingPass).memOk :=
  foldl_memOk (finishUnmaps_memOk h) (fun _ _ h1 => foldl_memOk h1 (fun _ _ h2 => mapShare_memOk h2))

theorem ageQueues_memOk (h : s.memOk) : (s.ageQueues).memOk :=
  foldl_memOk h (fun _ _ h1 => ite_memOk (setPend_memOk h1) h1)

theorem execNoremMappingPass_outOk (h : s.memOk) : OutOk (execNoremMappingPass s) := by
  unfold execNoremMappingPass
  refine outOk_next ?_
  split
  · exact ite_memOk (mappingPass_memOk (setDieReg_memOk h)) h
  · exact h

theorem claimLease_memOk {die} (h : s.memOk) : (s.claimLease die).memOk :=
  ite_memOk h (foldl_memOk (setPkgReg_memOk h) (fun _ _ h1 => ite_memOk h1 (modDie_memOk h1)))

theorem execLeaseClaim_outOk {die} (h : s.memOk) : OutOk (execLeaseClaim die s) :=
  outOk_next (ite_memOk h (claimLease_memOk h))

theorem followerTick_memOk {d} (h : s.memOk) : (s.followerTick d).memOk :=
  ite_memOk (claimLease_memOk h) h

theorem execNoremMappingTick_outOk (h : s.memOk) : OutOk (execNoremMappingTick s) := by
  unfold execNoremMappingTick
  refine outOk_next ?_
  refine ite_memOk h ?_
  extract_lets s1
  have h1 : s1.memOk := memOk_congr _ h rfl rfl
  split
  · exact ite_memOk (mappingPass_memOk (ageQueues_memOk (claimLease_memOk h1))) (claimLease_memOk h1)
  · exact tickFree_memOk (foldl_memOk h1 (fun _ _ h2 => followerTick_memOk h2))

theorem repairQcb_memOk {q} (h : s.memOk) : (s.repairQcb q).memOk := by
  unfold State.repairQcb
  extract_lets _ s1 s2 _ s3 s4
  have h1 : s1.memOk := poke_memOk h
  have h2 : s2.memOk := by
    dsimp only [s2]
    split
    · exact writeMapped_memOk h1
    · exact writeMapped_memOk h1
  have h3 : s3.memOk := poke_memOk (pokeN_memOk h2)
  have h4 : s4.memOk := ite_memOk (pokeN_memOk h3) (ite_memOk (pokeN_memOk (poke_memOk h)) h)
  exact ite_memOk (setPend_memOk h4) h4

theorem execLeaderRepair_outOk {die} (h : s.memOk) : OutOk (execLeaderRepair die s) := by
  unfold execLeaderRepair
  refine outOk_next ?_
  refine ite_memOk ?_ h
  extract_lets s1 s2
  have h1 : s1.memOk := foldl_memOk h (fun _ _ h1 => repairQcb_memOk h1)
  have h2 : s2.memOk := foldl_memOk h1 (fun _ _ h2 => ite_memOk h2 (unmapSlot_memOk h2))
  exact ite_memOk h2 (modDie_memOk h2)

theorem execControlCoreWatchdog_outOk {die} (h : s.memOk) : OutOk (execControlCoreWatchdog die s) :=
  outOk_next (ite_memOk (modDie_memOk (setDieReg_memOk h)) h)

theorem registerQueue_memOk {qid qcb} (h : s.memOk) : (s.registerQueue qid qcb).memOk :=
  ite_memOk h (memOk_congr _ h rfl rfl)

theorem execQueueRegister_outOk {qid qcb} (h : s.memOk) : OutOk (execQueueRegister qid qcb s) :=
  outOk_next (registerQueue_memOk h)

theorem execInterruptWatchArm_outOk {vif entry cmp w64 pa ref mask} (h : s.memOk) : OutOk (execInterruptWatchArm vif entry cmp w64 pa ref mask s) := by
  unfold execInterruptWatchArm
  refine outOk_next ?_
  extract_lets _ _ s1 s2
  have h1 : s1.memOk := unU_memOk h
  have h2 : s2.memOk := raise_memOk h1
  refine ite_memOk h ?_
  refine ite_memOk (memOk_congr _ h2 rfl rfl) ?_
  split
  · rename_i e1
    exact memOk_congr _ (armWatch_memOk h1 e1) rfl rfl
  · exact memOk_congr _ h1 rfl rfl

end Sys2Proof.Machine
end

section
/-! ## Canonical form: the functions of Sys2Proof/Machine/Vif.lean -/

namespace Sys2Proof.Machine

variable {s : State} {c : Ctx}

theorem clearPend_memOk {e} (h : s.memOk) : (s.clearPend e).memOk :=
  pokeN_memOk h

theorem execInterruptUnmaskDelivery_outOk {vif entry} (h : s.memOk) : OutOk (execInterruptUnmaskDelivery vif entry s) :=
  outOk_next (ite_memOk h (ite_memOk (irqDrop_memOk (clearPend_memOk h)) (sendMessage_memOk (clearPend_memOk h))))

theorem setVifState_memOk {i v} (h : s.memOk) : (s.setVifState i v).memOk :=
  setPkgReg_memOk h

theorem activate_memOk {vif} (h : s.memOk) : (s.activate vif).memOk :=
  ite_memOk (setPkgReg_memOk (setVifState_memOk h)) h

theorem execVifActivate_outOk {vif} (h : s.memOk) : OutOk (execVifActivate vif s) :=
  outOk_next (activate_memOk h)

theorem tear_memOk {vif addr} (h : s.memOk) : (s.tear vif addr).memOk :=
  ite_memOk (memOk_congr _ (foldl_memOk (setVifState_memOk h) (fun _ _ h1 => ite_memOk h1 (clearPend_memOk h1))) rfl rfl) h

theorem execVifTear_outOk {vif addr} (h : s.memOk) : OutOk (execVifTear vif addr s) :=
  outOk_next (tear_memOk h)

theorem tearSlots_memOk {vif} (h : s.memOk) : (s.tearSlots vif).memOk := by
  unfold State.tearSlots
  refine foldl_memOk h ?_
  intro _ _ h1
  split
  · exact ite_memOk h1 (unmapSlot_memOk h1)
  · exact h1

theorem tearLaunches_memOk {vif} (h : s.memOk) : (s.tearLaunches vif).memOk :=
  foldl_memOk h (fun _ _ h1 => endLaunch_memOk (modLaunch_memOk h1))

theorem loseColl_memOk {c'} (h : s.memOk) : (s.loseColl c').memOk := by
  unfold State.loseColl
  extract_lets _ _ _ _ _ s1
  have h1 : s1.memOk := ite_memOk (memOk_congr _ (memOk_congr _ h rfl rfl) rfl rfl) (memOk_congr _ h rfl rfl)
  refine ite_memOk h ?_
  split
  · exact foldl_memOk h (fun _ _ h2 => ite_memOk (memOk_congr _ (memOk_congr _ h2 rfl rfl) rfl rfl) (memOk_congr _ h2 rfl rfl))
  · exact ringLeave_memOk h1
  · exact h

theorem tearEngines_memOk {vif} (h : s.memOk) : (s.tearEngines vif).memOk :=
  foldl_memOk (memOk_congr _ h rfl rfl) (fun _ _ h1 => dropEng_memOk (loseColl_memOk h1))

theorem mergeAll_memOk {vif} (h : s.memOk) : (s.mergeAll vif).memOk :=
  foldl_memOk h (fun _ _ h1 => setDir_memOk (mergeLine_memOk h1))

theorem tearMemory_memOk {vif} (h : s.memOk) : (s.tearMemory vif).memOk :=
  foldl_memOk (mergeAll_memOk (memOk_congr _ h rfl rfl)) (fun _ _ h1 => invalidate_memOk h1)

theorem setStep_memOk {vif n} (h : s.memOk) : (s.setStep vif n).memOk :=
  memOk_congr _ h rfl rfl

theorem execTeardownProgress_outOk {vif} (h : s.memOk) : OutOk (execTeardownProgress vif s) := by
  unfold execTeardownProgress
  refine outOk_next ?_
  split
  · exact h
  · split
    · exact ite_memOk (setStep_memOk (tearSlots_memOk h)) (tearSlots_memOk h)
    · exact setStep_memOk (tearLaunches_memOk h)
    · exact ite_memOk h (foldl_memOk (setStep_memOk (tearEngines_memOk h)) (fun _ _ h1 => forgetLaunch_memOk h1))
    · exact setStep_memOk (tearMemory_memOk h)
    · extract_lets s1
      have h1 : s1.memOk := memOk_congr _ h rfl rfl
      refine setVifState_memOk ?_
      split
      · exact pokeN_memOk (unU_memOk h1)
      · exact h1

theorem execDieResetRequest_outOk {_die} (h : s.memOk) : OutOk (execDieResetRequest _die s) :=
  outOk_next (memOk_congr _ h rfl rfl)

end Sys2Proof.Machine
end

section
/-! ## Canonical form: the functions of Sys2Proof/Machine/Preempt.lean -/

namespace Sys2Proof.Machine

variable {s : State} {c : Ctx}

theorem execPreqGo_outOk {die val} (h : s.memOk) : OutOk (execPreqGo die val s) :=
  outOk_next (ite_memOk h (settlePreq_memOk (memOk_congr (s.setDieReg die DieReg.preq (setFld val 63 62 0)) (setDieReg_memOk h) rfl rfl)))

theorem execDrainOverrun_outOk {wg} (h : s.memOk) : OutOk (execDrainOverrun wg s) := by
  unfold execDrainOverrun
  refine outOk_next ?_
  split
  · split
    · exact ite_memOk (setGroup_memOk h) h
    · exact h
  · exact h

theorem freeWatches_memOk {g} (h : s.memOk) : (s.freeWatches g).memOk :=
  memOk_congr _ h rfl rfl

theorem vacate_memOk {wg k} (h : s.memOk) : (s.vacate wg k).memOk := by
  unfold State.vacate
  extract_lets _ s1 _ s2 s3 s4
  have h1 : s1.memOk := foldl_memOk h (fun _ _ h1 => freeWatches_memOk h1)
  have h2 : s2.memOk := modCore_memOk h1 (fun _ h2 => clear_wf' h2)
  have h3 : s3.memOk := memOk_congr _ h2 rfl rfl
  have h4 : s4.memOk := by
    dsimp only [s4]
    split
    · exact ite_memOk (memOk_congr _ h3 rfl rfl) h3
    · exact h3
  exact settlePreq_memOk h4

theorem execReprimeFlushDone_outOk {wg} (h : s.memOk) : OutOk (execReprimeFlushDone wg s) := by
  unfold execReprimeFlushDone
  refine outOk_next ?_
  split
  · exact ite_memOk h (postLeave_memOk (foldl_memOk (modLaunch_memOk (vacate_memOk h)) (fun _ _ h1 => postLeave_memOk h1)))
  · exact h

theorem writeParts_memOk {block ps} (h : s.memOk) : (s.writeParts block ps).memOk :=
  foldl_memOk h (fun _ _ h1 => poke_memOk h1)

theorem moveOut_memOk {src a pa n} (h : s.memOk) : (s.moveOut src a pa n).memOk :=
  ite_memOk h (memOk_withMem h (move_wf (mem_wf h)))

theorem writeImage_memOk {k} (h : s.memOk) : (s.writeImage k).memOk :=
  moveOut_memOk (writeParts_memOk (foldl_memOk h (fun _ _ h1 => poke_memOk (writeParts_memOk h1))))

theorem writeResults_memOk {g} (h : s.memOk) : (s.writeResults g).memOk :=
  modWarp_memOk (foldl_memOk h (fun _ _ h1 => writeLook_memOk h1))

theorem saveFault_memOk {g a} (h : s.memOk) : (s.saveFault g a).memOk := by
  unfold State.saveFault
  split
  · split
    · exact haltWarp_memOk (postTrap_memOk h)
    · exact h
  · exact h

theorem resumeSaved_memOk {wg k} (h : s.memOk) : (s.resumeSaved wg k).memOk :=
  setGroup_memOk (foldl_memOk h (fun _ _ h1 => modWarp_memOk (freeWatches_memOk h1)))

theorem execWorkgroupSave_outOk {wg} (h : s.memOk) : OutOk (execWorkgroupSave wg s) := by
  unfold execWorkgroupSave
  refine outOk_next ?_
  split
  · exact h
  · extract_lets _ _ s1 _ s2 _ _ s3
    have h1 : s1.memOk := foldl_memOk h (fun _ _ h1 => stackFlushAll_memOk (writeResults_memOk h1))
    have h2 : s2.memOk := writeImage_memOk h1
    have h3 : s3.memOk := modLaunch_memOk (vacate_memOk h2)
    refine ite_memOk h ?_
    refine ite_memOk (ite_memOk h (callNorem_memOk h)) ?_
    split
    · exact saveFault_memOk h1
    · exact ite_memOk h1 (ite_memOk (resumeSaved_memOk h2) (postLeave_memOk h3))

theorem writeBack_memOk {d root va bs} (h : s.memOk) : (s.writeBack d root va bs).memOk :=
  foldl_memOk h (fun _ _ h1 => writePiece_memOk h1)

theorem restoreGroup_memOk {key l x} (h : s.memOk) : (s.restoreGroup key l x).memOk := by
  unfold State.restoreGroup
  extract_lets
  split
  rename_i e
  extract_lets _ _ s1 _ _ _ _ _ s2 s3 s4 s5
  have h1 : s1.memOk := setGroup_memOk (takeStores_memOk (memOk_of_snd e (newHandle_memOk h)))
  have h2 : s2.memOk := by
    refine modCore_memOk h1 (fun y hy => ?_)
    dsimp only
    exact moveIn_wf hy
  have h3 : s3.memOk := foldl_memOk h2 (fun _ _ h => setWarp_memOk h)
  have h4 : s4.memOk := foldl_memOk h3 (fun _ _ h => writeBack_memOk h)
  have h5 : s5.memOk := modDie_memOk h4
  exact checkGroup_memOk (modLaunch_memOk h5)

theorem execCtxrestSaved_outOk {die block wglin lidx} (h : s.memOk) : OutOk (execCtxrestSaved die block wglin lidx s) := by
  unfold execCtxrestSaved
  refine outOk_next ?_
  split
  · exact h
  · exact ite_memOk (restoreGroup_memOk h) (modLaunch_memOk h)

theorem reprime_optOk {key l x} (h : s.memOk) : OptOk (s.reprime key l x) := by
  unfold State.reprime
  extract_lets
  split
  · exact map_optOk (startSeed_optOk h) (fun _ h1 => tickFree_memOk (modLaunch_memOk h1))
  · exact optOk_map (fun _ => tickFree_memOk (modLaunch_memOk (place_memOk h)))

theorem reprimeNb_optOk {key l x} (h : s.memOk) : OptOk (s.reprimeNb key l x) := by
  unfold State.reprimeNb
  extract_lets _ _ _ _ s1
  have h1 : s1.memOk := tickFree_memOk (seqStart_memOk h)
  refine ite_optOk trivial ?_
  split
  · exact trivial
  · exact modLaunch_memOk (foldl_memOk h1 (fun _ _ h2 => place_memOk h2))

theorem bringBack_memOk {key} (h : s.memOk) : (s.bringBack key).memOk := by
  unfold State.bringBack
  split
  · exact h
  · refine foldl_memOk h ?_
    intro _ _ h1
    split
    · exact h1
    · exact ite_memOk h1 (ite_memOk (ite_memOk (restoreGroup_memOk h1) h1) (getD_memOk (ite_optOk (reprime_optOk h1) (reprimeNb_optOk h1)) h1))

theorem execCtxrestReprime_outOk {die wglin lidx} (h : s.memOk) : OutOk (execCtxrestReprime die wglin lidx s) := by
  unfold execCtxrestReprime
  refine outOk_next ?_
  split
  · exact h
  · extract_lets _ s1
    have h1 : s1.memOk := modLaunch_memOk h
    split
    · exact h1
    · exact getD_memOk (ite_optOk (reprime_optOk h1) (reprimeNb_optOk h1)) h1

theorem warpctl_memOk {d lseq core slot miss} (h : s.memOk) : (s.warpctl d lseq core slot miss).memOk :=
  setDieReg_memOk h

theorem execWarpctlResume_outOk {die lseq core slot} (h : s.memOk) : OutOk (execWarpctlResume die lseq core slot s) := by
  unfold execWarpctlResume
  refine outOk_next ?_
  refine ite_memOk h ?_
  split
  · exact warpctl_memOk (ite_memOk h (resumeWarp_memOk h))
  · exact warpctl_memOk h

theorem execWarpctlAbort_outOk {die lseq core slot} (h : s.memOk) : OutOk (execWarpctlAbort die lseq core slot s) := by
  unfold execWarpctlAbort
  refine outOk_next ?_
  refine ite_memOk h ?_
  split
  · exact warpctl_memOk (haltWarp_memOk h)
  · exact warpctl_memOk h

theorem execPageWalkComplete_outOk {die root va} (h : s.memOk) : OutOk (execPageWalkComplete die root va s) :=
  outOk_next (ite_memOk (dieLeaf_memOk h) h)

theorem execTlbinvAll_outOk {die root} (h : s.memOk) : OutOk (execTlbinvAll die root s) :=
  outOk_next (ite_memOk h (invalidate_memOk (setDieReg_memOk h)))

theorem execTlbinvRange_outOk {die root} (h : s.memOk) : OutOk (execTlbinvRange die root s) :=
  outOk_next (ite_memOk h (invalidate_memOk (setDieReg_memOk h)))

theorem execTlbInvalidateComplete_outOk {die} (h : s.memOk) : OutOk (execTlbInvalidateComplete die s) :=
  outOk_next (ite_memOk h (setDieReg_memOk h))

end Sys2Proof.Machine
end

section
/-! ## Canonical form: the functions of Sys2Proof/Machine/Debug.lean -/

namespace Sys2Proof.Machine

variable {s : State} {c : Ctx}

theorem dbgEnd_memOk {d status steps} (h : s.memOk) : (s.dbgEnd d status steps).memOk :=
  modDie_memOk (setDieReg_memOk h)

theorem dbgStart_memOk {d cmd} (h : s.memOk) : (s.dbgStart d cmd).memOk :=
  setDieReg_memOk h

theorem setDbg_memOk {d r} (h : s.memOk) : (s.setDbg d r).memOk :=
  modDie_memOk h

theorem stepWake_optOk {g w u} (h : s.memOk) : OptOk (s.stepWake g w u) := by
  unfold State.stepWake
  split
  · exact ite_optOk (grantRegs_memOk h) trivial
  · split
    · exact trivial
    · exact wakeUnit_memOk h
    · exact wakeUnit_memOk h
  · exact h

theorem stepIssue_memOk {d g k r} (h : s.memOk) : (s.stepIssue d g k r).memOk :=
  ite_memOk (beginStroke_memOk (setDbg_memOk (settleUnit_memOk h))) (setDbg_memOk (settleUnit_memOk h))

theorem stepBegin_memOk {d k r} (h : s.memOk) : (s.stepBegin d k r).memOk := by
  unfold State.stepBegin
  extract_lets
  split
  · refine ite_memOk (setDbg_memOk h) ?_
    refine ite_memOk (setDbg_memOk h) ?_
    refine ite_memOk h ?_
    extract_lets
    refine ite_memOk (wdogUnit_memOk (setDbg_memOk h)) ?_
    split
    · exact setDbg_memOk h
    · rename_i e4
      exact stepIssue_memOk (memOk_of_some e4 (stepWake_optOk h))
  · exact setDbg_memOk h

theorem stepBoundary_memOk {d g k r u} (h : s.memOk) : (s.stepBoundary d g k r u).memOk := by
  unfold State.stepBoundary
  extract_lets s1 _ s2 _ _ s3
  have h1 : s1.memOk := forceLooks_memOk h
  have h2 : s2.memOk := ite_memOk (settleUnit_memOk h1) h1
  have h3 : s3.memOk := by
    dsimp only [s3]
    split
    · exact setDieReg_memOk h2
    · exact h2
  exact setDbg_memOk h3

theorem stepEnd_memOk {d k r} (h : s.memOk) : (s.stepEnd d k r).memOk := by
  unfold State.stepEnd
  extract_lets _ s1
  have h1 : s1.memOk := by
    dsimp only [s1]
    split
    · exact setDieReg_memOk h
    · exact h
  split
  · exact setDbg_memOk h
  · refine ite_memOk (setDbg_memOk h) ?_
    split
    · exact setDbg_memOk h1
    · exact ite_memOk h (stepBoundary_memOk h)

theorem dbgAdvance_memOk {d} (h : s.memOk) : (s.dbgAdvance d).memOk := by
  unfold State.dbgAdvance
  split
  · exact h
  · split
    · exact ite_memOk (stepEnd_memOk h) (stepBegin_memOk h)
    · exact setDbg_memOk h
    · exact ite_memOk h (dbgEnd_memOk h)

theorem execDebugHalt_outOk {die} (h : s.memOk) : OutOk (execDebugHalt die s) := by
  unfold execDebugHalt
  refine outOk_next ?_
  refine ite_memOk h ?_
  extract_lets s1
  have h1 : s1.memOk := dbgStart_memOk h
  split
  · exact dbgEnd_memOk h1
  · exact dbgAdvance_memOk (setDbg_memOk (modWarp_memOk h1))

theorem execDebugResume_outOk {die} (h : s.memOk) : OutOk (execDebugResume die s) := by
  unfold execDebugResume
  refine outOk_next ?_
  refine ite_memOk h ?_
  extract_lets s1
  have h1 : s1.memOk := dbgStart_memOk h
  split
  · exact dbgEnd_memOk h1
  · exact dbgEnd_memOk (modWarp_memOk h1)

theorem execDebugStep_outOk {die} (h : s.memOk) : OutOk (execDebugStep die s) := by
  unfold execDebugStep
  refine outOk_next ?_
  refine ite_memOk h ?_
  extract_lets s1
  have h1 : s1.memOk := dbgStart_memOk h
  split
  · exact dbgEnd_memOk h1
  · exact ite_memOk (dbgEnd_memOk h1) (ite_memOk (dbgEnd_memOk h1) (setDbg_memOk h1))

theorem execDebugStepAll_outOk {die} (h : s.memOk) : OutOk (execDebugStepAll die s) := by
  unfold execDebugStepAll
  refine outOk_next ?_
  refine ite_memOk h ?_
  extract_lets s1
  have h1 : s1.memOk := dbgStart_memOk h
  split
  · exact dbgEnd_memOk h1
  · exact ite_memOk (dbgEnd_memOk h1) (setDbg_memOk h1)

theorem execDebugAccessRead_outOk {die val} (h : s.memOk) : OutOk (execDebugAccessRead die val s) := by
  unfold execDebugAccessRead
  extract_lets
  refine outOk_next ?_
  refine ite_memOk h ?_
  split
  · exact setDieReg_memOk h
  · split
    · exact setDieReg_memOk (setDieReg_memOk h)
    · exact setDieReg_memOk h

theorem accVecPut_memOk {g w n lane v t} (h : s.memOk) (e : s.accVecPut g w n lane v = .ok t) : t.memOk := by
  unfold State.accVecPut at e
  split at e
  · split at e
    · cases e
      exact poke_memOk h
    · cases e
      exact setWarp_memOk h
  · split at e
    · cases e
    · split at e
      · cases e
      · cases e
        exact setWarp_memOk h

theorem accSpecialPut_memOk {g w sub r v t} (h : s.memOk) (e : s.accSpecialPut g w sub r v = .ok t) : t.memOk := by
  unfold State.accSpecialPut at e
  split at e
  · cases e
  · split at e
    · split at e
      · cases e
        exact modUnit_memOk h
      · cases e
    · split at e
      · cases e
      · cases e
        exact setWarp_memOk h
    · cases e
      exact setWarp_memOk h

theorem accWrite_memOk {g w sub file idx lane v t} (h : s.memOk) (e : s.accWrite g w sub file idx lane v = .ok t) : t.memOk := by
  unfold State.accWrite at e
  split at e
  · exact accVecPut_memOk h e
  · split at e
    · cases e
      exact setWarp_memOk h
    · cases e
  · split at e
    · cases e
      exact modGroup_memOk h
    · cases e
  · extract_lets at e
    split at e
    · cases e
      exact setWarp_memOk h
    · cases e
  · split at e
    · exact accSpecialPut_memOk h e
    · cases e
  · cases e

theorem execDebugAccessWrite_outOk {die val} (h : s.memOk) : OutOk (execDebugAccessWrite die val s) := by
  unfold execDebugAccessWrite
  extract_lets
  refine outOk_next (ite_memOk h ?_)
  split
  · exact setDieReg_memOk h
  · split
    · rename_i e
      exact setDieReg_memOk (accWrite_memOk h e)
    · exact setDieReg_memOk h

end Sys2Proof.Machine
end

section
/-! ## Canonical form: the functions of Sys2Proof/Machine/Clock.lean -/

namespace Sys2Proof.Machine

variable {s : State} {c : Ctx}

theorem execTraceEnable_outOk {core val} (h : s.memOk) : OutOk (execTraceEnable core val s) :=
  outOk_next (ite_memOk h (modCore_memOk (setCoreReg_memOk (setCoreReg_memOk h)) (fun _ h1 => h1)))

theorem execTraceDisable_outOk {core} (h : s.memOk) : OutOk (execTraceDisable core s) :=
  outOk_next (ite_memOk h (setCoreReg_memOk h))

theorem freqStep_memOk {d target} (h : s.memOk) : (s.freqStep d target).memOk :=
  ite_memOk h (ite_memOk (setDieReg_memOk h) (ite_memOk (setDieReg_memOk h) (modDie_memOk (setDieReg_memOk h))))

theorem execFrequencyStep_outOk {die target} (h : s.memOk) : OutOk (execFrequencyStep die target s) :=
  outOk_next (ite_memOk (freqStep_memOk h) h)

theorem newEpoch_memOk {d rt ck f} (h : s.memOk) : (s.newEpoch d rt ck f).memOk :=
  setDieReg_memOk (setDieReg_memOk (setDieReg_memOk (setDieReg_memOk h)))

theorem execFrequencyRestart_outOk {die} (h : s.memOk) : OutOk (execFrequencyRestart die s) := by
  unfold execFrequencyRestart
  refine outOk_next ?_
  split
  · exact ite_memOk h (setDieReg_memOk (modDie_memOk (newEpoch_memOk h)))
  · exact h

theorem execPowerLimitStep_outOk {die} (h : s.memOk) : OutOk (execPowerLimitStep die s) :=
  outOk_next (ite_memOk (freqStep_memOk h) h)

end Sys2Proof.Machine
end

section
/-! ## Canonical form: the functions of Sys2Proof/Machine/LaneOps.lean -/

namespace Sys2Proof.Machine

variable {s : State} {c : Ctx}

theorem shflJob_jobOk {x}  : JobOk (shflJob x) :=
  jobOf_jobOk (fun _ h => put_finOk h)

theorem swappJob_jobOk {x}  : JobOk (swappJob x) :=
  jobOf_jobOk (fun _ h => put_finOk h)

theorem bcastJob_jobOk {x}  : JobOk (bcastJob x) :=
  jobOf_jobOk (fun _ h => put_finOk h)

theorem voteJob_jobOk {x} : JobOk (voteJob x) := by
  unfold voteJob
  refine jobOf_jobOk (fun c h => ?_)
  dsimp only
  split
  · exact put_finOk h
  · exact pushed_finOk h
  · exact pushed_finOk h
  · exact pushed_finOk h

theorem redlJob_jobOk {x}  : JobOk (redlJob x) :=
  jobOf_jobOk (fun _ h => put_finOk h)

theorem scanlJob_jobOk {x}  : JobOk (scanlJob x) :=
  jobOf_jobOk (fun _ h => put_finOk h)

theorem execShfl_outOk {x} (h : s.memOk) : OutOk (execShfl x s) :=
  issue_outOk shflJob_jobOk h

theorem execSwapp_outOk {x} (h : s.memOk) : OutOk (execSwapp x s) :=
  issue_outOk swappJob_jobOk h

theorem execBcast_outOk {x} (h : s.memOk) : OutOk (execBcast x s) :=
  issue_outOk bcastJob_jobOk h

theorem execVote_outOk {x} (h : s.memOk) : OutOk (execVote x s) :=
  issue_outOk voteJob_jobOk h

theorem execRedl_outOk {x} (h : s.memOk) : OutOk (execRedl x s) :=
  issue_outOk redlJob_jobOk h

theorem execScanl_outOk {x} (h : s.memOk) : OutOk (execScanl x s) :=
  issue_outOk scanlJob_jobOk h

end Sys2Proof.Machine
end

section
/-! ## Canonical form: the functions of Sys2Proof/Machine/Package.lean -/

namespace Sys2Proof.Machine

variable {s : State} {c : Ctx}

theorem noremServed_memOk {d i} (h : s.memOk) : (s.noremServed d i).memOk :=
  modDie_memOk h

theorem execWhatailWrite_outOk {die val} (h : s.memOk) : OutOk (execWhatailWrite die val s) :=
  outOk_next (ite_memOk (feedCows_memOk (noremServed_memOk (noremServed_memOk (setDieReg_memOk h)))) h)

theorem execWhfheadWrite_outOk {die val} (h : s.memOk) : OutOk (execWhfheadWrite die val s) :=
  outOk_next (ite_memOk (noremServed_memOk (setDieReg_memOk h)) h)

theorem execCtxatailWrite_outOk {die val} (h : s.memOk) : OutOk (execCtxatailWrite die val s) :=
  outOk_next (ite_memOk (setDieReg_memOk h) h)

theorem execCtxsheadWrite_outOk {die val} (h : s.memOk) : OutOk (execCtxsheadWrite die val s) :=
  outOk_next (ite_memOk (foldl_memOk (modDie_memOk (noremServed_memOk (setDieReg_memOk h))) (fun _ _ h1 => postLeave_memOk h1)) h)

theorem execDirectoryRead_outOk {die addr} (h : s.memOk) : OutOk (execDirectoryRead die addr s) :=
  outOk_next (ite_memOk (dirRead_memOk h) h)

theorem execDirectoryWrite_outOk {die addr} (h : s.memOk) : OutOk (execDirectoryWrite die addr s) :=
  outOk_next (ite_memOk (dirWrite_memOk h) h)

theorem execDirectoryReduction_outOk {die addr op ty val} (h : s.memOk) : OutOk (execDirectoryReduction die addr op ty val s) :=
  outOk_next (ite_memOk (dirReduce_memOk h) h)

theorem execDirectoryEviction_outOk {die addr} (h : s.memOk) : OutOk (execDirectoryEviction die addr s) :=
  outOk_next (ite_memOk (dirEvict_memOk h) h)

theorem answer_memOk {d port r} (h : s.memOk) : (s.answer d port r).memOk :=
  memOk_congr _ h rfl rfl

theorem execUalinkRead_outOk {die port src addr len} (h : s.memOk) : OutOk (execUalinkRead die port src addr len s) := by
  unfold execUalinkRead
  refine outOk_next ?_
  refine ite_memOk h ?_
  split
  · exact answer_memOk h
  · refine ite_memOk (answer_memOk h) ?_
    split
    · rename_i e3
      exact answer_memOk (memOk_of_fst e3 (readVa_memOk h))
    · rename_i e4
      exact answer_memOk (memOk_of_fst e4 (readVa_memOk h))

theorem execUalinkWrite_outOk {die port src addr data} (h : s.memOk) : OutOk (execUalinkWrite die port src addr data s) := by
  unfold execUalinkWrite
  refine outOk_next ?_
  refine ite_memOk h ?_
  split
  · exact answer_memOk h
  · exact ite_memOk (answer_memOk h) (answerLink_memOk (foldl_memOk (newHandle_memOk h) (fun _ _ h1 => writePiece_memOk h1)))

theorem execUalinkAtomic_outOk {die port src addr op wide opnd cmp} (h : s.memOk) : OutOk (execUalinkAtomic die port src addr op wide opnd cmp s) := by
  unfold execUalinkAtomic
  extract_lets
  refine outOk_next ?_
  refine ite_memOk h ?_
  split
  · exact answer_memOk h
  · refine ite_memOk (answer_memOk h) ?_
    split
    · rename_i e3
      exact answer_memOk (memOk_of_fst e3 (xlatDie_memOk h))
    · rename_i e4
      split
      · rename_i e5
        have h2 := memOk_of_snd e5 (newHandle_memOk (memOk_of_fst e4 (xlatDie_memOk h)))
        extract_lets
        split
        · rename_i e6
          exact land_memOk (memOk_of_fst e6 (cowTouch_memOk (touch_memOk h2)))
        · rename_i e7
          exact queueLate_memOk (memOk_of_fst e7 (cowTouch_memOk (touch_memOk h2)))
        · rename_i e8
          exact queueLate_memOk (memOk_of_fst e8 (cowTouch_memOk (touch_memOk h2)))
        · rename_i e9
          exact answer_memOk (memOk_of_fst e9 (cowTouch_memOk (touch_memOk h2)))

theorem syndrome_memOk {d unit loc} (h : s.memOk) : (s.syndrome d unit loc).memOk :=
  ite_memOk h (setDieReg_memOk (setDieReg_memOk h))

theorem loseEngines_memOk {d} (h : s.memOk) : (s.loseEngines d).memOk :=
  foldl_memOk h (fun _ _ h1 => ite_memOk (dropEng_memOk (loseColl_memOk h1)) (ite_memOk (endEng_memOk (loseColl_memOk h1)) h1))

theorem loseLaunches_memOk {d} (h : s.memOk) : (s.loseLaunches d).memOk :=
  foldl_memOk (foldl_memOk h (fun _ _ h1 => endLaunch_memOk (modLaunch_memOk h1))) (fun _ _ h1 => dropUnits_memOk h1)

theorem fatalError_memOk {d unit loc} (h : s.memOk) : (s.fatalError d unit loc).memOk := by
  unfold State.fatalError
  extract_lets _ s1 s2 s3
  have h1 : s1.memOk := modDie_memOk (syndrome_memOk h)
  have h2 : s2.memOk := memOk_congr _ h1 rfl rfl
  have h3 : s3.memOk := loseLaunches_memOk (loseEngines_memOk h2)
  exact ite_memOk (foldl_memOk h3 (fun _ _ h4 => ite_memOk (raiseUnless_memOk h4) h4)) h3

theorem execEccCorrectedError_outOk {die unit} (h : s.memOk) : OutOk (execEccCorrectedError die unit s) :=
  outOk_next (ite_memOk h (setDieReg_memOk h))

theorem execEccUncorrectableError_outOk {die unit loc} (h : s.memOk) : OutOk (execEccUncorrectableError die unit loc s) :=
  outOk_next (ite_memOk h (fatalError_memOk h))

theorem execEdgeRetryExhausted_outOk {die other} (h : s.memOk) : OutOk (execEdgeRetryExhausted die other s) :=
  outOk_next (ite_memOk h (tickFree_memOk (fatalError_memOk (fatalError_memOk h))))

theorem resetPackage_memOk (h : s.memOk) : s.resetPackage.memOk := by
  unfold State.resetPackage
  extract_lets
  exact memOk_iff.2 ⟨filter_wfFrom _ _ 0 (mem_wf h), rfl⟩

theorem execPackageReset_outOk (h : s.memOk) : OutOk (execPackageReset s) :=
  outOk_next (resetPackage_memOk h)

theorem execPkgrst_outOk (h : s.memOk) : OutOk (execPkgrst s) :=
  outOk_next (resetPackage_memOk h)

theorem execPowerOn_outOk (h : s.memOk) : OutOk (execPowerOn s) :=
  outOk_next (memOk_congr _ (resetPackage_memOk h) rfl rfl)

theorem serveKicks_memOk {d} (h : s.memOk) : (s.serveKicks d).memOk :=
  ite_memOk (foldl_memOk h (fun _ _ h1 => modSlot_memOk h1)) h

theorem execFunctionReady_outOk {die bit} (h : s.memOk) : OutOk (execFunctionReady die bit s) :=
  outOk_next (ite_memOk h (serveKicks_memOk (setDieReg_memOk h)))

theorem relayed_memOk {c'} (h : s.memOk) : (s.relayed c').memOk := by
  unfold State.relayed
  split
  · exact registerQueue_memOk h
  · exact activate_memOk h
  · exact tear_memOk h
  · exact memOk_congr _ h rfl rfl
  · exact resetPackage_memOk h

theorem execUalinkVendorMessage_outOk {die port msg} (h : s.memOk) : OutOk (execUalinkVendorMessage die port msg s) := by
  unfold execUalinkVendorMessage
  refine outOk_next ?_
  refine ite_memOk h ?_
  split
  · exact ite_memOk h (memOk_congr _ h rfl rfl)
  · exact memOk_congr _ h rfl rfl
  · exact ite_memOk h (memOk_congr _ h rfl rfl)
  · exact relayed_memOk h

theorem execUalinkLinkDown_outOk {die port} (h : s.memOk) : OutOk (execUalinkLinkDown die port s) :=
  outOk_next (ite_memOk h (foldl_memOk (setDieReg_memOk h) (fun _ _ h1 => ite_memOk (endEng_memOk (loseColl_memOk h1)) h1)))

theorem writeSlotq_memOk {d n val} (h : s.memOk) : (s.writeSlotq d n val).memOk :=
  ite_memOk h (setDieReg_memOk h)

theorem writeDieReg_memOk {d r val} (h : s.memOk) : (s.writeDieReg d r val).memOk := by
  unfold State.writeDieReg
  refine ite_memOk h ?_
  refine ite_memOk (ite_memOk (dbgEnd_memOk (dbgStart_memOk h)) h) ?_
  refine ite_memOk h ?_
  split
  · exact writeSlotq_memOk h
  · exact setDieReg_memOk h

theorem writeCoreReg_memOk {c' r val} (h : s.memOk) : (s.writeCoreReg c' r val).memOk := by
  unfold State.writeCoreReg
  refine ite_memOk h ?_
  extract_lets
  split
  · exact ite_memOk (setCoreReg_memOk h) h
  · exact setCoreReg_memOk h
  · exact h
  · exact setCoreReg_memOk h

theorem writeVifcfg_memOk {i val} (h : s.memOk) : (s.writeVifcfg i val).memOk :=
  ite_memOk (activate_memOk (setPkgReg_memOk h)) (ite_memOk (tear_memOk (setPkgReg_memOk h)) (setPkgReg_memOk h))

theorem writePkgReg_memOk {r val} (h : s.memOk) : (s.writePkgReg r val).memOk := by
  unfold State.writePkgReg
  split
  · exact setPkgReg_memOk h
  · exact ite_memOk h (writeVifcfg_memOk h)
  · exact ite_memOk h (setPkgReg_memOk h)
  · exact h
  · exact h

theorem execRegisterWrite_outOk {reg val} (h : s.memOk) : OutOk (execRegisterWrite reg val s) := by
  unfold execRegisterWrite
  refine outOk_next ?_
  split
  · exact writeDieReg_memOk h
  · exact writeCoreReg_memOk h
  · exact writePkgReg_memOk h

end Sys2Proof.Machine
end

section
/-! ## Canonical form: the functions of Sys2Proof/Machine/Transc.lean -/

namespace Sys2Proof.Machine

variable {s : State} {c : Ctx}

theorem pipeJob_jobOk {code x f} : JobOk (pipeJob code x f) := by
  refine jobOk_congr (jobOf x x.bytes _) (jobOf_jobOk (fun c h => ?_)) rfl
  exact put_finOk h

theorem trigJob_jobOk {fn code turn x} : JobOk (trigJob fn code turn x) := by
  refine jobOk_congr (jobOf x x.bytes _) (jobOf_jobOk (fun c h => ?_)) rfl
  exact put_finOk h

theorem fredJob_jobOk {code x} : JobOk (fredJob code x) := by
  refine jobOk_congr (jobOf x x.bytes _) (jobOf_jobOk (fun c h => ?_)) rfl
  exact putRun_finOk h

theorem execFrcp_outOk {f x} (h : s.memOk) : OutOk (execFrcp f x s) :=
  issue_outOk pipeJob_jobOk h

theorem execFrsq_outOk {f x} (h : s.memOk) : OutOk (execFrsq f x s) :=
  issue_outOk pipeJob_jobOk h

theorem execFsqrt_outOk {f x} (h : s.memOk) : OutOk (execFsqrt f x s) :=
  issue_outOk pipeJob_jobOk h

theorem execFdivf_outOk {f x} (h : s.memOk) : OutOk (execFdivf f x s) :=
  issue_outOk pipeJob_jobOk h

theorem execFred_outOk {f x} (h : s.memOk) : OutOk (execFred f x s) :=
  issue_outOk fredJob_jobOk h

theorem execFsin_outOk {f x} (h : s.memOk) : OutOk (execFsin f x s) :=
  issue_outOk trigJob_jobOk h

theorem execFcos_outOk {f x} (h : s.memOk) : OutOk (execFcos f x s) :=
  issue_outOk trigJob_jobOk h

theorem execFexp2_outOk {f x} (h : s.memOk) : OutOk (execFexp2 f x s) :=
  issue_outOk pipeJob_jobOk h

theorem execFlog2_outOk {f x} (h : s.memOk) : OutOk (execFlog2 f x s) :=
  issue_outOk pipeJob_jobOk h

end Sys2Proof.Machine
end

section
/-! ## Canonical form: the functions of Sys2Proof/Machine/Dispatch.lean -/

namespace Sys2Proof.Machine

variable {s : State} {c : Ctx}

theorem exec_outOk {i} (h : s.memOk) : OutOk (exec i s) := by
  unfold exec
  split
  · exact execIaddV_outOk h
  · exact execIaddS_outOk h
  · exact execIadd_outOk h
  · exact execIsubV_outOk h
  · exact execIsubS_outOk h
  · exact execIsub_outOk h
  · exact execImulV_outOk h
  · exact execImulS_outOk h
  · exact execImul_outOk h
  · exact execImulhV_outOk h
  · exact execImulhS_outOk h
  · exact execImulh_outOk h
  · exact execImadV_outOk h
  · exact execImadS_outOk h
  · exact execImad_outOk h
  · exact execIminV_outOk h
  · exact execIminS_outOk h
  · exact execImin_outOk h
  · exact execImaxV_outOk h
  · exact execImaxS_outOk h
  · exact execImax_outOk h
  · exact execIabsV_outOk h
  · exact execIabsS_outOk h
  · exact execIabs_outOk h
  · exact execAndV_outOk h
  · exact execAndS_outOk h
  · exact execAnd_outOk h
  · exact execOrV_outOk h
  · exact execOrS_outOk h
  · exact execOr_outOk h
  · exact execXorV_outOk h
  · exact execXorS_outOk h
  · exact execXor_outOk h
  · exact execNotV_outOk h
  · exact execNotS_outOk h
  · exact execNot_outOk h
  · exact execShlV_outOk h
  · exact execShlS_outOk h
  · exact execShl_outOk h
  · exact execShrV_outOk h
  · exact execShrS_outOk h
  · exact execShr_outOk h
  · exact execSarV_outOk h
  · exact execSarS_outOk h
  · exact execSar_outOk h
  · exact execRotV_outOk h
  · exact execRotS_outOk h
  · exact execRot_outOk h
  · exact execPopcV_outOk h
  · exact execPopcS_outOk h
  · exact execPopc_outOk h
  · exact execClzV_outOk h
  · exact execClzS_outOk h
  · exact execClz_outOk h
  · exact execBrevV_outOk h
  · exact execBrevS_outOk h
  · exact execBrev_outOk h
  · exact execMovV_outOk h
  · exact execMovS_outOk h
  · exact execMov_outOk h
  · exact execMoviV_outOk h
  · exact execMoviS_outOk h
  · exact execMovi_outOk h
  · exact execLeaV_outOk h
  · exact execLeaS_outOk h
  · exact execLea_outOk h
  · exact execBfe_outOk h
  · exact execBfi_outOk h
  · exact execSel_outOk h
  · exact execIcmpEqV_outOk h
  · exact execIcmpNeV_outOk h
  · exact execIcmpLtV_outOk h
  · exact execIcmpLeV_outOk h
  · exact execIcmpGtV_outOk h
  · exact execIcmpGeV_outOk h
  · exact execIcmp_outOk h
  · exact execFaddF64V_outOk h
  · exact execFsubF64V_outOk h
  · exact execFmulF64V_outOk h
  · exact execFfmaF64V_outOk h
  · exact execFminF64V_outOk h
  · exact execFmaxF64V_outOk h
  · exact execFaddF32V_outOk h
  · exact execFsubF32V_outOk h
  · exact execFmulF32V_outOk h
  · exact execFfmaF32V_outOk h
  · exact execFminF32V_outOk h
  · exact execFmaxF32V_outOk h
  · exact execFaddF64S_outOk h
  · exact execFsubF64S_outOk h
  · exact execFmulF64S_outOk h
  · exact execFfmaF64S_outOk h
  · exact execFminF64S_outOk h
  · exact execFmaxF64S_outOk h
  · exact execFaddF32S_outOk h
  · exact execFsubF32S_outOk h
  · exact execFmulF32S_outOk h
  · exact execFfmaF32S_outOk h
  · exact execFminF32S_outOk h
  · exact execFmaxF32S_outOk h
  · exact execFadd_outOk h
  · exact execFsub_outOk h
  · exact execFmul_outOk h
  · exact execFfma_outOk h
  · exact execFmin_outOk h
  · exact execFmax_outOk h
  · exact execFcmpEqV_outOk h
  · exact execFcmpNeV_outOk h
  · exact execFcmpLtV_outOk h
  · exact execFcmpLeV_outOk h
  · exact execFcmpGtV_outOk h
  · exact execFcmpGeV_outOk h
  · exact execFcmp_outOk h
  · exact execFclass_outOk h
  · exact execFrnd_outOk h
  · exact execFrcp_outOk h
  · exact execFrsq_outOk h
  · exact execFsqrt_outOk h
  · exact execFdivf_outOk h
  · exact execFred_outOk h
  · exact execFsin_outOk h
  · exact execFcos_outOk h
  · exact execFexp2_outOk h
  · exact execFlog2_outOk h
  · exact execCvt_outOk h
  · exact execFmtcvt_outOk h
  · exact execPack_outOk h
  · exact execUnpack_outOk h
  · exact execShfl_outOk h
  · exact execSwapp_outOk h
  · exact execBcast_outOk h
  · exact execVote_outOk h
  · exact execRedl_outOk h
  · exact execScanl_outOk h
  · exact execBraBase_outOk h
  · exact execBra_outOk h
  · exact execBraPkBase_outOk h
  · exact execBraPk_outOk h
  · exact execBrx_outOk h
  · exact execCallBase_outOk h
  · exact execCall_outOk h
  · exact execCallx_outOk h
  · exact execRet_outOk h
  · exact execExit_outOk h
  · exact execNopBase_outOk h
  · exact execNop_outOk h
  · exact execYield_outOk h
  · exact execRgn_outOk h
  · exact execFuse_outOk h
  · exact execPpopBase_outOk h
  · exact execPpop_outOk h
  · exact execProt_outOk h
  · exact execPlog_outOk h
  · exact execPtox_outOk h
  · exact execXtop_outOk h
  · exact execXrdBase_outOk h
  · exact execXrd_outOk h
  · exact execXwrBase_outOk h
  · exact execXwr_outOk h
  · exact execBar_outOk h
  · exact execBara_outOk h
  · exact execBarw_outOk h
  · exact execGbar_outOk h
  · exact execWatch_outOk h
  · exact execWaitw_outOk h
  · exact execSleep_outOk h
  · exact execSwi_outOk h
  · exact execTrap_outOk h
  · exact execTret_outOk h
  · exact execBrk_outOk h
  · exact execSrd_outOk h
  · exact execSwr_outOk h
  · exact execGetwork_outOk h
  · exact execLd_outOk h
  · exact execSt_outOk h
  · exact execLdv_outOk h
  · exact execPref_outOk h
  · exact execLdc_outOk h
  · exact execLds_outOk h
  · exact execSts_outOk h
  · exact execLdt_outOk h
  · exact execStt_outOk h
  · exact execSamp_outOk h
  · exact execAtom_outOk h
  · exact execRed_outOk h
  · exact execFence_outOk h
  · exact execPfence_outOk h
  · exact execTcfg_outOk h
  · exact execTacq_outOk h
  · exact execTrel_outOk h
  · exact execTstat_outOk h
  · exact execSend_outOk h
  · exact execPushf_outOk h
  · exact execPopf_outOk h
  · exact execEngcmdCopyin_outOk h
  · exact execEngcmdCopyout_outOk h
  · exact execEngcmdPublish_outOk h
  · exact execEngcmdRetire_outOk h
  · exact execEngcmdAsbuild_outOk h
  · exact execEngcmdHalo_outOk h
  · exact execEngcmdAllred_outOk h
  · exact execEngcmdRecon_outOk h
  · exact execMma_outOk h
  · exact execMmas_outOk h
  · exact execMmac_outOk h
  · exact execAccld_outOk h
  · exact execAccst_outOk h
  · exact execAccz_outOk h
  · exact execMdrain_outOk h
  · exact execMbatch_outOk h
  · exact execMwait_outOk h
  · exact execOfence_outOk h
  · exact execMcfg_outOk h
  · exact execRq_outOk h
  · exact execRcast_outOk h
  · exact execCont_outOk h
  · exact execRast_outOk h
  · exact execHgf_outOk h
  · exact execHgs_outOk h
  · exact execCovq_outOk h
  · exact execCovp_outOk h
  · exact execStrokeBoundary_outOk h
  · exact execLongLatencyResult_outOk h
  · exact execAllocationGrant_outOk h
  · exact execRegisterSpill_outOk h
  · exact execStackLineFill_outOk h
  · exact execStackLineWriteback_outOk h
  · exact execWorkgroupDispatch_outOk h
  · exact execAffinityTimeout_outOk h
  · exact execDispatchReservation_outOk h
  · exact execStrokeWatchdog_outOk h
  · exact execWatchdogGraceExpiry_outOk h
  · exact execWatchFire_outOk h
  · exact execSleepExpiry_outOk h
  · exact execMatrixOperationPerform_outOk h
  · exact execFormatEmulationDone_outOk h
  · exact execFmtcvtEmulationResume_outOk h
  · exact execEngineCommandComplete_outOk h
  · exact execCopyoutReadsEnd_outOk h
  · exact execPublishPoint_outOk h
  · exact execRetirePage_outOk h
  · exact execFrameReturn_outOk h
  · exact execCopyOnWriteEnd_outOk h
  · exact execAllocationRingTimeout_outOk h
  · exact execSendDelivery_outOk h
  · exact execDirectoryRead_outOk h
  · exact execDirectoryWrite_outOk h
  · exact execDirectoryReduction_outOk h
  · exact execDirectoryEviction_outOk h
  · exact execRayMigration_outOk h
  · exact execRayTraversalEnd_outOk h
  · exact execRelaunchTimeout_outOk h
  · exact execCoverageUpdate4k_outOk h
  · exact execKick_outOk h
  · exact execQueueRegister_outOk h
  · exact execRecordFetch_outOk h
  · exact execDependenceFire_outOk h
  · exact execDependencePoll_outOk h
  · exact execLaunchComplete_outOk h
  · exact execLaunchTimeout_outOk h
  · exact execShadowRetry_outOk h
  · exact execSlotqValidLoad_outOk h
  · exact execSlotqUnload_outOk h
  · exact execSlotqHalt_outOk h
  · exact execSlotqReload_outOk h
  · exact execNoremMappingTick_outOk h
  · exact execNoremMappingPass_outOk h
  · exact execLeaseClaim_outOk h
  · exact execLeaderRepair_outOk h
  · exact execControlCoreWatchdog_outOk h
  · exact execInterruptWatchArm_outOk h
  · exact execInterruptUnmaskDelivery_outOk h
  · exact execVifActivate_outOk h
  · exact execVifTear_outOk h
  · exact execTeardownProgress_outOk h
  · exact execDieResetRequest_outOk h
  · exact execEccCorrectedError_outOk h
  · exact execEccUncorrectableError_outOk h
  · exact execEdgeRetryExhausted_outOk h
  · exact execPackageReset_outOk h
  · exact execPkgrst_outOk h
  · exact execFunctionReady_outOk h
  · exact execPreqGo_outOk h
  · exact execDrainOverrun_outOk h
  · exact execWorkgroupSave_outOk h
  · exact execReprimeFlushDone_outOk h
  · exact execCtxrestSaved_outOk h
  · exact execCtxrestReprime_outOk h
  · exact execWarpctlResume_outOk h
  · exact execWarpctlAbort_outOk h
  · exact execPageWalkComplete_outOk h
  · exact execTlbinvAll_outOk h
  · exact execTlbinvRange_outOk h
  · exact execTlbInvalidateComplete_outOk h
  · exact execDebugHalt_outOk h
  · exact execDebugStep_outOk h
  · exact execDebugStepAll_outOk h
  · exact execDebugResume_outOk h
  · exact execDebugAccessRead_outOk h
  · exact execDebugAccessWrite_outOk h
  · exact execTraceEnable_outOk h
  · exact execFrequencyStep_outOk h
  · exact execFrequencyRestart_outOk h
  · exact execPowerLimitStep_outOk h
  · exact execUalinkRead_outOk h
  · exact execUalinkWrite_outOk h
  · exact execUalinkAtomic_outOk h
  · exact execUalinkVendorMessage_outOk h
  · exact execUalinkLinkDown_outOk h
  · exact execRegisterWrite_outOk h
  · exact execWhatailWrite_outOk h
  · exact execWhfheadWrite_outOk h
  · exact execCtxatailWrite_outOk h
  · exact execCtxsheadWrite_outOk h
  · exact execTraceDisable_outOk h
  · exact execPowerOn_outOk h
  · exact execUnassignedOpcode_outOk h
  · exact execInstructionFetchFault_outOk h

end Sys2Proof.Machine
end

section
/-! ## Canonical form: the functions of Sys2Proof/Machine/Next.lean -/

namespace Sys2Proof.Machine

variable {s : State} {c : Ctx}

theorem evictLine_memOk {core line} (h : s.memOk) : (s.evictLine core line).memOk :=
  ite_memOk h (modCore_memOk h (fun _ h1 => h1))

theorem evictPage_memOk {die page} (h : s.memOk) : (s.evictPage die page).memOk := by
  unfold State.evictPage
  extract_lets _ s1 clean
  have h1 : s1.memOk := modDie_memOk h
  refine ite_memOk h (memOk_withCores h1 (coresOk_map (coresOk h1) (fun p hp => ?_)))
  dsimp only [clean]
  split
  · exact hp
  · exact hp

theorem advance_memOk {ns} (h : s.memOk) : (s.advance ns).memOk :=
  ite_memOk (memOk_congr _ h rfl rfl) (memOk_congr _ h rfl rfl)

theorem takeTurn_actOk {t} (h : s.memOk) : ActOk (s.takeTurn t) := by
  unfold State.takeTurn
  split
  · exact ite_actOk h (outOk_next h)
  · exact outOk_next (ite_memOk (memOk_congr s h rfl rfl) h)
  · exact outOk_next (engUnit_memOk h)
  · exact outOk_next (advance_memOk h)
  · exact outOk_next (memOk_congr s h rfl rfl)
  · exact outOk_next (evictLine_memOk h)
  · exact outOk_next (evictPage_memOk h)

theorem issueNext_actOk {g sub u} (h : s.memOk) : ActOk (s.issueNext g sub u) := by
  unfold State.issueNext
  refine ite_actOk (outOk_next (afterStroke_memOk (endStroke_memOk h))) ?_
  split
  · exact execInstructionFetchFault_outOk h
  · rename_i e
    have hf := memOk_of_fst e (fetch_memOk h)
    split
    · exact hf
    · exact execUnassignedOpcode_outOk h
    · exact outOk_next (illegal_memOk hf)
    · exact outOk_next hf

/-- Steps that keep the canonical form, each. -/
def StepsOk (fs : List (State → Out)) : Prop := ∀ f ∈ fs, ∀ s, s.memOk → OutOk (f s)

theorem stepsOk_nil : StepsOk [] := fun _ hf => absurd hf List.not_mem_nil

theorem stepsOk_cons {f fs} (hf : ∀ s, s.memOk → OutOk (f s)) (h : StepsOk fs) : StepsOk (f :: fs) :=
  List.forall_mem_cons.2 ⟨hf, h⟩

theorem stepsOk_append {fs gs} (hf : StepsOk fs) (hg : StepsOk gs) : StepsOk (fs ++ gs) := List.forall_mem_append.2 ⟨hf, hg⟩

theorem stepsOk_map {α : Type} {xs : List α} {f : α → State → Out} (h : ∀ x s, s.memOk → OutOk (f x s)) : StepsOk (xs.map f) :=
  List.forall_mem_map.2 (fun x _ => h x)

theorem stepsOk_flatMap {α : Type} {xs : List α} {f : α → List (State → Out)} (h : ∀ x, StepsOk (f x)) : StepsOk (xs.flatMap f) := by
  intro g hg
  obtain ⟨x, -, hx⟩ := List.mem_flatMap.1 hg
  exact h x g hx

theorem stepsOk_ite {p : Prop} [Decidable p] {fs gs} (hf : StepsOk fs) (hg : StepsOk gs) : StepsOk (if p then fs else gs) := by
  split
  · exact hf
  · exact hg

theorem firstChange_optOk {fs} (hf : StepsOk fs) (h : s.memOk) : OptOk (firstChange fs s) := by
  induction fs with
  | nil => trivial
  | cons f fs ih =>
    obtain ⟨first, rest⟩ := List.forall_mem_cons.1 hf
    have hrest := ih rest
    rw [firstChange]
    split
    · rename_i e
      exact ite_optOk hrest (first s h _ e)
    · exact hrest
    · exact hrest

theorem dieSteps_stepsOk : StepsOk s.dieSteps := by
  refine stepsOk_flatMap (fun p => stepsOk_append ?_ (stepsOk_map (fun e _ h => execWatchFire_outOk h)))
  refine stepsOk_cons (fun _ h => outOk_next (dbgAdvance_memOk h)) ?_
  refine stepsOk_cons (fun _ h => execFrequencyRestart_outOk h) ?_
  refine stepsOk_cons (fun _ h => execFrameReturn_outOk h) ?_
  refine stepsOk_cons (fun _ h => execTlbInvalidateComplete_outOk h) ?_
  refine stepsOk_cons (fun _ h => execLeaderRepair_outOk h) ?_
  exact stepsOk_cons (fun _ h => ite_outOk (execControlCoreWatchdog_outOk h) (outOk_next h)) stepsOk_nil

theorem workSteps_stepsOk : StepsOk s.workSteps := by
  refine stepsOk_append (stepsOk_append (stepsOk_append ?_ ?_) ?_) ?_
  · refine stepsOk_flatMap (fun p => ?_)
    refine stepsOk_cons (fun _ h => execCopyOnWriteEnd_outOk h) ?_
    exact stepsOk_cons (fun _ h => execAllocationRingTimeout_outOk h) stepsOk_nil
  · refine stepsOk_flatMap (fun p => ?_)
    refine stepsOk_cons (fun _ h => execPublishPoint_outOk h) ?_
    refine stepsOk_cons (fun _ h => execRetirePage_outOk h) ?_
    refine stepsOk_cons (fun _ h => execCopyoutReadsEnd_outOk h) ?_
    exact stepsOk_cons (fun _ h => execEngineCommandComplete_outOk h) stepsOk_nil
  · exact stepsOk_map (fun _ _ h => execSendDelivery_outOk h)
  · refine stepsOk_flatMap (fun p => ?_)
    refine stepsOk_cons (fun _ h => execRayTraversalEnd_outOk h) ?_
    exact stepsOk_cons (fun _ h => execRelaunchTimeout_outOk h) stepsOk_nil

theorem unmaskSteps_stepsOk : StepsOk s.unmaskSteps :=
  stepsOk_flatMap (fun _ => stepsOk_ite stepsOk_nil (stepsOk_map (fun _ _ h => execInterruptUnmaskDelivery_outOk h)))

theorem queueSteps_stepsOk : StepsOk s.queueSteps := by
  refine stepsOk_append (stepsOk_append (stepsOk_append (stepsOk_append (stepsOk_append (stepsOk_append ?_ ?_) ?_) ?_) ?_) unmaskSteps_stepsOk) ?_
  · refine stepsOk_flatMap (fun p => ?_)
    refine stepsOk_cons (fun _ h => execShadowRetry_outOk h) ?_
    refine stepsOk_cons (fun _ h => execDependenceFire_outOk h) ?_
    refine stepsOk_cons (fun _ h => execDependencePoll_outOk h) ?_
    exact stepsOk_cons (fun _ h => execRecordFetch_outOk h) stepsOk_nil
  · refine stepsOk_flatMap (fun p => ?_)
    refine stepsOk_cons (fun _ h => execCoverageUpdate4k_outOk h) ?_
    refine stepsOk_cons (fun _ h => execLaunchTimeout_outOk h) ?_
    refine stepsOk_cons (fun _ h => execAffinityTimeout_outOk h) ?_
    refine stepsOk_cons (fun _ h => execDispatchReservation_outOk h) ?_
    refine stepsOk_cons (fun _ h => execLaunchComplete_outOk h) ?_
    exact stepsOk_cons (fun _ h => outOk_next (bringBack_memOk h)) stepsOk_nil
  · exact stepsOk_ite stepsOk_nil (stepsOk_map (fun _ _ h => execWorkgroupDispatch_outOk h))
  · refine stepsOk_flatMap (fun p => ?_)
    refine stepsOk_cons (fun _ h => execDrainOverrun_outOk h) ?_
    refine stepsOk_cons (fun _ h => execReprimeFlushDone_outOk h) ?_
    exact stepsOk_cons (fun _ h => execWorkgroupSave_outOk h) stepsOk_nil
  · exact stepsOk_map (fun _ _ h => execTeardownProgress_outOk h)
  · exact stepsOk_cons (fun _ h => execNoremMappingPass_outOk h) stepsOk_nil

theorem warpSteps_stepsOk : StepsOk s.warpSteps := by
  refine stepsOk_append (stepsOk_flatMap (fun p => stepsOk_append ?_ ?_)) ?_
  · refine stepsOk_cons (fun _ h => execStrokeWatchdog_outOk h) ?_
    exact stepsOk_cons (fun _ h => execWatchdogGraceExpiry_outOk h) stepsOk_nil
  · exact stepsOk_map (fun _ _ h => execFmtcvtEmulationResume_outOk h)
  · exact stepsOk_map (fun _ _ h => execAllocationGrant_outOk h)

theorem matrixSteps_stepsOk {waiting} : StepsOk (s.matrixSteps waiting) := by
  refine stepsOk_flatMap (fun p => ?_)
  refine stepsOk_cons (fun _ h => execMatrixOperationPerform_outOk h) ?_
  exact stepsOk_cons (fun _ h => execFormatEmulationDone_outOk h) stepsOk_nil

theorem betweenStrokes_memOk {core} (h : s.memOk) : (s.betweenStrokes core).memOk := by
  have h1 : ({ s with rtime := s.rtime + 1 } : State).memOk := memOk_congr s h rfl rfl
  exact modCore_memOk h1 (fun _ hc => hc)

theorem strokeSteps_stepsOk : StepsOk s.strokeSteps := by
  refine stepsOk_map (fun q s h => ?_)
  have hb : OutOk (execStrokeBoundary (q / 4) (q % 4) s) := execStrokeBoundary_outOk h
  split
  · rename_i e
    exact outOk_next (ite_memOk h (betweenStrokes_memOk (hb _ e)))
  · exact hb

theorem spillSteps_stepsOk : StepsOk s.spillSteps := stepsOk_map (fun _ _ h => execRegisterSpill_outOk h)

theorem idle_outOk (h : s.memOk) : OutOk s.idle := outOk_next (memOk_congr s h rfl rfl)

theorem background_outOk (h : s.memOk) : OutOk s.background := by
  unfold State.background
  split
  · rename_i e
    refine outOk_next (memOk_of_some e (firstChange_optOk ?_ h))
    exact stepsOk_append (stepsOk_append (stepsOk_append
        (stepsOk_append dieSteps_stepsOk workSteps_stepsOk) queueSteps_stepsOk) warpSteps_stepsOk) matrixSteps_stepsOk
  · split
    · rename_i e
      refine outOk_next (memOk_of_some e (firstChange_optOk ?_ h))
      exact stepsOk_append (stepsOk_append strokeSteps_stepsOk spillSteps_stepsOk) matrixSteps_stepsOk
    · exact idle_outOk h

theorem nextStep_actOk (h : s.memOk) : ActOk s.nextStep := by
  unfold State.nextStep
  refine ite_actOk (idle_outOk h) ?_
  split
  · exact issueNext_actOk h
  · split
    · exact outOk_next (memOk_congr s h rfl rfl)
    · exact background_outOk h

theorem nextAct_actOk (h : s.memOk) : ActOk s.nextAct := by
  unfold State.nextAct
  refine ite_actOk h (ite_actOk (outOk_next (settleStale_memOk h)) ?_)
  split
  · exact takeTurn_actOk (memOk_congr s h rfl rfl)
  · exact nextStep_actOk h

end Sys2Proof.Machine
end

section
/-! ## Canonical form: the functions of Sys2Proof/Machine/Step.lean -/

namespace Sys2Proof.Machine

variable {s : State} {c : Ctx}

theorem step_outOk (h : s.memOk) : OutOk (step s) := by
  have ha := nextAct_actOk h
  unfold step
  split
  · rename_i e
    rw [e] at ha
    exact exec_outOk ha
  · rename_i e
    rw [e] at ha
    exact ha

/-- Settles O25: what is done next keeps the canonical form (`nextAct_actOk`), and so does every instruction and event (`exec_outOk`). -/
theorem memoryStaysCanonical : Obligations.MemoryStaysCanonical := by
  unfold Obligations.MemoryStaysCanonical
  intro s t h e
  exact step_outOk h t e

end Sys2Proof.Machine
end

section
/-! SUPPORT. The grant of a quadrant whose warp lists one SUBID twice: its waiting unit gains two strokes at one boundary. -/

namespace Sys2Proof.Machine

open Sys2Proof.Claims

/-- The ready units of R23 are the candidates the grant chooses from. -/
theorem isCand_iff_mem_cands {s : State} {q : Nat} {c : Cand} : IsCand s q c ↔ c ∈ s.cands q := by
  simp only [IsCand, State.cands, State.quadWarps, List.mem_flatMap, List.mem_filter, decide_eq_true_eq]
  constructor
  · rintro ⟨w, u, hw, hq, hi, hu, hst, hstop, hlook, h1, h2, h3, h4, h5⟩
    refine ⟨(c.g, w), ⟨hw, hq⟩, ?_⟩
    rw [if_pos hi, List.mem_map]
    refine ⟨u, List.mem_filter.mpr ⟨hu, by simp [hst, hstop, hlook]⟩, ?_⟩
    obtain ⟨g, sub, id, wait, prio, yld⟩ := c
    simp only at h1 h2 h3 h4 h5
    subst h1 h2 h3 h4 h5
    rfl
  · rintro ⟨⟨g, w⟩, ⟨hw, hq⟩, h⟩
    by_cases hi : s.mayIssue w = true
    · rw [if_pos hi, List.mem_map] at h
      obtain ⟨u, hu, rfl⟩ := h
      simp only [List.mem_filter, Bool.and_eq_true, decide_eq_true_eq, Bool.not_eq_true'] at hu
      obtain ⟨hu, ⟨hst, hstop⟩, hlook⟩ := hu
      exact ⟨w, u, hw, hq, hi, hu, hst, hstop, hlook, rfl, rfl, rfl, rfl, rfl⟩
    · rw [if_neg hi] at h
      cases h

/-- A ready unit of the probe's warp. -/
def readyUnit (sub wait : Nat) : WUnit := { probeUnit with sub := sub, st := .ready, wait := wait }

/-- A warp that lists the unit of SUBID 1 twice, beside one that has waited longer. -/
def twiceListed : State :=
  { State.reset with
    warps := [(0, { probeWarp with units := [readyUnit 0 5, readyUnit 1 0, readyUnit 1 0] })],
    groups := [(0, probeGroup)], launches := [(0, probeLaunch)] }

/-- The candidate of `twiceListed` with a SUBID and a wait. -/
def twiceCand (sub wait : Nat) : Cand := { g := 0, sub := sub, id := 0, wait := wait, prio := 0, yielded := false }

theorem twiceListed_settled : (twiceListed.wakeQuad 0).settleQuad 0 = twiceListed := by decide +kernel

theorem twiceListed_cands : twiceListed.cands 0 = [twiceCand 0 5, twiceCand 1 0, twiceCand 1 0] := by decide +kernel

theorem twiceListed_named : Named twiceListed := by
  have h : ∀ p ∈ twiceListed.warps, twiceListed.warp? p.1 = some p.2 ∧ ∀ u ∈ p.2.units, unitOf p.2.units u.sub = some u := by decide +kernel
  exact ⟨fun g w hw => (h (g, w) hw).1, fun g w u hw hu => (h (g, w) hw).2 u hu⟩

/-- The unit listed twice is counted twice at the boundary. -/
theorem twiceListed_grant : exec (.strokeBoundary 0 0) twiceListed = .next (twiceListed.grant 0)
    ∧ (twiceListed.grant 0).unit? 0 1 = some (readyUnit 1 2) := by
  refine ⟨?_, by decide +kernel⟩
  have hf : (twiceListed.slotHeld 0 || (twiceListed.die (dieOfCore 0)).stall.isSome) = false := by decide +kernel
  have h : exec (.strokeBoundary 0 0) twiceListed = .next (if (twiceListed.slotHeld 0 || (twiceListed.die (dieOfCore 0)).stall.isSome) = true
      then twiceListed else ((twiceListed.wakeQuad 0).settleQuad 0).grant 0) := rfl
  rw [h, hf, twiceListed_settled]
  rfl

/-- The statement asks only that listed units are the ones found, so a unit may be listed twice; at a boundary it then waits two strokes more, and not one. -/
theorem not_strokeGrant : ¬ strokeGrant := by
  intro h
  have hb := (h twiceListed 0 0 (by decide) (by decide +kernel) (by decide +kernel)).2 (twiceCand 0 5)
  simp only [Nat.zero_mul, Nat.zero_add, twiceListed_settled, isCand_iff_mem_cands, twiceListed_cands] at hb
  obtain ⟨t, u, w, w', ht, -, -, -, -, -, -, -, -, hwait⟩ := hb (by simp) (by
    intro d hd hne
    simp only [List.mem_cons, List.not_mem_nil, or_false] at hd
    obtain rfl | rfl | rfl := hd
    · exact absurd rfl hne
    · simp [outranks, twiceCand]
    · simp [outranks, twiceCand]) twiceListed_named
  obtain ⟨hg, hu⟩ := twiceListed_grant
  obtain rfl : twiceListed.grant 0 = t := by simpa [hg] using ht
  have h1 := hwait (twiceCand 1 0) (by simp) (by decide)
  have h0 : twiceListed.unit? 0 1 = some (readyUnit 1 0) := by decide +kernel
  simp only [twiceCand, hu, h0, Option.map_some, Option.some.injEq] at h1
  exact absurd h1 (by decide +kernel)

/-- Refutes O51: where a warp lists a ready unit twice, which `Named` allows, the grant adds two strokes to its wait, and not one. -/
theorem not_warpEvents : ¬ Obligations.WarpEvents := by
  unfold Obligations.WarpEvents
  rintro ⟨h, -⟩
  exact not_strokeGrant h

end Sys2Proof.Machine
end

section
/-! SUPPORT. A spill that frees more than it should: a register the matrix engine holds counts as held although it stands in a spill slot. -/

namespace Sys2Proof.Machine

open Sys2Proof.Claims

/-- A matrix operation that has not been performed, and holds a register that is in a slot and one that is not. -/
def slotHolder : MOp :=
  { id := 0, kind := .mma, fmt := 0, cont := 0, rows := 0, row0 := 0, col0 := 0, sel := 0, fpcr := 0, joint := 1, jseq := 0,
    aRegs := [], aSrc := .regs, bRegs := [], bSrc := .regs, aNames := [], bNames := [], aw := zeroLanes, bw := 0, drain := .none,
    add := false, atype := 0,
    held := [{ name := 5, val := [], slot := some 3, prior := false }, { name := 6, val := zeroLanes, slot := none, prior := false }],
    look := none, emul := false, spoilt := 0, bSpoilt := false, pages := [], fence := 0, done := false, flags := 0, batch := none }

/-- A younger warp at a barrier, one register above its reserve by that count. -/
def slotWarp : Warp :=
  { probeWarp with lseq := 1, regsMin := 1, mops := [slotHolder], units := [{ probeUnit with st := .blocked (.bar 0 0) }] }

/-- An older warp that waits for a register. -/
def askingWarp : Warp := { probeWarp with wg := 1, units := [{ probeUnit with st := .blocked (.alloc [50] 0) }] }

def slotSpill : State :=
  { State.reset with warps := [(0, slotWarp), (1, askingWarp)], groups := [(0, probeGroup)], launches := [(0, probeLaunch)] }

theorem slotSpill_waits : slotSpill.wakeQuad 0 = slotSpill := by decide +kernel

theorem slotSpill_named : Named slotSpill := by
  have h : ∀ p ∈ slotSpill.warps, slotSpill.warp? p.1 = some p.2 ∧ ∀ u ∈ p.2.units, unitOf p.2.units u.sub = some u := by decide +kernel
  exact ⟨fun g w hw => (h (g, w) hw).1, fun g w u hw hu => (h (g, w) hw).2 u hu⟩

theorem exec_registerSpill (core quad : Nat) (s : State) : exec (.registerSpill core quad) s = execRegisterSpill core quad s := rfl

/-- Two registers are counted as held and one is to be spilled; the one that is not in a slot is, and none is left. -/
theorem slotSpill_spilled {t : State} (h : exec (.registerSpill 0 0) slotSpill = .next t) : (t.warp? 0).map Warp.held = some 0 := by
  rw [exec_registerSpill] at h
  injection h with h
  subst h
  decide +kernel

theorem not_victimSpilled : ¬ victimSpilled := by
  intro h
  have hv := h slotSpill 0 0 0 slotWarp (by decide)
  simp only [Nat.zero_mul, Nat.zero_add, slotSpill_waits] at hv
  obtain ⟨t, w', ht, hw, hheld, -⟩ := hv (by decide +kernel) (by decide +kernel) (by decide +kernel) (by decide +kernel) (by decide +kernel) rfl
    (by decide +kernel) (by decide +kernel) (by decide +kernel) slotSpill_named (by decide +kernel)
  have h0 := slotSpill_spilled ht
  rw [hw, Option.map_some, hheld] at h0
  exact absurd h0 (by decide)

/-- Refutes O52: of a warp whose matrix operation holds a register that is in a spill slot already, REGISTER_SPILL leaves fewer registers held than
its reserve. -/
theorem not_registerAndStackEvents : ¬ Obligations.RegisterAndStackEvents := by
  unfold Obligations.RegisterAndStackEvents
  rintro ⟨-, -, h, -⟩
  exact not_victimSpilled h

end Sys2Proof.Machine
end

section
/-! SUPPORT. A completion record that is not aligned and whose STATUS begins past the last byte of memory below the hole. -/

namespace Sys2Proof.Machine

open Sys2Proof.Claims

/-- A command that has ended with status 1, its completion record at 65,530. -/
def edgeCommand : EngCmd :=
  { kind := 2, src := 0, srcSub := 0, started := true, die := 0, launch := 0, wg := 0, lseq := 0, wgid := 0,
    area := { qcb := 0, root := 1, fbase := 0, flog2 := 0, vif := 0, qid := 0 },
    desc := [], x := 0, y := 0, ctr := 65530, fpc := 0, tile := none, recon := [], pages := 0, bad := 0, readDone := true, sent := true,
    data := [], buf := [], face := none, plan := [], todo := [], after := none, status := some (1, 0, 0), dead := false }

/-- Page 0 of its address space in the last frame below the hole, as a TLB of die 0 holds it. -/
def edgeState : State :=
  { State.reset with
    engines := [(4, edgeCommand)],
    dies := [(0, { Reset.die with tlb := [{ root := 1, page := 0, large := false, pte := 0xFFFFFF0217, addr := 0 }] })] }

/-- The record begins 6 bytes below the hole. -/
theorem edgeState_xlat : edgeState.xlatDie 0 1 65530 .write true = (edgeState, .ok 0xFFFFFFFFFA 0xFFFFFF0217 0) := by decide +kernel

theorem exec_engineCommandComplete (id : Nat) (s : State) : exec (.engineCommandComplete id) s = execEngineCommandComplete id s := rfl

/-- A write that begins in the hole is lost, and the bytes of STATUS read as zero. -/
theorem edgeState_status {t : State} (h : exec (.engineCommandComplete 4) edgeState = .next t) : Store.item t.mem (0xFFFFFFFFFA + 8) 8 = 0 := by
  rw [exec_engineCommandComplete] at h
  obtain rfl := Host.Outcome.next.inj h
  decide +kernel

theorem not_enginesEnd : ¬ enginesEnd := by
  intro h
  obtain ⟨t, ht, -, -, hstatus, -⟩ := (h edgeState 4 edgeCommand (by decide +kernel) (by decide +kernel)).1 edgeState 1 0 0 0xFFFFFFFFFA 0xFFFFFF0217 0
    rfl rfl (by decide +kernel) rfl (by decide +kernel) edgeState_xlat (by decide +kernel) rfl (.inl (by decide)) (by decide) (by decide) (by decide)
  rw [edgeState_status ht] at hstatus
  exact absurd hstatus (by decide)

/-- Refutes O54: a completion record need not be aligned, and where its second dword begins in the hole of the physical map, ENGINE_COMMAND_COMPLETE
loses the STATUS of a command that failed. -/
theorem not_engineAndRayEvents : ¬ Obligations.EngineAndRayEvents := by
  unfold Obligations.EngineAndRayEvents
  rintro ⟨h, -⟩
  exact not_enginesEnd h

end Sys2Proof.Machine
end

section
/-! SUPPORT. A gang that becomes free to move changes nothing that its launch-table entry shows, so the entry is not written again. -/

namespace Sys2Proof.Machine

open Sys2Proof.Claims

/-- A loose launch with affinity whose gang of one workgroup, in group entry 0, has been refused since the beginning. -/
def gangLaunch : Launch :=
  { probeLaunch with
    record := BitVec.ofNat 64 (2 ^ 12) :: List.replicate 31 0, nextWg := 0, groups := [[0]], sent := some 0, refused := some 0, placing := true }

def gangState : State := { State.reset with launches := [(0, gangLaunch)], rtime := 2 ^ 20 }

theorem exec_affinityTimeout (key : Nat) (s : State) : exec (.affinityTimeout key) s = execAffinityTimeout key s := rfl

/-- The timeout writes nothing into memory. -/
theorem gangState_timeout {t : State} (h : exec (.affinityTimeout 0) gangState = .next t) : t.mem = [] := by
  rw [exec_affinityTimeout] at h
  obtain rfl := Host.Outcome.next.inj h
  decide +kernel

/-- The statement has the whole entry written. -/
theorem gangState_entry : (gangState.setLaunch 0 { gangLaunch with moved := true }).mem ≠ [] := by decide +kernel

theorem not_lateStarts : ¬ lateStarts := by
  intro h
  obtain ⟨-, hg, -⟩ := h gangState 0 gangLaunch (by decide +kernel)
  have ht := hg 0 0 rfl rfl (by decide +kernel) (by decide +kernel) rfl (by decide +kernel) rfl (by decide +kernel)
  exact gangState_entry (gangState_timeout ht)

/-- Refutes O55: AFFINITY_TIMEOUT on a gang marks its launch as moved, and leaves the launch-table entry in memory as it stands; here it holds zeros,
and the statement has the entry's image there. -/
theorem not_queueAndLaunchEvents : ¬ Obligations.QueueAndLaunchEvents := by
  unfold Obligations.QueueAndLaunchEvents
  rintro ⟨-, -, -, -, -, -, h⟩
  exact not_lateStarts h

end Sys2Proof.Machine
end

section
/-! SUPPORT. What reading memory, and translating an address, may change: memory itself, the dies, the cores, the directory and the partials. -/

namespace Sys2Proof.Machine

/-- `t` is `s` but for memory, dies, cores, the directory and the partials; of the dies the debuggers stay, and of the cores the registers. -/
structure MemOnly (s t : State) : Prop where
  rest  : t = { s with mem := t.mem, dies := t.dies, cores := t.cores, dir := t.dir, partials := t.partials }
  debug : ∀ d, (t.die d).dbg = (s.die d).dbg
  regs  : ∀ c, (t.core c).regs = (s.core c).regs

namespace MemOnly

variable {s t r : State}

theorem refl (s : State) : MemOnly s s := ⟨rfl, fun _ => rfl, fun _ => rfl⟩

theorem trans (h : MemOnly s t) (h' : MemOnly t r) : MemOnly s r :=
  ⟨by rw [h'.rest, h.rest], fun d => (h'.debug d).trans (h.debug d), fun c => (h'.regs c).trans (h.regs c)⟩

/-- A step that leaves the rest alone does so over a list. -/
theorem foldl {α : Type} {f : State → α → State} (hf : ∀ s x, MemOnly s (f s x)) (l : List α) (s : State) : MemOnly s (l.foldl f s) := by
  induction l generalizing s with
  | nil => exact refl s
  | cons x l ih => exact (hf s x).trans (ih _)

theorem ite {c : Prop} [Decidable c] {a b : State} (ha : MemOnly s a) (hb : MemOnly s b) : MemOnly s (if c then a else b) := by
  split
  · exact ha
  · exact hb

theorem warps (h : MemOnly s t) : t.warps = s.warps := by rw [h.rest]
theorem groups (h : MemOnly s t) : t.groups = s.groups := by rw [h.rest]
theorem launches (h : MemOnly s t) : t.launches = s.launches := by rw [h.rest]
theorem focus (h : MemOnly s t) : t.focus = s.focus := by rw [h.rest]
theorem cows (h : MemOnly s t) : t.cows = s.cows := by rw [h.rest]
theorem free (h : MemOnly s t) : t.free = s.free := by rw [h.rest]
theorem pkg (h : MemOnly s t) : t.pkg = s.pkg := by rw [h.rest]

end MemOnly

section

variable (s : State)

theorem modDie_memOnly (d : Nat) (f : Die → Die) (hf : ∀ x, (f x).dbg = x.dbg := by exact fun _ => rfl) : MemOnly s (s.modDie d f) where
  rest := rfl
  debug n := by
    by_cases h : d = n
    · subst h
      rw [State.modDie, die_setDie, hf]
    · rw [State.modDie, die_setDie_other _ _ h]
  regs _ := rfl

theorem modCore_memOnly (c : Nat) (f : Core → Core) (hf : ∀ x, (f x).regs = x.regs := by exact fun _ => rfl) : MemOnly s (s.modCore c f) where
  rest := rfl
  debug _ := rfl
  regs n := by
    by_cases h : c = n
    · subst h
      rw [State.modCore, core_setCore, hf]
    · rw [State.modCore, core_setCore_other _ _ h]

theorem setDir_memOnly (pa : Nat) (e : DirEnt) : MemOnly s (s.setDir pa e) := ⟨rfl, fun _ => rfl, fun _ => rfl⟩

/-- A die whose watch entries see a write. -/
theorem die_seeWatches (pa n d : Nat) : ((s.seeWatches pa n).die d).dbg = (s.die d).dbg := by
  unfold State.seeWatches State.die AMap.get
  dsimp only
  induction s.dies with
  | nil => rfl
  | cons p m ih =>
    by_cases h : p.1 = d
    · simp [AMap.find?, h]
    · simpa [AMap.find?, h] using ih

theorem poke_memOnly (pa : Nat) (bs : List Byte) : MemOnly s (s.poke pa bs) :=
  .ite (.refl s) ⟨rfl, fun d => die_seeWatches { s with mem := Store.setBytes s.mem pa bs } pa bs.length d, fun _ => rfl⟩
theorem pokeN_memOnly (pa n x : Nat) : MemOnly s (s.pokeN pa n x) := poke_memOnly s pa _
theorem touch_memOnly (addr : Nat) (write : Bool) : MemOnly s (s.touch addr write) := .ite (.refl s) (pokeN_memOnly s ..)

theorem mergeDie_memOnly (line d : Nat) : MemOnly s (mergeDie s line d) := .foldl (fun s _ => pokeN_memOnly s ..) _ s

theorem mergeLine_memOnly (line : Nat) : MemOnly s (s.mergeLine line) :=
  MemOnly.trans (.foldl (fun s d => mergeDie_memOnly s line d) [0, 1, 2, 3] s) ⟨rfl, fun _ => rfl, fun _ => rfl⟩

theorem dirRead_memOnly (d pa : Nat) : MemOnly s (s.dirRead d pa) := by
  unfold State.dirRead
  dsimp only
  split
  · exact setDir_memOnly s ..
  · exact (mergeLine_memOnly s _).trans (setDir_memOnly ..)
  · exact .ite (.refl s) (setDir_memOnly s ..)
  · exact .ite (.refl s) (setDir_memOnly s ..)
  · exact setDir_memOnly s ..
  · exact setDir_memOnly s ..

theorem dirWrite_memOnly (d pa : Nat) : MemOnly s (s.dirWrite d pa) :=
  MemOnly.trans (.ite (mergeLine_memOnly s _) (.refl s)) (setDir_memOnly ..)

theorem writeMem_memOnly (d scope pa : Nat) (bs : List Byte) : MemOnly s (s.writeMem d scope pa bs) :=
  MemOnly.trans (.ite (dirWrite_memOnly s d pa) (.refl s)) (MemOnly.trans (.ite (modDie_memOnly ..) (.refl _)) (poke_memOnly ..))

theorem homeRead_memOnly (d scope pa n : Nat) : MemOnly s (s.homeRead d scope pa n).1 := .ite (dirRead_memOnly s d pa) (.refl s)

theorem l2Line_memOnly (d scope pa : Nat) : MemOnly s (s.l2Line d scope pa).1 := by
  unfold State.l2Line
  split
  · exact dirRead_memOnly s d pa
  · split
    · exact .refl s
    · exact modDie_memOnly s d (fun x => { x with sCopies := _ })
  · exact .refl s

/-- Filling a cache of a core changes none of its registers. -/
theorem setCache_regs (c : Core) (p : Path) (m : AMap Nat (List Byte)) : (c.setCache p m).regs = c.regs := by cases p <;> rfl

theorem readLine_memOnly (core : Nat) (p : Path) (scope pa n : Nat) : MemOnly s (s.readLine core p scope pa n).1 := by
  unfold State.readLine
  split
  · exact .refl s
  · exact (l2Line_memOnly s ..).trans (modCore_memOnly _ core _ (fun _ => setCache_regs ..))

theorem fillDie_memOnly (d root va : Nat) (pte : W64) (addr : Nat) : MemOnly s (s.fillDie d root va pte addr) :=
  modDie_memOnly s d _

theorem dieLeaf_memOnly (d root va : Nat) : MemOnly s (s.dieLeaf d root va).1 := by
  unfold State.dieLeaf
  split
  · exact .refl s
  · split
    · split
      · exact fillDie_memOnly s ..
      · exact .refl s
    · exact .refl s

theorem xlatDie_memOnly (d root : Nat) (va : W64) (want : Want) (bound : Bool) : MemOnly s (s.xlatDie d root va want bound).1 := by
  unfold State.xlatDie
  split
  · exact .refl s
  · exact dieLeaf_memOnly s ..

theorem xlatCore_memOnly (core root : Nat) (va : W64) (want : Want) : MemOnly s (s.xlatCore core root va want).1 := by
  have hd := dieLeaf_memOnly s (dieOfCore core) root va.toNat
  unfold State.xlatCore
  dsimp only
  split
  · exact .refl s
  · split
    · exact .refl s
    · split
      · split
        · refine hd.trans ?_
          dsimp only
          exact modCore_memOnly _ core _
        · exact hd
      · exact hd

theorem readVa_memOnly (d root : Nat) (va : W64) (bound : Bool) (n : Nat) : MemOnly s (s.readVa d root va bound n).1 := by
  induction n with
  | zero => exact .refl s
  | succ n ih =>
    unfold State.readVa
    split
    · next t e h => rw [h] at ih; exact ih
    · next t bs h =>
      rw [h] at ih
      have hx := xlatDie_memOnly t d root (va + BitVec.ofNat 64 n) .read bound
      split
      · next t' c k h' => rw [h'] at hx; exact ih.trans hx
      · next t' pa pte addr h' =>
        rw [h'] at hx
        exact (ih.trans hx).trans ((touch_memOnly t' addr false).trans (.ite (dirRead_memOnly ..) (.refl _)))

theorem fetchWord_memOnly (g : Nat) (a : W64) : MemOnly s (s.fetchWord g a).1 := by
  have hx := xlatCore_memOnly s (coreOf g) (s.rootOf g) a .fetch
  unfold State.fetchWord
  split
  · next t c k h => rw [h] at hx; exact hx
  · next t pa pte addr h =>
    rw [h] at hx
    have ht := hx.trans (touch_memOnly t addr false)
    dsimp only
    split
    · exact ht
    · exact ht.trans (readLine_memOnly ..)

end

theorem fetchWords_memOnly (g n : Nat) (s : State) (a : W64) : MemOnly s (fetchWords g n s a).1 := by
  induction n generalizing s a with
  | zero => exact .refl s
  | succ n ih =>
    have hw := fetchWord_memOnly s g a
    unfold fetchWords
    split
    · next t e h => rw [h] at hw; exact hw
    · next t w h =>
      rw [h] at hw
      have hr := ih t (a + 4)
      split
      · next t' e h' => rw [h'] at hr; exact hw.trans hr
      · next t' ws h' => rw [h'] at hr; exact hw.trans hr

/-- A fetch changes memory and what holds copies of it, and nothing else. -/
theorem fetch_memOnly (s : State) (g : Nat) (a : W64) : MemOnly s (s.fetch g a).1 := by
  have hw := fetchWord_memOnly s g a
  unfold State.fetch
  split
  · next t e h => rw [h] at hw; exact hw
  · next t w h =>
    rw [h] at hw
    have hr := fetchWords_memOnly g (wordCount w - 1) t (a + 4)
    split
    · next t' e h' => rw [h'] at hr; exact hw.trans hr
    · next t' ws h' => rw [h'] at hr; exact hw.trans hr

/-- Where nothing else is due, the next act is the focus unit's instruction. -/
theorem nextAct_of_issuer {s : State} {g sub : Nat} {u : WUnit} (htick : s.tickDue = false) (hstale : s.staleOps = false) (hagenda : s.agenda = [])
    (hstall : s.stalled = false) (hissuer : s.issuer = some (g, sub, u)) : s.nextAct = s.issueNext g sub u := by
  simp only [State.nextAct, htick, hstale, hagenda, State.nextStep, hstall, hissuer, Bool.false_eq_true, if_false]

/-- A unit at no place of arrival runs what its words decode to. -/
theorem issueNext_of_decode {s s1 : State} {g sub n : Nat} {u : WUnit} {ws : List W32} {i : Instr} (hjoin : s.atJoin g u = false)
    (hfetch : s.fetch g u.pc = (s1, .ok ws)) (hdecode : decode ws = .ok i n) : s.issueNext g sub u = .run i s1 := by
  simp only [State.issueNext, hjoin, hfetch, hdecode, Bool.false_eq_true, if_false]

/-- Settles O23: the next act is the fetched instruction, and a fetch leaves all but memory and its copies alone. -/
theorem stepRunsTheDecodedInstruction : Obligations.StepRunsTheDecodedInstruction := by
  unfold Obligations.StepRunsTheDecodedInstruction
  intro s s1 g sub n u ws i htick hstale hagenda hstall hissuer hjoin hfetch hdecode
  have hact := (nextAct_of_issuer htick hstale hagenda hstall hissuer).trans (issueNext_of_decode hjoin hfetch hdecode)
  refine ⟨by rw [step, hact], ?_⟩
  have h := fetch_memOnly s g u.pc
  rw [hfetch] at h
  exact h.rest

end Sys2Proof.Machine
end

section
/-! SUPPORT. What barriers that are brought up to date may change: the entries of workgroups, and how often a group entry has completed. -/

namespace Sys2Proof.Machine

/-- What each step of a fold keeps, the fold keeps. -/
theorem foldl_keeps_state {α β : Type} {p : State → β} {f : State → α → State} (hf : ∀ s x, p (f s x) = p s) (l : List α) (s : State) :
    p (l.foldl f s) = p s := by
  induction l generalizing s with
  | nil => rfl
  | cons x l ih => exact (ih _).trans (hf s x)

theorem modLaunch_memOnly_launches (s : State) (k : Nat) (f : Launch → Launch) :
    MemOnly { s with launches := (s.modLaunch k f).launches } (s.modLaunch k f) := by
  unfold State.modLaunch
  split
  · split
    · exact .refl _
    · unfold State.setLaunch
      rw [(poke_memOnly _ _ _).launches]
      exact poke_memOnly _ _ _
  · exact MemOnly.refl s

theorem modLaunch_warps (s : State) (k : Nat) (f : Launch → Launch) : (s.modLaunch k f).warps = s.warps := (modLaunch_memOnly_launches s k f).warps

theorem modLaunch_groups (s : State) (k : Nat) (f : Launch → Launch) : (s.modLaunch k f).groups = s.groups := (modLaunch_memOnly_launches s k f).groups

section

variable {β : Type} {p : State → β} (hset : ∀ s wg k, p (s.setGroup wg k) = p s)
include hset

theorem checkBars_keeps (s : State) (wg : Nat) : p (s.checkBars wg) = p s := by
  unfold State.checkBars
  split
  · rfl
  · exact hset ..

theorem foldGroups_keeps (launch : Nat) (f : State → Group → Group) (l : List Nat) (s : State) :
    p (l.foldl (fun s lin => match s.groupAt launch lin with
      | some (wg, k) => s.setGroup wg (f s k)
      | none => s) s) = p s :=
  foldl_keeps_state (fun s x => by
    cases s.groupAt launch x with
    | none => rfl
    | some q => exact hset ..) l s

variable (hdone : ∀ s key (f : Launch → List Nat), p (s.modLaunch key (fun l => { l with gdone := f l })) = p s)
include hdone

/-- A group entry brought up to date changes groups, and the count of one entry's completions. -/
theorem checkEntry_keeps (s : State) (launch e : Nat) : p (s.checkEntry launch e) = p s := by
  unfold State.checkEntry
  cases s.launch? launch with
  | none => rfl
  | some l =>
    dsimp only
    have hmark := foldGroups_keeps hset launch (fun s k => markArrived s k e) (l.groups.getD e []) s
    split
    · exact (hdone ..).trans ((foldGroups_keeps hset launch
        (fun _ k => { k with garr := k.garr.filter (fun p => p.1 ≠ e), garrived := k.garrived.filter (fun p => p.1 ≠ e) }) _ _).trans hmark)
    · exact hmark

theorem checkGbars_keeps (s : State) (launch lin : Nat) : p (s.checkGbars launch lin) = p s := by
  unfold State.checkGbars
  cases s.launch? launch with
  | none => rfl
  | some l =>
    exact foldl_keeps_state (fun s e => by
      split
      · exact checkEntry_keeps hset hdone s launch e
      · rfl) _ s

theorem checkGroup_keeps (s : State) (wg : Nat) : p (s.checkGroup wg) = p s := by
  unfold State.checkGroup
  split
  · rfl
  · exact (checkGbars_keeps hset hdone ..).trans (checkBars_keeps hset s wg)

end

theorem checkGroup_warps (s : State) (wg : Nat) : (s.checkGroup wg).warps = s.warps :=
  checkGroup_keeps (p := State.warps) (fun _ _ _ => rfl) (fun s key _ => modLaunch_warps s key _) s wg

end Sys2Proof.Machine
end

section
/-! SUPPORT. A saved warp with a SUBID that no image has room for: its record lies in the hole of the physical map, where it is a free value. -/

namespace Sys2Proof.Machine

open Sys2Proof.Claims

theorem peek_zero (s : State) (pa : Nat) : s.peek pa 0 = [] := by
  unfold State.peek
  split <;> rfl

theorem writeBack_nil (s : State) (d root : Nat) (va : W64) : s.writeBack d root va [] = s := rfl

theorem restoreUnit_pc (b ckpt : List Byte) (entry shift : Nat → Nat) (u : WUnit) : (restoreUnit b ckpt entry shift u).pc = BitVec.ofNat 64 (fieldN b 0 8) := rfl

section

variable (s : State) (wg : Nat) (entry shift : Nat → Nat) (w : Warp)

theorem restoreWarp_stktop : (s.restoreWarp wg entry shift w).stktop = w.stktop := by
  unfold State.restoreWarp
  generalize w.restoreNames _ = r
  rfl

theorem restoreWarp_units : (s.restoreWarp wg entry shift w).units = w.units.map (fun u =>
    restoreUnit (s.peek (w.block + 0x100 + 64 * u.sub) 64) (s.peek (w.block + 0x820 + 32 * u.sub) 32) entry shift u) := by
  unfold State.restoreWarp
  generalize w.restoreNames _ = r
  rfl

/-- A warp whose stack has no room used none of it. -/
theorem restoreWarp_stackUsed (h : w.stktop = 0) : (s.restoreWarp wg entry shift w).stackUsed = 0 := by
  rw [Warp.stackUsed, restoreWarp_stktop, h]
  exact Nat.zero_sub _

end

/-- A workgroup of one warp that used no stack comes back with the warp as its image gives it, over the same memory and free values. -/
theorem restoreGroup_warp (s : State) (key : Nat) (l : Launch) (x : Away) (g : Nat) (w : Warp) (hx : x.warps = [(g, w)]) (hstack : w.stktop = 0) :
    ∃ (r : State) (wg : Nat) (entry shift : Nat → Nat), r.mem = s.mem ∧ r.free = s.free ∧ (s.restoreGroup key l x).warp? g = some (r.restoreWarp wg entry shift w) := by
  unfold State.restoreGroup State.warp?
  simp only [checkGroup_warps, modLaunch_warps, hx, List.foldl_cons, List.foldl_nil, restoreWarp_stackUsed _ _ _ _ _ hstack, peek_zero, writeBack_nil]
  refine ⟨_, _, _, _, ?_, ?_, warp_setWarp ..⟩
  · rfl
  · rfl

/-- A saved warp whose unit has a SUBID past every image: its record would lie at the start of the hole. -/
def farWarp : Warp := { probeWarp with units := [{ probeUnit with sub := 2 ^ 34 }], block := 0 }

def farAway : Away :=
  { group := { probeGroup with warps := [], scrSize := 0, tiles := 0, accRows := 0, bars := [] }, warps := [(0, farWarp)], splits := [], saved := true, wanted := false }

def farLaunch : Launch := { probeLaunch with away := [farAway] }

/-- Where the record of that unit begins. -/
def farRecord : Nat := 0x100 + 64 * 2 ^ 34

/-- The state with the saved workgroup; the store of memory has a byte in the hole or none. -/
def farState (b : Bool) : State :=
  { State.reset with
    launches := [(0, farLaunch)],
    dies := [(0, { Reset.die with regs := [(.dready, -1), (.vifshare 0, -1)] })],
    mem := if b then Store.setBytes [] farRecord [1] else [] }

/-- The PC that the free values of the hole give. -/
def farPc : W64 := BitVec.ofNat 64 (fieldN ((List.range 64).map (fun i => ((State.reset.freeVal (farRecord + i)).setWidth 8 : Byte))) 0 8)

theorem exec_ctxrestSaved (d block wglin lidx : Nat) (s : State) : exec (.ctxrestSaved d block wglin lidx) s = execCtxrestSaved d block wglin lidx s := rfl

theorem farState_found (b : Bool) : (farState b).findAway 0 0 0 (fun y => y.saved && (y.warps.head?).any (fun p => p.2.block = 0)) = some (0, farLaunch, farAway) := by
  have hl : (farState b).launches = [(0, farLaunch)] := rfl
  have hx : (farAway.group.lin = 0 && farAway.group.core / 48 = 0 && (farAway.saved && (farAway.warps.head?).any (fun p => p.2.block = 0))) = true := by decide
  simp only [State.findAway, hl, List.findSome?_cons, farLaunch, List.find?_cons, hx]
  rfl

theorem farState_takesBack (b : Bool) : (farState b).takesBack 0 farLaunch farAway = true := by
  cases b <;> decide +kernel

/-- What memory's store holds in the hole makes no difference to the unit that comes back. -/
theorem farState_restored (b : Bool) {t : State} (h : exec (.ctxrestSaved 0 0 0 0) (farState b) = .next t) :
    ∃ w', t.warp? 0 = some w' ∧ ∀ u', unitOf w'.units (2 ^ 34) = some u' → u'.pc = farPc := by
  rw [exec_ctxrestSaved, execCtxrestSaved, farState_found b] at h
  simp only [farState_takesBack b, if_true] at h
  obtain rfl := Host.Outcome.next.inj h
  obtain ⟨r, wg, entry, shift, -, hfree, hw⟩ := restoreGroup_warp (farState b) 0 farLaunch farAway 0 farWarp rfl rfl
  refine ⟨_, hw, fun u' hu => ?_⟩
  have hpeek : r.peek farRecord 64 = (List.range 64).map (fun i => ((State.reset.freeVal (farRecord + i)).setWidth 8 : Byte)) := by
    have hole : inHole farRecord = true := by decide
    rw [State.peek, if_pos hole]
    simp only [State.freeVal, hfree]
    rfl
  have hone : u' ∈ (r.restoreWarp wg entry shift farWarp).units := (unitOf_mem hu).1
  rw [restoreWarp_units, farWarp, List.map_singleton, List.mem_singleton] at hone
  rw [hone, restoreUnit_pc, farPc, ← hpeek]
  rfl

theorem not_workgroupsReturn : ¬ workgroupsReturn := by
  intro h
  have hpc : ∀ b, farPc.toNat = word8 (farState b) farRecord := by
    intro b
    have hback := ((h (farState b) 0 0 0 0 farLaunch farAway (by decide) rfl).1 0 (0, farWarp) (farState_found b) rfl rfl (by decide) (by decide)).2
      (farState_takesBack b)
    obtain ⟨t, l', k, ht, -, -, -, -, -, -, -, -, -, -, hw⟩ := hback
    obtain ⟨w', hw', -, -, -, -, -, -, -, -, hunits⟩ := hw 0 farWarp (by simp [farAway])
    obtain ⟨u', hu', hpc, -⟩ := hunits { probeUnit with sub := 2 ^ 34 } (by decide)
    obtain ⟨w, hw, hfar⟩ := farState_restored b ht
    obtain rfl : w = w' := Option.some.inj (hw.symm.trans hw')
    rw [← hfar u' hu']
    exact hpc
  have h1 : word8 (farState true) farRecord = word8 (farState false) farRecord := (hpc true).symm.trans (hpc false)
  exact absurd h1 (by decide +kernel)

/-- Refutes O57: CTXREST_SAVED of a saved warp with a unit of SUBID 2^34, whose record lies in the hole of the physical map: the unit's PC is a free value, and
not what the store of memory holds there. -/
theorem not_preemptionEvents : ¬ Obligations.PreemptionEvents := by
  unfold Obligations.PreemptionEvents
  rintro ⟨-, -, h, -⟩
  exact not_workgroupsReturn h

end Sys2Proof.Machine
end

section
/-! SUPPORT. Two entries for one workgroup: what a group entry records in the one that is not seen takes the place of the one that is. -/

namespace Sys2Proof.Machine

open Sys2Proof.Claims

/-- A workgroup that is ending, of linear identifier 1, listed behind the one of the same handle. -/
def endingGroup : Group := { probeGroup with lin := 1, ending := true }

/-- The probe's unit about to issue in a launch whose group entry 0 lists both workgroups. -/
def shadowState : State :=
  { State.reset with
    warps := [(0, probeWarp)], groups := [(0, probeGroup), (0, endingGroup)], launches := [(0, { probeLaunch with groups := [[0, 1]] })], focus := some (0, 0) }

/-- The operands of a GBAR at group entry 0. -/
def gbarZero : Op :=
  { s := false, e := false, la := 0, grd := none, ula := false, ulb := false, ulc := false, mod := 0, d := .none, a := .imm 0, b := .none, c := .none, func := 0, lit := none }

theorem shadowState_canIssue (r : Res) : CanIssue shadowState 0 0 probeWarp probeUnit r false [] where
  now := by
    refine ⟨rfl, rfl, rfl, rfl, ?_⟩
    decide
  quiet := by
    refine ⟨by decide +kernel, by decide +kernel, ?_, ?_⟩
    · rintro k ⟨⟩
      rfl
    · rintro p ⟨⟩
  reads := .inr (.inl (by decide))
  room := .inr (.inl (by decide))

theorem exec_gbar (x : Op) (s : State) : exec (.gbar x) s = execGbar x s := rfl

/-- The workgroup the unit belongs to is now the one that is ending, so the end of the stroke takes the unit. -/
theorem shadowState_gone {t : State} (h : exec (.gbar gbarZero) shadowState = .next t) : t.warp? 0 = none := by
  rw [exec_gbar] at h
  have hnone : (match execGbar gbarZero shadowState with | .next t => (t.warp? 0).isNone | _ => false) = true := by decide +kernel
  rw [h] at hnone
  exact Option.isNone_iff_eq_none.mp hnone

theorem not_groupBarrier : ¬ groupBarrier := by
  intro h
  obtain ⟨-, hlisted⟩ := h gbarZero shadowState 0 0 probeWarp probeUnit 0 { probeLaunch with groups := [[0, 1]] } probeGroup (shadowState_canIssue _) rfl rfl
  obtain ⟨t, ht, w1, u1, t1, w', u', -, -, hafter, rfl⟩ := (hlisted rfl (by decide)).2 (by decide +kernel)
  have hgone := shadowState_gone ht
  rw [waits, State.modUnit, modWarp_of hafter.here, warp_setWarp] at hgone
  cases hgone

/-- Refutes O41: where the workgroup's handle has a second entry, which no reading of the handle finds but the linear identifier of a listed workgroup does, GBAR puts
it in the first one's place; it is ending, and the unit that should wait is lost. -/
theorem not_barriersComplete : ¬ Obligations.BarriersComplete := by
  unfold Obligations.BarriersComplete
  rintro ⟨-, -, h⟩
  exact not_groupBarrier h

end Sys2Proof.Machine
end

section
/-! SUPPORT. What a split and a serial branch leave (R16, R18, R19): the two children and their entry, and the record on the stack. -/

namespace Sys2Proof.Machine

open Sys2Proof.Claims

/-! ## Units put in a warp -/

/-- A unit that takes another's place is found by its SUBID, and the others by theirs. -/
theorem unitOf_replace (us : List WUnit) {sub : Nat} {v : WUnit} (hv : v.sub = sub) (n : Nat) :
    unitOf (modUnitOf us sub (fun _ => v)) n = if n = sub then (unitOf us sub).map (fun _ => v) else unitOf us n := by
  induction us with
  | nil => simp [modUnitOf, unitOf]
  | cons x us ih =>
    rw [modUnitOf, List.map_cons, ← modUnitOf]
    by_cases hx : x.sub = sub
    · by_cases hn : n = sub
      · simp [unitOf, hx, hv, hn]
      · simp [unitOf, hx, hv, hn, Ne.symm hn, ih]
    · by_cases hn : n = sub
      · subst hn
        simpa [unitOf, hx] using ih
      · simp [unitOf, hx, hn, ih]

theorem unitOf_append_one (us : List WUnit) (v : WUnit) (n : Nat) :
    unitOf (us ++ [v]) n = (unitOf us n).or (if v.sub = n then some v else none) := by
  induction us with
  | nil => rfl
  | cons x us ih =>
    by_cases h : x.sub = n
    · simp [unitOf, h]
    · simpa [unitOf, h] using ih

theorem unitOf_none {us : List WUnit} {n : Nat} (h : n ∉ us.map (·.sub)) : unitOf us n = none := by
  cases hu : unitOf us n with
  | none => rfl
  | some u => exact absurd (List.mem_map.mpr ⟨u, unitOf_mem hu⟩) h

/-- A free SUBID names no unit of the warp. -/
theorem unitOf_freeSub {s : State} {g k : Nat} {w : Warp} (hw : s.warp? g = some w) (hk : s.freeSub g = some k) : unitOf w.units k = none := by
  have hfree := List.find?_some hk
  simp only [State.heldSubs, hw, Bool.not_eq_true', List.contains_eq_mem, decide_eq_false_iff_not, List.mem_append, not_or] at hfree
  exact unitOf_none hfree.1

/-! ## Splits -/

theorem core_setWarp (s : State) (g c : Nat) (w : Warp) : (s.setWarp g w).core c = s.core c := rfl

/-- The trace's marks are all of a core that a new child changes. -/
theorem core_syncChild_split (s : State) (g sub k c : Nat) : ((s.syncChild g sub k).core c).split = (s.core c).split := by
  by_cases hc : coreOf g = c
  · subst hc
    simp only [State.syncChild, State.modCore, core_setCore]
    split <;> rfl
  · rw [State.syncChild, State.modCore, core_setCore_other _ _ hc]

/-- A child of a split unit: its SUBID, PC and lanes, and the entry. -/
def splitChild (u : WUnit) (e n : Nat) (pc : W64) (m : W32) : WUnit :=
  { u with sub := n, pc := pc, exec := m, owned := m, entry := some e, serial := [], wait := 0, moved := false }

/-- The entry that holds the parent of a split. -/
def splitEntry (u : WUnit) (g sub k : Nat) (join : W64) : Split :=
  { warp := g, parentEntry := u.entry, parentSub := sub, rpc := join, exec := u.exec, arrived := 0, owned := u.owned &&& ~~~u.exec, left := 2,
    taken := sub, other := k, looks := [], serial := u.serial, regPc := u.rpc, ckpt := u.ckpt, enters := false, moved := u.moved, anyArrived := false }

/-- The units of a warp after a split. -/
def splitUnits (us : List WUnit) (u : WUnit) (e sub k : Nat) (taken : W32) (target other : W64) : List WUnit :=
  modUnitOf us sub (fun _ => splitChild u e sub target taken) ++ [splitChild u e k other (u.exec &&& ~~~taken)]

theorem unitOf_splitUnits (us : List WUnit) (u : WUnit) (e sub k : Nat) (taken : W32) (target other : W64) (n : Nat) :
    unitOf (splitUnits us u e sub k taken target other) n
      = (if n = sub then (unitOf us sub).map (fun _ => splitChild u e sub target taken) else unitOf us n).or
          (if k = n then some (splitChild u e k other (u.exec &&& ~~~taken)) else none) := by
  rw [splitUnits, unitOf_append_one, unitOf_replace us (sub := sub) rfl]
  rfl

theorem splitUnit_eq {s : State} {g sub : Nat} {w : Warp} {u : WUnit} (hw : s.warp? g = some w) (hu : unitOf w.units sub = some u) (e k : Nat)
    (taken : W32) (target other join : W64) :
    s.splitUnit g sub e k taken target other join
      = ((s.modCore (coreOf g) (fun c => { c with split := c.split.put e (splitEntry u g sub k join) })).setWarp g
          { w with units := splitUnits w.units u e sub k taken target other }).syncChild g sub k := by
  have hunit : s.unit? g sub = some u := by simp [State.unit?, hw, hu]
  unfold State.splitUnit
  rw [hunit]
  dsimp only
  rw [modWarp_of (s := s.modCore _ _) hw]
  rfl

/-- A split takes an entry for the parent, and puts two children in the parent's place. -/
theorem splitUnit_makesTwoUnits : splitMakesTwoUnits := by
  intro s g sub e k w u taken target other join _ hw hu _ hk
  have hnone := unitOf_freeSub hw hk
  have hne : k ≠ sub := by
    rintro rfl
    rw [hu] at hnone
    cases hnone
  rw [splitUnit_eq hw hu]
  refine ⟨_, splitChild u e sub target taken, splitChild u e k other (u.exec &&& ~~~taken), splitEntry u g sub k join, warp_setWarp .., ?_, ?_,
    rfl, rfl, rfl, rfl, rfl, rfl, rfl, rfl, rfl, rfl, rfl, rfl, rfl, rfl, ?_, ?_, rfl, rfl, rfl, rfl, rfl, rfl, rfl, rfl⟩
  · exact (unitOf_splitUnits ..).trans (by rw [if_pos rfl, hu]; rfl)
  · exact (unitOf_splitUnits ..).trans (by rw [if_neg hne, hnone, if_pos rfl]; rfl)
  · intro n hsub hk
    exact (unitOf_splitUnits ..).trans (by rw [if_neg hsub, if_neg (Ne.symm hk), Option.or_none])
  · rw [core_syncChild_split, core_setWarp, State.modCore, core_setCore]
    exact find_put_same ..

/-! ## Serial branches -/

/-- The line of the stack that an address lies in, as a warp holds it. -/
def Warp.lineAt (w : Warp) (a : Nat) : SLine := w.stack.get SLine.empty (stackLine a)

theorem lineAt_of_stack {w w' : Warp} (h : w.stack = w'.stack) (a : Nat) : w.lineAt a = w'.lineAt a := by
  rw [Warp.lineAt, Warp.lineAt, h]

theorem lineAt_stackPut (w : Warp) (a b : Nat) (v : W64) :
    (w.stackPut a v).lineAt b = if stackLine a = stackLine b then { words := (w.lineAt a).words.set (a % 32 / 8) (some (v, true)) } else w.lineAt b :=
  get_put ..

/-- Writing dwords changes the stack of a warp alone. -/
theorem stackPuts_eq (w : Warp) (xs : List (Nat × W64)) : w.stackPuts xs = { w with stack := (w.stackPuts xs).stack } := by
  unfold Warp.stackPuts
  induction xs generalizing w with
  | nil => rfl
  | cons x xs ih => exact ih (w.stackPut x.1 x.2)

/-- Four dwords written from a line's start fill it. -/
theorem lineAt_stackPuts_four {w : Warp} {a : Nat} (ha : a % 32 = 0) (hlen : (w.lineAt a).words.length = 4) (v0 v1 v2 v3 : W64) {b : Nat}
    (hb : stackLine b = stackLine a) :
    ((w.stackPuts [(a, v0), (a + 8, v1), (a + 16, v2), (a + 24, v3)]).lineAt b).words = [some (v0, true), some (v1, true), some (v2, true), some (v3, true)] := by
  obtain ⟨x0, x1, x2, x3, hx⟩ : ∃ x0 x1 x2 x3, (w.lineAt a).words = [x0, x1, x2, x3] := by
    match hw : (w.lineAt a).words with
    | [x0, x1, x2, x3] => exact ⟨x0, x1, x2, x3, rfl⟩
    | [] | [_] | [_, _] | [_, _, _] | _ :: _ :: _ :: _ :: _ :: _ => rw [hw] at hlen; simp at hlen
  have h8 : stackLine (a + 8) = stackLine a := by unfold stackLine; omega
  have h16 : stackLine (a + 16) = stackLine a := by unfold stackLine; omega
  have h24 : stackLine (a + 24) = stackLine a := by unfold stackLine; omega
  have i0 : a % 32 / 8 = 0 := by omega
  have i8 : (a + 8) % 32 / 8 = 1 := by omega
  have i16 : (a + 16) % 32 / 8 = 2 := by omega
  have i24 : (a + 24) % 32 / 8 = 3 := by omega
  simp only [Warp.stackPuts, List.foldl_cons, List.foldl_nil, lineAt_stackPut, h8, h16, h24, hb, i0, i8, i16, i24, if_true, hx]
  rfl

/-- A dword that the warp holds is read from it. -/
theorem stackGet_held {s : State} {g a : Nat} {w : Warp} {x : W64 × Bool} (hw : s.warp? g = some w) (hx : (w.lineAt a).words.getD (a % 32 / 8) none = some x) :
    (s.stackGet g a).2 = some x.1 := by
  unfold State.stackGet
  rw [hw]
  dsimp only
  rw [show (w.stack.get SLine.empty (stackLine a)) = w.lineAt a from rfl, hx]

/-- The masks of a record: the other lanes low, the lanes that divided high. -/
theorem serialMasks (m n : W32) : BitVec.ofNat 64 (m.toNat + n.toNat * 2 ^ 32) = m.setWidth 64 ||| (n.setWidth 64 <<< 32) := by
  apply BitVec.eq_of_toNat_eq
  have hm := m.isLt
  have hn := n.isLt
  have hshift : (n.setWidth 64 <<< 32).toNat = 2 ^ 32 * n.toNat := by
    rw [BitVec.toNat_shiftLeft, BitVec.toNat_setWidth, Nat.shiftLeft_eq]
    omega
  rw [BitVec.toNat_or, hshift, BitVec.toNat_setWidth, BitVec.toNat_ofNat, Nat.mod_eq_of_lt (by omega), Nat.mod_eq_of_lt (by omega), Nat.or_comm,
    ← Nat.two_pow_add_eq_or_of_lt hm]
  ring

/-- A unit that runs the taken lanes of a serial branch whose record is at `a`. -/
def serialUnit (u : WUnit) (taken : W32) (target a : W64) : WUnit := { u with pc := target, exec := taken, serial := a :: u.serial }

/-- The dwords of the serial record at `a`. -/
def serialDwords (nt all : W32) (other join : W64) (a : Nat) : List (Nat × W64) :=
  [(a, other), (a + 8, join), (a + 16, BitVec.ofNat 64 (nt.toNat + all.toNat * 2 ^ 32)), (a + 24, 0)]

/-- A warp with a serial record at `a`, and its stack with the record. -/
def serialWarp (w : Warp) (stack : AMap Nat SLine) (sub : Nat) (taken : W32) (target a : W64) : Warp :=
  { w with stack := stack, stkptr := a, wstat := w.wstat ||| wsSerial, units := modUnitOf w.units sub (fun u => serialUnit u taken target a) }

theorem serialPush_eq {s : State} {g sub : Nat} {w : Warp} {u : WUnit} (hw : s.warp? g = some w) (hu : unitOf w.units sub = some u) (taken : W32)
    (target other join : W64) :
    s.serialPush g sub taken target other join
      = s.setWarp g (serialWarp w (w.stackPuts (serialDwords (u.exec &&& ~~~taken) u.exec other join (w.stkptr - 32).toNat)).stack sub taken target
          (w.stkptr - 32)) := by
  have hunit : s.unit? g sub = some u := by simp [State.unit?, hw, hu]
  unfold State.serialPush
  rw [hw, hunit]
  dsimp only
  rw [← serialDwords, stackPuts_eq, State.modUnit, modWarp_of (warp_setWarp ..), setWarp_setWarp]
  rfl

theorem lineAt_serialWarp {w : Warp} {sub a : Nat} {taken nt all : W32} {target : W64} (ha : a % 32 = 0) (hlen : (w.lineAt a).words.length = 4)
    (other join p : W64) {b : Nat} (hb : stackLine b = stackLine a) :
    ((serialWarp w (w.stackPuts (serialDwords nt all other join a)).stack sub taken target p).lineAt b).words
      = [some (other, true), some (join, true), some (BitVec.ofNat 64 (nt.toNat + all.toNat * 2 ^ 32), true), some (0, true)] := by
  have hstack : (serialWarp w (w.stackPuts (serialDwords nt all other join a)).stack sub taken target p).stack
      = (w.stackPuts (serialDwords nt all other join a)).stack := rfl
  rw [lineAt_of_stack hstack, serialDwords]
  exact lineAt_stackPuts_four ha hlen other join (BitVec.ofNat 64 (nt.toNat + all.toNat * 2 ^ 32)) 0 hb

/-- A serial branch leaves its record in the stack cache. -/
theorem serialPush_pushes : serialBranchPushes := by
  intro s g sub w u taken target other join hw hu hal hroom hlen
  have ha : (w.stkptr - 32).toNat = w.stkptr.toNat - 32 := by bv_omega
  generalize hA : w.stkptr.toNat - 32 = a at *
  have hal : a % 32 = 0 := by omega
  dsimp only
  have hpc : w.stkptr - 32 = BitVec.ofNat 64 a := by
    apply BitVec.eq_of_toNat_eq
    rw [ha, BitVec.toNat_ofNat, Nat.mod_eq_of_lt (by omega)]
  rw [serialPush_eq hw hu, ha, ← hpc]
  have hline := fun (b : Nat) (hb : stackLine b = stackLine a) =>
    lineAt_serialWarp (w := w) (sub := sub) (taken := taken) (target := target) (nt := u.exec &&& ~~~taken) (all := u.exec) hal hlen other join (w.stkptr - 32) hb
  have hread := fun (b : Nat) (hb : stackLine b = stackLine a) (x : W64 × Bool) (hx : ([_, _, _, _] : List (Option (W64 × Bool))).getD (b % 32 / 8) none = some x) =>
    stackGet_held (a := b) (warp_setWarp s g _) ((congrArg (·.getD (b % 32 / 8) none) (hline b hb)).trans hx)
  have i0 : a % 32 / 8 = 0 := by omega
  have i8 : (a + 8) % 32 / 8 = 1 := by omega
  have i16 : (a + 16) % 32 / 8 = 2 := by omega
  have i24 : (a + 24) % 32 / 8 = 3 := by omega
  refine ⟨_, serialUnit u taken target (w.stkptr - 32), warp_setWarp .., ?_, ha, rfl, rfl, ?_, ?_, ?_, ?_⟩
  · exact (unitOf_modUnitOf w.units sub (fun u => serialUnit u taken target (w.stkptr - 32)) (fun _ => rfl)).trans (by rw [hu]; rfl)
  · exact hread a rfl (_, true) (by rw [i0]; rfl)
  · exact hread (a + 8) (by unfold stackLine; omega) (_, true) (by rw [i8]; rfl)
  · rw [← serialMasks]
    exact hread (a + 16) (by unfold stackLine; omega) (_, true) (by rw [i16]; rfl)
  · exact hread (a + 24) (by unfold stackLine; omega) (_, true) (by rw [i24]; rfl)

/-- Settles O34: what a split and a serial push leave, part by part. -/
theorem divergence : Obligations.Divergence := by
  unfold Obligations.Divergence
  exact ⟨splitUnit_makesTwoUnits, serialPush_pushes⟩

end Sys2Proof.Machine
end

section
/-! SUPPORT. The layout of a fault record (R383): a record is a row of little-endian fields, and each is read back at its place. -/

namespace Sys2Proof.Machine

open Sys2Proof.Claims

/-- The bytes of a row of fields, each a width and a number. -/
def rowBytes (l : List (Nat × Nat)) : List Byte := l.flatMap (fun p => leBytes p.1 p.2)

/-- Where field `i` of a row begins. -/
def rowPlace (l : List (Nat × Nat)) (i : Nat) : Nat := ((l.map (·.1)).take i).sum

theorem length_rowBytes (l : List (Nat × Nat)) : (rowBytes l).length = (l.map (·.1)).sum := by
  induction l with
  | nil => rfl
  | cons p l ih => rw [rowBytes, List.flatMap_cons, List.length_append, length_leBytes, ← rowBytes, ih, List.map_cons, List.sum_cons]

/-- A field of a row is read back at its place. -/
theorem field_rowBytes (l : List (Nat × Nat)) (rest : List Byte) {i : Nat} {p : Nat × Nat} (hp : l[i]? = some p) :
    leNat (((rowBytes l ++ rest).drop (rowPlace l i)).take p.1) = p.2 % 256 ^ p.1 := by
  induction l generalizing i with
  | nil => cases hp
  | cons q l ih =>
    cases i with
    | zero =>
      obtain rfl : q = p := by simpa using hp
      have htake : ((rowBytes (q :: l) ++ rest).drop (rowPlace (q :: l) 0)).take q.1 = leBytes q.1 q.2 := by
        simp [rowPlace, rowBytes, List.flatMap_cons, List.append_assoc]
      rw [htake, leNat_leBytes]
    | succ i =>
      have hdrop : (rowBytes (q :: l) ++ rest).drop (rowPlace (q :: l) (i + 1)) = (rowBytes l ++ rest).drop (rowPlace l i) := by
        have hplace : rowPlace (q :: l) (i + 1) = (leBytes q.1 q.2).length + rowPlace l i := by simp [rowPlace]
        rw [hplace, rowBytes, List.flatMap_cons, List.append_assoc, List.drop_length_add_append, ← rowBytes]
      rw [hdrop]
      exact ih (by simpa using hp)

/-- The fields of a fault record. -/
def faultRow (s : State) (g : Nat) (w : Warp) (u : WUnit) (l : Launch) (t : TrapInfo) (flags : Nat) : List (Nat × Nat) :=
  [(1, t.cls), (1, t.sub), (1, flags), (1, t.lane), (4, t.code), (8, u.pc.toNat), (8, u.rpc.toNat), (4, w.rcount.toNat), (4, w.lseq), (8, t.addr.toNat),
   (4, t.version), (4, u.exec.toNat), (8, s.wgidOf w), (2, dieOf g + coreOf g % 48 * 4 + g % 128 * 256), (1, u.sub), (1, 0), (4, l.qid), (8, s.rtime),
   (8, w.strokes)]

theorem faultBytes_eq (s : State) (g : Nat) (w : Warp) (u : WUnit) (l : Launch) (t : TrapInfo) (flags : Nat) :
    faultBytes s g w u l t flags = rowBytes (faultRow s g w u l t flags) ++ List.replicate 48 0 := by
  unfold faultBytes faultRow rowBytes
  generalize leBytes = bytes
  simp only [List.flatMap_cons, List.flatMap_nil, List.append_assoc, List.nil_append]

/-- The widths of the fields of a fault record. -/
def faultWidths : List Nat := [1, 1, 1, 1, 4, 8, 8, 4, 4, 8, 4, 4, 8, 2, 1, 1, 4, 8, 8]

theorem widths_faultRow (s : State) (g : Nat) (w : Warp) (u : WUnit) (l : Launch) (t : TrapInfo) (flags : Nat) :
    (faultRow s g w u l t flags).map (·.1) = faultWidths := by
  simp only [faultRow, faultWidths, List.map_cons, List.map_nil]

/-- A field of a fault record, by its number and its place. -/
theorem field_faultBytes (s : State) (g : Nat) (w : Warp) (u : WUnit) (l : Launch) (t : TrapInfo) (flags : Nat) {i n place : Nat} {x : Nat}
    (hp : (faultRow s g w u l t flags)[i]? = some (n, x)) (hplace : (faultWidths.take i).sum = place) :
    leNat (((rowBytes (faultRow s g w u l t flags) ++ List.replicate 48 0).drop place).take n) = x % 2 ^ (8 * n) := by
  have hfield := field_rowBytes _ (List.replicate 48 0) hp
  rw [rowPlace, widths_faultRow, hplace] at hfield
  rw [hfield, Nat.pow_mul]

theorem length_faultRow (s : State) (g : Nat) (w : Warp) (u : WUnit) (l : Launch) (t : TrapInfo) (flags : Nat) :
    (rowBytes (faultRow s g w u l t flags)).length = 80 := by
  rw [length_rowBytes, widths_faultRow]
  rfl

/-- Every field of a fault record is where R383 puts it. -/
theorem faultBytes_layout : faultRecordLayout := by
  intro s g w u l t flags
  have hf := fun (i : Nat) {n place x : Nat} => field_faultBytes s g w u l t flags (i := i) (n := n) (place := place) (x := x)
  have hsmall : ∀ {n : Nat} (x : BitVec n), x.toNat % 2 ^ n = x.toNat := fun x => Nat.mod_eq_of_lt x.isLt
  dsimp only
  rw [faultBytes_eq]
  refine ⟨?_, hf 0 rfl rfl, hf 1 rfl rfl, hf 2 rfl rfl, hf 3 rfl rfl, hf 4 rfl rfl, (hf 5 rfl rfl).trans (hsmall _), (hf 6 rfl rfl).trans (hsmall _),
    (hf 7 rfl rfl).trans (hsmall _), hf 8 rfl rfl, (hf 9 rfl rfl).trans (hsmall _), hf 10 rfl rfl, (hf 11 rfl rfl).trans (hsmall _), hf 12 rfl rfl, hf 13 rfl rfl,
    hf 14 rfl rfl, hf 15 rfl rfl, hf 16 rfl rfl, hf 17 rfl rfl, hf 18 rfl rfl, ?_⟩
  · rw [List.length_append, length_faultRow, List.length_replicate]
  · exact List.drop_left' (length_faultRow ..)

end Sys2Proof.Machine
end

section
/-! SUPPORT. What the end of a warp may change: which warps are there only by taking it away, and no launch's status. -/

namespace Sys2Proof.Machine

open Sys2Proof.Claims

/-! ## Work that no shared operation on memory changes -/

/-- The warps, the workgroups and the launches are as they were. -/
structure SameWork (s t : State) : Prop where
  warps    : t.warps = s.warps
  groups   : t.groups = s.groups
  launches : t.launches = s.launches

theorem MemOnly.sameWork {s t : State} (h : MemOnly s t) : SameWork s t := ⟨h.warps, h.groups, h.launches⟩

namespace SameWork

variable {s t r : State}

theorem refl (s : State) : SameWork s s := ⟨rfl, rfl, rfl⟩

theorem trans (h : SameWork s t) (h' : SameWork t r) : SameWork s r :=
  ⟨h'.warps.trans h.warps, h'.groups.trans h.groups, h'.launches.trans h.launches⟩

theorem foldl {α : Type} {f : State → α → State} (hf : ∀ s x, SameWork s (f s x)) (l : List α) (s : State) : SameWork s (l.foldl f s) := by
  induction l generalizing s with
  | nil => exact refl s
  | cons x l ih => exact (hf s x).trans (ih _)

theorem ite {c : Prop} [Decidable c] {a b : State} (ha : SameWork s a) (hb : SameWork s b) : SameWork s (if c then a else b) := by
  split
  · exact ha
  · exact hb

theorem warp? (h : SameWork s t) (g : Nat) : t.warp? g = s.warp? g := by rw [State.warp?, h.warps]; rfl
theorem group? (h : SameWork s t) (k : Nat) : t.group? k = s.group? k := by rw [State.group?, h.groups]; rfl
theorem launch? (h : SameWork s t) (k : Nat) : t.launch? k = s.launch? k := by rw [State.launch?, h.launches]; rfl

end SameWork

theorem fst_ite_memOnly {α : Type} {s : State} {c : Prop} [Decidable c] {a b : State × α} (ha : MemOnly s a.1) (hb : MemOnly s b.1) :
    MemOnly s (if c then a else b).1 := by
  split
  · exact ha
  · exact hb

section

variable (s : State)

theorem unU_memOnly (pa : Nat) : MemOnly s (s.unU pa) := .ite ((mergeLine_memOnly s _).trans (setDir_memOnly ..)) (.refl s)

theorem addWord_memOnly (pa n : Nat) : MemOnly s (s.addWord pa n) := (unU_memOnly s pa).trans (pokeN_memOnly ..)

theorem sendMessage_memOnly (e : Nat) : MemOnly s (s.sendMessage e) := (unU_memOnly s _).trans (pokeN_memOnly ..)

theorem irqDrop_sameWork (i : Nat) : SameWork s (s.irqDrop i) := ⟨rfl, rfl, rfl⟩

theorem raise_sameWork (i v : Nat) : SameWork s (s.raise i v) :=
  .ite (irqDrop_sameWork s i) (.ite (irqDrop_sameWork s i) (.ite (poke_memOnly s ..).sameWork (sendMessage_memOnly s _).sameWork))

theorem countFault_sameWork (l : FaultArea) : SameWork s (s.countFault l) :=
  (addWord_memOnly s ..).sameWork.trans (.ite (.refl _) (raise_sameWork ..))

theorem setDieReg_memOnly (d : Nat) (r : DieReg) (v : W64) : MemOnly s (s.setDieReg d r v) := modDie_memOnly s ..
theorem bump_memOnly (d : Nat) (r : DieReg) : MemOnly s (s.bump d r) := setDieReg_memOnly s ..
theorem callNorem_memOnly (d : Nat) (i : NoremInt) : MemOnly s (s.callNorem d i) := modDie_memOnly s ..
theorem writeVrec_memOnly (a : Nat) (v : VRec) : MemOnly s (s.writeVrec a v) := poke_memOnly s ..

theorem ringFrame_memOnly (d n : Nat) : MemOnly s (takeFrame d n s).1 := by
  induction n generalizing s with
  | zero => exact .refl s
  | succ n ih =>
    have ht := bump_memOnly s d .whahead
    exact fst_ite_memOnly (.refl s) (fst_ite_memOnly ht ((ht.trans ((setDieReg_memOnly _ ..).trans (callNorem_memOnly _ ..))).trans (ih _)))

theorem takeFrame_memOnly (d : Nat) : MemOnly s (s.takeFrame d).1 := ringFrame_memOnly s ..

/-- A write that meets a copy-on-write may begin it. -/
theorem cowTouch_sameWork (addr : Nat) : SameWork s (s.cowTouch addr).1 := by
  unfold State.cowTouch
  extract_lets e a v d s1
  have h1 : MemOnly s s1 := writeVrec_memOnly s ..
  split
  · exact .refl s
  · split
    · exact .refl s
    · split
      · exact .refl s
      · have h2 := h1.trans (takeFrame_memOnly s1 d)
        split
        next s2 f h =>
          rw [h] at h2
          exact (SameWork.ite (h2.trans (callNorem_memOnly s2 ..)).sameWork h2.sameWork).trans ⟨rfl, rfl, rfl⟩

theorem queueLate_sameWork (addr : Nat) (w : LateWrite) : SameWork s (s.queueLate addr w) := ⟨rfl, rfl, rfl⟩

theorem settleLate_sameWork (g : Nat) (p : Nat → Bool) : SameWork s (s.settleLate g p) := ⟨rfl, rfl, rfl⟩

theorem postFault_sameWork (d : Nat) (l : FaultArea) (bs : List Byte) : SameWork s (s.postFault d l bs) := by
  have hx := xlatDie_memOnly s d l.root (l.fbase + BitVec.ofNat 64 (s.peekN (l.qcb + qcbFAULTS) 4 % 2 ^ l.flog2 * 128)) .write false
  unfold State.postFault
  dsimp only
  split
  · exact countFault_sameWork s l
  · next s1 pa pte addr h =>
    rw [h] at hx
    have hc := hx.sameWork.trans (cowTouch_sameWork s1 addr)
    split
    · next s2 h2 =>
      rw [h2] at hc
      exact hc.trans (((touch_memOnly s2 addr true).trans (writeMem_memOnly ..)).sameWork.trans (countFault_sameWork ..))
    · next s2 h2 =>
      rw [h2] at hc
      exact hc.trans (queueLate_sameWork s2 ..)
    · exact countFault_sameWork s l
    · exact countFault_sameWork s l

theorem postTrap_sameWork (g : Nat) (w : Warp) (u : WUnit) (t : TrapInfo) (flags : Nat) : SameWork s (s.postTrap g w u t flags) := by
  unfold State.postTrap
  split
  · exact postFault_sameWork s ..
  · exact .refl s

theorem postLeave_sameWork (d : Nat) (e : List Byte) : SameWork s (s.postLeave d e) :=
  .ite ((poke_memOnly s ..).sameWork.trans ⟨rfl, rfl, rfl⟩) ⟨rfl, rfl, rfl⟩

end

/-! ## What ends keep -/

/-- No warp appears, and no launch changes its status. -/
structure Spares (s t : State) : Prop where
  gone   : ∀ g, s.warp? g = none → t.warp? g = none
  status : ∀ k, (t.launch? k).map Launch.status = (s.launch? k).map Launch.status

theorem SameWork.spares {s t : State} (h : SameWork s t) : Spares s t := ⟨fun g hg => (h.warp? g).trans hg, fun k => by rw [h.launch? k]⟩

namespace Spares

variable {s t r : State}

theorem refl (s : State) : Spares s s := (SameWork.refl s).spares

theorem trans (h : Spares s t) (h' : Spares t r) : Spares s r := ⟨fun g hg => h'.gone g (h.gone g hg), fun k => (h'.status k).trans (h.status k)⟩

theorem foldl {α : Type} {f : State → α → State} (hf : ∀ s x, Spares s (f s x)) (l : List α) (s : State) : Spares s (l.foldl f s) := by
  induction l generalizing s with
  | nil => exact refl s
  | cons x l ih => exact (hf s x).trans (ih _)

theorem ite {c : Prop} [Decidable c] {a b : State} (ha : Spares s a) (hb : Spares s b) : Spares s (if c then a else b) := by
  split
  · exact ha
  · exact hb

end Spares

section

variable (s : State)

theorem setWarp_spares {g : Nat} {w : Warp} (hw : s.warp? g = some w) (w' : Warp) : Spares s (s.setWarp g w') where
  gone h hh := by
    have hne : g ≠ h := by
      rintro rfl
      rw [hw] at hh
      cases hh
    rwa [warp_setWarp_other s w' hne]
  status _ := rfl

theorem modWarp_spares (g : Nat) (f : Warp → Warp) : Spares s (s.modWarp g f) := by
  unfold State.modWarp
  split
  · next w hw => exact setWarp_spares s hw _
  · exact .refl s

theorem delWarp_spares (g : Nat) : Spares s { s with warps := s.warps.del g } where
  gone h hh := by
    show (s.warps.del g).find? h = none
    rw [find_del]
    split
    · rfl
    · exact hh
  status _ := rfl

theorem modGroup_spares (k : Nat) (f : Group → Group) : Spares s (s.modGroup k f) := by
  unfold State.modGroup
  split
  · exact ⟨fun _ h => h, fun _ => rfl⟩
  · exact .refl s

/-- The statuses of the launches. -/
def State.statuses (s : State) (k : Nat) : Option W64 := (s.launch? k).map Launch.status

theorem modLaunch_launches (k : Nat) (f : Launch → Launch) :
    (s.modLaunch k f).launches = match s.launch? k with
      | some l => s.launches.put k (f l)
      | none => s.launches := by
  unfold State.modLaunch
  cases s.launch? k with
  | none => rfl
  | some l =>
    dsimp only
    split
    · rfl
    · exact (poke_memOnly _ _ _).launches

theorem launch_modLaunch_same {k : Nat} {l : Launch} (hl : s.launch? k = some l) (f : Launch → Launch) : (s.modLaunch k f).launch? k = some (f l) := by
  rw [State.launch?, modLaunch_launches, hl]
  exact find_put_same ..

theorem launch_modLaunch_other {k n : Nat} (hn : k ≠ n) (f : Launch → Launch) : (s.modLaunch k f).launch? n = s.launch? n := by
  rw [State.launch?, modLaunch_launches]
  cases s.launch? k with
  | none => rfl
  | some l => exact find_put_other _ _ hn

theorem launch_modLaunch_none {k : Nat} (hl : s.launch? k = none) (f : Launch → Launch) : (s.modLaunch k f).launch? k = none := by
  rw [State.launch?, modLaunch_launches, hl]
  exact hl

theorem statuses_modLaunch (k : Nat) {f : Launch → Launch} (hf : ∀ l, (f l).status = l.status) : (s.modLaunch k f).statuses = s.statuses := by
  funext n
  unfold State.statuses
  by_cases hn : k = n
  · subst hn
    cases hl : s.launch? k with
    | none => rw [launch_modLaunch_none s hl]
    | some l => rw [launch_modLaunch_same s hl, Option.map_some, Option.map_some, hf]
  · rw [launch_modLaunch_other s hn]

theorem modLaunch_spares (k : Nat) {f : Launch → Launch} (hf : ∀ l, (f l).status = l.status) : Spares s (s.modLaunch k f) where
  gone g hg := by rwa [State.warp?, modLaunch_warps]
  status n := congrFun (statuses_modLaunch s k hf) n

theorem checkGbars_spares (launch lin : Nat) : Spares s (s.checkGbars launch lin) where
  gone g hg := by
    rwa [State.warp?, checkGbars_keeps (p := State.warps) (fun _ _ _ => rfl) (fun s key _ => modLaunch_warps s key _)]
  status n := congrFun (checkGbars_keeps (p := State.statuses) (fun _ _ _ => rfl) (fun s key _ => statuses_modLaunch s key (fun _ => rfl)) s launch lin) n

theorem checkGroup_spares (wg : Nat) : Spares s (s.checkGroup wg) where
  gone g hg := by rwa [State.warp?, checkGroup_warps]
  status n := congrFun (checkGroup_keeps (p := State.statuses) (fun _ _ _ => rfl) (fun s key _ => statuses_modLaunch s key (fun _ => rfl)) s wg) n

theorem settlePreq_memOnly (d : Nat) : MemOnly s (s.settlePreq d) := .ite (setDieReg_memOnly s ..) (.refl s)

theorem reapGroup_spares (wg : Nat) : Spares s (s.reapGroup wg) := by
  unfold State.reapGroup
  cases s.group? wg with
  | none => exact .refl s
  | some k =>
    dsimp only
    refine Spares.ite (.refl s) ?_
    have hfree : Spares s { s.modCore k.core (fun c => freeResources c k) with groups := (s.modCore k.core (fun c => freeResources c k)).groups.del wg } :=
      ⟨fun _ h => h, fun _ => rfl⟩
    have hleft := hfree.trans (settlePreq_memOnly _ (k.core / 48)).sameWork.spares
    split
    · exact hleft
    · refine hleft.trans (Spares.trans ?_ (checkGbars_spares ..))
      exact modLaunch_spares _ _ (fun _ => rfl)

theorem stackFlush_spares (g line : Nat) : Spares s (s.stackFlush g line).1 := by
  unfold State.stackFlush
  split
  · exact .refl s
  · next w hw =>
    extract_lets l drop
    have hdrop : ∀ t, Spares t (drop t) := fun t => modWarp_spares t ..
    split
    · exact hdrop s
    · have hx := xlatCore_memOnly s (coreOf g) (s.rootOf g) (BitVec.ofNat 64 (line * 32)) .write
      split
      · exact .refl s
      · next s1 pa pte addr h =>
        rw [h] at hx
        split
        · exact .refl s
        · have hc := hx.sameWork.trans (cowTouch_sameWork s1 addr)
          split
          · next s2 h2 => rw [h2] at hc; exact hc.spares
          · exact .refl s
          · exact .refl s
          · next s2 h2 =>
            rw [h2] at hc
            refine hc.spares.trans (((touch_memOnly s2 addr true).sameWork.spares.trans (Spares.foldl (fun t i => ?_) _ _)).trans (hdrop _))
            split
            · exact (writeMem_memOnly t ..).sameWork.spares
            · exact .refl t

theorem stackLeave_spares (g line : Nat) : Spares s (s.stackLeave g line) := by
  have hf := stackFlush_spares s g line
  unfold State.stackLeave
  extract_lets l
  split
  · next t h =>
    rw [h] at hf
    split
    · exact hf.trans (Spares.foldl (fun r p => (queueLate_sameWork r ..).spares) _ _)
    · exact hf
  · next t o _ h => rw [h] at hf; exact hf

theorem stackLeaveAll_spares (g : Nat) : Spares s (s.stackLeaveAll g) := by
  unfold State.stackLeaveAll
  split
  · exact .refl s
  · exact Spares.foldl (fun t p => stackLeave_spares t ..) _ _

/-- The workgroup of a warp that is gone: the last steps of its end. -/
theorem leaveSlot_spares {t : State} (h : Spares s t) (g wg : Nat) (f : Group → Group) :
    Spares s (((State.modGroup { t with warps := t.warps.del g } wg f).checkGroup wg).reapGroup wg)
      ∧ (((State.modGroup { t with warps := t.warps.del g } wg f).checkGroup wg).reapGroup wg).warp? g = none := by
  have hrest : Spares { t with warps := t.warps.del g } (((State.modGroup { t with warps := t.warps.del g } wg f).checkGroup wg).reapGroup wg) :=
    (modGroup_spares _ wg f).trans ((checkGroup_spares _ wg).trans (reapGroup_spares _ wg))
  refine ⟨(h.trans (delWarp_spares t g)).trans hrest, hrest.gone g ?_⟩
  show (t.warps.del g).find? g = none
  rw [find_del, if_pos rfl]

/-- A warp that leaves its slot leaves nothing in it, and all else as `Spares` says. -/
theorem reapWarp_spares (g : Nat) : Spares s (s.reapWarp g) ∧ (∀ w, s.warp? g = some w → w.units = [] → w.mops = [] → (s.reapWarp g).warp? g = none) := by
  unfold State.reapWarp
  split
  · next hw => exact ⟨.refl s, fun _ h => by rw [hw] at h; cases h⟩
  · next w hw =>
    split
    · next hstay =>
      refine ⟨.refl s, fun w' hw' hu hm => ?_⟩
      obtain rfl := Option.some.inj (hw.symm.trans hw')
      simp [hu, hm] at hstay
    · extract_lets s1 waiter s2 s3
      have h1 : Spares s s1 := (stackLeaveAll_spares s g).trans (settleLate_sameWork (s.stackLeaveAll g) g (fun _ => true)).spares
      have h3 : Spares s s3 := h1.trans ⟨fun _ h => h, fun _ => rfl⟩
      split
      next lin lidx _ =>
        extract_lets s4 s5 s6
        have h4 : Spares s s4 := h3.trans (postLeave_sameWork s3 ..).spares
        obtain ⟨hspares, hgone⟩ := leaveSlot_spares s h4 g w.wg (fun k => { k with warps := k.warps.map (fun x => if x = some g then none else x) })
        exact ⟨hspares, fun _ _ _ _ => hgone⟩

/-- A warp that loses units keeps the rest as `Spares` says, and is gone where it loses every one and owes no matrix operation. -/
theorem dropUnits_spares (g : Nat) (p : WUnit → Bool) : Spares s (s.dropUnits g p)
    ∧ (∀ w, s.warp? g = some w → w.mops = [] → (∀ u ∈ w.units, p u = true) → (s.dropUnits g p).warp? g = none) := by
  unfold State.dropUnits
  split
  · next hw => exact ⟨.refl s, fun _ h => by rw [hw] at h; cases h⟩
  · next w hw =>
    extract_lets keep s1 s2
    have h2 : s2 = { s1 with focus := s2.focus } := by
      unfold s2
      split
      · split <;> rfl
      · rfl
    have hs2 : Spares s s2 := (setWarp_spares s hw _).trans (by rw [h2]; exact ⟨fun _ h => h, fun _ => rfl⟩)
    have hw2 : s2.warp? g = some { w with units := keep } := by
      rw [h2]
      exact warp_setWarp s g _
    have hreap := reapWarp_spares (s2.modCore (coreOf g) (fun c => { c with split := c.split.filter (fun p => p.2.warp ≠ g) })) g
    split
    · next hempty => exact ⟨(hs2.trans (modCore_memOnly s2 ..).sameWork.spares).trans hreap.1, fun w' hw' hm _ => by
        obtain rfl := Option.some.inj (hw.symm.trans hw')
        exact hreap.2 _ hw2 (List.isEmpty_iff.mp hempty) hm⟩
    · next hempty =>
      refine ⟨hs2, fun w' hw' _ hall => ?_⟩
      obtain rfl := Option.some.inj (hw.symm.trans hw')
      have hkeep : keep = [] := List.filter_eq_nil_iff.mpr fun u hu => by simp [hall u hu]
      rw [hkeep] at hempty
      exact absurd rfl hempty

theorem endGroup_spares (wg : Nat) : Spares s (s.endGroup wg) := by
  unfold State.endGroup
  split
  · exact .refl s
  · next k hk =>
    have hset : Spares s (s.setGroup wg { k with ending := true }) := ⟨fun _ h => h, fun _ => rfl⟩
    exact (hset.trans (Spares.foldl (fun t g => (dropUnits_spares t g _).1) _ _)).trans ((checkGroup_spares ..).trans (reapGroup_spares ..))

/-- A warp that halts is gone, and its launch has the status of its first failure. -/
theorem haltWarp_ends {s : State} {g code : Nat} {w : Warp} {k : Group} {l : Launch} (hw : s.warp? g = some w) (hm : w.mops = []) (hk : s.group? w.wg = some k)
    (hl : s.launch? k.launch = some l) :
    (s.haltWarp g code).warp? g = none ∧ ((s.haltWarp g code).launch? k.launch).map Launch.status = some (l.fail code).status := by
  unfold State.haltWarp
  rw [hw]
  dsimp only
  rw [hk]
  dsimp only
  have hw1 : (s.modLaunch k.launch (fun l => l.fail code)).warp? g = some w := by
    rw [State.warp?, modLaunch_warps]
    exact hw
  obtain ⟨hdrop, hgone⟩ := dropUnits_spares (s.modLaunch k.launch (fun l => l.fail code)) g (fun _ => true)
  have hend := endGroup_spares ((s.modLaunch k.launch (fun l => l.fail code)).dropUnits g (fun _ => true)) w.wg
  refine ⟨hend.gone g (hgone w hw1 hm (fun _ _ => rfl)), ?_⟩
  rw [hend.status, hdrop.status, launch_modLaunch_same s hl, Option.map_some]

end

/-! ## Taking the trap -/

/-- The end of a stroke that nothing watches keeps the unit in its warp, whichever unit holds the issue slot. -/
theorem endStroke_unwatched {s : State} {g sub : Nat} {w : Warp} {u : WUnit} (hw : s.warp? g = some w) (hu : unitOf w.units sub = some u) (hq : Quiet s g w)
    (e : StrokeEnd) (st : USt) :
    s.endStroke g sub e st = { s.setWarp g (stopWarp w sub st) with focus := if s.focus = some (g, sub) then none else s.focus } := by
  have hstep : s.stepping g sub = false := by simp [State.stepping, hq.debug]
  have htrace : ∀ q, s.traced (coreOf g) q = false := fun q => by simp only [State.traced, hq.trace, Bool.false_and]
  unfold State.endStroke
  simp only [State.unit?, hw, Option.bind_some, hu, State.noteStep, hstep, htrace, Bool.false_eq_true, if_false, State.modUnit]
  rw [modWarp_of hw]
  change (if s.focus = some (g, sub) then _ else _) = _
  split <;> rfl

/-- Where no handler runs and replay does not resolve the trap, it is the end of the stroke and a halt. -/
theorem takeTrap_eq_haltTrap {s : State} {g sub : Nat} {w : Warp} {u : WUnit} {t : TrapInfo} (hw : s.warp? g = some w) (hu : unitOf w.units sub = some u)
    (hlooks : u.looks = []) (hq : Quiet s g w) (hreplay : t.replay = false)
    (hno : w.traph = 0 ∨ t.handled = false ∨ w.handler = true ∨ (t.cls = 10 ∧ w.grace = true)) :
    ∃ flags, s.takeTrap g sub t = (s.endStroke g sub (.trap t.cls) .ready).haltTrap g sub t flags := by
  have howes : (s.unit? g sub).any WUnit.owes = false := by simp [State.unit?, hw, hu, WUnit.owes, hlooks]
  have hforce : s.forceLooks g sub = s := writeLooks_nil hw hu hlooks _
  have hw1 : (s.endStroke g sub (.trap t.cls) .ready).warp? g = some (stopWarp w sub .ready) := by
    rw [endStroke_unwatched hw hu hq]
    exact warp_setWarp s g _
  have hstays : (s.endStroke g sub (.trap t.cls) .ready).endsNow (stopWarp w sub .ready) = false := by
    rw [endStroke_unwatched hw hu hq]
    show (s.group? w.wg).any _ = false
    cases hk : s.group? w.wg with
    | none => rfl
    | some k => exact hq.group k hk
  have hhandler : ((stopWarp w sub .ready).traph ≠ 0 && t.handled && !(stopWarp w sub .ready).handler && !(t.cls = 10 && (stopWarp w sub .ready).grace)) = false := by
    show (w.traph ≠ 0 && t.handled && !w.handler && !(t.cls = 10 && w.grace)) = false
    rcases hno with h | h | h | ⟨h, h'⟩
    · simp [h]
    · simp [h]
    · simp [h]
    · simp [h, h']
  unfold State.takeTrap
  rw [howes, hforce]
  dsimp only
  rw [hw1]
  dsimp only
  rw [hstays, hreplay, hhandler]
  exact ⟨_, rfl⟩

theorem unitOf_stopWarp {w : Warp} {sub : Nat} {u : WUnit} (hu : unitOf w.units sub = some u) (st : USt) :
    unitOf (stopWarp w sub st).units sub = some { u with st := st, count := 0, xsets := [] } :=
  (unitOf_modUnitOf w.units sub (fun u => { u with st := st, count := 0, xsets := [] }) (fun _ => rfl)).trans (by rw [hu]; rfl)

/-- A trap that ends in a halt takes the warp away and fails its launch. -/
theorem takeTrap_endsWarp : haltingTrapEndsWarp := by
  intro s g sub w u t k l hw hu hlooks hq hm hk hl hreplay hno
  obtain ⟨flags, htrap⟩ := takeTrap_eq_haltTrap hw hu hlooks hq hreplay hno
  rw [htrap, endStroke_unwatched hw hu hq]
  generalize hr : { s.setWarp g (stopWarp w sub .ready) with focus := if s.focus = some (g, sub) then none else s.focus } = r
  have hw1 : r.warp? g = some (stopWarp w sub .ready) := by rw [← hr]; exact warp_setWarp s g _
  have hu1 : r.unit? g sub = some { u with st := .ready, count := 0, xsets := [] } := by
    rw [State.unit?, hw1, Option.bind_some, unitOf_stopWarp hu]
  have hk1 : r.group? w.wg = some k := by rw [← hr]; exact hk
  have hl1 : r.launch? k.launch = some l := by rw [← hr]; exact hl
  have hhalt : r.haltTrap g sub t flags = (r.postTrap g (stopWarp w sub .ready) { u with st := .ready, count := 0, xsets := [] } t flags).haltWarp g (if t.cls = 10 then stWDOG else stHALTED) := by
    rw [State.haltTrap, hw1, hu1]
  have hpost := postTrap_sameWork r g (stopWarp w sub .ready) { u with st := .ready, count := 0, xsets := [] } t flags
  obtain ⟨hgone, hstatus⟩ := haltWarp_ends (code := if t.cls = 10 then stWDOG else stHALTED) ((hpost.warp? g).trans hw1) hm ((hpost.group? _).trans hk1)
    ((hpost.launch? _).trans hl1)
  rw [hhalt]
  refine ⟨hgone, ?_⟩
  obtain ⟨l', hl', hst⟩ := Option.map_eq_some_iff.mp hstatus
  refine ⟨l', hl', hst.trans ?_⟩
  rw [Launch.fail]
  by_cases h0 : l.status = 0
  · rw [if_pos h0, if_pos h0]
    split <;> rfl
  · rw [if_neg h0, if_neg h0]

/-- Settles O40: a halt takes the warp from its slot and fails its launch, and a record's fields stand at their places. -/
theorem haltingTraps : Obligations.HaltingTraps := by
  unfold Obligations.HaltingTraps
  exact ⟨takeTrap_endsWarp, faultBytes_layout⟩

end Sys2Proof.Machine
end

section
/-! SUPPORT. The transcendental pipe (R235): results that are outstanding, named by the values of the operands. -/

namespace Sys2Proof.Machine

open Sys2Proof.Claims

/-- Two functions of a lane agree on the lanes of a warp. -/
def SameLanes (f f' : Nat → W64) : Prop := ∀ l, l < 32 → f l = f' l

/-- Two lists of results agree, one by one. -/
def SameResults (vals vals' : List (Nat → W64)) : Prop := List.Forall₂ SameLanes vals vals'

theorem SameResults.getElem? {vals vals' : List (Nat → W64)} (h : SameResults vals vals') {i : Nat} {f : Nat → W64} (hf : vals[i]? = some f) :
    ∃ f', vals'[i]? = some f' ∧ SameLanes f f' := by
  induction h generalizing i with
  | nil => cases hf
  | cons hd _ ih =>
    cases i with
    | zero =>
      obtain rfl : _ = f := by simpa using hf
      exact ⟨_, rfl, hd⟩
    | succ i => exact ih (by simpa using hf)

/-- What is owed depends on the results only in the lanes of a warp. -/
theorem Owes.congr {k : Look} {la : Nat} {m fl : W32} {vals vals' : List (Nat → W64)} {mk : Nat → Dest} {val : (Nat → W64) → Nat → W64}
    (hv : SameResults vals vals') (hval : ∀ f f', SameLanes f f' → SameLanes (val f) (val f'))
    (h : Owes k la m fl (vals.zipIdx.map (fun p => (mk p.2, val p.1)))) : Owes k la m fl (vals'.zipIdx.map (fun p => (mk p.2, val p.1))) := by
  obtain ⟨h1, h2, h3, h4, h5, hkeys, hvals⟩ := h
  refine ⟨h1, h2, h3, h4, h5, hkeys.trans ?_, fun d v hd => ?_⟩
  · have hlen : vals.length = vals'.length := List.Forall₂.length_eq hv
    apply List.ext_getElem
    · simp [hlen]
    · intro i _ _
      simp
  · obtain ⟨f, hf, hat⟩ := hvals d v hd
    obtain ⟨⟨f0, i⟩, hi, hdf⟩ := List.mem_map.mp hf
    obtain ⟨rfl, rfl⟩ := Prod.mk.inj hdf
    obtain ⟨f', hf', hsame⟩ := hv.getElem? (List.mem_zipIdx_iff_getElem?.mp hi)
    refine ⟨val f', List.mem_map.mpr ⟨(f', i), List.mem_zipIdx_iff_getElem?.mpr hf', rfl⟩, fun l hl hor => ?_⟩
    exact (hat l hl hor).trans (hval _ _ hsame l hl)

/-- What is said of an outstanding result may be weakened. -/
theorem After.late_mono {s t : State} {g sub : Nat} {w w' : Warp} {u u' : WUnit} {r : Res} {p p' : Look → Prop}
    (h : After s t g sub w w' u u' { r with late := some p }) (hp : ∀ k, p k → p' k) : After s t g sub w w' u u' { r with late := some p' } :=
  { rest := h.rest, warps := h.warps, here := h.here, unit := h.unit, warp := h.warp, others := h.others, vec := h.vec, sca := h.sca, wgs := h.wgs,
    group := h.group, groups := h.groups, preds := h.preds, fpsr := h.fpsr, wstat := h.wstat, exec := h.exec, pc := h.pc, owned := h.owned,
    stroke := h.stroke
    looks := by
      obtain ⟨k, hk, hpk⟩ := h.looks
      exact ⟨k, hk, hp k hpk⟩ }

/-- A result outstanding, under another name for its values. -/
theorem After.owed_congr {s t : State} {g sub : Nat} {w w' : Warp} {u u' : WUnit} {r : Res} {la : Nat} {d : Operand} {vals vals' : List (Nat → W64)} {fl : W32}
    (h : After s t g sub w w' u u' (r.owed la d vals fl)) (hv : SameResults vals vals') : After s t g sub w w' u u' (r.owed la d vals' fl) := by
  unfold Res.owed at h ⊢
  by_cases h0 : r.act = 0
  · rwa [if_pos h0] at h ⊢
  · rw [if_neg h0] at h ⊢
    have hlow : ∀ f f', SameLanes f f' → SameLanes (fun _ => f ((lowLane r.act).getD 0)) (fun _ => f' ((lowLane r.act).getD 0)) :=
      fun f f' hf _ _ => hf _ (lowLane_lt r.act)
    cases d with
    | v n => exact h.late_mono fun k => Owes.congr hv (mk := fun i => .v (n.toNat + i)) (val := id) (fun _ _ hf => hf)
    | s n => exact h.late_mono fun k => Owes.congr hv (mk := fun i => .s (n.toNat + i)) (val := fun f _ => f ((lowLane r.act).getD 0)) hlow
    | w n => exact h.late_mono fun k => Owes.congr hv (mk := fun i => .w (n.toNat + i)) (val := fun f _ => f ((lowLane r.act).getD 0)) hlow
    | _ => exact h

variable {s : State} {g sub : Nat} {w : Warp} {u : WUnit}

/-- A long-latency job of an instruction with single-register sources and `n` destinations. -/
def longJob (x : Op) (n : Nat) (run : Ctx → Run) : Job := { jobOf x x.bytes run with long := true, dests := x.d.run n }

theorem resJob_longJob (x : Op) (n : Nat) (run : Ctx → Run) : resJob w u (longJob x n run) = Res.runs w u x x.bytes 1 1 1 n := rfl

/-- A long-latency instruction whose results, in consecutive destinations, are known lane by lane with their flags. -/
theorem after_long {x : Op} {run : Ctx → Run} {vs : List Lanes} {fl flags : W32} {vals : List (Nat → W64)} (hne : vs ≠ [])
    (hc : CanIssue s g sub w u (Res.runs w u x x.bytes 1 1 1 vs.length) x.e (x.d.run vs.length))
    (hrun : run (issueCtx s g sub w u (longJob x vs.length run)) = .go ((issueCtx s g sub w u (longJob x vs.length run)).putRun x.d vs fl))
    (hv : SameResults (vs.map Lanes.at) vals) (hf : fl = flags) :
    ∃ w' u', After s (s.issue (longJob x vs.length run)) g sub w w' u u' ((Res.runs w u x x.bytes 1 1 1 vs.length).owed x.la.toNat x.d vals flags) := by
  have hentry : ((longJob x vs.length run).hdr.e || (longJob x vs.length run).entry) = x.e := Bool.or_false _
  obtain ⟨w', u', h⟩ := after_owed (j := longJob x vs.length run) (by rw [hentry]; exact hc) ⟨rfl, rfl, rfl⟩ rfl hne (fun _ hn => hn) hrun
  subst hf
  exact ⟨w', u', h.owed_congr hv⟩

/-- A long-latency instruction whose one result is known lane by lane with its flags. -/
theorem after_long_one {x : Op} {run : Ctx → Run} {v : Lanes} {fl flags : W32} {val : Nat → W64} (hc : CanIssue s g sub w u (Res.plain w u x x.bytes) x.e (x.d.run 1))
    (hrun : run (issueCtx s g sub w u (longJob x 1 run)) = .go ((issueCtx s g sub w u (longJob x 1 run)).put x.d v fl))
    (hv : SameLanes v.at val) (hf : fl = flags) :
    ∃ w' u', After s (s.issue (longJob x 1 run)) g sub w w' u u' ((Res.plain w u x x.bytes).owed x.la.toNat x.d [val] flags) := by
  rw [put_eq_putRun] at hrun
  exact after_long (vs := [v]) (List.cons_ne_nil _ _) hc hrun (.cons hv .nil) hf

/-- An instruction of the pipe whose second source is a number in the format of the first (R235). -/
theorem after_pipeJob {code : Nat} {x : Op} {f : W32 → W64 → W64 → Nat × W32} (hc : CanIssue s g sub w u (Res.plain w u x x.bytes) x.e (x.d.run 1)) :
    ∃ w' u', After s (s.issue (pipeJob code x f)) g sub w w' u u' ((Res.plain w u x x.bytes).owed x.la.toNat x.d
      [fun l => BitVec.ofNat 64 (f w.fpcr (opFval code w u x.lit l x.a) (opFval code w u x.lit l x.b)).1]
      (laneFlags (guardMask w u.exec x.grd) (fun l => (f w.fpcr (opFval code w u x.lit l x.a) (opFval code w u x.lit l x.b)).2))) := by
  refine after_long_one hc rfl (fun l hl => ?_) (orFlags_eq _ _ _ fun l hl => ?_)
  · rw [at_lane _ _ hl, at_fsrc hc.now _ _ _ _ hl, at_fsrc hc.now _ _ _ _ hl, ctx_fpcr]
  · rw [getD_lane _ _ hl, at_fsrc hc.now _ _ _ _ hl, at_fsrc hc.now _ _ _ _ hl, ctx_fpcr]

/-- FSIN and FCOS, whose second source is a number of quarter turns (R235). -/
theorem after_trigJob {fn code turn : Nat} {x : Op} (hc : CanIssue s g sub w u (Res.plain w u x x.bytes) x.e (x.d.run 1)) :
    ∃ w' u', After s (s.issue (trigJob fn code turn x)) g sub w w' u u' ((Res.plain w u x x.bytes).owed x.la.toNat x.d
      [fun l => BitVec.ofNat 64 (sinQuad fn code (opFval code w u x.lit l x.a) (BitVec.ofNat 64 ((opVal w u x.lit l x.b).toNat % 4)) ((opVal w u x.lit l x.b).toNat % 4 + turn)).1]
      (laneFlags (guardMask w u.exec x.grd) (fun l =>
        (sinQuad fn code (opFval code w u x.lit l x.a) (BitVec.ofNat 64 ((opVal w u x.lit l x.b).toNat % 4)) ((opVal w u x.lit l x.b).toNat % 4 + turn)).2))) := by
  refine after_long_one hc rfl (fun l hl => ?_) (orFlags_eq _ _ _ fun l hl => ?_)
  · rw [at_lane _ _ hl, at_fsrc hc.now _ _ _ _ hl, at_src hc.now _ _ _ hl]
  · rw [getD_lane _ _ hl, at_fsrc hc.now _ _ _ _ hl, at_src hc.now _ _ _ hl]

/-- FRED (R144). -/
theorem after_fredJob {code : Nat} {x : Op} (hc : CanIssue s g sub w u (Res.runs w u x x.bytes 1 1 1 2) x.e (x.d.run 2)) :
    ∃ w' u', After s (s.issue (fredJob code x)) g sub w w' u u' ((Res.runs w u x x.bytes 1 1 1 2).owed x.la.toNat x.d
      [fun l => BitVec.ofNat 64 (fredPat code (opFval code w u x.lit l x.a)).1, fun l => BitVec.ofNat 64 (fredPat code (opFval code w u x.lit l x.a)).2.1]
      (laneFlags (guardMask w u.exec x.grd) (fun l => (fredPat code (opFval code w u x.lit l x.a)).2.2))) := by
  generalize hr : laneIds.map (fun l => fredPat code (((issueCtx s g sub w u (fredJob code x)).fsrc code x.lit x.a).at l)) = r
  refine after_long (vs := [r.map (fun p => BitVec.ofNat 64 p.1), r.map (fun p => BitVec.ofNat 64 p.2.1)])
    (fl := orFlags (issueCtx s g sub w u (fredJob code x)) (fun l => (r.getD l (0, 0, 0)).2.2)) (List.cons_ne_nil _ _) hc (by rw [← hr]; rfl)
    (.cons (fun l hl => ?_) (.cons (fun l hl => ?_) .nil)) (orFlags_eq _ _ _ fun l hl => ?_)
  · rw [← hr, at_lane _ _ hl, at_fsrc hc.now _ _ _ _ hl]
  · rw [← hr, at_lane _ _ hl, at_fsrc hc.now _ _ _ _ hl]
  · rw [← hr, getD_lane _ _ hl, at_fsrc hc.now _ _ _ _ hl]

section

variable (f : Fmt2) (x : Op) (s : State)

theorem exec_frcp : exec (.frcp f x) s = .next (s.issue (pipeJob f.code x (fun _ a _ => frcpPat f.code a))) := rfl
theorem exec_frsq : exec (.frsq f x) s = .next (s.issue (pipeJob f.code x (fun _ a _ => frsqPat f.code a))) := rfl
theorem exec_fsqrt : exec (.fsqrt f x) s = .next (s.issue (pipeJob f.code x (fun fpcr a _ => fsqrtPat f.code (Rnd.select x.mod.toNat fpcr) a))) := rfl
theorem exec_fdivf : exec (.fdivf f x) s = .next (s.issue (pipeJob f.code x (fun _ a b => fdivfPat f.code a b))) := rfl
theorem exec_fsin : exec (.fsin f x) s = .next (s.issue (trigJob fnSin f.code 0 x)) := rfl
theorem exec_fcos : exec (.fcos f x) s = .next (s.issue (trigJob fnCos f.code 1 x)) := rfl
theorem exec_fexp2 : exec (.fexp2 f x) s = .next (s.issue (pipeJob f.code x (fun _ a _ => fexp2Pat f.code a))) := rfl
theorem exec_flog2 : exec (.flog2 f x) s = .next (s.issue (pipeJob f.code x (fun _ a _ => flog2Pat f.code a))) := rfl
theorem exec_fred : exec (.fred f x) s = .next (s.issue (fredJob f.code x)) := rfl

end

/-- Every instruction of the pipe leaves its result outstanding. -/
theorem issue_transcendentalPipe : transcendentalPipe := by
  intro i x pipe code hi s g sub w u hc
  cases hi with
  | rcp f x =>
    obtain ⟨w', u', h⟩ := after_pipeJob (f := fun _ a _ => frcpPat f.code a) hc
    exact ⟨_, w', u', exec_frcp f x s, h⟩
  | rsq f x =>
    obtain ⟨w', u', h⟩ := after_pipeJob (f := fun _ a _ => frsqPat f.code a) hc
    exact ⟨_, w', u', exec_frsq f x s, h⟩
  | sqrt f x =>
    obtain ⟨w', u', h⟩ := after_pipeJob (f := fun fpcr a _ => fsqrtPat f.code (Rnd.select x.mod.toNat fpcr) a) hc
    exact ⟨_, w', u', exec_fsqrt f x s, h⟩
  | div f x =>
    obtain ⟨w', u', h⟩ := after_pipeJob (f := fun _ a b => fdivfPat f.code a b) hc
    exact ⟨_, w', u', exec_fdivf f x s, h⟩
  | sin f x =>
    obtain ⟨w', u', h⟩ := after_trigJob (fn := fnSin) (code := f.code) (turn := 0) hc
    exact ⟨_, w', u', exec_fsin f x s, h⟩
  | cos f x =>
    obtain ⟨w', u', h⟩ := after_trigJob (fn := fnCos) (code := f.code) (turn := 1) hc
    exact ⟨_, w', u', exec_fcos f x s, h⟩
  | exp2 f x =>
    obtain ⟨w', u', h⟩ := after_pipeJob (f := fun _ a _ => fexp2Pat f.code a) hc
    exact ⟨_, w', u', exec_fexp2 f x s, h⟩
  | log2 f x =>
    obtain ⟨w', u', h⟩ := after_pipeJob (f := fun _ a _ => flog2Pat f.code a) hc
    exact ⟨_, w', u', exec_flog2 f x s, h⟩

theorem issue_fredWritesTwo : fredWritesTwo := by
  intro f x s g sub w u hc
  obtain ⟨w', u', h⟩ := after_fredJob (code := f.code) hc
  exact ⟨_, w', u', exec_fred f x s, h⟩

/-- Settles O30: each job of the pipe is a long-latency run of results, known lane by lane. -/
theorem transcendentalResults : Obligations.TranscendentalResults := by
  unfold Obligations.TranscendentalResults
  exact ⟨issue_transcendentalPipe, issue_fredWritesTwo⟩

end Sys2Proof.Machine
end

section
/-! SUPPORT. An instruction with effects beyond its unit (`Leaves`): issuing it is issuing, in the state that its effects have made, one whose effect is its
results alone. -/

namespace Sys2Proof.Machine

open Sys2Proof.Claims

/-- The job whose effect is known: it makes no check, and its run gives `f`. -/
def justGo (j : Job) (f : Fin) : Job := { j with decode := noCheck, uniform := noCheck, late := false, run := fun _ => .go f }

theorem entersAt_entry (w : Warp) (u : WUnit) (e : Bool) : entersAt (entryUnit w u (entersAt u e)) e = false := by
  cases h : entersAt u e with
  | false => exact h
  | true => exact Bool.and_false _

/-- State `s1` is the state at issue with an instruction's effects beyond its unit: the unit stands in warp `w1` of it as the region entry left it, and the
names and the predicates of the warp are as they were. -/
structure Entered (s s1 : State) (g sub : Nat) (w w1 : Warp) (u : WUnit) (j : Job) : Prop where
  now   : AtIssue s1 g sub w1 (entryUnit w u (entersAt u (j.hdr.e || j.entry)))
  quiet : Quiet s1 g w1
  preds : w1.preds = w.preds
  names : w1.names = w.names

section

variable {s s1 : State} {g sub : Nat} {w w1 : Warp} {u : WUnit} {j : Job} {f : Fin}

theorem Entered.mapped (h : Entered s s1 g sub w w1 u j) (n : Nat) : w1.mapped n = w.mapped n := by rw [Warp.mapped, h.names]; rfl

theorem Entered.guardMask_eq (h : Entered s s1 g sub w w1 u j) (m : W32) (grd : Option Guard) : guardMask w1 m grd = guardMask w m grd := by
  cases grd with
  | none => rfl
  | some d => simp only [guardMask, Warp.pred, h.preds]

/-- What the instruction sees in the state its effects have made. -/
theorem Entered.issueCtx_eq (h : Entered s s1 g sub w w1 u j) :
    issueCtx s1 g sub w1 (entryUnit w u (entersAt u (j.hdr.e || j.entry))) (justGo j f) = { issueCtx s g sub w u j with s := s1, w := w1 } := by
  have he : entersAt (entryUnit w u (entersAt u (j.hdr.e || j.entry))) ((justGo j f).hdr.e || (justGo j f).entry) = false := entersAt_entry w u _
  have hs : s1.setWarp g (entryWarp w1 sub false) = s1 := setWarp_same h.now.warp
  have hact : guardMask w1 (entryUnit w u (entersAt u (j.hdr.e || j.entry))).exec (justGo j f).hdr.grd = guardMask w u.exec j.hdr.grd := by
    rw [exec_entry]
    exact h.guardMask_eq u.exec j.hdr.grd
  unfold issueCtx
  rw [he]
  dsimp only
  rw [hs, hact]
  rfl

/-- A step of no debugger. -/
theorem Quiet.stepping {s : State} {g : Nat} {w : Warp} (h : Quiet s g w) (sub : Nat) : s.stepping g sub = false := by simp [State.stepping, h.debug]

/-- The end of an instruction sees of its state and its warp only which names are mapped, and whether a debugger steps the unit. -/
theorem finish_justGo {c : Ctx} {s1 : State} {w1 : Warp} (hmap : ∀ n, w1.mapped n = c.w.mapped n) (hstep : s1.stepping c.g c.sub = c.s.stepping c.g c.sub) :
    Ctx.finish { c with s := s1, w := w1 } (justGo j f) f = c.finish j f := by
  unfold Ctx.finish
  simp only [hmap, hstep]
  rfl

/-- An instruction that passes its checks with effect `f` leaves what the known effect leaves. -/
theorem issue_eq_justGo (h : AtIssue s g sub w u) (hq : Quiet s g w) (hin : Entered s s1 g sub w w1 u j) (hdec : j.decode (decodeCtx s g sub w u j) = none)
    (hex : (issueCtx s g sub w u j).execute j = (issueCtx s g sub w u j).finish j f)
    (hex1 : ∀ c, c = issueCtx s1 g sub w1 (entryUnit w u (entersAt u (j.hdr.e || j.entry))) (justGo j f) → c.execute (justGo j f) = c.finish (justGo j f) f) :
    s.issue j = s1.issue (justGo j f) := by
  rw [issue_eq h hq j hdec, hex, issue_eq hin.now hin.quiet (justGo j f) rfl, hex1 _ rfl, hin.issueCtx_eq]
  refine (finish_justGo (fun n => ?_) ?_).symm
  · exact (hin.mapped n).trans (mapped_entry w sub _ n).symm
  · exact (hin.quiet.stepping sub).trans (Quiet.stepping (s := s.setWarp g _) (w := w) ⟨hq.debug, hq.trace, hq.group, hq.late⟩ sub).symm

/-- What an instruction's properties give is the same in the state its effects have made. -/
theorem Entered.resJob_eq (h : Entered s s1 g sub w w1 u j) :
    resJob w1 (entryUnit w u (entersAt u (j.hdr.e || j.entry))) (justGo j f) = resJob w u j := by
  have hpred : w1.pred = w.pred := by
    funext k
    rw [Warp.pred, h.preds]
    rfl
  unfold resJob
  have hact : guardMask w1 u.exec (justGo j f).hdr.grd = guardMask w u.exec j.hdr.grd := h.guardMask_eq u.exec j.hdr.grd
  rw [exec_entry, hpred, hact]
  cases entersAt u (j.hdr.e || j.entry) <;> rfl

theorem Entered.canIssue {ns : List Nat} (h : Entered s s1 g sub w w1 u j) (hr : guardMask w u.exec j.hdr.grd = 0 ∨ ReadsOk w j.reads) (hwstat : w1.wstat = w.wstat)
    (hroom : Room s1 g w1 (guardMask w u.exec j.hdr.grd) ns) :
    CanIssue s1 g sub w1 (entryUnit w u (entersAt u (j.hdr.e || j.entry))) (resJob w1 (entryUnit w u (entersAt u (j.hdr.e || j.entry))) (justGo j f))
      ((justGo j f).hdr.e || (justGo j f).entry) ns := by
  have he : entersAt (entryUnit w u (entersAt u (j.hdr.e || j.entry))) ((justGo j f).hdr.e || (justGo j f).entry) = false := entersAt_entry w u _
  rw [h.resJob_eq]
  refine ⟨h.now, h.quiet, hr.imp_right (Or.imp (fun hr => ?_) (fun hr n hn => ?_)), ?_⟩
  · rw [hwstat]
    exact hr
  · rw [h.mapped]
    exact hr n hn
  · rw [he]
    exact hroom

/-- A long-latency instruction that has made `s1` of its state leaves its results outstanding there. -/
theorem leaves_owed {d : Operand} {vs : List Lanes} {fl : W32} (hc : CanIssue s g sub w u (resJob w u j) (j.hdr.e || j.entry) (d.run vs.length))
    (hck : Passes j (decodeCtx s g sub w u j) (issueCtx s g sub w u j)) (hin : Entered s s1 g sub w w1 u j)
    (hroom : Room s1 g w1 (guardMask w u.exec j.hdr.grd) (d.run vs.length)) (hwstat : w1.wstat = w.wstat) (hl : j.long = true) (hne : vs ≠ [])
    (hd : ∀ n ∈ d.run vs.length, n ∈ j.dests)
    (hrun : j.run (issueCtx s g sub w u j) = .go (Ctx.putRun { issueCtx s g sub w u j with s := s1 } d vs fl)) :
    Leaves s1 (s.issue j) g sub ((resJob w u j).owed j.hdr.la d (vs.map Lanes.at) fl) := by
  have hex := execute_run (fl := fl) hc hck hrun (by cases d <;> rfl) (by cases d <;> rfl)
  have hc1 := hin.canIssue (f := Ctx.putRun { issueCtx s g sub w u j with s := s1 } d vs fl) hc.reads hwstat hroom
  have hrun1 : ∀ c, c = issueCtx s1 g sub w1 (entryUnit w u (entersAt u (j.hdr.e || j.entry))) (justGo j (Ctx.putRun { issueCtx s g sub w u j with s := s1 } d vs fl)) →
      (justGo j (Ctx.putRun { issueCtx s g sub w u j with s := s1 } d vs fl)).run c = .go (c.putRun d vs fl) := by
    rintro c rfl
    rw [hin.issueCtx_eq]
    cases d <;> rfl
  obtain ⟨w', u', ha⟩ := after_owed hc1 ⟨rfl, rfl, rfl⟩ hl hne hd (hrun1 _ rfl)
  refine ⟨w1, _, s.issue j, w', u', hin.now.warp, hin.now.unit, ?_, rfl⟩
  rw [issue_eq_justGo hc.now hc.quiet hin hck.decode hex ?_]
  · rw [hin.resJob_eq] at ha
    exact ha
  · rintro c rfl
    exact execute_run (fl := fl) hc1 ⟨rfl, rfl, rfl⟩ rfl (by rw [hin.issueCtx_eq]; cases d <;> rfl) (by rw [hin.issueCtx_eq]; cases d <;> rfl)

theorem Entered.state_eq (h : Entered s s1 g sub w w1 u j) :
    s1 = s1.setWarp g { entryWarp w1 sub (entersAt (entryUnit w u (entersAt u (j.hdr.e || j.entry))) ((justGo j f).hdr.e || (justGo j f).entry)) with
      preds := w1.preds } := by
  have he : entersAt (entryUnit w u (entersAt u (j.hdr.e || j.entry))) ((justGo j f).hdr.e || (justGo j f).entry) = false := entersAt_entry w u _
  rw [he]
  exact (setWarp_same h.now.warp).symm

/-- A region entry maps no name and unmaps none. -/
theorem readsOk_entry {ns : List Nat} (h : ReadsOk w ns) (sub : Nat) (e : Bool) : ReadsOk (entryWarp w sub e) ns := by
  have hwstat : (entryWarp w sub e).wstat = w.wstat := by cases e <;> rfl
  unfold ReadsOk
  rw [hwstat]
  simp only [mapped_entry]
  exact h

/-- What an instruction sees at issue, in the state with its region entry. -/
theorem issueCtx_entered {e : Bool} (he : (j.hdr.e || j.entry) = e) : issueCtx s g sub w u j
    = ⟨entered s g sub w u e, g, sub, entryWarp w sub (entersAt u e), entryUnit w u (entersAt u e), guardMask w u.exec j.hdr.grd, j.hdr.len⟩ := by
  rw [← he]
  rfl

/-- An instruction that names no result completes. -/
theorem execute_nil {t : State} (hr : guardMask w u.exec j.hdr.grd = 0 ∨ ReadsOk w j.reads) (hck : Passes j (decodeCtx s g sub w u j) (issueCtx s g sub w u j))
    (hrun : j.run (issueCtx s g sub w u j) = .go (Fin.nil t)) :
    (issueCtx s g sub w u j).execute j = (issueCtx s g sub w u j).finish j (Fin.nil t) := by
  exact execute_go hck.uniform (hr.imp_right (readsOk_entry · sub _)) hck.late hrun (.inl rfl)

/-- An instruction that has made `s1` of its state, and has no result, leaves that. -/
theorem leaves_nil (hc : AtIssue s g sub w u) (hq : Quiet s g w) (hr : guardMask w u.exec j.hdr.grd = 0 ∨ ReadsOk w j.reads)
    (hck : Passes j (decodeCtx s g sub w u j) (issueCtx s g sub w u j)) (hin : Entered s s1 g sub w w1 u j) (hwstat : w1.wstat = w.wstat)
    (hrun : j.run (issueCtx s g sub w u j) = .go (Fin.nil s1)) : Leaves s1 (s.issue j) g sub (resJob w u j) := by
  have hex := execute_nil hr hck hrun
  have hc1 := hin.canIssue (f := Fin.nil s1) (ns := []) hr hwstat (.inr (.inl rfl))
  have hex1 := execute_nil (s := s1) (g := g) (sub := sub) (j := justGo j (Fin.nil s1)) hc1.reads ⟨rfl, rfl, rfl⟩ rfl
  obtain ⟨w', u', ha⟩ := after_plain (P := w1.preds) hc1.now hc1.quiet hin.now.warp hin.quiet hin.now.focus hc1.reads ⟨rfl, rfl, rfl⟩ rfl ⟨rfl, rfl, rfl⟩
    (.inr ⟨.inl rfl, rfl⟩) hin.state_eq rfl rfl (fun _ => rfl)
  refine ⟨w1, _, s.issue j, w', u', hin.now.warp, hin.now.unit, ?_, rfl⟩
  rw [issue_eq_justGo hc hq hin hck.decode hex ?_]
  · have hres : After s1 _ g sub w1 w' _ u' (resJob w1 (entryUnit w u (entersAt u (j.hdr.e || j.entry))) (justGo j (Fin.nil s1))) := ha
    rw [hin.resJob_eq] at hres
    exact hres
  · rintro c rfl
    exact hex1

/-- The effects beyond the unit leave its warp's units, names, predicates and workgroup, and what a stroke's end looks at, as the region entry left them. -/
theorem Entered.of (h : AtIssue s g sub w u) (hq : Quiet s g w) (hfocus : s1.focus = s.focus) (hw1 : s1.warp? g = some w1)
    (hunits : w1.units = (entryWarp w sub (entersAt u (j.hdr.e || j.entry))).units) (hpreds : w1.preds = w.preds) (hnames : w1.names = w.names)
    (hwg : w1.wg = w.wg) (hdebug : (s1.die (dieOf g)).dbg = (s.die (dieOf g)).dbg) (htrace : s1.coreReg (coreOf g) .trctl = s.coreReg (coreOf g) .trctl)
    (hgroups : s1.groups = s.groups) (hcows : s1.cows = s.cows) : Entered s s1 g sub w w1 u j where
  now := by
    refine ⟨hfocus.trans h.focus, hw1, by rw [hunits]; exact unit_entry h.unit _, ?_, ?_⟩
    · cases entersAt u (j.hdr.e || j.entry) <;> exact h.issuing
    · rw [hunits]
      cases entersAt u (j.hdr.e || j.entry) with
      | false => exact h.clear
      | true =>
        intro x hx hsub
        obtain ⟨y, hy, rfl⟩ := List.mem_map.mp hx
        split at hsub
        · next hys =>
          rw [if_pos hys]
          exact h.clear y hy hys
        · next hys => exact absurd hsub hys
  quiet := by
    refine ⟨hdebug.trans hq.debug, by rw [htrace]; exact hq.trace, fun k hk => hq.group k ?_, by rw [hcows]; exact hq.late⟩
    rw [hwg, State.group?, hgroups] at hk
    exact hk
  preds := hpreds
  names := hnames

/-- An instruction that changes nothing beyond its unit, and has no result. -/
theorem leaves_still (hc : AtIssue s g sub w u) (hq : Quiet s g w) (hr : guardMask w u.exec j.hdr.grd = 0 ∨ ReadsOk w j.reads)
    (hck : Passes j (decodeCtx s g sub w u j) (issueCtx s g sub w u j)) (hrun : j.run (issueCtx s g sub w u j) = .go (Fin.nil (issueCtx s g sub w u j).s)) :
    Leaves s (s.issue j) g sub (resJob w u j) := by
  obtain ⟨w', u', ha⟩ := after_plain (P := w.preds) hc hq hc.warp hq hc.focus hr hck hrun ⟨rfl, rfl, rfl⟩ (.inr ⟨.inl rfl, rfl⟩) (ctx_state j) rfl rfl (fun _ => rfl)
  exact ⟨w, u, s.issue j, w', u', hc.warp, hc.unit, ha, rfl⟩

/-- What is left of an outstanding result, under another name for its values. -/
theorem leaves_owed_congr {t : State} {r : Res} {la : Nat} {d : Operand} {vals vals' : List (Nat → W64)} {fl : W32}
    (h : Leaves s1 t g sub (r.owed la d vals fl)) (hv : SameResults vals vals') : Leaves s1 t g sub (r.owed la d vals' fl) := by
  obtain ⟨w1, u1, t1, w', u', hw, hu, ha, ht⟩ := h
  exact ⟨w1, u1, t1, w', u', hw, hu, ha.owed_congr hv, ht⟩

end

end Sys2Proof.Machine
end

section
/-! SUPPORT. GETWORK (R217): the words of a segment, and the call it counts. -/

namespace Sys2Proof.Machine

open Sys2Proof.Claims

/-- A bit above a number is added to it. -/
theorem or_bit_above (x : W64) {k : Nat} (hk : k < 64) (hx : x.toNat < 2 ^ k) (b : Bool) :
    (x ||| ((if b then 1 <<< k else 0 : Nat) : W64)).toNat = x.toNat + (if b then 2 ^ k else 0)
      ∧ (x ||| ((if b then 1 <<< k else 0 : Nat) : W64)).toNat < 2 ^ (k + 1) := by
  have hlt : 2 ^ k < 2 ^ 64 := Nat.pow_lt_pow_right (by decide) hk
  have hbit : ((if b then 1 <<< k else 0 : Nat) : W64).toNat = if b then 2 ^ k else 0 := by
    rw [BitVec.natCast_eq_ofNat, BitVec.toNat_ofNat, Nat.one_shiftLeft, Nat.mod_eq_of_lt (by split <;> omega)]
  have hadd := Nat.two_pow_add_eq_or_of_lt hx 1
  rw [Nat.mul_one] at hadd
  rw [BitVec.toNat_or, hbit]
  cases b with
  | false => simp; omega
  | true =>
    simp only [if_true]
    rw [Nat.or_comm, ← hadd]
    omega

/-- TILE with FIRST, LAST and FIX in its low bits. -/
theorem firstWord (tile : Nat) (first last fix : Bool) :
    (BitVec.ofNat 64 (tile % 2 ^ 32 + (if first then 2 ^ 32 else 0) + (if last then 2 ^ 33 else 0) + (if fix then 2 ^ 34 else 0)) : W64)
      = BitVec.ofNat 64 (tile % 2 ^ 32) ||| ((if first then 1 <<< 32 else 0 : Nat) : W64) ||| ((if last then 1 <<< 33 else 0 : Nat) : W64) ||| ((if fix then 1 <<< 34 else 0 : Nat) : W64) := by
  have h0 : (BitVec.ofNat 64 (tile % 2 ^ 32) : W64).toNat = tile % 2 ^ 32 := by rw [BitVec.toNat_ofNat]; omega
  obtain ⟨h1, b1⟩ := or_bit_above (BitVec.ofNat 64 (tile % 2 ^ 32)) (k := 32) (by decide) (by omega) first
  obtain ⟨h2, b2⟩ := or_bit_above _ (k := 33) (by decide) b1 last
  obtain ⟨h3, b3⟩ := or_bit_above _ (k := 34) (by decide) b2 fix
  apply BitVec.eq_of_toNat_eq
  rw [h3, h2, h1, h0, BitVec.toNat_ofNat, Nat.mod_eq_of_lt]
  rw [h3, h2, h1, h0] at b3
  omega

/-- The first word of GETWORK. -/
theorem segWords_fst (o : Option Segment) : (segWords o).1 = match o with
    | none => 1 <<< 35
    | some q => BitVec.ofNat 64 (q.tile % 2 ^ 32) ||| ((if q.first then 1 <<< 32 else 0 : Nat) : W64) ||| ((if q.last then 1 <<< 33 else 0 : Nat) : W64)
        ||| ((if q.fix then 1 <<< 34 else 0 : Nat) : W64) := by
  cases o with
  | none => decide
  | some q => exact firstWord ..

/-- The second word of GETWORK. -/
theorem segWords_snd (o : Option Segment) : (segWords o).2 = match o with
    | none => 0
    | some q => BitVec.ofNat 64 (q.kBeg + q.kEnd * 2 ^ 32) := by
  cases o <;> rfl

variable {s : State} {g sub : Nat} {w : Warp} {u : WUnit}

theorem entryWarp_wg (w : Warp) (sub : Nat) (e : Bool) : (entryWarp w sub e).wg = w.wg := by cases e <;> rfl
theorem entryWarp_gwcalls (w : Warp) (sub : Nat) (e : Bool) : (entryWarp w sub e).gwcalls = w.gwcalls := by cases e <;> rfl

/-- A region entry does not move a warp to another launch. -/
theorem launchOf_entered (hw : s.warp? g = some w) (e : Bool) : (s.setWarp g (entryWarp w sub e)).launchOf g = s.launchOf g := by
  unfold State.launchOf
  rw [warp_setWarp, hw]
  dsimp only
  rw [entryWarp_wg]
  rfl

/-- The segment that GETWORK sees is that of the state at issue. -/
theorem nextSegment_eq (hw : s.warp? g = some w) (j : Job) : (issueCtx s g sub w u j).nextSegment
    = ({ s := s, g := g, sub := sub, w := w, u := u, act := 0, len := 0 } : Ctx).nextSegment := by
  unfold Ctx.nextSegment issueCtx
  dsimp only
  rw [launchOf_entered hw, entryWarp_wg, entryWarp_gwcalls]
  rfl

theorem exec_getwork (x : Op) (s : State) : exec (.getwork x) s = .next (s.issue (getworkJob x)) := rfl

/-- The state after a call is counted. -/
def counted (s : State) (g sub : Nat) (w : Warp) (u : WUnit) (e : Bool) : State :=
  (entered s g sub w u e).modWarp g (fun v => { v with gwcalls := v.gwcalls + 1 })

theorem counted_eq (s : State) (g sub : Nat) (w : Warp) (u : WUnit) (e : Bool) :
    counted s g sub w u e = s.setWarp g { entryWarp w sub (entersAt u e) with gwcalls := w.gwcalls + 1 } := by
  rw [counted, entered, modWarp_of (warp_setWarp ..), setWarp_setWarp, entryWarp_gwcalls]

theorem counted_entered {x : Op} (h : AtIssue s g sub w u) (hq : Quiet s g w) :
    Entered s (counted s g sub w u x.e) g sub w { entryWarp w sub (entersAt u x.e) with gwcalls := w.gwcalls + 1 } u (getworkJob x) := by
  have he : ((getworkJob x).hdr.e || (getworkJob x).entry) = x.e := Bool.or_false _
  rw [counted_eq]
  refine Entered.of h hq rfl (warp_setWarp ..) (by rw [he]) ?_ ?_ ?_ rfl rfl rfl rfl
  all_goals cases entersAt u x.e <;> rfl

/-- Settles O11: with an active lane the call is counted and the segment's words are outstanding. -/
theorem getworkReturnsSegment : Obligations.GetworkReturnsSegment := by
  unfold Obligations.GetworkReturnsSegment
  intro x n s g sub w u hd hc
  dsimp only
  have he : ((getworkJob x).hdr.e || (getworkJob x).entry) = x.e := Bool.or_false _
  refine ⟨fun h0 => ⟨_, exec_getwork x s, ?_⟩, fun h0 => ⟨_, exec_getwork x s, ?_⟩⟩
  · exact leaves_still hc.now hc.quiet hc.reads ⟨rfl, rfl, rfl⟩ (if_pos h0)
  · have hin := counted_entered (x := x) hc.now hc.quiet
    have hrun : (getworkJob x).run (issueCtx s g sub w u (getworkJob x)) = .go (Ctx.putRun { issueCtx s g sub w u (getworkJob x) with s := counted s g sub w u x.e }
        x.d [constLanes (segWords (issueCtx s g sub w u (getworkJob x)).nextSegment).1, constLanes (segWords (issueCtx s g sub w u (getworkJob x)).nextSegment).2] 0) := by
      rw [counted, entered, ← he]
      exact if_neg h0
    have hroom : ∀ t v m, Room t g v m (x.d.run 2) := fun t v m => .inr (.inl (by rw [hd]; rfl))
    have hleaves := leaves_owed (j := getworkJob x) (by rw [he]; exact ⟨hc.now, hc.quiet, hc.reads, hroom ..⟩) ⟨rfl, rfl, rfl⟩ hin (hroom ..) (by cases entersAt u x.e <;> rfl)
      rfl (List.cons_ne_nil _ _) (by rw [hd]; exact fun _ h => nomatch h) hrun
    refine leaves_owed_congr hleaves (.cons ?_ (.cons ?_ .nil))
    · intro l hl
      rw [at_constLanes _ hl, nextSegment_eq hc.now.warp]
      exact segWords_fst _
    · intro l hl
      rw [at_constLanes _ hl, nextSegment_eq hc.now.warp]
      exact segWords_snd _

end Sys2Proof.Machine
end

section
/-! SUPPORT. The register lists of a warp (R57, R59 to R62): what each list operation leaves of the name it is about, and of every other. -/

namespace Sys2Proof.Machine

open Sys2Proof.Claims

section

variable {w : Warp} {n k : Nat} {m : W32} {v : Lanes} {e : RegEnt}

theorem mapped_iff : w.mapped n = true ↔ ∃ e, w.names.find? n = some e := Option.isSome_iff_exists

theorem not_mapped_iff : w.mapped n = false ↔ w.names.find? n = none := by rw [Warp.mapped, Option.isSome_eq_false_iff, Option.isNone_iff_eq_none]

theorem vreg_of_find (h : w.names.find? n = some e) : w.vreg n = e.val := by rw [Warp.vreg, h]

theorem vreg_of_not_mapped (h : w.mapped n = false) : w.vreg n = zeroLanes := by rw [Warp.vreg, not_mapped_iff.mp h]

/-! ## Writes -/

theorem alloc_of_mapped (h : w.mapped n = true) : w.alloc n = w := if_pos h

theorem alloc_of_not_mapped (h : w.mapped n = false) :
    w.alloc n = { w with names := w.names.put n { st := .mapped, val := zeroLanes }, newList := w.newList ++ [n] } := by
  rw [Warp.alloc, h]
  exact if_neg Bool.false_ne_true

theorem pending_alloc (w : Warp) (n : Nat) : (w.alloc n).pending = w.pending := by
  unfold Warp.alloc
  split <;> rfl

theorem vset_zero (w : Warp) (n : Nat) (v : Lanes) : w.vset n 0 v = w := if_pos rfl

theorem vset_eq (hm : m ≠ 0) (w : Warp) (n : Nat) (v : Lanes) :
    w.vset n m v = { w.alloc n with
      names := (w.alloc n).names.put n { st := .mapped, val := mergeLanes m v (w.vreg n) }
      mops := (w.alloc n).mops.map (fun o => o.spoil n m) } := by
  obtain ⟨e, he⟩ := mapped_iff.mp (show (w.alloc n).mapped n = true by simp [mapped_alloc])
  rw [Warp.vset, if_neg hm, ← vreg_alloc w n n, vreg_of_find he]
  dsimp only
  rw [he]

theorem find_vset_same (hm : m ≠ 0) : (w.vset n m v).names.find? n = some { st := .mapped, val := mergeLanes m v (w.vreg n) } := by
  rw [vset_eq hm]
  exact find_put_same ..

theorem find_alloc_other (h : k ≠ n) : (w.alloc n).names.find? k = w.names.find? k := by
  unfold Warp.alloc
  split
  · rfl
  · exact find_put_other _ _ h.symm

theorem find_vset_other (h : k ≠ n) : (w.vset n m v).names.find? k = w.names.find? k := by
  by_cases hm : m = 0
  · rw [hm, vset_zero]
  · rw [vset_eq hm]
    exact (find_put_other _ _ h.symm).trans (find_alloc_other h)

theorem vreg_vset_at (hm : m ≠ 0) {l : Nat} (hl : l < 32) : ((w.vset n m v).vreg n).at l = if inMask m l then v.at l else (w.vreg n).at l := by
  rw [vreg_of_find (find_vset_same hm)]
  exact at_mergeLanes m v _ hl

/-! ## Last uses -/

/-- A register that a name has just given up. -/
def RegEnt.leaving (e : RegEnt) (n : Nat) : Pend := { name := n, val := e.val, slot := none, prior := false }

theorem unmap_of_find (h : w.names.find? n = some e) : w.unmap n = { w with names := w.names.del n, pending := w.pending ++ [e.leaving n] } := by
  rw [Warp.unmap, h]
  rfl

theorem unmap_of_not_mapped (h : w.mapped n = false) : w.unmap n = w := by rw [Warp.unmap, not_mapped_iff.mp h]

theorem mapped_unmap_same (w : Warp) (n : Nat) : (w.unmap n).mapped n = false := by
  cases h : w.names.find? n with
  | none =>
    have hn := not_mapped_iff.mpr h
    rw [unmap_of_not_mapped hn]
    exact hn
  | some e =>
    rw [unmap_of_find h, not_mapped_iff]
    exact (find_del ..).trans (if_pos rfl)

theorem find_unmap_other (h : k ≠ n) : (w.unmap k).names.find? n = w.names.find? n := by
  unfold Warp.unmap
  split
  · exact (find_del ..).trans (if_neg h)
  · rfl

theorem pending_unmap_mem {p : Pend} (h : p ∈ w.pending) (k : Nat) : p ∈ (w.unmap k).pending := by
  unfold Warp.unmap
  split
  · exact List.mem_append_left _ h
  · exact h

/-- A register on the pending list stays there, and its name unmapped, while other names are given up. -/
theorem unmaps_keep {p : Pend} (ks : List Nat) : ∀ w : Warp, p ∈ w.pending → w.mapped n = false →
    p ∈ (ks.foldl (fun w k => w.unmap k) w).pending ∧ (ks.foldl (fun w k => w.unmap k) w).mapped n = false := by
  induction ks with
  | nil => exact fun _ hp hn => ⟨hp, hn⟩
  | cons k ks ih =>
    intro w hp hn
    refine ih (w.unmap k) (pending_unmap_mem hp k) ?_
    by_cases hk : k = n
    · rw [hk]
      exact mapped_unmap_same w n
    · rw [not_mapped_iff, find_unmap_other hk]
      exact not_mapped_iff.mp hn

/-- Giving up names gives each up, with its register on the pending list. -/
theorem unmaps_give {e : RegEnt} (ks : List Nat) : ∀ w : Warp, n ∈ ks → w.names.find? n = some e →
    (ks.foldl (fun w k => w.unmap k) w).mapped n = false ∧ e.leaving n ∈ (ks.foldl (fun w k => w.unmap k) w).pending := by
  induction ks with
  | nil => exact fun _ h => absurd h List.not_mem_nil
  | cons k ks ih =>
    intro w hmem he
    by_cases hk : k = n
    · subst hk
      have hp : e.leaving k ∈ (w.unmap k).pending := by
        rw [unmap_of_find he]
        exact List.mem_append_right _ (List.mem_singleton_self _)
      exact (unmaps_keep ks _ hp (mapped_unmap_same w k)).symm
    · exact ih (w.unmap k) (List.mem_of_ne_of_mem (Ne.symm hk) hmem) ((find_unmap_other hk).trans he)

theorem find?_mem {κ α : Type} [DecidableEq κ] {m : AMap κ α} {k : κ} {v : α} (h : m.find? k = some v) : (k, v) ∈ m := by
  induction m with
  | nil => simp [AMap.find?] at h
  | cons p m ih =>
    unfold AMap.find? at h
    split at h
    · next hp =>
      rw [← hp, ← Option.some.inj h]
      exact List.mem_cons_self
    · exact List.mem_cons_of_mem _ (ih h)

/-- A deferred name leaves for the pending list once the warp is divergent no more. -/
theorem settleDeferred_gives (he : w.names.find? n = some e) (hst : e.st = .deferred) :
    w.settleDeferred.mapped n = false ∧ e.leaving n ∈ w.settleDeferred.pending := by
  have hfold : w.settleDeferred = ((w.names.filter (fun p => p.2.st = .deferred)).map (·.1)).foldl (fun w k => w.unmap k) w := by
    rw [Warp.settleDeferred, List.foldl_map]
  rw [hfold]
  refine unmaps_give _ w (List.mem_map.mpr ⟨(n, e), List.mem_filter.mpr ⟨find?_mem he, ?_⟩, rfl⟩) he
  simpa using hst

/-! ## Replay -/

theorem find_filter_key {κ α : Type} [DecidableEq κ] (m : AMap κ α) (p : κ → Bool) (k : κ) :
    AMap.find? (m.filter (fun q => p q.1)) k = if p k then m.find? k else none := by
  induction m with
  | nil => simp [AMap.find?]
  | cons q m ih =>
    by_cases hk : q.1 = k
    · by_cases hp : p k
      · simp [hk, hp, AMap.find?]
      · simpa [hk, hp] using ih
    · by_cases hp : p q.1
      · simp [hk, hp, AMap.find?, ih]
      · simp [hk, hp, AMap.find?, ih]

/-- Registers mapped again leave a name they do not stand for as it was. -/
theorem find_remap_other {st : RegSt} (ps : List Pend) : ∀ m : AMap Nat RegEnt, (∀ p ∈ ps, p.name ≠ n) →
    (ps.foldl (fun m p => m.put p.name { st := st, val := p.val }) m).find? n = m.find? n := by
  induction ps with
  | nil => exact fun _ _ => rfl
  | cons p ps ih =>
    intro m h
    rw [List.foldl_cons, ih _ (fun q hq => h q (List.mem_cons_of_mem _ hq)), find_put_other _ _ (h p List.mem_cons_self)]

/-- The one register of a name among those mapped again is what the name holds. -/
theorem find_remap_same {st : RegSt} {p : Pend} (ps : List Pend) : ∀ m : AMap Nat RegEnt, p ∈ ps → (∀ q ∈ ps, q.name = p.name → q = p) →
    (ps.foldl (fun m p => m.put p.name { st := st, val := p.val }) m).find? p.name = some { st := st, val := p.val } := by
  induction ps with
  | nil => exact fun _ h => absurd h List.not_mem_nil
  | cons q ps ih =>
    intro m hmem huniq
    rw [List.foldl_cons]
    by_cases hp : p ∈ ps
    · exact ih _ hp (fun r hr => huniq r (List.mem_cons_of_mem _ hr))
    · obtain rfl : p = q := (List.mem_cons.mp hmem).resolve_right hp
      rw [find_remap_other ps _ ?_, find_put_same]
      intro r hr hname
      exact hp (huniq r (List.mem_cons_of_mem _ hr) hname ▸ hr)

theorem mem_returning {p : Pend} : p ∈ w.returning → p ∈ w.pending ∧ p.name ∉ w.newList := by
  intro h
  have hold : p ∈ w.pending.filter (fun p => !w.newList.contains p.name) := by
    rcases List.mem_append.mp h with h | h <;> exact (List.mem_filter.mp h).1
  obtain ⟨hp, hnew⟩ := List.mem_filter.mp hold
  exact ⟨hp, by simpa using hnew⟩

/-- A pending register is mapped again where its name is not new, and it was last used in the region, or its name is unmapped and has no such other. -/
theorem returning_mem {p : Pend} (hp : p ∈ w.pending) (hnew : p.name ∉ w.newList) (huniq : ∀ q ∈ w.pending, q.name = p.name → q = p)
    (h : p.prior = false ∨ w.mapped p.name = false) : p ∈ w.returning := by
  have hold : p ∈ w.pending.filter (fun p => !w.newList.contains p.name) := List.mem_filter.mpr ⟨hp, by simpa using hnew⟩
  rw [Warp.returning, List.mem_append]
  cases hprior : p.prior with
  | false => exact .inl (List.mem_filter.mpr ⟨hold, by simp [hprior]⟩)
  | true =>
    have hmap : w.mapped p.name = false := h.resolve_left (by simp [hprior])
    refine .inr (List.mem_filter.mpr ⟨hold, ?_⟩)
    simp only [hprior, hmap, Bool.not_false, Bool.and_true, Bool.true_and, Bool.not_eq_true', List.any_eq_false, Bool.and_eq_true, decide_eq_true_eq,
      Bool.not_eq_true', not_and]
    intro q hq hname
    rw [huniq q (List.mem_filter.mp hq).1 hname, hprior]
    exact Bool.true_eq_false_eq_False

/-- A replay unmaps every new name. -/
theorem mapped_rewind_new (h : n ∈ w.newList) (div : Bool) : (w.rewind div).mapped n = false := by
  rw [not_mapped_iff]
  refine (find_remap_other _ _ (fun p hp hname => ?_)).trans ?_
  · exact (mem_returning hp).2 (hname ▸ h)
  · rw [find_filter_key w.names (fun k => !w.newList.contains k), if_neg (by simpa using h)]

/-- A replay maps a pending name that is not new to its register again. -/
theorem find_rewind_pending {p : Pend} (h : n ∉ w.newList) (hp : w.pending.filter (fun q => q.name = n) = [p]) (hwho : p.prior = false ∨ w.mapped n = false)
    (div : Bool) : (w.rewind div).names.find? n = some { st := if div then .deferred else .mapped, val := p.val } := by
  have hmem : p ∈ w.pending.filter (fun q => q.name = n) := by rw [hp]; exact List.mem_singleton_self p
  obtain ⟨hpend, hname⟩ := List.mem_filter.mp hmem
  obtain rfl : p.name = n := of_decide_eq_true hname
  have huniq : ∀ q ∈ w.pending, q.name = p.name → q = p := fun q hq hqn => by
    have : q ∈ w.pending.filter (fun q => q.name = p.name) := List.mem_filter.mpr ⟨hq, decide_eq_true hqn⟩
    rw [hp] at this
    exact List.mem_singleton.mp this
  exact find_remap_same _ _ (returning_mem hpend h huniq hwho) (fun q hq => huniq q (mem_returning hq).1)

/-- The register lists of R57 and R59 to R62. -/
theorem registerLists : Sys2Proof.Claims.registerLists := by
  intro w n m v
  refine ⟨fun hm h => ⟨?_, ?_, ?_, fun l hl => ?_⟩, fun hm h => ⟨?_, ?_, fun l hl => vreg_vset_at hm hl⟩, vset_zero w n v, fun k hk => ⟨?_, ?_⟩,
    fun e he => ⟨⟨mapped_unmap_same w n, ?_⟩, ?_, ?_, settleDeferred_gives he⟩, fun h => ⟨unmap_of_not_mapped h, ?_⟩,
    ⟨rfl, rfl, rfl, rfl, fun o ho p hp => ?_⟩, fun h => mapped_rewind_new h, fun h p hp hwho => find_rewind_pending h hp hwho⟩
  · exact mapped_iff.mpr ⟨_, find_vset_same hm⟩
  · rw [vset_eq hm, alloc_of_not_mapped h]
  · rw [vset_eq hm]
    exact pending_alloc w n
  · rw [vreg_vset_at hm hl, vreg_of_not_mapped h, at_zeroLanes]
  · rw [vset_eq hm, alloc_of_mapped h]
  · rw [vreg_of_find (find_vset_same hm)]
    exact find_vset_same hm
  · rw [Warp.vreg, find_vset_other hk]
    rfl
  · rw [Warp.mapped, find_vset_other hk]
    rfl
  · show (w.unmap n).pending = _
    rw [unmap_of_find he]
    rfl
  · rw [Warp.lastUse, if_pos rfl, he]
    exact find_put_same ..
  · rw [Warp.lastUse, if_pos rfl, he]
  · rw [Warp.lastUse, if_pos rfl, not_mapped_iff.mp h]
  · obtain ⟨o', -, rfl⟩ := List.mem_map.mp ho
    obtain ⟨p', -, rfl⟩ := List.mem_map.mp hp
    rfl

end

end Sys2Proof.Machine
end

section
/-! SUPPORT. What an allocation does where the registers it asks for cannot be had (R57, R58, R63), and O38. -/

namespace Sys2Proof.Machine

open Sys2Proof.Claims

section

variable {s : State} {g sub : Nat} {w : Warp} {u : WUnit} {j : Job} {f : Fin} {c : Ctx} {ns : List Nat} {k : State}

theorem newNames_entry (w : Warp) (sub : Nat) (e : Bool) (ns : List Nat) : newNames (entryWarp w sub e) ns = newNames w ns := by
  simp only [newNames, mapped_entry]

/-- An unmapped source traps where the launch asks for that (R63). -/
theorem readTrap_some (hact : c.act ≠ 0) (htrap : c.w.wstat &&& wsUnmapTrap ≠ 0) (h : ∃ n ∈ ns, c.w.mapped n = false) :
    c.readTrap ns = some (TrapInfo.unit 8 2 0) := by
  obtain ⟨n, hn, hm⟩ := h
  have hany : (ns.any fun n => !c.w.mapped n) = true := List.any_eq_true.mpr ⟨n, hn, by rw [hm]; rfl⟩
  rw [Ctx.readTrap, hany, if_pos]
  simpa using ⟨hact, htrap⟩

/-- More registers than a warp may hold are refused (R58). -/
theorem allocate_above (hne : newNames c.w ns ≠ []) (h : c.w.regsMax < c.w.held + (newNames c.w ns).length) :
    c.allocate ns k = c.s.takeTrap c.g c.sub (TrapInfo.unit 8 1 0) := by
  unfold Ctx.allocate
  simp [h, List.isEmpty_eq_false_iff.mpr hne]

/-- Registers that the pool cannot supply are waited for, with nothing allocated (R57, R22). -/
theorem allocate_short (hne : newNames c.w ns ≠ []) (h : c.w.held + (newNames c.w ns).length ≤ c.w.regsMax)
    (hpool : c.s.grantable (quadOf c.g) (c.w.lseq, c.s.handles) (newNames c.w ns).length = false) :
    c.allocate ns k = ({ c.s with handles := c.s.handles + 1 }.blockUnit c.g c.sub (.alloc ns c.s.handles)).afterStroke c.g := by
  have hmax : decide (c.w.regsMax < c.w.held + (newNames c.w ns).length) = false := decide_eq_false (by omega)
  unfold Ctx.allocate
  simp only [hmax, Bool.false_and, Bool.false_eq_true, if_false]
  have hask : (!(newNames c.w ns).isEmpty && !{ c.s with handles := c.s.handles + 1 }.grantable (quadOf c.g) (c.w.lseq, c.s.handles) (newNames c.w ns).length) = true := by
    rw [List.isEmpty_eq_false_iff.mpr hne]
    exact congrArg (!·) hpool
  exact if_pos hask

/-- A unit that begins to wait at its instruction, where nothing watches its stroke's end. -/
theorem blockUnit_quiet (hw : s.warp? g = some w) (hu : unitOf w.units sub = some u) (hq : Quiet s g w) (hf : s.focus = some (g, sub)) (x : Wait) :
    (s.blockUnit g sub x).afterStroke g = { s.setWarp g (stopWarp w sub (.blocked x)) with focus := none } := by
  have hend : s.blockUnit g sub x = { s.setWarp g (stopWarp w sub (.blocked x)) with focus := none } :=
    endStroke_quiet hw hu hq.debug hq.trace hf .none (.blocked x)
  have hw' : ({ s.setWarp g (stopWarp w sub (.blocked x)) with focus := none } : State).warp? g = some (stopWarp w sub (.blocked x)) := warp_setWarp ..
  rw [hend, afterStroke_quiet hw' hq.group]

theorem execute_readTrap {t : TrapInfo} (hu : j.uniform c = none) (h : c.readTrap j.reads = some t) : c.execute j = c.s.takeTrap c.g c.sub t := by
  rw [Ctx.execute, hu, h]

/-- An instruction that passes its checks allocates its destinations, and then completes. -/
theorem execute_allocate (hu : j.uniform c = none) (hr : c.act = 0 ∨ ReadsOk c.w j.reads) (hla : j.late = false) (hrun : j.run c = .go f) :
    c.execute j = c.allocate (if f.lanes = 0 then [] else f.vw.map (·.1)) (c.finish j f) := by
  unfold Ctx.execute Ctx.perform
  simp only [hu, readTrap_none hr, hla, hrun, Bool.false_eq_true, if_false]

/-- An integer instruction is a lane-by-lane job of its operands. -/
theorem exec_intOp (o : IntOp) {i : Instr} {x : Op} {len : Nat} (h : o.Is i x len) : ∃ f, ∀ s, exec i s = issue (intJob x len f) s := by
  cases o <;> cases h <;> exact ⟨_, fun _ => rfl⟩

/-- The names an instruction takes are those of its destination, where it has an active lane and the destination is a vector. -/
theorem put_names (hact : c.act ≠ 0) (d : Operand) (v : Lanes) (fl : W32) (hd : newNames w (d.run 1) ≠ []) :
    (if (c.put d v fl).lanes = 0 then [] else (c.put d v fl).vw.map (·.1)) = d.run 1 := by
  cases d with
  | v n => exact if_neg hact
  | s => exact absurd rfl hd
  | w => exact absurd rfl hd
  | imm => exact absurd rfl hd
  | lit => exact absurd rfl hd
  | x => exact absurd rfl hd
  | none => exact absurd rfl hd

theorem lists_entry (w : Warp) (sub : Nat) (e : Bool) :
    (entryWarp w sub e).wstat = w.wstat ∧ (entryWarp w sub e).regsMax = w.regsMax ∧ (entryWarp w sub e).lseq = w.lseq := by
  cases e <;> exact ⟨rfl, rfl, rfl⟩

/-- The checks of an allocation, of an integer instruction (R57, R58, R63, R22). -/
theorem allocationChecks : Sys2Proof.Claims.allocationChecks := by
  intro o i x len ho s g sub w u hi hq r s' w1 new hact
  obtain ⟨f, hex⟩ := exec_intOp o ho
  obtain ⟨hwstat, hmax, hlseq⟩ := lists_entry w sub (entersAt u x.e)
  have hnew : newNames w1 (x.d.run 1) = new := newNames_entry ..
  have hrun : exec i s = .next (Ctx.execute ⟨s', g, sub, w1, entryUnit w u (entersAt u x.e), guardMask w u.exec x.grd, len⟩ (intJob x len f)) := by
    rw [hex, issue, issue_eq hi hq _ rfl, issueCtx_entered (e := x.e) (Bool.or_false _)]
    rfl
  have hallocate : ReadsOk w r.reads → new ≠ [] → ∃ k, exec i s = .next
      (Ctx.allocate ⟨s', g, sub, w1, entryUnit w u (entersAt u x.e), guardMask w u.exec x.grd, len⟩ (x.d.run 1) k) := fun hr hne => by
    rw [hrun, execute_allocate rfl (.inr (readsOk_entry hr sub _)) rfl rfl, put_names (w := w) hact _ _ _ hne]
    exact ⟨_, rfl⟩
  refine ⟨fun htrap hread => ?_, fun hr hne hheld => ?_, fun hr hne hheld hpool => ?_⟩
  · rw [hrun, execute_readTrap rfl (readTrap_some hact (by rw [hwstat]; exact htrap) ?_)]
    obtain ⟨n, hn, hm⟩ := hread
    exact ⟨n, hn, (mapped_entry ..).trans hm⟩
  · obtain ⟨k, hk⟩ := hallocate hr hne
    rw [hk, allocate_above]
    · rw [hnew]
      exact hne
    · rw [hnew, hmax]
      exact hheld
  · obtain ⟨k, hk⟩ := hallocate hr hne
    rw [hk, allocate_short]
    · have hwg : w1.wg = w.wg := entryWarp_wg ..
      have hq1 : Quiet { s' with handles := s.handles + 1 } g w1 := ⟨hq.debug, hq.trace, by rw [hwg]; exact hq.group, hq.late⟩
      rw [State.modUnit, modWarp_of (show s'.warp? g = some w1 from warp_setWarp ..)]
      exact congrArg Host.Outcome.next (blockUnit_quiet (s := { s' with handles := s.handles + 1 }) (warp_setWarp s g w1) (unit_entry hi.unit _) hq1 hi.focus _)
    · rw [hnew]
      exact hne
    · rw [hnew, hmax]
      exact hheld
    · rw [hnew, hlseq]
      exact hpool

end

/-- Settles O38: each list operation by what it leaves of a name, and an integer instruction by the branches of its allocation. -/
theorem registerAllocation : Obligations.RegisterAllocation := ⟨registerLists, allocationChecks⟩

end Sys2Proof.Machine
end

section
/-! SUPPORT. Frames of the stack (R268): what reaching and reading its lines may change, and O16. -/

namespace Sys2Proof.Machine

open Sys2Proof.Claims

section

variable {s t : State} {g sub : Nat} {w : Warp} {u : WUnit} {x : Op} {lines : AMap Nat SLine} {top : W64}

/-! ## The lines of a stack -/

/-- A warp with other lines of its stack held, and another top of use. -/
def Warp.restack (w : Warp) (lines : AMap Nat SLine) (top : W64) : Warp := { w with stack := lines, stkptr := top }

theorem restack_wstat (w : Warp) (lines : AMap Nat SLine) (top : W64) : (w.restack lines top).wstat = w.wstat := rfl

theorem MemOnly.setWarp (h : MemOnly s t) (g : Nat) (w : Warp) : MemOnly (s.setWarp g w) (t.setWarp g w) where
  rest := by rw [State.setWarp, State.setWarp, h.warps, h.rest]
  debug := h.debug
  regs := h.regs

/-- `t` is `s` but for what `MemOnly` allows and the stack lines that the warp `w` in slot `g` holds. -/
def StackOnly (g : Nat) (w : Warp) (s t : State) : Prop := ∃ lines, MemOnly (s.setWarp g (w.restack lines w.stkptr)) t

theorem MemOnly.stackOnly (h : MemOnly s t) (hw : s.warp? g = some w) : StackOnly g w s t := by
  refine ⟨w.stack, ?_⟩
  rwa [show w.restack w.stack w.stkptr = w from rfl, setWarp_same hw]

/-- A step that may change the warp's lines of the stack alone follows another. -/
theorem StackOnly.then {r : State} (h : StackOnly g w s t) (h' : ∀ w', t.warp? g = some w' → StackOnly g w' t r) : StackOnly g w s r := by
  obtain ⟨lines, hm⟩ := h
  have hw : t.warp? g = some (w.restack lines w.stkptr) := by rw [State.warp?, hm.warps]; exact warp_setWarp ..
  obtain ⟨lines', hm'⟩ := h' _ hw
  have hboth := (hm.setWarp g (w.restack lines' w.stkptr)).trans hm'
  rw [setWarp_setWarp] at hboth
  exact ⟨lines', hboth⟩

theorem stackFill_stackOnly (hw : s.warp? g = some w) (line : Nat) : StackOnly g w s (s.stackFill g line).1 := by
  have hx := xlatCore_memOnly s (coreOf g) (s.rootOf g) (BitVec.ofNat 64 (line * 32)) .read
  unfold State.stackFill
  rw [hw]
  dsimp only
  split
  · exact (MemOnly.refl s).stackOnly hw
  · next s1 pa pte addr h =>
    rw [h] at hx
    split
    · exact (MemOnly.refl s).stackOnly hw
    · have hl := hx.trans ((touch_memOnly s1 addr false).trans (l2Line_memOnly (s1.touch addr false) (dieOf g) (pteScope pte) pa))
      have hw' : ((s1.touch addr false).l2Line (dieOf g) (pteScope pte) pa).1.warp? g = some w := by rw [State.warp?, hl.warps]; exact hw
      rw [modWarp_of hw']
      exact ⟨_, hl.setWarp g _⟩

theorem stackGet_stackOnly (hw : s.warp? g = some w) (a : Nat) : StackOnly g w s (s.stackGet g a).1 := by
  have hf := stackFill_stackOnly hw (stackLine a)
  unfold State.stackGet
  rw [hw]
  dsimp only
  split
  · exact (MemOnly.refl s).stackOnly hw
  · split
    · next h => rw [h] at hf; exact hf
    · next h => rw [h] at hf; exact hf

/-- Reading a frame changes the lines of the warp's stack alone, and what a translation may. -/
theorem frameRead_stackOnly (g f : Nat) (quiet : W32) (places : List (Nat × Nat)) : ∀ {s : State} {w : Warp}, s.warp? g = some w →
    StackOnly g w s (frameRead g f quiet places s).1 := by
  induction places with
  | nil => exact fun hw => (MemOnly.refl _).stackOnly hw
  | cons p places ih =>
    intro s w hw
    obtain ⟨l, k⟩ := p
    have hg := stackGet_stackOnly hw (f + 256 * k + 8 * l)
    unfold frameRead
    split
    · next h _ => rw [h] at hg; exact hg
    · next s1 v h _ =>
      rw [h] at hg
      have hr := hg.then (fun w' hw' => ih hw')
      split
      · next h' => rw [h'] at hr; exact hr
      · next h' => rw [h'] at hr; exact hr

theorem stackOpen_memOnly (s : State) (g a : Nat) : MemOnly s (s.stackOpen g a).1 := by
  have hx := xlatCore_memOnly s (coreOf g) (s.rootOf g) (BitVec.ofNat 64 a) .write
  unfold State.stackOpen
  split
  · exact .refl s
  · split
    · exact .refl s
    · split
      · exact .refl s
      · next h =>
        rw [h] at hx
        exact fst_ite_memOnly hx (.refl s)

/-- Reaching lines for a write changes what a translation may. -/
theorem stackReach_memOnly (g : Nat) (as : List Nat) (s : State) : MemOnly s (s.stackReach g as).1 := by
  induction as generalizing s with
  | nil => exact .refl s
  | cons a as ih =>
    have ho := stackOpen_memOnly s g a
    unfold State.stackReach
    split
    · next h => rw [h] at ho; exact ho.trans (ih _)
    · next h => rw [h] at ho; exact ho

/-! ## Registers asked for -/

theorem map_filter_put {α β : Type} (m : AMap Nat α) (g : Nat) {v v' : α} (p : Nat → Bool) {f : Nat × α → β} (h : f (g, v) = f (g, v')) :
    ((m.put g v).filter (fun x => p x.1)).map f = ((m.put g v').filter (fun x => p x.1)).map f := by
  induction m with
  | nil => cases hp : p g <;> simp [AMap.put, hp, h]
  | cons x m ih =>
    by_cases hx : x.1 = g
    · cases hp : p g <;> simp [AMap.put, hx, hp, h]
    · cases hp : p x.1 <;> simp [AMap.put, hx, hp, ih]

/-- What a quadrant's pool holds, and who asks of it, does not depend on a warp's stack. -/
theorem grantable_restack (h : MemOnly (s.setWarp g (w.restack lines top)) t) (q : Nat) (a : Nat × Nat) (n : Nat) :
    t.grantable q a n = (s.setWarp g w).grantable q a n := by
  have hwarps : ∀ {β : Type} (f : Nat × Warp → β), f (g, w.restack lines top) = f (g, w) → (t.quadWarps q).map f = ((s.setWarp g w).quadWarps q).map f :=
    fun f hf => by
      rw [State.quadWarps, h.warps]
      exact map_filter_put s.warps g (fun k => decide (quadOf k = q)) hf
  have hstepped : t.stepped = s.stepped := by
    funext k
    rw [State.stepped, h.debug]
    rfl
  have hfree : t.poolFree q = (s.setWarp g w).poolFree q := by
    rw [State.poolFree, hwarps (fun p => p.2.held) rfl, State.poolFree]
  have hreq : t.requests q = (s.setWarp g w).requests q := by
    unfold State.requests
    rw [hstepped, List.flatMap_def, List.flatMap_def]
    exact congrArg List.flatten (hwarps _ rfl)
  rw [State.grantable, hfree, hreq, State.grantable]

/-- What an instruction that moves the stack of its warp sees once it has done so. -/
theorem restack_entered {j : Job} {e : Bool} (hi : AtIssue s g sub w u) (hq : Quiet s g w) (he : (j.hdr.e || j.entry) = e)
    (h : MemOnly (s.setWarp g ((entryWarp w sub (entersAt u e)).restack lines top)) t) :
    Entered s t g sub w ((entryWarp w sub (entersAt u e)).restack lines top) u j := by
  subst he
  refine Entered.of hi hq h.focus ?_ rfl ?_ ?_ ?_ (h.debug _) ?_ h.groups h.cows
  · rw [State.warp?, h.warps]
    exact warp_setWarp ..
  · cases entersAt u (j.hdr.e || j.entry) <;> rfl
  · cases entersAt u (j.hdr.e || j.entry) <;> rfl
  · exact entryWarp_wg ..
  · rw [State.coreReg, h.regs]
    rfl

theorem restack_room {ns : List Nat} {act : W32} (hroom : Room s g w act ns) (h : MemOnly (s.setWarp g (w.restack lines top)) t) :
    Room t g (w.restack lines top) act ns := by
  refine hroom.imp_right (Or.imp_right fun ⟨hheld, hpool⟩ => ⟨hheld, ?_⟩)
  have hw : t.warp? g = some (w.restack lines top) := by rw [State.warp?, h.warps]; exact warp_setWarp ..
  have hhandles : t.handles = s.handles := by rw [h.rest]; rfl
  rw [setWarp_same hw, grantable_restack h, hhandles]
  exact hpool

/-! ## PUSHF and POPF -/

theorem frameLen_eq (x : Op) : frameLen x = (x.func.setWidth 4).toNat + 1 := by rw [frameLen, BitVec.toNat_setWidth]

/-- The job of PUSHF. -/
def pushfJob (x : Op) : Job := { jobOf x x.bytes (pushfRun x) with hdr := x.hdr x.bytes (frameLen x) 0 0, reads := x.a.run (frameLen x) }

/-- The job of POPF. -/
def popfJob (x : Op) : Job := { jobOf x x.bytes (popfRun x) with long := true, dests := x.d.run (frameLen x), reads := [] }

theorem exec_pushf (x : Op) (s : State) : exec (.pushf x) s = .next (s.issue (pushfJob x)) := rfl
theorem exec_popf (x : Op) (s : State) : exec (.popf x) s = .next (s.issue (popfJob x)) := rfl

/-- A register of a run, lane by lane. -/
theorem at_nth (h : AtIssue s g sub w u) (j : Job) (o : Operand) (k : Nat) {l : Nat} (hl : l < 32) :
    ((issueCtx s g sub w u j).nth o k).at l = nthVal w u l o k := by
  cases o with
  | v n => exact congrArg (Lanes.at · l) (ctx_vreg h j _)
  | s n => exact (at_constLanes _ hl).trans (ctx_sreg h j _)
  | w n => exact (at_constLanes _ hl).trans (ctx_wreg h j _)
  | imm | lit | x | none => exact at_zeroLanes l

/-- The dwords of the frame that PUSHF writes, at their places. -/
def frameDwords (w : Warp) (u : WUnit) (x : Op) : List (Nat × W64) :=
  (List.range (frameLen x)).flatMap (fun k => (realLanes w u x).map (fun l => (w.stkptr.toNat - 256 * frameLen x + 256 * k + 8 * l, nthVal w u l x.a k)))

/-- The places of the frame that POPF reads. -/
def framePlaces (w : Warp) (u : WUnit) (x : Op) : List (Nat × Nat) :=
  (List.range (frameLen x)).flatMap (fun k => (lanesOf (guardMask w u.exec x.grd)).map (fun l => (l, k)))

theorem stack_entry (w : Warp) (sub : Nat) (e : Bool) : (entryWarp w sub e).stkptr = w.stkptr ∧ (entryWarp w sub e).stklim = w.stklim
    ∧ (entryWarp w sub e).stktop = w.stktop ∧ (entryWarp w sub e).helpers = w.helpers ∧ (entryWarp w sub e).wstat = w.wstat := by
  cases e <;> exact ⟨rfl, rfl, rfl, rfl, rfl⟩

theorem pushfJob_enters (x : Op) : ((pushfJob x).hdr.e || (pushfJob x).entry) = x.e := Bool.or_false _
theorem popfJob_enters (x : Op) : ((popfJob x).hdr.e || (popfJob x).entry) = x.e := Bool.or_false _

/-- What an instruction sees at issue. -/
theorem ctx_fields {j : Job} {e : Bool} (he : (j.hdr.e || j.entry) = e) : (issueCtx s g sub w u j).s = entered s g sub w u e
    ∧ (issueCtx s g sub w u j).g = g ∧ (issueCtx s g sub w u j).w = entryWarp w sub (entersAt u e) ∧ (issueCtx s g sub w u j).act = guardMask w u.exec j.hdr.grd := by
  rw [issueCtx_entered he]
  exact ⟨rfl, rfl, rfl, rfl⟩

/-- What PUSHF sees of the frame it writes. -/
def Ctx.frameDwords (c : Ctx) (x : Op) : List (Nat × W64) :=
  (List.range (frameLen x)).flatMap (fun k => let v := c.nth x.a k
    (lanesOf c.real).map (fun l => (c.w.stkptr.toNat - 256 * frameLen x + 256 * k + 8 * l, v.at l)))

theorem ctx_frameDwords (hi : AtIssue s g sub w u) : (issueCtx s g sub w u (pushfJob x)).frameDwords x = frameDwords w u x := by
  obtain ⟨-, -, hw, hact⟩ := ctx_fields (s := s) (g := g) (sub := sub) (w := w) (u := u) (pushfJob_enters x)
  obtain ⟨hptr, -, -, hhelp, -⟩ := stack_entry w sub (entersAt u x.e)
  unfold Ctx.frameDwords frameDwords realLanes Ctx.real
  rw [hw, hact, hptr, hhelp]
  refine List.flatMap_congr (fun k _ => List.map_congr_left fun l hl => ?_)
  rw [at_nth hi _ _ _ (List.mem_range.mp (List.mem_filter.mp hl).1)]

theorem stackPuts_restack (w : Warp) (xs : List (Nat × W64)) (top : W64) : { w.stackPuts xs with stkptr := top } = w.restack (w.stackPuts xs).stack top := by
  rw [stackPuts_eq]
  rfl

section

variable {c : Ctx} {a : Nat}

theorem pushfRun_over (h : c.w.stkptr.toNat < 256 * frameLen x + c.w.stklim.toNat) : pushfRun x c = .trap (TrapInfo.unit 5 0 0) := if_pos h

theorem pushfRun_fault (h : 256 * frameLen x + c.w.stklim.toNat ≤ c.w.stkptr.toNat)
    (hr : c.s.stackReach c.g (lineHeads ((c.frameDwords x).map (·.1))) = (t, some a)) : pushfRun x c = .trap (TrapInfo.stackFault a) := by
  rw [pushfRun, if_neg (Nat.not_lt.mpr h)]
  unfold Ctx.frameDwords at hr
  dsimp only at hr ⊢
  rw [hr]

theorem pushfRun_go (h : 256 * frameLen x + c.w.stklim.toNat ≤ c.w.stkptr.toNat)
    (hr : c.s.stackReach c.g (lineHeads ((c.frameDwords x).map (·.1))) = (t, none)) : pushfRun x c
      = .go (Fin.nil (t.modWarp c.g (fun w => { w.stackPuts (c.frameDwords x) with stkptr := BitVec.ofNat 64 (c.w.stkptr.toNat - 256 * frameLen x) }))) := by
  rw [pushfRun, if_neg (Nat.not_lt.mpr h)]
  unfold Ctx.frameDwords at hr ⊢
  dsimp only at hr ⊢
  rw [hr]

theorem popfRun_over (h : c.w.stktop.toNat < c.w.stkptr.toNat + 256 * frameLen x) : popfRun x c = .trap (TrapInfo.unit 5 0 0) := if_pos h

theorem popfRun_fault (h : c.w.stkptr.toNat + 256 * frameLen x ≤ c.w.stktop.toNat)
    (hr : frameRead c.g c.w.stkptr.toNat c.w.helpers ((List.range (frameLen x)).flatMap (fun k => c.lanes.map (fun l => (l, k)))) c.s = (t, .error a)) :
    popfRun x c = .trap (TrapInfo.stackFault a) := by
  rw [popfRun, if_neg (Nat.not_lt.mpr h), hr]

theorem popfRun_go {vs : List (Nat × Nat × W64)} (h : c.w.stkptr.toNat + 256 * frameLen x ≤ c.w.stktop.toNat)
    (hr : frameRead c.g c.w.stkptr.toNat c.w.helpers ((List.range (frameLen x)).flatMap (fun k => c.lanes.map (fun l => (l, k)))) c.s = (t, .ok vs)) :
    popfRun x c = .go (Ctx.putRun { c with s := t.modWarp c.g (fun w => { w with stkptr := BitVec.ofNat 64 (c.w.stkptr.toNat + 256 * frameLen x) }) } x.d
      (loadRun (frameLen x) vs) 0) := by
  rw [popfRun, if_neg (Nat.not_lt.mpr h), hr]

end

/-- An instruction whose effect is a trap takes it, after its region entry. -/
theorem issue_trap {j : Job} {e : Bool} {t : TrapInfo} (hi : AtIssue s g sub w u) (hq : Quiet s g w) (he : (j.hdr.e || j.entry) = e)
    (hr : guardMask w u.exec j.hdr.grd = 0 ∨ ReadsOk w j.reads) (hck : Passes j (decodeCtx s g sub w u j) (issueCtx s g sub w u j))
    (hrun : j.run (issueCtx s g sub w u j) = .trap t) : s.issue j = (entered s g sub w u e).takeTrap g sub t := by
  have hreads : (issueCtx s g sub w u j).readTrap j.reads = none := readTrap_none (hr.imp_right (readsOk_entry · sub _))
  rw [issue_eq hi hq j hck.decode, Ctx.execute, hck.uniform, hreads]
  simp only [hck.late, Bool.false_eq_true, if_false, Ctx.perform, hrun]
  rw [issueCtx_entered he]

theorem pushfJob_passes {c0 c : Ctx} : Passes (pushfJob x) c0 c := ⟨rfl, rfl, rfl⟩
theorem popfJob_passes {c0 c : Ctx} : Passes (popfJob x) c0 c := ⟨rfl, rfl, rfl⟩

/-- PUSHF below the limit, at a line that cannot be had, and with its frame written (R268, R70, R72). -/
theorem pushf_cases (hi : AtIssue s g sub w u) (hq : Quiet s g w) (hr : guardMask w u.exec x.grd = 0 ∨ ReadsOk w (x.a.run (frameLen x))) :
    (w.stkptr.toNat < 256 * frameLen x + w.stklim.toNat → s.issue (pushfJob x) = (entered s g sub w u x.e).takeTrap g sub (TrapInfo.unit 5 0 0))
    ∧ (256 * frameLen x + w.stklim.toNat ≤ w.stkptr.toNat →
        ∀ s1 a, (entered s g sub w u x.e).stackReach g (lineHeads ((frameDwords w u x).map (·.1))) = (s1, some a) →
          s.issue (pushfJob x) = (entered s g sub w u x.e).takeTrap g sub (TrapInfo.stackFault a))
    ∧ (256 * frameLen x + w.stklim.toNat ≤ w.stkptr.toNat →
        ∀ s1, (entered s g sub w u x.e).stackReach g (lineHeads ((frameDwords w u x).map (·.1))) = (s1, none) →
          Leaves (s1.modWarp g (fun v => { v.stackPuts (frameDwords w u x) with stkptr := BitVec.ofNat 64 (w.stkptr.toNat - 256 * frameLen x) }))
            (s.issue (pushfJob x)) g sub (resJob w u (pushfJob x))) := by
  obtain ⟨hs, hg, hw, -⟩ := ctx_fields (s := s) (g := g) (sub := sub) (w := w) (u := u) (pushfJob_enters x)
  obtain ⟨hptr, hlim, -, -, hwstat⟩ := stack_entry w sub (entersAt u x.e)
  have hds := ctx_frameDwords (x := x) hi
  refine ⟨fun h => ?_, fun h s1 a hreach => ?_, fun h s1 hreach => ?_⟩
  · exact issue_trap hi hq (pushfJob_enters x) hr pushfJob_passes (pushfRun_over (by rwa [hw, hptr, hlim]))
  · exact issue_trap hi hq (pushfJob_enters x) hr pushfJob_passes (pushfRun_fault (by rwa [hw, hptr, hlim]) (by rw [hs, hg, hds]; exact hreach))
  · have hrun := pushfRun_go (x := x) (c := issueCtx s g sub w u (pushfJob x)) (by rwa [hw, hptr, hlim]) (by rw [hs, hg, hds]; exact hreach)
    have hm := stackReach_memOnly g (lineHeads ((frameDwords w u x).map (·.1))) (entered s g sub w u x.e)
    rw [hreach] at hm
    have hw1 : s1.warp? g = some (entryWarp w sub (entersAt u x.e)) := by rw [State.warp?, hm.warps]; exact warp_setWarp ..
    rw [hds, hw, hptr, hg, modWarp_of hw1, stackPuts_restack] at hrun
    rw [modWarp_of hw1, stackPuts_restack]
    have hm' := hm.setWarp g ((entryWarp w sub (entersAt u x.e)).restack ((entryWarp w sub (entersAt u x.e)).stackPuts (frameDwords w u x)).stack
      (BitVec.ofNat 64 (w.stkptr.toNat - 256 * frameLen x)))
    rw [entered, setWarp_setWarp] at hm'
    exact leaves_nil hi hq hr pushfJob_passes (restack_entered hi hq (pushfJob_enters x) hm') ((restack_wstat ..).trans hwstat) hrun

/-- The values of a frame, lane by lane. -/
theorem sameResults_loadRun (n : Nat) (vs : List (Nat × Nat × W64)) :
    SameResults ((loadRun n vs).map Lanes.at) ((List.range n).map (fun k l => laneVal vs k l)) := by
  rw [loadRun, List.map_map]
  refine List.forall₂_map_left_iff.mpr (List.forall₂_map_right_iff.mpr (List.forall₂_same.mpr fun k _ l hl => ?_))
  exact at_tab _ hl

theorem length_loadRun (n : Nat) (vs : List (Nat × Nat × W64)) : (loadRun n vs).length = n := by rw [loadRun, List.length_map, List.length_range]

/-- POPF above the top of the stack, at a line that cannot be had, and with its frame outstanding (R268, R70, R72). -/
theorem popf_cases (hc : CanIssue s g sub w u (resJob w u (popfJob x)) x.e (x.d.run (frameLen x))) :
    (w.stktop.toNat < w.stkptr.toNat + 256 * frameLen x → s.issue (popfJob x) = (entered s g sub w u x.e).takeTrap g sub (TrapInfo.unit 5 0 0))
    ∧ (w.stkptr.toNat + 256 * frameLen x ≤ w.stktop.toNat →
        ∀ s1 a, frameRead g w.stkptr.toNat w.helpers (framePlaces w u x) (entered s g sub w u x.e) = (s1, .error a) →
          s.issue (popfJob x) = (entered s g sub w u x.e).takeTrap g sub (TrapInfo.stackFault a))
    ∧ (w.stkptr.toNat + 256 * frameLen x ≤ w.stktop.toNat →
        ∀ s1 vs, frameRead g w.stkptr.toNat w.helpers (framePlaces w u x) (entered s g sub w u x.e) = (s1, .ok vs) →
          Leaves (s1.modWarp g (fun v => { v with stkptr := BitVec.ofNat 64 (w.stkptr.toNat + 256 * frameLen x) })) (s.issue (popfJob x)) g sub
            ((resJob w u (popfJob x)).owed x.la.toNat x.d ((List.range (frameLen x)).map (fun k l => laneVal vs k l)))) := by
  have hi := hc.now
  have hq := hc.quiet
  have hr : guardMask w u.exec x.grd = 0 ∨ ReadsOk w [] := hc.reads
  obtain ⟨hs, hg, hw, hact⟩ := ctx_fields (s := s) (g := g) (sub := sub) (w := w) (u := u) (popfJob_enters x)
  obtain ⟨hptr, -, htop, hhelp, hwstat⟩ := stack_entry w sub (entersAt u x.e)
  have hplaces : (List.range (frameLen x)).flatMap (fun k => (issueCtx s g sub w u (popfJob x)).lanes.map (fun l => (l, k))) = framePlaces w u x := by
    rw [Ctx.lanes, hact]
    rfl
  refine ⟨fun h => ?_, fun h s1 a hread => ?_, fun h s1 vs hread => ?_⟩
  · exact issue_trap hi hq (popfJob_enters x) hr popfJob_passes (popfRun_over (by rwa [hw, hptr, htop]))
  · exact issue_trap hi hq (popfJob_enters x) hr popfJob_passes
      (popfRun_fault (by rwa [hw, hptr, htop]) (by rw [hplaces, hs, hg, hw, hptr, hhelp]; exact hread))
  · have hrun := popfRun_go (x := x) (c := issueCtx s g sub w u (popfJob x)) (by rwa [hw, hptr, htop])
      (by rw [hplaces, hs, hg, hw, hptr, hhelp]; exact hread)
    obtain ⟨lines, hm⟩ := frameRead_stackOnly g w.stkptr.toNat w.helpers (framePlaces w u x) (s := entered s g sub w u x.e)
      (w := entryWarp w sub (entersAt u x.e)) (warp_setWarp ..)
    rw [hread] at hm
    have hw1 : s1.warp? g = some ((entryWarp w sub (entersAt u x.e)).restack lines (entryWarp w sub (entersAt u x.e)).stkptr) := by
      rw [State.warp?, hm.warps]
      exact warp_setWarp ..
    have hm' := hm.setWarp g ((entryWarp w sub (entersAt u x.e)).restack lines (BitVec.ofNat 64 (w.stkptr.toNat + 256 * frameLen x)))
    rw [entered, setWarp_setWarp, setWarp_setWarp] at hm'
    rw [hg, hw, hptr, modWarp_of hw1] at hrun
    rw [modWarp_of hw1]
    have hlen := length_loadRun (frameLen x) vs
    refine leaves_owed_congr ?_ (sameResults_loadRun (frameLen x) vs)
    refine leaves_owed (j := popfJob x) (d := x.d) (vs := loadRun (frameLen x) vs) ?_ popfJob_passes (restack_entered hi hq (popfJob_enters x) hm') ?_
      ((restack_wstat ..).trans hwstat) rfl ?_ ?_ hrun
    · rw [hlen, popfJob_enters]
      exact hc
    · rw [hlen]
      exact restack_room hc.room hm'
    · exact List.ne_nil_of_length_pos (by rw [hlen]; exact Nat.succ_pos _)
    · rw [hlen]
      exact fun _ h => h

end

/-- Settles O16: a frame is written through the lines that can be had, or read from them, and a frame that crosses a limit moves nothing. -/
theorem stackFrames : Obligations.StackFrames := by
  unfold Obligations.StackFrames
  intro x s g sub w u
  dsimp only
  rw [← frameLen_eq]
  refine ⟨fun hc => ?_, fun hc => ?_⟩
  · obtain ⟨hover, hfault, hgo⟩ := pushf_cases hc.now hc.quiet hc.reads
    simp only [exec_pushf, Host.Outcome.next.injEq]
    exact ⟨hover, hfault, fun h s1 hreach => ⟨_, rfl, hgo h s1 hreach⟩⟩
  · obtain ⟨hover, hfault, hgo⟩ := popf_cases hc
    simp only [exec_popf, Host.Outcome.next.injEq]
    exact ⟨hover, hfault, fun h s1 vs hread => ⟨_, rfl, hgo h s1 vs hread⟩⟩

end Sys2Proof.Machine
end

section
/-! SUPPORT. What a lane-by-lane comparison pushes (R52, R227), and O2. -/

namespace Sys2Proof.Machine

open Sys2Proof.Claims

/-! ## Integer sources as numbers (R220) -/

/-- The signed number of a slot's low bits. -/
theorem sextN_eq_toInt (v : W64) (n : Nat) : sextN v.toNat n = (v.setWidth n).toInt := by
  rw [sextN, BitVec.toInt_eq_toNat_cond, BitVec.toNat_setWidth]

/-- The two low bits of MOD as the number of an integer type. -/
theorem modType_eq (x : Op) : x.mod.toNat % 4 = (if wide x then 2 else 0) + (if signedTy x then 0 else 1) := by
  have h0 : x.mod.getLsbD 0 = decide (x.mod.toNat % 2 = 1) := by simp [BitVec.getLsbD, Nat.testBit_zero]
  have h1 : x.mod.getLsbD 1 = decide (x.mod.toNat / 2 % 2 = 1) := by simp [BitVec.getLsbD, Nat.testBit_succ]
  rw [wide, signedTy, h0, h1]
  simp only [decide_eq_true_eq, Bool.not_eq_true', decide_eq_false_iff_not]
  split <;> split <;> omega

/-- A source under its type is the value of the type that its slot holds. -/
theorem ityRead_eq_tyVal (x : Op) (v : W64) : ityRead (x.mod.toNat % 4) v = tyVal x v := by
  rw [modType_eq, tyVal]
  cases wide x <;> cases signedTy x
  · exact congrArg Int.ofNat (BitVec.toNat_setWidth ..).symm
  · exact sextN_eq_toInt v 32
  · exact congrArg Int.ofNat (Nat.mod_eq_of_lt v.isLt)
  · exact (sextN_eq_toInt v 64).trans (by rw [BitVec.setWidth_eq])

/-! ## The relation (R227) -/

/-- Two patterns are the same where a number that tells them apart is. -/
theorem condOn_equality {n : Nat} (sg : Bool) {a b : BitVec n} {p q : Int} (h : p = q ↔ a = b) :
    condOn .eq sg a b = condHolds .eq p q ∧ condOn .ne sg a b = condHolds .ne p q := by
  simp [condOn, condHolds, bne, beq_eq_decide, h]

/-- The signed relations are those of the signed numbers. -/
theorem condOn_signed {n : Nat} (k : Cond) (a b : BitVec n) : condOn k true a b = condHolds k a.toInt b.toInt := by
  obtain ⟨heq, hne⟩ := condOn_equality true (a := a) (b := b) BitVec.toInt_inj
  cases k with
  | eq => exact heq
  | ne => exact hne
  | lt => rfl
  | le => rfl
  | gt => rfl
  | ge => rfl

/-- The unsigned relations are those of the unsigned numbers. -/
theorem condOn_unsigned {n : Nat} (k : Cond) (a b : BitVec n) : condOn k false a b = condHolds k a.toNat b.toNat := by
  obtain ⟨heq, hne⟩ := condOn_equality false (a := a) (b := b) (Int.ofNat_inj.trans BitVec.toNat_inj)
  cases k with
  | eq => exact heq
  | ne => exact hne
  | lt => exact decide_eq_decide.mpr Int.ofNat_lt.symm
  | le => exact decide_eq_decide.mpr Int.ofNat_le.symm
  | gt => exact decide_eq_decide.mpr Int.ofNat_lt.symm
  | ge => exact decide_eq_decide.mpr Int.ofNat_le.symm

/-- The relation of two slots' values is that of their patterns at the width of the type. -/
theorem condHolds_tyVal (k : Cond) (x : Op) (a b : W64) :
    condHolds k (tyVal x a) (tyVal x b) = if wide x then condOn k (signedTy x) a b else condOn k (signedTy x) (a.setWidth 32) (b.setWidth 32) := by
  unfold tyVal
  cases wide x <;> cases signedTy x
  · exact (condOn_unsigned ..).symm
  · exact (condOn_signed ..).symm
  · exact (condOn_unsigned ..).symm
  · exact (condOn_signed ..).symm

/-! ## The push (R52) -/

section

variable {s : State} {g sub : Nat} {w : Warp} {u : WUnit}

/-- An instruction that pushes a bit of each lane and writes no register, whose bits and flags are known. -/
theorem after_pushed {x : Op} {len : Nat} {run : Ctx → Run} {f bit : Nat → Bool} {fl flags : W32} (hc : CanIssue s g sub w u (Res.plain w u x len) x.e [])
    (hrun : run (issueCtx s g sub w u (jobOf x len run)) = .go ((issueCtx s g sub w u (jobOf x len run)).pushed (maskOf f) fl))
    (hbit : ∀ l, l < 32 → f l = bit l) (hflags : fl = flags) :
    ∃ w' u', After s (s.issue (jobOf x len run)) g sub w w' u u'
      { Res.plain w u x len with preds := pushed u.exec (guardMask w u.exec x.grd) w.pred bit, flags := flags } := by
  have hpush := ctx_push (s := s) (g := g) (sub := sub) (w := w) (u := u) (jobOf x len run) u.exec (maskOf bit &&& guardMask w u.exec x.grd)
  rw [maskOf_congr f bit hbit, hflags, Ctx.pushed, ctx_exec, issueCtx_act] at hrun
  obtain ⟨w', u', ha⟩ := after_plain (j := jobOf x len run) hc.now hc.quiet hc.now.warp hc.quiet hc.now.focus hc.reads
    ⟨rfl, rfl, rfl⟩ hrun ⟨rfl, rfl, rfl⟩ (.inl ⟨rfl, rfl⟩) hpush rfl rfl (fun _ => rfl)
  exact ⟨w', u', ha.congr rfl rfl rfl rfl (fun _ => ⟨fun _ _ _ => rfl, rfl⟩) (fun _ => rfl) (fun _ => rfl) rfl (fun k hk => (getD_range8 _ hk).symm)
    rfl rfl rfl rfl⟩

/-- ICMP's forms issue one job. -/
theorem exec_isIcmp {k : Cond} {i : Instr} {x : Op} {len : Nat} (h : IsIcmp k i x len) (s : State) : exec i s = .next (s.issue (icmpJob k x len)) := by
  cases h <;> rfl

end

/-- Settles O2: each form of ICMP pushes the relation of the numbers its operands stand for, which is that of their patterns. -/
theorem integerCompares : Obligations.IntegerCompares := by
  unfold Obligations.IntegerCompares
  intro k i x len hform s g sub w u hc
  obtain ⟨w', u', ha⟩ := after_pushed (run := (icmpJob k x len).run) (flags := 0) hc rfl (fun l hl => by
    rw [at_src hc.now _ _ _ hl, at_src hc.now _ _ _ hl, ityRead_eq_tyVal, ityRead_eq_tyVal, condHolds_tyVal]) rfl
  exact ⟨_, w', u', exec_isIcmp hform s, ha⟩

end Sys2Proof.Machine
end

section
/-! SUPPORT. A fault that replay resolves, and the replay (R382, R385, R386), and O39. -/

namespace Sys2Proof.Machine

open Sys2Proof.Claims

section

variable {s : State} {g sub : Nat} {w : Warp} {u : WUnit} {t : TrapInfo}

/-! ## The fault (R382, R385) -/

/-- A trap that replay resolves is the end of the stroke, and the warp Faulted. -/
theorem takeTrap_eq_faultWarp (hw : s.warp? g = some w) (hu : unitOf w.units sub = some u) (hlooks : u.looks = []) (hq : Quiet s g w)
    (hreplay : t.replay = true) : s.takeTrap g sub t = (s.endStroke g sub (.trap t.cls) .ready).faultWarp g sub t := by
  have howes : (s.unit? g sub).any WUnit.owes = false := by simp [State.unit?, hw, hu, WUnit.owes, hlooks]
  have hforce : s.forceLooks g sub = s := writeLooks_nil hw hu hlooks _
  have hend := endStroke_unwatched hw hu hq (.trap t.cls) .ready
  have hw1 : (s.endStroke g sub (.trap t.cls) .ready).warp? g = some (stopWarp w sub .ready) := by
    rw [hend]
    exact warp_setWarp s g _
  have hstays : (s.endStroke g sub (.trap t.cls) .ready).endsNow (stopWarp w sub .ready) = false := by
    rw [hend]
    exact (Option.any_eq_false _ _).mpr hq.group
  rw [State.takeTrap, howes, hforce]
  simp only [hw1, hstays, hreplay, Bool.false_eq_true, if_false, if_true]

/-- A warp that becomes Faulted: its unit stops, and a fault record is posted (R383, R385). -/
theorem warp_faultWarp (hw : s.warp? g = some w) (hu : unitOf w.units sub = some u) (t : TrapInfo) :
    (s.faultWarp g sub t).warp? g = some { w with faulted := true, units := modUnitOf w.units sub (fun u => { u with st := .faulted }) } := by
  have hunit : s.unit? g sub = some u := by rw [State.unit?, hw, Option.bind_some, hu]
  have hpost := ((postTrap_sameWork (s := s) g w u t (1 + (if w.handler then 2 else 0))).warp? g).trans hw
  rw [State.faultWarp, hw, hunit]
  dsimp only
  rw [State.modUnit, modWarp_of hpost, modWarp_of (warp_setWarp ..), setWarp_setWarp, warp_setWarp]

/-- The unit of a Faulted warp stops where it stands. -/
theorem replayedFaultStops : Sys2Proof.Claims.replayedFaultStops := by
  intro s g sub w u t hw hu hlooks hq hreplay
  have hstopped : (s.endStroke g sub (.trap t.cls) .ready).warp? g = some (stopWarp w sub .ready) := by
    rw [endStroke_unwatched hw hu hq]
    exact warp_setWarp ..
  have hstop := unitOf_stopWarp hu .ready
  have hfault := warp_faultWarp hstopped hstop t
  rw [takeTrap_eq_faultWarp hw hu hlooks hq hreplay]
  refine ⟨_, _, hfault, ?_, rfl, rfl, fun k hk => ?_⟩
  · exact (unitOf_modUnitOf _ _ (fun u => { u with st := .faulted }) (fun _ => rfl)).trans (by rw [hstop]; rfl)
  · calc unitOf (modUnitOf (stopWarp w sub .ready).units sub (fun u => { u with st := .faulted })) k
        = unitOf (stopWarp w sub .ready).units k := unitOf_modUnitOf_other _ _ (fun _ => rfl) hk.symm
      _ = unitOf w.units k := unitOf_modUnitOf_other _ _ (fun _ => rfl) hk.symm

/-! ## The replay (R386) -/

/-- The unit at its region's entry. -/
def replayedUnit (u : WUnit) : WUnit := { u with pc := u.rpc, st := .ready, wait := 0, enters := false, entered := true, looks := [] }

/-- The warp whose unit starts its region again: the rename table and the owned lanes' predicates are those of the region's entry. -/
def replayedWarp (w : Warp) (sub : Nat) (u : WUnit) (div : Bool) : Warp :=
  { w.rewind div with
    preds := (List.range 8).map (fun k => (u.ckpt.getD k 0 &&& u.owned) ||| (w.pred k &&& ~~~u.owned))
    units := modUnitOf w.units sub replayedUnit }

/-- A replay changes the warp alone. -/
theorem replayUnit_eq (hw : s.warp? g = some w) (hu : unitOf w.units sub = some u) :
    s.replayUnit g sub = s.setWarp g (replayedWarp w sub u (s.divergent g)) := by
  have hunit : s.unit? g sub = some u := by rw [State.unit?, hw, Option.bind_some, hu]
  rw [State.replayUnit, hunit]
  dsimp only
  rw [State.modUnit, modWarp_of hw, modWarp_of (warp_setWarp ..), setWarp_setWarp]
  rfl

theorem unitOf_replayedWarp (hu : unitOf w.units sub = some u) (div : Bool) : unitOf (replayedWarp w sub u div).units sub = some (replayedUnit u) :=
  (unitOf_modUnitOf w.units sub replayedUnit (fun _ => rfl)).trans (by rw [hu]; rfl)

theorem pred_replayedWarp (w : Warp) (sub : Nat) (u : WUnit) (div : Bool) {k : Nat} (hk : k < 8) :
    (replayedWarp w sub u div).pred k = (u.ckpt.getD k 0 &&& u.owned) ||| (w.pred k &&& ~~~u.owned) :=
  getD_range8 (fun k => (u.ckpt.getD k 0 &&& u.owned) ||| (w.pred k &&& ~~~u.owned)) hk

/-- A resumed unit stands at its region's entry. -/
theorem replayStartsRegion : Sys2Proof.Claims.replayStartsRegion := by
  intro s g sub w u hw hu
  rw [replayUnit_eq hw hu]
  exact ⟨_, _, warp_setWarp .., unitOf_replayedWarp hu _, rfl, rfl, rfl, rfl, rfl, rfl, fun k hk => pred_replayedWarp w sub u _ hk,
    rfl, rfl, rfl, rfl, rfl, rfl, rfl, rfl, rfl⟩

end

/-- Settles O39: the trap stops its unit in a Faulted warp, and the replay puts the unit back at its region's entry. -/
theorem replayedFaults : Obligations.ReplayedFaults := ⟨replayedFaultStops, replayStartsRegion⟩

end Sys2Proof.Machine
end
